-- ==== Sys2Proof/Word.lean ====
section
/-! DEFINITION. The word types of the part and their plainest reading: a scalar register (R78), a byte (R2), a tile
row (R177). -/

namespace Sys2Proof

/-- A scalar register, an operand word, a control register (R78). -/
abbrev Word := BitVec 64

/-- One byte of a memory, buffer, bundle, record or packet (R2). -/
abbrev Byte := BitVec 8

/-- A tile row: 128 lanes of 32 bits, lane i in row bits 32i+31:32i (R177). -/
abbrev Row := BitVec 4096

/-- `x<lo+w-1:lo>` of a natural number (R6). -/
def bits (x lo w : Nat) : Nat := x / 2 ^ lo % 2 ^ w

/-- One bit of a natural number (R6). -/
def bit (x i : Nat) : Bool := x / 2 ^ i % 2 == 1

end Sys2Proof
end

