-- ==== Sys2Proof/Syntax.lean ====
section
/-! DEFINITION. The instructions and events of the part, one constructor of Instr for each row of the opcode table.
Operands are read once, by the decoder (R59, R60); the payload structures follow the shared shapes of the entries. -/

namespace Sys2Proof

/-- The element types of R23, in the order of their codes 0x0 to 0xB. -/
inductive ETy where
  | f32 | f16 | bf16 | f8a | f8b | lg6 | i32 | n32 | i8 | n8 | i4 | n4
  deriving DecidableEq, Repr
/-- The types R23 lets be block-scaled. -/
def ETy.canScale : ETy → Bool
  | .f8a => true | .f8b => true | .lg6 => true | .i8 => true | .i4 => true | _ => false

/-- Stored width of an element (R24). -/
def ETy.sw : ETy → Nat
  | .f32 => 32 | .i32 => 32 | .n32 => 32 | .f16 => 16 | .bf16 => 16
  | .f8a => 8 | .f8b => 8 | .lg6 => 8 | .i8 => 8 | .n8 => 8 | .i4 => 4 | .n4 => 4

/-- The slots of a bundle (R52). -/
inductive Slot where
  | a | m | v | e
  deriving DecidableEq, Repr

/-- The rounding modes, codes 0b00 to 0b11 (02_numbers.md, "Rounding, flushing and encoding"). -/
inductive Rm where
  | rne | rtz | rup | rdn
  deriving DecidableEq, Repr

/-- The common fields sq, pred and neg of a syllable (R54). -/
structure Guard where
  sq   : Bool := false
  pred : Fin 8 := 0
  neg  : Bool := false
  deriving DecidableEq, Repr

/-- A scalar source (R59, R60): a main-file or operand-file register, a latch, or a small immediate. -/
inductive SSrc where
  | s (i : Fin 64) | o (i : Fin 8) | lx (i : Fin 4) | imm (v : BitVec 5)
  deriving DecidableEq, Repr

/-- A scalar destination (R60). -/
inductive SDst where
  | s (i : Fin 64) | o (i : Fin 8)
  deriving DecidableEq, Repr

/-- A destination of `cmp` and `fcmp`: a scalar or a predicate (R90, R98). -/
inductive CDst where
  | sc (d : SDst) | p (i : Fin 8)
  deriving DecidableEq, Repr

/-- The source of `pnot` and `pmov`: a predicate, or for `pmov` a scalar (R114). -/
inductive PSrc where
  | p (i : Fin 8) | sc (x : SSrc)
  deriving DecidableEq, Repr

/-- A row-or-broadcast source (R60, R182). -/
inductive RSrc where
  | row (i : Fin 128) | sc (x : SSrc)
  deriving DecidableEq, Repr

/-- The memory spaces of R58. -/
inductive Space where
  | g | wb | ab | cb | jb
  deriving DecidableEq, Repr

/-- The units that run or raise something, with the ENG codes of R401. -/
inductive Eng where
  | seq | me | ce | xe | fi | node
  deriving DecidableEq, Repr

/-- The trap classes of R400. -/
inductive TrapClass where
  | illegal | align | access | page | buffer | peer | fwdWait | decodeMiss | childFault | ecc | timeout | arith | trap | bkpt
  deriving DecidableEq, Repr

/-- A token: register 0x00 names none, 0x01-0x3F an s-register (R60). -/
abbrev Tok := Fin 64

/- Payloads of the A and M slots. -/
/-- `op d, a, b`, with sat where the entry has it (R85). -/
structure Bin where
  g : Guard
  slot : Slot
  d : SDst
  a : SSrc
  b : SSrc
  sat : Bool := false
  deriving DecidableEq, Repr
/-- `op d, a` (R85). -/
structure Una where
  g : Guard
  slot : Slot
  d : SDst
  a : SSrc
  sat : Bool := false
  deriving DecidableEq, Repr
/-- Bit-field extract (R91). -/
structure Bfx where
  g : Guard
  slot : Slot
  d : SDst
  a : SSrc
  pos : Fin 64
  len : Fin 128
  deriving DecidableEq, Repr
/-- Bit-field insert (R91). -/
structure Bfi where
  g : Guard
  slot : Slot
  d : SDst
  a : SSrc
  b : SSrc
  pos : Fin 64
  len : Fin 128
  deriving DecidableEq, Repr
/-- Select (R89). -/
structure Sel where
  g : Guard
  slot : Slot
  d : SDst
  a : SSrc
  b : SSrc
  p : Fin 8
  deriving DecidableEq, Repr
/-- Compare (R90). -/
structure Cmp where
  g : Guard
  slot : Slot
  d : CDst
  a : SSrc
  b : SSrc
  cond : Fin 16
  deriving DecidableEq, Repr
/-- Address formation (R92). -/
structure Lea where
  g : Guard
  slot : Slot
  d : SDst
  a : SSrc
  b : SSrc
  sh : Fin 16
  c : SSrc
  deriving DecidableEq, Repr
/-- Immediate forms (R95). -/
structure ImmOp where
  g : Guard
  slot : Slot
  d : SDst
  zx : Bool
  imm : BitVec 32
  deriving DecidableEq, Repr
/-- `cmpi` (R96). -/
structure Cmpi where
  g : Guard
  slot : Slot
  src : SSrc
  p : Fin 8
  cond : Fin 4
  imm : BitVec 32
  deriving DecidableEq, Repr
/-- `movl` with its constant (R57, R97). -/
structure Movl where
  g : Guard
  d : SDst
  imm : Word
  deriving DecidableEq, Repr
/-- Scalar floating point of two sources (R98). -/
structure FBin where
  g : Guard
  t : ETy
  rm : Rm
  ftz : Bool
  sat : Bool
  d : SDst
  a : SSrc
  b : SSrc
  deriving DecidableEq, Repr
/-- `ffma` (R98). -/
structure FTer where
  g : Guard
  t : ETy
  rm : Rm
  ftz : Bool
  sat : Bool
  d : SDst
  a : SSrc
  b : SSrc
  c : SSrc
  deriving DecidableEq, Repr
/-- `fsqrt`, `fclass` (R98). -/
structure FUna where
  g : Guard
  t : ETy
  rm : Rm
  ftz : Bool
  sat : Bool
  d : SDst
  a : SSrc
  deriving DecidableEq, Repr
/-- `fcmp` (R101). -/
structure FCmp where
  g : Guard
  t : ETy
  ftz : Bool
  cond : Fin 8
  d : CDst
  a : SSrc
  b : SSrc
  deriving DecidableEq, Repr
/-- `fcvt` (R103). -/
structure FCvt where
  g : Guard
  t : ETy
  src : ETy
  rm : Rm
  ftz : Bool
  sat : Bool
  d : SDst
  a : SSrc
  deriving DecidableEq, Repr
/-- `ld`, `ldn` (R146). -/
structure Load where
  g : Guard
  t : ETy
  dw : Bool
  pi : Bool
  oc : Fin 16
  sp : Space
  d : SDst
  a : SSrc
  off : BitVec 16
  deriving DecidableEq, Repr
/-- `st`, `stg` (R146). -/
structure Store where
  g : Guard
  t : ETy
  dw : Bool
  pi : Bool
  oc : Fin 16
  sp : Space
  d : SSrc
  a : SSrc
  off : BitVec 16
  deriving DecidableEq, Repr
/-- `ldg` (R146); `prf` names no token. -/
structure GLoad where
  g : Guard
  t : ETy
  dw : Bool
  oc : Fin 16
  tok : Tok
  a : SSrc
  off : BitVec 16
  deriving DecidableEq, Repr
/-- Scalar atomics (R154). -/
structure Atom where
  g : Guard
  t : ETy
  dw : Bool
  oc : Fin 16
  sp : Space
  tok : Tok
  a : SSrc
  b : SSrc
  c : SSrc
  deriving DecidableEq, Repr
/-- `pushm`, `popm` (R157). -/
structure Multi where
  g : Guard
  f : Fin 256
  n : Fin 128
  deriving DecidableEq, Repr
/-- `fence` (R169). -/
structure Fence where
  g : Guard
  scope : Fin 8
  order : Fin 4
  mask : BitVec 16
  deriving DecidableEq, Repr
/-- `br` (R110). -/
structure Br where
  g : Guard
  disp : BitVec 32
  deriving DecidableEq, Repr
/-- `jr`, `ret` (R110). -/
structure Jr where
  g : Guard
  a : SSrc
  deriving DecidableEq, Repr
/-- `call` (R110). -/
structure Call where
  g : Guard
  link : SDst
  disp : BitVec 32
  deriving DecidableEq, Repr
/-- `callr` (R110). -/
structure Callr where
  g : Guard
  link : SDst
  a : SSrc
  deriving DecidableEq, Repr
/-- `loop` (R112). -/
structure Loop where
  g : Guard
  a : SSrc
  disp : BitVec 16
  deriving DecidableEq, Repr
/-- `loopi` (R112). -/
structure Loopi where
  g : Guard
  n : BitVec 16
  disp : BitVec 16
  deriving DecidableEq, Repr
/-- `pand`, `por`, `pxor` (R114). -/
structure PBin where
  g : Guard
  na : Bool
  nb : Bool
  d : Fin 8
  a : Fin 8
  b : Fin 8
  deriving DecidableEq, Repr
/-- `pnot`, `pmov` (R114). -/
structure PUna where
  g : Guard
  na : Bool
  d : Fin 8
  a : PSrc
  deriving DecidableEq, Repr

/- Payloads of the V slot. -/
/-- Element-wise arithmetic of two sources, and `vwadd`, `vwmul` with their part (R183, R192). -/
structure VBin where
  g : Guard
  t : ETy
  rm : Rm
  ftz : Bool
  sat : Bool
  part : Fin 8 := 0
  d : Fin 128
  a : Fin 128
  b : RSrc
  deriving DecidableEq, Repr
/-- `vfma`, `vfms` (R183). -/
structure VTer where
  g : Guard
  t : ETy
  rm : Rm
  ftz : Bool
  sat : Bool
  d : Fin 128
  a : Fin 128
  b : RSrc
  c : Fin 128
  deriving DecidableEq, Repr
/-- `vabs`, `vneg`, `vpopc`, `vtbl` (R183, R186, R219). -/
structure VUna where
  g : Guard
  t : ETy
  sat : Bool := false
  d : Fin 128
  a : Fin 128
  deriving DecidableEq, Repr
/-- Logic, shifts, `vrot`, `vperm`'s and `vmov`'s shapes are their own; this one is `op.t d, a, b` (R184, R185). -/
structure VLog where
  g : Guard
  t : ETy
  d : Fin 128
  a : Fin 128
  b : RSrc
  deriving DecidableEq, Repr
/-- `vcmp` (R187). -/
structure VCmp where
  g : Guard
  t : ETy
  cond : Fin 16
  d : Fin 128
  a : Fin 128
  b : RSrc
  deriving DecidableEq, Repr
/-- `vsel` (R188). -/
structure VSel where
  g : Guard
  t : ETy
  d : Fin 128
  a : Fin 128
  b : RSrc
  c : Fin 128
  deriving DecidableEq, Repr
/-- `vmov` (R189). -/
structure VMov where
  g : Guard
  t : ETy
  d : Fin 128
  a : RSrc
  deriving DecidableEq, Repr
/-- `vbcast`, `vrot` (R189, R198): a row, and a scalar source. -/
structure VRowS where
  g : Guard
  t : ETy
  d : Fin 128
  a : Fin 128
  b : SSrc
  deriving DecidableEq, Repr
/-- `vlane` (R190). -/
structure VLane where
  g : Guard
  t : ETy
  d : SDst
  a : Fin 128
  b : SSrc
  deriving DecidableEq, Repr
/-- `viota` (R189). -/
structure VIota where
  g : Guard
  t : ETy
  d : Fin 128
  a : SSrc
  deriving DecidableEq, Repr
/-- `vcvt` (R191). -/
structure VCvt where
  g : Guard
  t : ETy
  src : ETy
  rm : Rm
  ftz : Bool
  sat : Bool
  part : Fin 8
  d : Fin 128
  a : Fin 128
  c : Option (Fin 128)
  deriving DecidableEq, Repr
/-- `vquant` (R193). -/
structure VQuant where
  g : Guard
  t : ETy
  rm : Rm
  ftz : Bool
  part : Fin 8
  d : Fin 128
  a : Fin 128
  b : SDst
  c : Fin 128
  deriving DecidableEq, Repr
/-- `vdequant` (R194). -/
structure VDeq where
  g : Guard
  t : ETy
  rm : Rm
  ftz : Bool
  sat : Bool
  part : Fin 8
  d : Fin 128
  a : Fin 128
  b : SSrc
  deriving DecidableEq, Repr
/-- `vscan` (R195). -/
structure VScan where
  g : Guard
  t : ETy
  op : Fin 16
  d : Fin 128
  a : Fin 128
  deriving DecidableEq, Repr
/-- `vred` (R196). -/
structure VRed where
  g : Guard
  t : ETy
  op : Fin 16
  d : SDst
  a : Fin 128
  deriving DecidableEq, Repr
/-- `vperm` (R197). -/
structure VPerm where
  g : Guard
  d : Fin 128
  a : Fin 128
  b : RSrc
  c : Option (Fin 128)
  deriving DecidableEq, Repr
/-- `vshuf` (R199). -/
structure VShuf where
  g : Guard
  t : ETy
  pat : Fin 16
  d : Fin 128
  a : Fin 128
  b : Option (Fin 128)
  deriving DecidableEq, Repr
/-- Row accesses (R200); `acc` is the pitch k of `vldt`/`vstt` or the mask index m of `vldm`/`vstm`. -/
structure VMem where
  g : Guard
  t : ETy
  oc : Fin 16
  sp : Space
  pi : Bool
  acc : Fin 64
  d : Fin 128
  a : SSrc
  off : BitVec 16
  deriving DecidableEq, Repr
/-- The special functions (R210). -/
structure VFn where
  g : Guard
  rm : Rm
  ftz : Bool
  sat : Bool
  d : Fin 128
  a : RSrc
  deriving DecidableEq, Repr
/-- `vtbld` (R220). -/
structure VTbld where
  g : Guard
  part : Fin 2
  a : Fin 128
  deriving DecidableEq, Repr
/-- `vsmax`, `vmstat` (R225, R228). -/
structure VFold where
  g : Guard
  ftz : Bool
  mask : Option (Fin 64)
  d : SDst
  a : Fin 128
  b : SSrc
  deriving DecidableEq, Repr
/-- `vsexp` (R226): d is read and written. -/
structure VSexp where
  g : Guard
  ftz : Bool
  mask : Option (Fin 64)
  d : Fin 128
  a : SDst
  b : SSrc
  c : SSrc
  deriving DecidableEq, Repr
/-- `vsdiv` (R227). -/
structure VSdiv where
  g : Guard
  ftz : Bool
  d : Fin 128
  a : Fin 128
  b : SSrc
  deriving DecidableEq, Repr
/-- `vpart` (R229). -/
structure VPart where
  g : Guard
  key : Fin 16
  d : Fin 128
  a : Fin 128
  b : SDst
  deriving DecidableEq, Repr
/-- `vgath`, `vscat` (R230). -/
structure VGs where
  g : Guard
  t : ETy
  oc : Fin 16
  sp : Space
  d : Fin 128
  a : SSrc
  b : Fin 128
  c : SSrc
  deriving DecidableEq, Repr

/- Payloads of the E slot. -/
/-- The sequencer `wait` (R120); n conditions from s-register a. -/
structure Wait where
  g : Guard
  tt : Bool
  all : Bool
  n : Fin 4
  d : SDst
  a : Fin 64
  b : SSrc
  deriving DecidableEq, Repr
/-- The engine-queue `wait` (R121). -/
structure WaitQ where
  g : Guard
  q : Fin 8
  all : Bool
  n : Fin 4
  tok : Tok
  a : Fin 64
  deriving DecidableEq, Repr
/-- `fset`, `finc` (R116). -/
structure FlagOp where
  g : Guard
  q : Fin 8
  tok : Tok
  a : SSrc
  flag : Fin 512
  deriving DecidableEq, Repr
/-- `fclr`, `fget` (R116). -/
structure FlagNo where
  g : Guard
  q : Fin 8
  tok : Tok
  flag : Fin 512
  deriving DecidableEq, Repr
/-- `eseq` (R118). -/
structure Eseq where
  g : Guard
  sel : Fin 8
  d : SDst
  deriving DecidableEq, Repr
/-- `live.s`, `live.t` (R125). -/
structure LiveA where
  g : Guard
  a : SSrc
  deriving DecidableEq, Repr
/-- `live.r` (R125). -/
structure LiveR where
  g : Guard
  sp : Space
  a : SSrc
  b : SSrc
  deriving DecidableEq, Repr
/-- A command with a token and up to three operand words, and the modifiers of R246, R265, R293, R317, R341, R378;
a command's own modifier bits stand in `md`, laid out by its entry. -/
structure Ecmd where
  g : Guard
  t : ETy
  md : Fin 8192
  tok : Tok
  a : SSrc
  b : SSrc
  c : SSrc
  deriving DecidableEq, Repr
/-- Syllable bit `32 + i` of a command's modifiers (R246). -/
def Ecmd.m (x : Ecmd) (i : Nat) : Bool := bit x.md.val i
/-- Syllable bits `32 + lo + w - 1 : 32 + lo`. -/
def Ecmd.mf (x : Ecmd) (lo w : Nat) : Nat := bits x.md.val lo w
/-- `chstat` (R283). -/
structure ChStat where
  g : Guard
  sel : Fin 4
  tok : Tok
  ta : Fin 128
  tb : Fin 128
  tc : Option (Fin 128)
  deriving DecidableEq, Repr
/-- `prio`, `yield`, `jrd` (R378, R422): a scalar destination and up to one source. -/
structure Edst where
  g : Guard
  sub : Bool
  d : SDst
  a : SSrc
  deriving DecidableEq, Repr
/-- `trap`, `bkpt` (R423). -/
structure Eimm where
  g : Guard
  imm : BitVec 32
  deriving DecidableEq, Repr
/-- `sysrd` (R424). -/
structure SysRd where
  g : Guard
  d : SDst
  reg : BitVec 16
  deriving DecidableEq, Repr
/-- `syswr` (R424). -/
structure SysWr where
  g : Guard
  a : SSrc
  reg : BitVec 16
  deriving DecidableEq, Repr
/-- `ctxsave`, `dump`, `ctxrest` (R422). -/
structure CtxOp where
  g : Guard
  oc : Fin 16
  d : SDst
  a : SSrc
  b : SSrc
  deriving DecidableEq, Repr
/-- `trace` (R429). -/
structure Trc where
  g : Guard
  a : SSrc
  b : SSrc
  deriving DecidableEq, Repr

/-- A core of the node (R9). -/
abbrev CoreId := Fin 128

/- Payloads of the events: what the hardware, the host, the firmware or the fabric brings. -/
/-- Who writes or reads node control space (R443, R445): a context of a core, a function's driver, the host
administrator, firmware. -/
inductive Who where
  | ctx (core : CoreId) | vf (f : Fin 16) | pf | fw
  deriving DecidableEq, Repr
/-- A command of a core, by its sequence number (R15); `ctx` is the model's number of its context, or 0 for the one on the core. -/
structure CmdRef where
  core : CoreId
  seq : Nat
  ctx : Nat := 0
  deriving DecidableEq, Repr
/-- What reaches an access from memory or from outside the node: the read or write is good, with the bytes where
they come from outside; a retry with its hint (R144); or the class it failed with (R151, R152, R316). -/
inductive Answer where
  | ok (data : List Byte) | fail (cls : TrapClass)
  deriving DecidableEq, Repr
/-- A command of a core, an index within it (a row, a granule, a block), and the answer that reached it. -/
structure CmdAns where
  core : CoreId
  seq : Nat
  ctx : Nat := 0
  idx : Nat := 0
  ans : Answer
  deriving DecidableEq, Repr
/-- An outstanding scalar access of a core, by its number, and the answer that reached it. -/
structure AccAns where
  core : CoreId
  id : Nat
  ans : Answer
  deriving DecidableEq, Repr
/-- A control-register write of the context on a core (R424). -/
structure RegW where
  core : CoreId
  reg : Nat
  v : Word
  deriving DecidableEq, Repr
/-- A control-register read of the context on a core (R424). -/
structure RegR where
  core : CoreId
  d : SDst
  deriving DecidableEq, Repr
/-- A lend that crosses nodes (R375): the priority, and the links from the first queue that lends to here. -/
structure Lend where
  prio : Fin 9
  links : Fin 9 := 1
  deriving DecidableEq, Repr
/-- A write of a word of node control space (R445): requester, which object, the byte offset in it, the value. -/
structure CtlW where
  who : Who
  idx : Nat
  off : Nat := 0
  v : Word
  deriving DecidableEq, Repr
/-- What a remote request asks for (R314, R322, R323, R328). -/
inductive FiOp where
  | read (len : Nat) | write (data : List Byte) | atom (op : Nat) (t : ETy) (dw : Bool) (b c : Word)
  | flag (op : Nat) (f : Nat) (v : Word)
  deriving DecidableEq, Repr
/-- A request packet that reaches this node: its sender (node, core, sequence number, index within the command),
the function, launch queue, context and engine it carries, its address and what it asks for. -/
structure FiReq where
  node : Nat
  core : Nat
  seq : Nat
  idx : Nat := 0
  fn : Nat
  lq : Nat
  ctx : BitVec 32 := 0
  conf : Bool := false
  eng : Nat := 4
  addr : Nat
  op : FiOp
  deriving DecidableEq, Repr
/-- The name under which a target knows a sender's command (R324). -/
structure FiName where
  node : Nat
  core : Nat
  seq : Nat
  deriving DecidableEq, Repr
/-- A packet this node sent: the request of a sequencer access or of a command (its number or sequence number, and an
index within it), a response to a request (R314, R333), or an uncoded block of a collective (R358): slot, receiver's rank, block. -/
inductive PktId where
  | acc (core : CoreId) (id : Nat) | cmd (core : CoreId) (seq : Nat) (idx : Nat) | resp (n : FiName) (idx : Nat)
  | block (slot : Fin 128) (rcv : Nat) (i : Nat)
  deriving DecidableEq, Repr
/-- What reaches FI: an answer to a command's request, a refusal of it, or the acknowledgement of a response it sent
(R314, R331, R333). -/
inductive FiAns where
  | cmd (a : CmdAns) | refused (r : CmdRef) (idx : Nat) | ack (n : FiName) (idx : Nat)
  deriving DecidableEq, Repr
/-- A command block at the inbound queue of a core of this node (R325 to R327): sender, function, target core and
engine (0 ME to 3 FI), and the block's bytes. -/
structure RenqReq where
  node : Nat
  core : Nat
  seq : Nat
  fn : Nat
  tgt : CoreId
  eng : Fin 4
  data : List Byte
  deriving DecidableEq, Repr

/- Collective slots are numbered 8·FN + slot: each function's partition has eight (R316, R338). -/
/-- A prong of a fork packet (R355), or what names a block on its way: block id, ranks of source and receiver, the receiver's
node, destination index, and the function it travels under. -/
structure Prong where
  id : Nat
  src : Nat
  rcv : Nat
  dst : Nat
  idx : Nat
  fn : Nat := 0
  deriving DecidableEq, Repr
/-- A packet of `cmgath` or `cmshuf` (R353): its prong; whether its sender's policy lets a router code it; whether it is trimmed, a copy
of a fork, or an uncoded answer (R354); its payload. -/
structure CPkt where
  slot : Fin 128
  p : Prong
  codable : Bool := true
  trimmed : Bool := false
  copy : Bool := false
  answer : Bool := false
  data : List Byte
  deriving DecidableEq, Repr
/-- A fork packet at a router, or a copy of it at the receiver of prong `own`; a trimmed one has no payload (R355, R358). -/
structure ForkPkt where
  slot : Fin 128
  prongs : List Prong
  own : Nat := 0
  data : List Byte
  trimmed : Bool := false
  deriving DecidableEq, Repr
/-- An uncoded block at its receiver (R353). -/
structure CBlock where
  slot : Fin 128
  src : Nat
  idx : Nat
  ans : Answer
  deriving DecidableEq, Repr
/-- An acknowledgement or an uncoded request at a source (R353, R357): the slot, the receiver's rank and the block within
the source's blocks for it. -/
structure CAck where
  slot : Fin 128
  rcv : Nat
  j : Nat := 0
  k : Nat
  deriving DecidableEq, Repr
/-- An announcement at a router (R350): slot, block id, the rank that holds it, and the participants' nodes by rank. -/
structure Ann where
  slot : Fin 128
  id : Nat
  rank : Nat
  nodes : List Nat
  deriving DecidableEq, Repr

/-- Work that is ready for a core: a saved context, by its place, or a nest (R374). -/
inductive ReadyRef where
  | ctx (i : Nat) | nest (id : Fin 16)
  deriving DecidableEq, Repr

/-- The instructions and events of the part: one constructor for each row of the opcode table. -/
inductive Instr where
  -- A and M slots: integer
  | nop (slot : Slot)
  | add (x : Bin) | sub (x : Bin) | neg (x : Una) | and (x : Bin) | or (x : Bin) | xor (x : Bin) | andn (x : Bin)
  | shl (x : Bin) | shr (x : Bin) | sra (x : Bin) | rotl (x : Bin) | clz (x : Una) | ctz (x : Una) | popc (x : Una)
  | bfx (x : Bfx) | bfxn (x : Bfx) | bfi (x : Bfi) | min (x : Bin) | max (x : Bin) | minn (x : Bin) | maxn (x : Bin)
  | sel (x : Sel) | cmp (x : Cmp) | mov (x : Una) | lea (x : Lea)
  | addi (x : ImmOp) | andi (x : ImmOp) | ori (x : ImmOp) | xori (x : ImmOp) | cmpi (x : Cmpi) | movi (x : ImmOp)
  | movl (x : Movl)
  | mul (x : Bin) | mulh (x : Bin) | mulhn (x : Bin) | div (x : Bin) | divn (x : Bin) | rem (x : Bin) | remn (x : Bin)
  -- M slot: floating point
  | fadd (x : FBin) | fsub (x : FBin) | fmul (x : FBin) | ffma (x : FTer) | fdiv (x : FBin) | fsqrt (x : FUna)
  | fmin (x : FBin) | fmax (x : FBin) | fcmp (x : FCmp) | fcvt (x : FCvt) | fclass (x : FUna)
  -- M slot: memory
  | ld (x : Load) | ldn (x : Load) | st (x : Store) | ldg (x : GLoad) | stg (x : Store) | prf (x : GLoad)
  | aadd (x : Atom) | aand (x : Atom) | aor (x : Atom) | axor (x : Atom) | amin (x : Atom) | amax (x : Atom)
  | aminn (x : Atom) | amaxn (x : Atom) | axchg (x : Atom) | acas (x : Atom) | afadd (x : Atom) | afmax (x : Atom)
  | pushm (x : Multi) | popm (x : Multi) | fence (x : Fence)
  -- A slot: control
  | br (x : Br) | jr (x : Jr) | call (x : Call) | callr (x : Callr) | ret (x : Jr) | loop (x : Loop) | loopi (x : Loopi)
  | pand (x : PBin) | por (x : PBin) | pxor (x : PBin) | pnot (x : PUna) | pmov (x : PUna)
  -- E slot: waits, flags, live state
  | wait (x : Wait) | waitQ (x : WaitQ) | fset (x : FlagOp) | finc (x : FlagOp) | fclr (x : FlagNo) | fget (x : FlagNo)
  | eseq (x : Eseq) | liveNone (g : Guard) | liveAll (g : Guard) | liveS (x : LiveA) | liveT (x : LiveA)
  | liveR (x : LiveR) | liveRclr (g : Guard) | endCtx (x : LiveA)
  -- E slot: engines, fabric, coded multicast, tasks, system
  | mld (x : Ecmd) | mldsp (x : Ecmd) | mstr (x : Ecmd) | mstrr (x : Ecmd) | mzero (x : Ecmd) | mdrain (x : Ecmd)
  | mcfg (x : Ecmd) | mpip (x : Ecmd) | mabort (x : Ecmd) | chbind (x : Ecmd) | chkv (x : Ecmd) | chlink (x : Ecmd)
  | chmask (x : Ecmd) | chfin (x : Ecmd) | chsave (x : Ecmd) | chrest (x : Ecmd) | chstat (x : ChStat)
  | chdrop (x : Ecmd) | xcopy (x : Ecmd) | xlist (x : Ecmd) | xget (x : Ecmd) | xput (x : Ecmd) | xfill (x : Ecmd)
  | xtrans (x : Ecmd) | xpub (x : Ecmd) | xmap (x : Ecmd) | xmcast (x : Ecmd) | xextAdd (x : Ecmd)
  | xextRelease (x : Ecmd) | rld (x : Ecmd) | rst (x : Ecmd) | ratomAdd (x : Ecmd) | ratomAnd (x : Ecmd)
  | ratomOr (x : Ecmd) | ratomXor (x : Ecmd) | ratomMin (x : Ecmd) | ratomMax (x : Ecmd) | ratomMinn (x : Ecmd)
  | ratomMaxn (x : Ecmd) | ratomXchg (x : Ecmd) | ratomCas (x : Ecmd) | ratomFadd (x : Ecmd) | ratomFmax (x : Ecmd)
  | renq (x : Ecmd) | rflagSet (x : Ecmd) | rflagInc (x : Ecmd) | rflagClr (x : Ecmd) | lbufBind (x : Ecmd)
  | lbufRelease (x : Ecmd) | cmset (x : Ecmd) | cmsetClose (x : Ecmd) | cmheld (x : Ecmd) | cmheldClr (x : Ecmd)
  | cmdec (x : Ecmd) | cmdecRel (x : Ecmd) | cmgath (x : Ecmd) | cmshuf (x : Ecmd) | cmpol (x : Ecmd)
  | cmstat (x : Ecmd) | nest (x : Ecmd) | spawn (x : Ecmd) | join (x : Ecmd) | ecinit (x : Ecmd) | ecdone (x : Ecmd)
  | egput (x : Ecmd) | egrel (x : Ecmd) | egdrop (x : Ecmd) | prio (x : Edst) | yield (x : Edst) | trap (x : Eimm)
  | rte (g : Guard) | rteDrop (g : Guard) | sysrd (x : SysRd) | syswr (x : SysWr) | ctxsave (x : CtxOp)
  | ctxrest (x : CtxOp) | dump (x : CtxOp) | bkpt (x : Eimm) | trace (x : Trc) | jrd (x : Edst)
  -- V slot
  | vadd (x : VBin) | vsub (x : VBin) | vmul (x : VBin) | vfma (x : VTer) | vfms (x : VTer) | vmin (x : VBin)
  | vmax (x : VBin) | vabs (x : VUna) | vneg (x : VUna) | vand (x : VLog) | vor (x : VLog) | vxor (x : VLog)
  | vshl (x : VLog) | vshr (x : VLog) | vsra (x : VLog) | vcmp (x : VCmp) | vsel (x : VSel) | vmov (x : VMov)
  | vbcast (x : VRowS) | vlane (x : VLane) | viota (x : VIota) | vcvt (x : VCvt) | vquant (x : VQuant)
  | vdequant (x : VDeq) | vwadd (x : VBin) | vwmul (x : VBin) | vscan (x : VScan) | vred (x : VRed)
  | vperm (x : VPerm) | vrot (x : VRowS) | vshuf (x : VShuf) | vpopc (x : VUna) | vld (x : VMem) | vst (x : VMem)
  | vldt (x : VMem) | vstt (x : VMem) | vldm (x : VMem) | vstm (x : VMem) | vexp2 (x : VFn) | vlog2 (x : VFn)
  | vrcp (x : VFn) | vrsqrt (x : VFn) | vtanh (x : VFn) | vsigm (x : VFn) | vtbl (x : VUna) | vtbld (x : VTbld)
  | vtbsw (g : Guard) | vsmax (x : VFold) | vsexp (x : VSexp) | vsdiv (x : VSdiv) | vmstat (x : VFold)
  | vpart (x : VPart) | vgath (x : VGs) | vscat (x : VGs)
  -- events: what the hardware, the host, firmware or the fabric brings
  | formatRegWrite (w : RegW) | trctlWrite (w : RegW) | bpcWrite (w : RegW) | xstatRead (r : RegR) | fistatRead (r : RegR)
  | resultLand (c : CoreId) | ibufFill (c : CoreId) | checkedModeEval (c : CoreId) | waitEnd (c : CoreId)
  | waitTimeout (c : CoreId) | engineWaitSatisfied (r : CmdRef) | flagPerform (r : CmdRef) | scoreboardRelease (r : CmdRef)
  | meRowCommit (r : CmdRef) | meCommandComplete (r : CmdRef) | mstrrRowArrive (a : CmdAns) | chainBlockCommit (r : CmdRef)
  | chainCommandComplete (r : CmdRef) | xeGranuleArrive (a : CmdAns) | xeUnitCommit (r : CmdRef)
  | xeCommandComplete (r : CmdRef) | publishSwap (r : CmdRef) | windowUnitLand (i : Nat) | trackSpace (ch : Fin 512)
  | trackLapBoundary | trackDataArrive (i : Nat) | refreshRetry (i : Nat) (h : Fin 64) | pageWalkDone (i : Nat)
  | ldgReturn (a : AccAns) | stgAck (a : AccAns) | globalAtomicReturn (a : AccAns) | fiRequestArrive (r : FiReq)
  | fiResponseArrive (x : FiAns) | packetTrim (p : PktId) | resendRequest (p : PktId) | resendBackoffExpiry (p : PktId)
  | flitCrcFail (d : Fin 12) | fibreFail (d : Fin 12) | spareSwitchDone (d : Fin 12) | fabricTimeout (p : PktId)
  | readyNotice (p : PktId) | replyRelease (n : FiName) | linkUnitArrive (r : FiReq) | renqArrive (r : RenqReq)
  | inboxDequeue (c : CoreId) (e : Fin 4) | cmsetMatch (r : CmdRef) (out : Fin 3) | codedBarrier (r : CmdRef)
  | announceStore (a : Ann) | routerFork (o : Fin 6) (q : List CPkt) | forkSplit (f : ForkPkt)
  | forkCopyArrive (f : ForkPkt) | fallbackRequest (a : CAck) | codedBlockArrive (b : CBlock) | blockAckArrive (a : CAck)
  | codedSettle (r : CmdRef) | codedTimeout (r : CmdRef) | tailWrite (w : CtlW) | launchTake
  | nestGrant (id : Fin 16) (c : CoreId) | nestComplete (id : Fin 16) | contextRetire (c : CoreId)
  | joinReady (c : CoreId) (j : Fin 16) | releasePerform (r : CmdRef) | schedLapBoundary | corePlace (c : CoreId)
  | lendMessage (q : Fin 64) (p : Lend) | ageExpiry (w : ReadyRef) | preemptRequest (c : CoreId) | preemptTake (c : CoreId)
  | contextSaved (c : CoreId) | contextResume (c : CoreId) | engineFault (r : CmdRef) | trapTake (c : CoreId)
  | breakpointHit (c : CoreId) | droopDetect (d : Fin 16) (depth : Fin 256) | tqcmdResume (w : Who) (slot : Fin 64)
  | tqcmdResumeDrop (w : Who) (slot : Fin 64) | tqcmdKill (w : Who) (slot : Fin 64) | tqcmdRelease (w : Who) (slot : Fin 64)
  | frst (w : CtlW) | flrDrainDone (f : Fin 16) | inval (w : CtlW) | invalComplete (f : Fin 16) | limitsWrite (w : CtlW)
  | ownerMapWrite (w : CtlW) | torusWrite (w : CtlW) | pboxWrite (w : CtlW) | phltClear (w : Who) (f : Fin 16)
  | phltSet (w : Who) (f : Fin 16) | flagWindowSet (w : CtlW) | flagWindowInc (w : CtlW) | flagWindowClr (w : CtlW)
  | lqWrite (w : CtlW) | eqWrite (w : CtlW) | grantWrite (w : CtlW) | eqctlWrite (w : CtlW) | headWrite (w : CtlW)
  | egressSlotRead (w : Who) (e : Fin 32) (slot : Fin 256) | key (m : Fin 17) | admitImg (m : Fin 17) (out : Fin 3)
  | withdraw (m : Fin 17) | attest (m : Fin 17) | extent (m : Fin 17) (out : Fin 4) | mailboxDone (m : Fin 17)
  | firmwareExtentAnswer (r : CmdRef) (out : Fin 4) | poolLinkDown (p : Fin 2) | watchdogWrite (w : Who) | watchdogExpiry
  | powerGood | thermalThrottle (die : Option (Fin 4)) (k : Fin 17) | trip | tripRelease | clusterWake (k : Fin 16)
  | patrolScrub (a : Nat) | registerWrite (w : CtlW) | throttleRelease (die : Option (Fin 4)) | poolLinkUp (p : Fin 2)
  | egputTimeout (r : CmdRef) | announcementWithdraw (slot : Fin 128) (rank : Nat)
  deriving DecidableEq, Repr

end Sys2Proof
end

