-- ==== Sys2Proof/Machine/Num.lean ====
section
/-! DEFINITION. Number formats: exact values, decoding (R26, R28, R29), rounding and encoding (R30 to R32), input flush
(R33), zero signs (R34), exact sums (R48), block scales (R38, R39), pips (R44), LG6 products (R47). -/

namespace Sys2Proof.Machine

/-- The flag bits 5:0 of FPSTAT (R35): NX 0, UF 1, OF 2, DZ 3, NV 4, SV 5. -/
abbrev Fl := BitVec 6
def Fl.nx : Fl := 1
def Fl.uf : Fl := 2
def Fl.of : Fl := 4
def Fl.dz : Fl := 8
def Fl.nv : Fl := 16
def Fl.sv : Fl := 32

/-- A non-zero exact real `(n/d) * 2^e * 2^(r/4)`; `d = 1` but in quotients, `r = 0` but in LG6 values (R28). -/
structure Q where
  n : Int
  d : Nat := 1
  e : Int := 0
  r : Nat := 0
  deriving DecidableEq, Repr

/-- An exact value with the special values of the floating formats (R25 to R27). -/
inductive Ex where
  | nan (sig : Bool)
  | inf (neg : Bool)
  | zero (neg : Bool)
  | fin (q : Q)
  deriving DecidableEq, Repr

/-- The sign of a value. -/
def Ex.neg : Ex → Bool
  | .nan _ => false
  | .inf b => b
  | .zero b => b
  | .fin q => q.n < 0

/-- The value with its sign inverted. -/
def Ex.negate : Ex → Ex
  | .nan s => .nan s
  | .inf b => .inf (!b)
  | .zero b => .zero (!b)
  | .fin q => .fin { q with n := -q.n }

/-- The magnitude. -/
def Ex.abs (x : Ex) : Ex := if x.neg then x.negate else x

def Ex.isNan : Ex → Bool
  | .nan _ => true
  | _ => false
def Ex.isSig : Ex → Bool
  | .nan s => s
  | _ => false
def Ex.isInf : Ex → Bool
  | .inf _ => true
  | _ => false
def Ex.isZero : Ex → Bool
  | .zero _ => true
  | _ => false
def Ex.isFin : Ex → Bool
  | .fin _ => true
  | .zero _ => true
  | _ => false

/-- `2^k` as a factor on numerator or denominator. -/
def pow2 (k : Int) : Nat := 2 ^ k.toNat

/-- An integer as an exact value; zero is +0. -/
def Ex.ofInt (n : Int) : Ex := if n == 0 then .zero false else .fin { n := n }

/-- `n * 2^e` as an exact value; zero takes the sign given. -/
def Ex.dy (n : Int) (e : Int) (zneg : Bool := false) : Ex := if n == 0 then .zero zneg else .fin { n := n, e := e }

/-- The value times `2^k` (block scales, R38). -/
def Ex.scale (x : Ex) (k : Int) : Ex :=
  match x with
  | .fin q => .fin { q with e := q.e + k }
  | y => y

/-- Integer square root by descending bits: the largest `t` under `2^k` with `t*t <= n`. -/
def isqrtAux (n : Nat) : Nat → Nat → Nat
  | 0, t => t
  | k + 1, t => if (t + 2 ^ k) * (t + 2 ^ k) ≤ n then isqrtAux n k (t + 2 ^ k) else isqrtAux n k t
def isqrt (n : Nat) : Nat := isqrtAux n (Nat.log2 n / 2 + 1) 0

/-- `2^(r/4)` for r in 1..3 is irrational: rounding sees it through a representative strictly between the same two
62-bit neighbours, so that every narrower rounding of it is the rounding of the value. -/
def quarterRoot (r : Nat) : Nat := 2 * isqrt (isqrt (2 ^ (r + 240))) + 1

/-- A value whose rounding to 24 bits or fewer equals that of `q`, with no root. -/
def Q.rootless (q : Q) : Q := if q.r == 0 then q else { n := q.n * quarterRoot q.r, d := q.d, e := q.e - 61 }

/-- `floor(log2 |x|)`. -/
def Q.log2 (q0 : Q) : Int :=
  let q := q0.rootless
  let m : Int := Int.ofNat (Nat.log2 q.n.natAbs) - Int.ofNat (Nat.log2 q.d)
  let ok := q.d * pow2 m ≤ q.n.natAbs * pow2 (-m)
  (if ok then m else m - 1) + q.e

/-- `|x| / 2^s` as numerator and denominator. -/
def Q.over (q0 : Q) (s : Int) : Nat × Nat :=
  let q := q0.rootless
  (q.n.natAbs * pow2 (q.e - s), q.d * pow2 (s - q.e))

/-- `k`, possibly incremented, of R30, with whether rounding changed the value. -/
def roundQ (q : Q) (s : Int) (rm : Rm) : Nat × Bool :=
  -- a value far below the quantum rounds as a quarter of it does
  let (a, b) := if q.log2 + 2 < s then (1, 4) else q.over s
  let k := a / b
  let f := a % b
  let up := match rm with
    | .rne => 2 * f > b || (2 * f == b && k % 2 == 1)
    | .rtz => false
    | .rup => q.n > 0 && f > 0
    | .rdn => q.n < 0 && f > 0
  (if up then k + 1 else k, f != 0)

/-- Widths of R23, in bits of the value. -/
def ETy.bits : ETy → Nat
  | .f32 => 32 | .f16 => 16 | .bf16 => 16 | .f8a => 8 | .f8b => 8 | .lg6 => 6
  | .i32 => 32 | .n32 => 32 | .i8 => 8 | .n8 => 8 | .i4 => 4 | .n4 => 4
/-- Widths as stored: LG6 takes a byte (R24). -/
def ETy.store : ETy → Nat
  | .lg6 => 8
  | t => ETy.bits t
def ETy.isFloat : ETy → Bool
  | .f32 => true | .f16 => true | .bf16 => true | .f8a => true | .f8b => true | _ => false
def ETy.isInt : ETy → Bool
  | .i32 => true | .n32 => true | .i8 => true | .n8 => true | .i4 => true | .n4 => true | _ => false
def ETy.isSigned : ETy → Bool
  | .i32 => true | .i8 => true | .i4 => true | _ => false
/-- The types with a signalling NaN (R27). -/
def ETy.hasSig : ETy → Bool
  | .f32 => true | .f16 => true | .bf16 => true | _ => false
/-- M of R25. -/
def ETy.mant : ETy → Nat
  | .f32 => 23 | .f16 => 10 | .bf16 => 7 | .f8a => 3 | .f8b => 2 | _ => 0
/-- emin of R25. -/
def ETy.emin : ETy → Int
  | .f32 => -126 | .f16 => -14 | .bf16 => -126 | .f8a => -6 | .f8b => -14 | _ => 0
/-- The encoding of MaxFinite (R25). -/
def ETy.maxBits : ETy → Nat
  | .f32 => 0x7F7FFFFF | .f16 => 0x7BFF | .bf16 => 0x7F7F | .f8a => 0x7E | .f8b => 0x7B | _ => 0
/-- The canonical NaN (R25). -/
def ETy.nanBits : ETy → Nat
  | .f32 => 0x7FC00000 | .f16 => 0x7E00 | .bf16 => 0x7FC0 | .f8a => 0x7F | .f8b => 0x7E | _ => 0
/-- The sign bit's weight. -/
def ETy.signBit (t : ETy) : Nat := 2 ^ (ETy.bits t - 1)
/-- The encoding of +infinity of the formats that have one. -/
def ETy.infBits (t : ETy) : Nat := ETy.maxBits t + 1

/-- The integer a `w`-bit pattern reads as, signed (R51 SignExtend). -/
def sext (x w : Nat) : Int :=
  let y := x % 2 ^ w
  if y < 2 ^ (w - 1) then Int.ofNat y else Int.ofNat y - 2 ^ w

/-- `k mod 2^w` as a pattern. -/
def wrapInt (k : Int) (w : Nat) : Nat := (k % (2 ^ w : Int)).toNat

/-- Decode of R26, R28 and R29. -/
def decodeEl (b0 : Nat) (t : ETy) : Ex :=
  let b := b0 % 2 ^ ETy.bits t
  if ETy.isInt t then
    Ex.ofInt (if ETy.isSigned t then sext b (ETy.bits t) else Int.ofNat b)
  else if t == .lg6 then
    let v := sext b 5
    let ng := bit b 5
    if v == -16 then .zero ng
    else .fin { n := if ng then -1 else 1, e := v / 4, r := (v % 4).toNat }
  else
    let M := ETy.mant t
    let W := ETy.bits t
    let s := bit b (W - 1)
    let e := bits b M (W - 1 - M)
    let m := b % 2 ^ M
    if t == .f8a && e == 15 && m == 7 then .nan false
    else if t != .f8a && e == 2 ^ (W - 1 - M) - 1 then
      if m == 0 then .inf s else .nan (ETy.hasSig t && !bit m (M - 1))
    else
      let k : Int := if e == 0 then m else 2 ^ M + m
      let x : Int := (if e == 0 then ETy.emin t else ETy.emin t + e - 1) - M
      Ex.dy (if s then -k else k) x s

/-- `|x|^8` compared with `2^j`: true when `2^j <= |x|^8`. -/
def Q.pow8Ge (q : Q) (j : Int) : Bool :=
  let k := j - 8 * q.e - 2 * q.r
  q.d ^ 8 * pow2 k ≤ q.n.natAbs ^ 8 * pow2 (-k)

/-- `4 * log2 |x|` rounded in the magnitude's direction (R31), with whether it was an integer. -/
def lg6Code (q : Q) (rm : Rm) : Int × Bool :=
  let f0 := 4 * (Q.log2 { q with r := 0, e := 0 } + q.e) + q.r
  -- floor of 4*log2|x|: at most 3 above f0
  let m := if q.pow8Ge (2 * (f0 + 3)) then f0 + 3 else if q.pow8Ge (2 * (f0 + 2)) then f0 + 2
           else if q.pow8Ge (2 * (f0 + 1)) then f0 + 1 else f0
  let exact := q.pow8Ge (2 * m) && q.n.natAbs ^ 8 * pow2 (-(2 * m - 8 * q.e - 2 * q.r)) ==
    q.d ^ 8 * pow2 (2 * m - 8 * q.e - 2 * q.r)
  let up := match rm with
    | .rne => q.pow8Ge (2 * m + 1)
    | .rtz => false
    | .rup => !exact && q.n > 0
    | .rdn => !exact && q.n < 0
  (if up then m + 1 else m, exact)

/-- Integer bounds of R29. -/
def ETy.lo : ETy → Int
  | .i32 => -2 ^ 31 | .i8 => -128 | .i4 => -8 | _ => 0
def ETy.hi : ETy → Int
  | .i32 => 2 ^ 31 - 1 | .n32 => 2 ^ 32 - 1 | .i8 => 127 | .n8 => 255 | .i4 => 7 | .n4 => 15 | _ => 0

/-- A signed encoding from magnitude bits. -/
def withSign (t : ETy) (neg : Bool) (m : Nat) : Nat := if neg then ETy.signBit t + m else m

/-- The encoding and inexactness of a finite non-zero value, before overflow is settled (R30). -/
def roundBits (q : Q) (t : ETy) (rm : Rm) : Nat × Bool :=
  let e := max q.log2 (ETy.emin t)
  let (k, nx) := roundQ q (e - ETy.mant t) rm
  ((e - ETy.emin t).toNat * 2 ^ ETy.mant t + k, nx)

/-- Overflow goes to an infinity (RNE, and the modes that round that way) rather than to MaxFinite (R31). -/
def overToInf (neg : Bool) : Rm → Bool
  | .rne => true
  | .rtz => false
  | .rup => !neg
  | .rdn => neg

/-- Encode of R31: the encoding as a natural number, and the flags. -/
def encodeEl (x : Ex) (t : ETy) (rm : Rm) (ftz sat : Bool) : Nat × Fl :=
  if ETy.isInt t then
    match x with
    | .nan _ => (0, Fl.nv)
    | .zero _ => (0, 0)
    | .inf n => (wrapInt (if n then ETy.lo t else ETy.hi t) (ETy.bits t), Fl.nv)
    | .fin q =>
      let (k, nx) := roundQ q 0 rm
      let v : Int := if q.n < 0 then -(k : Int) else k
      let fx := if nx then Fl.nx else 0
      if v < ETy.lo t then
        if sat then (wrapInt (ETy.lo t) (ETy.bits t), Fl.sv ||| fx) else (wrapInt v (ETy.bits t), fx)
      else if ETy.hi t < v then
        if sat then (wrapInt (ETy.hi t) (ETy.bits t), Fl.sv ||| fx) else (wrapInt v (ETy.bits t), fx)
      else (wrapInt v (ETy.bits t), fx)
  else if t == .lg6 then
    match x with
    | .nan _ => (0x10, Fl.nv)
    | .zero _ => (0x10, 0)
    | .inf n => (if n then 0x2F else 0x0F, Fl.of)
    | .fin q =>
      let (n, exact) := lg6Code q rm
      let fx := if exact then 0 else Fl.nx
      let sg := if q.n < 0 then 0x20 else 0
      if n > 15 then (sg + 15, Fl.of ||| fx)
      else if n < -15 then (0x10, Fl.uf ||| fx)
      else (sg + wrapInt n 5, fx)
  else
    match x with
    | .nan s => (ETy.nanBits t, if s then Fl.nv else 0)
    | .zero n => (withSign t n 0, 0)
    | .inf n =>
      if sat then (withSign t n (ETy.maxBits t), 0)
      else if t == .f8a then (ETy.nanBits t, Fl.nv)
      else (withSign t n (ETy.infBits t), 0)
    | .fin q =>
      let ng := q.n < 0
      let tiny := q.log2 < ETy.emin t
      if ftz && tiny then (withSign t ng 0, Fl.uf ||| Fl.nx)
      else
        let (b, nx) := roundBits q t rm
        if b ≤ ETy.maxBits t then
          (withSign t ng b, if nx then (if tiny then Fl.uf ||| Fl.nx else Fl.nx) else 0)
        else if sat then (withSign t ng (ETy.maxBits t), Fl.of ||| Fl.nx)
        else if overToInf ng rm then
          (if t == .f8a then ETy.nanBits t else withSign t ng (ETy.infBits t), Fl.of ||| Fl.nx)
        else (withSign t ng (ETy.maxBits t), Fl.of ||| Fl.nx)

/-- Input flush of R33: a non-zero operand below `2^-126` reads as a zero of its sign. -/
def flushIn (ftz : Bool) (x : Ex) : Ex :=
  match x with
  | .fin q => if ftz && q.log2 < -126 then .zero (q.n < 0) else x
  | y => y

/-- The exact sum of two non-zero reals or zeros, as a real that may be 0. -/
def Q.add (a b : Q) : Q :=
  let a := a.rootless
  let b := b.rootless
  let e := min a.e b.e
  { n := a.n * pow2 (a.e - e) * b.d + b.n * pow2 (b.e - e) * a.d, d := a.d * b.d, e := e }

/-- The sign R34 gives an exact zero sum: RDN gives -0, and so do addends that are all -0. -/
def zeroSign (rm : Rm) (xs : List Ex) : Bool := rm == .rdn || xs.all (fun x => x == .zero true)

/-- The real part of a finite value. -/
def Ex.real : Ex → Q
  | .fin q => q
  | _ => { n := 0 }

/-- ExactSum of R48 under the zero-sign rule of a rounding mode, with NV. -/
def exactSum (rm : Rm) (xs : List Ex) : Ex × Fl :=
  if xs.any Ex.isNan then (.nan false, if xs.any Ex.isSig then Fl.nv else 0)
  else if xs.any (· == .inf false) && xs.any (· == .inf true) then (.nan false, Fl.nv)
  else if xs.any (· == .inf false) then (.inf false, 0)
  else if xs.any (· == .inf true) then (.inf true, 0)
  else
    let q := xs.foldl (fun a x => Q.add a x.real) { n := 0 }
    (if q.n == 0 then .zero (zeroSign rm xs) else .fin q, 0)

/-- The exact product (R34, R48), with NV for a zero times an infinity or a signalling operand. -/
def exactMul (x y : Ex) : Ex × Fl :=
  match x, y with
  | .nan s, .nan u => (.nan false, if s || u then Fl.nv else 0)
  | .nan s, _ => (.nan false, if s then Fl.nv else 0)
  | _, .nan s => (.nan false, if s then Fl.nv else 0)
  | .inf _, .zero _ => (.nan false, Fl.nv)
  | .zero _, .inf _ => (.nan false, Fl.nv)
  | .inf a, y => (.inf (a != y.neg), 0)
  | x, .inf b => (.inf (x.neg != b), 0)
  | .zero a, y => (.zero (a != y.neg), 0)
  | x, .zero b => (.zero (x.neg != b), 0)
  | .fin p, .fin q => (.fin { n := p.n * q.n, d := p.d * q.d, e := p.e + q.e + (p.r + q.r) / 4, r := (p.r + q.r) % 4 }, 0)

/-- The exact quotient of finite non-zero reals. -/
def Q.div (p q : Q) : Q :=
  let p := p.rootless
  let q := q.rootless
  { n := if q.n < 0 then -(p.n * q.d) else p.n * q.d, d := p.d * q.n.natAbs, e := p.e - q.e }

/-- A real that rounds as `sqrt(q)` does: the root, or a value strictly between the root's 64-bit neighbours. -/
def Q.sqrt (q : Q) : Q :=
  let q := q.rootless
  -- n/d * 2^e = (n*d) / d^2 * 2^e
  let m := q.n.natAbs * q.d
  let k : Int := q.e % 2
  let big := m * pow2 (k + 160)
  let t := isqrt big
  if t * t == big then { n := t, d := q.d, e := (q.e - k) / 2 - 80 }
  else { n := 2 * t + 1, d := q.d, e := (q.e - k) / 2 - 81 }

/-- The order of two values other than NaN, with -0 equal to +0: less, equal or greater. -/
def Ex.cmp (x y : Ex) : Ordering :=
  match x, y with
  | .inf a, .inf b => if a == b then .eq else if a then .lt else .gt
  | .inf a, _ => if a then .lt else .gt
  | _, .inf b => if b then .gt else .lt
  | x, y =>
    let q := Q.add x.real { y.real with n := -y.real.n }
    if q.n < 0 then .lt else if q.n == 0 then .eq else .gt

/-- RoundRne of R51: the value that the RNE encoding stands for, with its flags. -/
def roundRne (x : Ex) (t : ETy) : Ex × Fl :=
  let (b, f) := encodeEl x t .rne false false
  (decodeEl b t, f)

/-- InRange of R39. -/
def inRange (x : Ex) (t : ETy) (rm : Rm) : Bool :=
  match x with
  | .fin q =>
    if t == .lg6 then (lg6Code q rm).1 ≤ 15
    else if ETy.isInt t then
      let (k, _) := roundQ q 0 rm
      let v : Int := if q.n < 0 then -(k : Int) else k
      ETy.lo t ≤ v && v ≤ ETy.hi t
    else (roundBits q t rm).1 ≤ ETy.maxBits t
  | _ => true

/-- ChooseScale of R39: the scale E8 and the flags it sets by itself (NV for a NaN block, OF when none fits). -/
def chooseScale (xs : List Ex) (t : ETy) (rm : Rm) : Nat × Fl :=
  if xs.any (fun x => x.isNan || x.isInf) then (0xFF, Fl.nv)
  else if xs.all Ex.isZero then (127, 0)
  else
    match (List.range 255).find? (fun (e : Nat) => xs.all (fun x => inRange (x.scale (127 - (e : Int))) t rm)) with
    | some e => (e, 0)
    | none => (254, Fl.of)

/-- The value of an element under its block's scale (R38). -/
def decodeScaled (b : Nat) (t : ETy) (e8 : Nat) : Ex :=
  if e8 == 0xFF then .nan false else (decodeEl b t).scale ((e8 : Int) - 127)

/-- Popcount of R51 over `k` bits. -/
def popcount (x : Nat) : Nat → Nat
  | 0 => 0
  | k + 1 => (if bit x k then 1 else 0) + popcount x k

/-- Pips of R44: the digits of the non-adjacent form. -/
def pips (b0 : Nat) (t : ETy) : Nat :=
  let b := b0 % 2 ^ ETy.bits t
  match decodeEl b t with
  | .zero _ => 0
  | .nan _ => 1
  | .inf _ => 1
  | .fin q =>
    if t == .lg6 then 1
    else
      let n := if ETy.isFloat t then
          (if bits b (ETy.mant t) (ETy.bits t - 1 - ETy.mant t) == 0 then b % 2 ^ ETy.mant t
           else 2 ^ ETy.mant t + b % 2 ^ ETy.mant t)
        else q.n.natAbs
      let h := bits n 1 40
      popcount (h ^^^ (n + h)) 48

/-- T[f] of R47. -/
def lg6T : Nat → Nat
  | 0 => 0x800000
  | 1 => 0x9837F0
  | 2 => 0xB504F3
  | _ => 0xD744FD

/-- LogMul of R47, before block scales. -/
def logMul (a b : Nat) : Ex :=
  let va := sext a 5
  let vb := sext b 5
  let sg := bit a 5 != bit b 5
  if va == -16 || vb == -16 then .zero sg
  else
    let s := va + vb
    Ex.dy (if sg then -(lg6T (s % 4).toNat : Int) else lg6T (s % 4).toNat) (s / 4 - 23)

end Sys2Proof.Machine
end

