-- ==== Sys2Proof/Machine/Flags.lean ====
section
/-! DEFINITION. The floating-point operations on encodings, each with the FPSTAT flags it raises (R99 to R103, R183,
R191); shared by the scalar and the vector instructions. -/

namespace Sys2Proof.Machine

/-- Any operand is a signalling NaN. -/
def anySig (xs : List Ex) : Bool := xs.any Ex.isSig
def anyNan (xs : List Ex) : Bool := xs.any Ex.isNan

/-- `x + y` with the special cases of R99. -/
def fAddX (rm : Rm) (x y : Ex) : Ex × Fl := exactSum rm [x, y]
/-- `x - y`. -/
def fSubX (rm : Rm) (x y : Ex) : Ex × Fl := exactSum rm [x, y.negate]
/-- `x * y`. -/
def fMulX (_rm : Rm) (x y : Ex) : Ex × Fl := exactMul x y
/-- `x / y`. -/
def fDivX (_rm : Rm) (x y : Ex) : Ex × Fl :=
  if anySig [x, y] then (.nan false, Fl.nv)
  else if anyNan [x, y] then (.nan false, 0)
  else
    let sg := x.neg != y.neg
    match x, y with
    | .zero _, .zero _ => (.nan false, Fl.nv)
    | .inf _, .inf _ => (.nan false, Fl.nv)
    | .inf _, _ => (.inf sg, 0)
    | _, .inf _ => (.zero sg, 0)
    | .fin _, .zero _ => (.inf sg, Fl.dz)
    | .zero _, _ => (.zero sg, 0)
    | .fin p, .fin q => (.fin (Q.div p q), 0)
    | _, _ => (.nan false, 0)
/-- `x * y + z`. -/
def fFmaX (rm : Rm) (x y z : Ex) : Ex × Fl :=
  if anySig [x, y, z] then (.nan false, Fl.nv)
  else if (x.isZero && y.isInf) || (x.isInf && y.isZero) then (.nan false, Fl.nv)
  else if anyNan [x, y, z] then (.nan false, 0)
  else exactSum rm [(exactMul x y).1, z]
/-- `sqrt(x)`. -/
def fSqrtX (x : Ex) : Ex × Fl :=
  match x with
  | .nan s => (.nan false, if s then Fl.nv else 0)
  | .zero n => (.zero n, 0)
  | .inf n => if n then (.nan false, Fl.nv) else (.inf false, 0)
  | .fin q => if q.n < 0 then (.nan false, Fl.nv) else (.fin q.sqrt, 0)

/-- Round an exact result into a type, joining the flags (R31). -/
def encJoin (r : Ex × Fl) (t : ETy) (rm : Rm) (ftz sat : Bool) : Nat × Fl :=
  let (b, f) := encodeEl r.1 t rm ftz sat
  (b, r.2 ||| f)

/-- A two-operand floating operation of R99 on encodings. -/
def fop2 (op : Rm → Ex → Ex → Ex × Fl) (t : ETy) (rm : Rm) (ftz sat : Bool) (a b : Nat) : Nat × Fl :=
  encJoin (op rm (flushIn ftz (decodeEl a t)) (flushIn ftz (decodeEl b t))) t rm ftz sat
/-- `ffma`, and `vfms` with the third operand negated (R183). -/
def fop3 (negz : Bool) (t : ETy) (rm : Rm) (ftz sat : Bool) (a b c : Nat) : Nat × Fl :=
  let z := flushIn ftz (decodeEl c t)
  encJoin (fFmaX rm (flushIn ftz (decodeEl a t)) (flushIn ftz (decodeEl b t)) (if negz then z.negate else z)) t rm ftz sat
def fopSqrt (t : ETy) (rm : Rm) (ftz sat : Bool) (a : Nat) : Nat × Fl :=
  encJoin (fSqrtX (flushIn ftz (decodeEl a t))) t rm ftz sat

/-- `x < y` with -0 below +0 (R100). -/
def totalLt (x y : Ex) : Bool :=
  match x.cmp y with
  | .lt => true
  | .gt => false
  | .eq => x.isZero && x.neg && !y.neg
/-- R100 on encodings: the pattern selected, a flushed operand as its zero. -/
def fMinMax (mx : Bool) (t : ETy) (ftz : Bool) (a0 b0 : Nat) : Nat × Fl :=
  let a := a0 % 2 ^ ETy.bits t
  let b := b0 % 2 ^ ETy.bits t
  let x := flushIn ftz (decodeEl a t)
  let y := flushIn ftz (decodeEl b t)
  let pa := if x.isZero then withSign t x.neg 0 else a
  let pb := if y.isZero then withSign t y.neg 0 else b
  if anySig [x, y] then (ETy.nanBits t, Fl.nv)
  else if x.isNan && y.isNan then (ETy.nanBits t, 0)
  else if x.isNan then (pb, 0)
  else if y.isNan then (pa, 0)
  else if mx then (if totalLt x y then pb else pa, 0)
  else (if totalLt y x then pb else pa, 0)

/-- The conditions of R101 and their NV. -/
def fCmpX (cond : Nat) (x y : Ex) : Bool × Fl :=
  let un := x.isNan || y.isNan
  let sig := if anySig [x, y] then Fl.nv else 0
  let any := if un then Fl.nv else 0
  let o := x.cmp y
  match cond with
  | 0 => (!un && o == .eq, sig)
  | 1 => (un || o != .eq, sig)
  | 2 => (!un && o == .lt, any)
  | 3 => (!un && o != .gt, any)
  | 4 => (!un && o == .gt, any)
  | 5 => (!un && o != .lt, any)
  | 6 => (un, sig)
  | _ => (!un, sig)

/-- R102. -/
def fClassBits (t : ETy) (a : Nat) : Nat :=
  match decodeEl a t with
  | .nan s => if s then 2 ^ 8 else 2 ^ 9
  | .inf n => if n then 1 else 2 ^ 7
  | .zero n => if n then 2 ^ 3 else 2 ^ 4
  | .fin q =>
    let sub := t != .lg6 && q.log2 < ETy.emin t
    if q.n < 0 then (if sub then 2 ^ 2 else 2) else (if sub then 2 ^ 5 else 2 ^ 6)

/-- Conv of one element (R103, R191): saturation forced, and NV in place of SV, from a floating type or LG6 to an
integer type (R32). -/
def convEl (t src : ETy) (rm : Rm) (ftz sat : Bool) (a : Nat) : Nat × Fl :=
  let v := decodeEl a src
  let v := if ETy.isFloat src then flushIn ftz v else v
  let force := !ETy.isInt src && ETy.isInt t
  let (b, f) := encodeEl v t rm ftz (sat || force)
  (b, if force && (f &&& Fl.sv) != 0 then (f &&& ~~~Fl.sv) ||| Fl.nv else f)

end Sys2Proof.Machine
end

