-- ==== Sys2Proof/Machine/State.lean ====
section
/-! DEFINITION. The state of one node of the part, as plain data; the reasons a step can stop; the state after reset.
Every field's default is its value at node reset; a context's fields have the values a context starts with (R78). -/

namespace Sys2Proof.Machine

/-- Why a step stops with a fault. -/
inductive Fault where
  /-- Raised by no meaning: every trap of the part is taken as a next state (R400). Kept so that the type is closed.
  Safe: a stop hides no effect. -/
  | none
  deriving DecidableEq, Repr

/-- Why a step answers nothing. -/
inductive Refusal where
  /-- Raised by an arm of the dispatch whose instruction has no meaning yet. Safe: nothing is claimed. -/
  | notModelled (mnemonic : String)
  deriving DecidableEq, Repr

/-- Memory: addresses strictly rising, no entry equal to the byte an unlisted address reads as. -/
abbrev Memory := List Host.Cell

/-- A scalar or row result in flight (R80, R83, R408). `fin` is the cycle issue + L; a main-file destination is read by
bundles that issue at `fin + 2` or later. `code` is the destination code of R59 (0x00 discards). `latch` says the
result still enters its slot's latch; `flags` and `sm` are the flags it raises when it lands. -/
structure Flight where
  fin : Nat
  code : Nat
  slot : Slot
  val : Word
  row : Option Row := none
  latch : Bool := true
  sq : Bool := false
  landed : Bool := false
  /-- FPSTAT flags of a squashable syllable, ORed in unless it is killed (R36, R108). -/
  flags : BitVec 6 := 0
  /-- SMSTAT bits and SMAM row of a squashable syllable (R223, R108). -/
  sm : BitVec 3 := 0
  am : Option (Fin 128) := none
  /-- The cycle of its issue. -/
  born : Nat := 0
  /-- The number of the access whose port cycle brings the value; 0 for a result that has it (R148). -/
  pid : Nat := 0
  /-- Of a load's base update, the load's number: a load that writes nothing updates no base (R108, R149, R205). -/
  base : Nat := 0
  deriving DecidableEq, Repr

/-- A pending control transfer: target, delay bundles still to issue, whether it pops loops (R107, R109, R113). -/
structure Xfer where
  tgt : Word
  left : Nat
  pops : Bool := false
  deriving DecidableEq, Repr

/-- A loop-stack entry (R111). -/
structure LoopEnt where
  start : Word
  fin : Word
  count : Nat
  deriving DecidableEq, Repr

/-- A byte range `[lo, hi)` of a typed buffer of the own core (R11). -/
structure Rng where
  buf : Space
  lo : Nat
  hi : Nat
  deriving DecidableEq, Repr

/-- A live region (R125). -/
abbrev LiveReg := Rng

/-- A sequencer wait in progress (R120): condition words, mode, deadline in cycles, destination. -/
structure WaitSt where
  conds : List Word
  all : Bool
  tt : Bool
  deadline : Nat
  d : SDst
  pc : Word
  seq : BitVec 32
  syl : Word
  start : Nat
  deriving DecidableEq, Repr

/-- An outstanding global access of the sequencer (R151, R152, R155). -/
structure GAcc where
  id : Nat
  ins : Instr
  pc : Word
  seq : Nat
  va : Nat
  pa : Nat
  cls : Nat
  tok : Tok
  width : Nat
  b : Word := 0
  c : Word := 0
  /-- The cycle of its issue. -/
  born : Nat := 0
  /-- The syllable, for a record's status word (R401). -/
  syl : Word := 0
  /-- A window store has landed in its targets, or in none (R305). -/
  landed : Option Bool := none
  deriving DecidableEq, Repr

/-- A failure recorded for a sequencer access and not yet taken: a faulted token (R151), a store's failure (R152), an
ECC error of a buffer load (R149), each with the name of the access. -/
structure Pend where
  cls : TrapClass
  pc : Word
  slot : Slot
  seq : Nat
  addr : Nat
  tok : Tok := 0
  oc : Nat := 0
  store : Bool := false
  due : Nat := 0
  syl : Word := 0
  /-- The landing cycle of a squashable load: a kill drops the record (R149). -/
  kill : Option Nat := none
  /-- The record is fatal when reported (R400, R430). -/
  fatal : Bool := false
  deriving DecidableEq, Repr

/-- A row, granule, unit or block that an engine has read or received: its index, its bytes, the class it failed with,
and the cycle it came. -/
structure Staged where
  idx : Nat
  data : List Byte
  fail : Option TrapClass := none
  addr : Nat := 0
  time : Nat := 0
  /-- A global unit that has been written at its home, or a window unit that has landed. -/
  here : Bool := true
  /-- The flags that its conversion raised. -/
  fl : BitVec 6 := 0
  deriving DecidableEq, Repr

/-- A command block in an inbound queue (R326, R327): the sender's node and function, the engine, the bytes. -/
structure Inb where
  node : Nat
  core : Nat := 0
  seq : Nat := 0
  fn : Nat
  eng : Eng
  data : List Byte
  deriving DecidableEq, Repr

/-- A command in flight, with its journal fields (R11, R12, R117, R411). -/
structure Cmd where
  seq : BitVec 32 := 0
  pc : Word := 0
  syl : Word := 0
  eng : Eng
  ins : Instr
  a : Word := 0
  b : Word := 0
  c : Word := 0
  tok : Tok := 0
  /-- A flag operation: no engine starts it, and it counts in no completion number (R116). -/
  aside : Bool := false
  reads : List Rng := []
  writes : List Rng := []
  /-- The ordering class of its global side, if it has one (R171). -/
  gcls : Option Nat := none
  /-- Arrays it names: bit 0 SA, bit 1 VA (R10). -/
  arrs : Nat := 0
  started : Bool := false
  done : Bool := false
  faulted : Bool := false
  eff : Bool := false
  prog : Nat := 0
  /-- The result word, or the token value, so far. -/
  res : Word := 0
  /-- The cycle it was pushed, it started, and the first cycle at which it may complete. -/
  born : Nat := 0
  start : Nat := 0
  due : Nat := 0
  /-- The fault its engine has met and not yet reported: class, address, engine status word. -/
  fail : Option (TrapClass × Nat × Nat) := none
  /-- Numbers its entry captures at push or start. -/
  ext : List Nat := []
  staged : List Staged := []
  /-- Ends of the last steps of each pip group (R241), newest first. -/
  hist : List (List Nat) := []
  /-- Refresh retries (R144). -/
  retry : Nat := 0
  /-- The cycle in which the running move started: the command's start, or that of a list's entry (R292, R298). -/
  t0 : Nat := 0
  /-- The request or row with which this run began (R243, R308), the next one to ask for, those whose page or turn has not come, and
  those that have gone out with no answer yet, with the cycle (R252, R286, R292, R316). -/
  first : Nat := 0
  asks : Nat := 0
  late : List Nat := []
  asked : List (Nat × Nat) := []
  /-- The pages its requests have named: the cycle from which each is translated; none while its walk runs (R138). -/
  pages : List (Nat × Option Nat) := []
  /-- Bytes copied at push (R411). -/
  pay : List Byte := []
  /-- An inbound block (R327) runs as this command, at entry `ix`. -/
  inb : Option Inb := none
  ix : Nat := 0
  deriving DecidableEq, Repr

/-- A cell of an array: encoding, block scale, sparse index (R233). -/
structure Cell where
  enc : Nat
  e8 : Nat := 127
  idx : Nat := 0
  deriving DecidableEq, Repr

/-- What a load makes an array hold, or its record in push order (R233, R248). -/
structure Shape where
  valid : Bool := false
  ty : ETy := .f32
  bs : Bool := false
  kc : Nat := 0
  n : Nat := 0
  pat : Nat := 0
  deriving DecidableEq, Repr

/-- Counters of one pip group (R244). -/
structure GrpCnt where
  pips : Nat := 0
  steps : Nat := 0
  busy : Nat := 0
  wait : Nat := 0
  zskip : Nat := 0
  deriving DecidableEq, Repr

/-- An array's matrix state (R233). -/
structure Arr where
  sh : Shape := {}
  cells : List (List Cell) := []
  gw : Nat := 0
  ftz : Bool := false
  pw : Bool := false
  pips : Nat := 0
  rows : Nat := 0
  cycles : Nat := 0
  grp : List GrpCnt := List.replicate 16 {}
  sat : Bool := false
  deriving DecidableEq, Repr

/-- A bound chain (R260): parameters, row statistics as FP32 bits, output accumulators, query cells, bitmap rows, and the
ends of the latest blocks in SA and VA (R274), newest first. -/
structure Chain where
  qty : ETy
  qbs : Bool
  nq : Nat
  d : Nat
  oword : Word
  pword : Word
  mode : Nat
  ftz : Bool
  sat : Bool
  ppips : Nat
  oty : ETy
  kpos : Nat := 0
  nm : List Bool
  m : List Nat
  l : List Nat
  rs : List Nat
  bmap : List Nat
  q : List (List Cell)
  o : List (List Nat)
  ends : List (Nat × Nat) := []
  deriving DecidableEq, Repr

/-- The push record of the chain (R261). -/
structure ChRec where
  bound : Bool := false
  mode : Nat := 0
  qty : ETy := .f32
  qbs : Bool := false
  d : Nat := 0
  kpos : Nat := 0
  deriving DecidableEq, Repr

/-- A link buffer (R329 to R331): bind word, region word, state (0 filling, 1 full, 2 held), fill map as bits. -/
structure LinkBuf where
  bind : Word
  region : Word
  st : Nat := 0
  fill : Nat := 0
  deriving DecidableEq, Repr

/-- A join counter (R387). -/
structure JoinCtr where
  pend : Nat := 0
  ok : Nat := 0
  flt : Nat := 0
  kill : Nat := 0
  first : BitVec 32 := BitVec.allOnes 32
  deriving DecidableEq, Repr

/-- The push record of a coded slot (R339): P, K, r, size code, and the decode buffer's length. -/
structure CmRec where
  p : Nat
  k : Nat
  r : Nat
  z : Nat
  dec : Option Nat := none
  deriving DecidableEq, Repr

/-- A breakpoint hit not yet taken (R434, R435): which breakpoint, and the two-level name. -/
structure Hit where
  n : Nat
  pc : Word
  seq : BitVec 32
  deriving DecidableEq, Repr

/-- A `ctxrest` between its two passes (R427): the image's address, and its name. -/
structure RestSt where
  a : Nat
  pc : Word
  seq : BitVec 32
  syl : Word
  deriving DecidableEq, Repr

/-- Control registers as they stood in stage I1 of the issuing bundle (R424): FPSTAT, SMSTAT, SMAM0, SMAM1, SP, LOOPST, ACT. -/
structure Pre where
  fp : Word
  sm : Word
  am0 : Word
  am1 : Word
  sp : Word
  loopst : Word
  act : Bool
  deriving DecidableEq, Repr

/-- A trap record (R401). -/
structure TrapRec where
  cls : TrapClass
  slot : Slot := .e
  eng : Eng := .seq
  fatal : Bool := false
  nest : Bool := false
  inpl : Bool := false
  conf : Bool := false
  ctx : BitVec 32 := 0
  pc : Word := 0
  seq : BitVec 32 := 0
  core : Nat := 0
  fn : Nat := 0
  esw : Word := 0
  addr : Word := 0
  prog : Word := 0
  rpc : Word := 0
  time : Word := 0
  deriving DecidableEq, Repr

/-- The operations of the atomics (R154). -/
inductive AOp where
  | add | and | or | xor | min | max | minn | maxn | xchg | cas | fadd | fmax
  deriving DecidableEq, Repr

/-- Bytes that a store writes: offset, count, value, and the mask of the bits written. -/
structure Piece where
  off : Nat
  n : Nat
  val : Nat
  mask : Nat
  deriving DecidableEq, Repr

/-- What an access does in its port cycle (R148, R204): a scalar load; `n` registers of 8 bytes (R157); a row of elements of
width `w`, each with its offset, its bytes (0 for a disabled one) and its lowest bit; a store, with fresh check bits for every
word it touches or for those it covers (R149, R206); a read-modify-write (R155). -/
inductive PortAct where
  | load (off w : Nat) (t : ETy) (dw : Bool)
  | pop (off n : Nat)
  | row (w : Nat) (es : List (Nat × Nat × Nat))
  | store (fresh : Bool) (ps : List Piece)
  | atom (op : AOp) (off w b c : Nat) (t : ETy) (dw : Bool) (tok : Tok)
  deriving DecidableEq, Repr

/-- An access that waits for its port cycle (R148): the number of its first result, the cycle, the space, the act, and its
name for a record. -/
structure PortOp where
  pid : Nat
  at_ : Nat
  sp : Space
  act : PortAct
  slot : Slot
  pc : Word
  seq : Nat
  syl : Word
  deriving DecidableEq, Repr

/-- The context state every save keeps, and the rest of a context (R18, R78). -/
structure Ctx where
  s : Vector Word 64 := Vector.replicate 64 0
  o : Vector Word 8 := Vector.replicate 8 0
  lx : Vector Word 4 := Vector.replicate 4 0
  p : Vector Bool 8 := Vector.replicate 8 false
  rows : Vector Row 128 := Vector.replicate 128 0
  flight : List Flight := []
  pc : Word := 0
  /-- A bundle is issuing and the pc has not yet moved past it. -/
  issuing : Bool := false
  xfer : Option Xfer := none
  /-- While a bundle issues: its position k of R108 from the last taken transfer. -/
  kpos : Option Nat := none
  /-- FPSTAT flags, SMSTAT bits and SMAM rows that the issuing bundle has raised (R36, R223). -/
  raised : BitVec 6 := 0
  raisedSm : BitVec 3 := 0
  raisedAm : Option (Fin 128) := none
  loops : List LoopEnt := []
  sp : Word := 0
  fpstat : Word := 0
  flgext : Word := 0
  setmap : BitVec 512 := 0
  liveS : BitVec 64 := BitVec.allOnes 64
  liveT : BitVec 16 := BitVec.allOnes 16
  /-- All of WB, AB and CB are live (R125). -/
  liveBuf : Bool := true
  liveR : List LiveReg := []
  wfmt : Vector (BitVec 32) 16 := Vector.replicate 16 0
  afmt : Vector (BitVec 32) 16 := Vector.replicate 16 0
  tab : Vector (BitVec 32) 512 := Vector.replicate 512 0
  act : Bool := false
  /-- First cycle at which the entries of the last `vtbld` are written (R220). -/
  tabDue : Nat := 0
  smstat : Word := 0
  smam0 : Word := 0
  smam1 : Word := 0
  pend : List Pend := []
  /-- Tokens pending (R13). -/
  toks : List Tok := []
  /-- Token writes of local atomics: cycle, register, value (R155). -/
  tokDue : List (Nat × Tok × Word) := []
  /-- The `end` bundle issues again after a fault of a command: only its E syllable acts (R126, R155). -/
  endOnly : Bool := false
  gacc : List GAcc := []
  nextAcc : Nat := 0
  wait : Option WaitSt := none
  xmaps : Vector Word 8 := Vector.replicate 8 0
  /-- The slots as the pushed `xmap`s leave them (R300). -/
  xmRec : Vector Word 8 := Vector.replicate 8 0
  xstat : Word := 0
  ttb : Word := 0
  status : Word := 0
  trapvec : Word := 0
  trapinfo : Word := 0
  dumpstat : Word := 0
  ctxid : BitVec 32 := 0
  fn : Fin 16 := 0
  lq : Fin 64 := 0
  pri : Fin 8 := 0
  nextSeq : BitVec 32 := 0
  ended : Option (BitVec 32) := none
  cyc : Word := 0
  nrg : Word := 0
  jbPages : BitVec 64 := 0
  /-- Completion numbers of ME, CE, XE, FI (R118). -/
  comp : Vector (BitVec 32) 4 := Vector.replicate 4 (BitVec.allOnes 32)
  cmds : List Cmd := []
  /-- Engine faults detected and not yet taken: sequence numbers (R402, R416). -/
  engFaults : List (BitVec 32) := []
  /-- Those that were pending when a handler was entered: they wait for its `rte` (R416). -/
  engHeld : List (BitVec 32) := []
  /-- A pre-emption that was pending when a handler was entered: it waits for its `rte` (R416). -/
  preHeld : Bool := false
  /-- What the trap frame's layout does not hold of the results in flight, of the pending transfer and of `end` (R407; log entry 30). -/
  frameFl : List Flight := []
  framePops : Bool := false
  frameEnd : Bool := false
  mstat : Word := 0
  sa : Arr := {}
  va : Arr := {}
  saRec : Shape := {}
  vaRec : Shape := {}
  /-- PIPS of SA and VA as of the last completed command (R245). -/
  pipcnt : Nat := 0
  joins : Vector JoinCtr 16 := Vector.replicate 16 {}
  chain : Option Chain := none
  chRec : ChRec := {}
  /-- Output offset, pitch, rows and type of the bound chain, as pushed. -/
  chOut : Option (Nat × Nat × Nat × ETy) := none
  /-- A chain command that binds has started, and no command has released the arrays (R261). -/
  chHold : Bool := false
  chstat : Word := 0
  lbufs : Vector (Option LinkBuf) 16 := Vector.replicate 16 none
  /-- The push record of the bindings: bind and region words (R330). -/
  lbRec : Vector (Option (Word × Word)) 16 := Vector.replicate 16 none
  fistat : Word := 0
  inbox : Word := 0
  cmRec : Vector (Option CmRec) 8 := Vector.replicate 8 none
  /-- The model's own number of the context; 0 for none. -/
  serial : Nat := 0
  /-- What the launch fixed for its retirement (R368, R372): RPT, DEN, DFLAG, the report's index. -/
  rpt : Nat := 0
  den : Bool := false
  dflag : Nat := 0
  index : Nat := 0
  /-- The parent's number and join counter (R386). -/
  parent : Option (Nat × Nat) := none
  /-- The nest the walker created it for (R383). -/
  nestOf : Option Nat := none
  /-- Pending join tokens: counter, token, strict (R388). -/
  joinTok : List (Nat × Tok × Bool) := []
  /-- The priority that scheduling uses until the next lap boundary (R396). -/
  spri : Nat := 0
  hits : List Hit := []
  /-- The last bundle issued (R434), and below the number pushed before it. -/
  lastPc : Word := 0
  /-- The next sequence number when the last handled trap was taken (R409). -/
  trapSeq : BitVec 32 := 0
  /-- The number of the last command pushed before that bundle (R16). -/
  lastQ : BitVec 32 := BitVec.allOnes 32
  /-- The nominal cycle of the first bundle after a stop, until it has issued (R83, R409). -/
  thaw : Option Nat := none
  /-- The cycle of the last landing of row results, and those that landed then: code, and the cycle of issue (R62). -/
  rowsIn : Nat × List (Nat × Nat) := (0, [])
  /-- A `ctxrest` whose loading pass is still to come (R427). -/
  rest : Option RestSt := none
  /-- Pages that the next bundle's `ctxsave`, `ctxrest` or `dump` has translated (R138, R425). -/
  sysAt : Nat := 0
  /-- While a bundle issues: what its `sysrd` reads (R424). -/
  pre : Option Pre := none
  /-- Accesses that wait for their port cycle (R148), and the number of the next result that comes from one. -/
  portQ : List PortOp := []
  nextPort : Nat := 1
  /-- Base updates that have landed before their loads: load, register code, the value before (R108, R149). -/
  undo : List (Nat × Nat × Word) := []
  /-- A trap taken after its bundle, while the next bundle is held (R157, R402). -/
  trapDue : Option TrapRec := none
  /-- Port cycles of own-buffer accesses still to pass: class, last cycle (R170). -/
  portUse : List (Nat × Nat) := []
  /-- Checked mode (R84): the cycle step 2 ends, and whether the flags have been computed and found clear. -/
  chk : Option Nat := none
  chkOk : Bool := false
  deriving DecidableEq, Repr

/-- A function's block (R451). -/
structure Func where
  cores : BitVec 128 := 0
  flags : Word := 0
  trees : Word := 0
  cache : Vector Word 8 := Vector.replicate 8 0
  pool : Word := 0
  root : Word := 0
  imgbase : Word := 0
  imglen : Word := 0
  lq : Word := 0
  eq : Word := 0
  frst : Word := 0
  inval : Word := 0
  pbox : Word := 0
  phlt : Word := 0
  /-- The partition has failed and is not healthy again (R316). -/
  down : Bool := false
  /-- The cycle by which FTMO has passed for every request that had left the node when the reset began (R420). -/
  frstDue : Nat := 0
  /-- NRG of the function's contexts that have left the node, for telemetry (R441, R460). -/
  nrg : Nat := 0
  deriving DecidableEq, Repr

/-- Who last changed a flag (R439): context, node, core, engine code (7: none). -/
structure Setter where
  ctx : BitVec 32 := BitVec.allOnes 32
  node : Nat := 0
  core : Nat := 0
  eng : Nat := 7
  conf : Bool := false
  /-- The signaller's launch queue (R375); none after a host write. -/
  lq : Option Nat := none
  deriving DecidableEq, Repr

/-- An egress queue (R392). -/
structure EgQueue where
  put : Word := 0
  rel : Word := 0
  head : Word := 0
  ctl : Word := 0
  deriving DecidableEq, Repr

/-- Why a core with a context issues nothing: a save for pre-emption, for a `yield` or for a reported trap is under way (R397, R410,
R415), no trap-queue place is free, a fatal record found none at all, the context stays in place (INPL), or its image is being
loaded. -/
inductive StopWhy where
  | preempt | yield | report | full | check | inplace | loading
  deriving DecidableEq, Repr

/-- A stopped core: why, the record, the cycle in which the resume PC would have issued (R83), and of a `yield` its own cycle. -/
structure Stop where
  why : StopWhy
  rcd : Option TrapRec
  since : Nat
  at_ : Nat := 0
  deriving DecidableEq, Repr

/-- A translation held by a TLB (R138): virtual page base, size, its tags, the leaf. -/
structure TlbEnt where
  va : Nat
  size : Nat
  pa : Nat
  fn : Nat
  asid : Nat
  g : Bool
  cf : Bool
  x : Bool
  w : Bool
  r : Bool
  deriving DecidableEq, Repr

/-- A launch queue (R366, R367); `arr` holds the TAIL values accepted and their cycles, oldest first (R476). -/
structure LQueue where
  tail : Word := 0
  head : Word := 0
  qctl : Word := 0
  arr : List (Nat × Nat) := []
  deriving DecidableEq, Repr

/-- A pool extent (R307): window, first 2 MiB granule, granules, the function that added it. -/
structure Extent where
  win : Nat
  start : Nat
  count : Nat
  fn : Nat := 16
  deriving DecidableEq, Repr

/-- A node walk in flight (R138): page of 4 KiB, FN, ASID, root; the cores whose engines wait for it; the entries read so far, and
whether the next one's request has gone out (R143). -/
structure Walk where
  page : Nat
  fn : Nat
  asid : Nat
  root : Nat
  engs : List CoreId := []
  n : Nat := 0
  asked : Bool := false
  deriving DecidableEq, Repr

/-- Whose unit a window unit or a track's request is: a store of the sequencer, a command, nobody that waits for it any more, by its
function (a context that a reset discarded, R472, or a trace record, R438), or a walk of the node, by its page, FN and ASID (R143). -/
inductive WinSrc where
  | acc (id : Nat) | cmd (seq : Nat) | gone (fn : Nat) | walk (id : Nat)
  deriving DecidableEq, Repr

/-- A window unit on its way (R305): sender, target cluster and cores, buffer, offset of its 64 bytes, the bytes with
their enables, whether it goes to the shadow half, the cycle it is ready, and its landing cycle once it has had its lane. -/
structure WinUnit where
  core : CoreId
  src : WinSrc
  idx : Nat := 0
  clu : Nat
  mask : Nat
  buf : Space
  off : Nat
  data : List (Option Byte)
  sh : Bool := false
  ready : Nat := 0
  due : Option Nat := none
  deriving DecidableEq, Repr

/-- A request of a core to an HBM channel (R141 to R144): who asked and which granule, the channel, the cycle it is ready,
whether it is borrowed, whether a retry put it at the head of its queue, the cycle its space began once served, and for
an owned space the cycle its data arrive. -/
structure TrackReq where
  core : CoreId
  src : WinSrc
  idx : Nat := 0
  chan : Nat
  ready : Nat
  borrowed : Bool
  head : Bool := false
  served : Option Nat := none
  due : Option Nat := none
  /-- The function it is tagged with (R420). -/
  fn : Nat := 0
  deriving DecidableEq, Repr

/-- What a target answers a request: an answer, or a refusal to be tried again (R324, R331). -/
inductive RespK where
  | ans (a : Answer) | refused
  deriving DecidableEq, Repr

/-- A response this node sent and holds until it is acknowledged (R333). -/
structure Resp where
  whom : FiName
  idx : Nat
  k : RespK
  deriving DecidableEq, Repr

/-- How a packet that was not simply delivered stands (R331, R333): trimmed, waiting for its resend, or refused. -/
inductive PktPhase where
  | trimmed | backoff | refused | sent
  deriving DecidableEq, Repr

/-- A packet that was trimmed or refused: the cycle at which its resend wait expires, and the resends so far. -/
structure Pkt where
  id : PktId
  phase : PktPhase
  at_ : Nat := 0
  n : Nat := 0
  deriving DecidableEq, Repr

/-- An entry of the reply table (R324). -/
structure Reply where
  nm : FiName
  old : Word
  /-- The function of the request (R420). -/
  fn : Nat := 0
  deriving DecidableEq, Repr

/-- A held-block entry (R348): block id, copy place, when the place was last used. -/
structure Held where
  id : Nat
  place : Nat
  used : Nat
  deriving DecidableEq, Repr

/-- A collective slot of the node (R338): the owning context while it is open, the words of its `cmset`, the participants'
list, held blocks, the decode buffer (cluster, OFF, LEN), policy, and the counters of R361. -/
structure CSlot where
  owner : Option (CoreId × BitVec 32) := none
  tag : Nat := 0
  p : Nat := 0
  k : Nat := 0
  z : Nat := 0
  sched : Nat := 0
  r : Nat := 0
  rank : Nat := 0
  list : List Nat := []
  held : List Held := []
  dec : Option (Nat × Nat × Nat) := none
  policy : Nat := 0
  cnt : Vector Word 8 := Vector.replicate 8 0
  deriving DecidableEq, Repr

/-- A block that this node has sent and holds until its receiver acknowledges it (R353): its send's rank, copy and block, and the
packet. -/
structure CSend where
  rcv : Nat
  j : Nat
  k : Nat
  pkt : CPkt
  deriving DecidableEq, Repr

/-- What this node's FI and router put on their links for a collective (R349 to R357): a block; a fork, or a copy of one after its
split; an acknowledgement of a block, and an uncoded request for one, each with the source's rank and the prong; an announcement, its
withdrawal, and this router's acknowledgement of either. -/
inductive CMsg where
  | block (p : CPkt) | fork (f : ForkPkt) | ack (slot : Nat) (p : Prong) | request (slot : Nat) (p : Prong)
  | announce (a : Ann) | withdraw (slot rank : Nat) | taken (slot rank : Nat)
  deriving DecidableEq, Repr

/-- Why a context that is on no core waits (R374, R410): it does not, for a sequencer wait, for the join tokens that its next bundle
names, for the disposal of its trap record at a place of the queue. -/
inductive Phase where
  | ready | wait | join (ts : List Tok) | trapped (place : Nat)
  deriving DecidableEq, Repr

/-- A context that is on no core (R18). `ctx` is what its image holds of the context; `cells` are the bytes of JB and of
its live regions. Cycles in `ctx` are those of the save. -/
structure Saved where
  ctx : Ctx
  /-- Its core (R370). -/
  core : CoreId
  phase : Phase := .ready
  /-- When it became ready (R374), and whether AGE has passed since (R376). -/
  since : Nat := 0
  aged : Bool := false
  /-- It has never run (R370, R478). -/
  fresh : Bool := false
  cells : Memory := []
  /-- The cycle its resume PC would have issued in. -/
  t0 : Nat := 0
  /-- Offset and length of its image in the function's image area (R415). -/
  img : Option (Nat × Nat) := none
  /-- The image's bytes as the save wrote them, from place 0; zero where unlisted (R415). -/
  bytes : Memory := []
  deriving DecidableEq, Repr

/-- The image of a context that a fatal trap ended (R410): function, offset and length in the image area. -/
structure DeadImg where
  fn : Nat
  off : Nat
  len : Nat
  place : Nat
  deriving DecidableEq, Repr

/-- What the walker keeps of a nest context (R383): its number, CUR, END; whether it has retired. -/
structure NestCtx where
  serial : Nat
  cur : Nat
  fin : Nat
  living : Bool := true
  deriving DecidableEq, Repr

/-- A nest (R381 to R385): the record's entry and levels, T, and what its launch fixed. -/
structure Nest where
  entry : Word
  levels : List (Nat × Nat)
  total : Nat
  cores : BitVec 128
  fn : Nat
  lq : Nat
  prio : Nat
  args : List Word
  rpt : Nat := 0
  den : Bool := false
  dflag : Nat := 0
  spoff : Nat := 0
  parent : Option (Nat × Nat) := none
  ctxs : List NestCtx := []
  since : Nat := 0
  aged : Bool := false
  exit : BitVec 32 := 0
  status : Nat := 0
  first : BitVec 32 := BitVec.allOnes 32
  deriving DecidableEq, Repr

/-- An end-counter tree (R390): C of each core, and what armed it: flag, FEN, launch queue. -/
structure Tree where
  c : Vector Nat 128 := Vector.replicate 128 0
  flag : Nat := 0
  fen : Bool := false
  lq : Nat := 0
  deriving DecidableEq, Repr

/-- An `xext` that a function reset took from its context while firmware had it in hand (R462): its name, whether it adds, the
extent. -/
structure FwExt where
  core : CoreId
  seq : Nat
  add : Bool
  ext : Extent
  deriving DecidableEq, Repr

/-- An admitted image (R457): its ranges, what its `.buf` and `.map` sections hold (R74), and while a context of it lives,
the bytes of its ranges as the first launch found them (R176). -/
structure Image where
  id : Nat
  fn : Nat
  ranges : List (Nat × Nat)
  digest : List Byte := []
  bufs : List (Space × Nat × List Byte) := []
  maps : List Word := []
  users : List Nat := []
  code : Memory := []
  deriving DecidableEq, Repr

/-- A mailbox (R452): MBCMD, MBLEN, MBRLEN, and firmware's answer before it is published: status and response. -/
structure Mbox where
  cmd : Word := 0
  len : Word := 0
  rlen : Word := 0
  answer : Option (Nat × List Byte) := none
  /-- The request's place in the order of arrival. -/
  arr : Nat := 0
  deriving DecidableEq, Repr

/-- One core (R9) and the context on it. -/
structure Core where
  ctx : Ctx := {}
  busy : Bool := false
  /-- The instruction buffer: bundles by address (R106). -/
  ibuf : List (Word × BitVec 256) := []
  tlb : List TlbEnt := []
  /-- First cycle at which the reserved port is free (R148, R204). -/
  portFree : Nat := 0
  /-- A cycle, and the bytes that the engine ports have moved in it, by buffer and direction (R242): true for a write. -/
  ports : Nat × List (Space × Bool × Nat) := (0, [])
  /-- First cycle at which the next bundle may issue (R407, R409). -/
  holdUntil : Nat := 0
  /-- Precise traps taken, a count of the model's own. -/
  traps : Nat := 0
  stop : Option Stop := none
  /-- The page whose translation the next bundle waits for, and the cycle from which it is there; none while a walk runs (R138,
R150). -/
  xlat : Option (Nat × Option Nat) := none
  /-- That bundle is a `prf`, whose faulting translation changes no TLB (R153). -/
  xprf : Bool := false
  /-- Inbound blocks (R327), oldest first. -/
  inq : List Inb := []
  bpc : Vector Word 4 := Vector.replicate 4 0
  bpv : Vector Word 4 := Vector.replicate 4 0
  bphit : Word := 0
  trctl : Word := 0
  trbase : Word := 0
  trptr : Word := 0
  /-- Function of the last context (R478). -/
  lastFn : Option Nat := none
  /-- The cycle the context was placed (R374). -/
  placed : Nat := 0
  /-- The outcome of the last pre-emption request: codes of R415. -/
  preOut : Option Nat := none
  deriving DecidableEq, Repr

/-- The node. -/
structure State where
  /-- Cycles since node reset. -/
  now : Nat := 0
  /-- The core whose cycle it is. -/
  cur : CoreId := 0
  /-- Rows that come about next. -/
  agenda : List Instr := []
  /-- The counter of free values. -/
  free : Nat := 0
  mem : Memory := []
  /-- Addresses of 8-byte words marked uncorrectable (R149, R461). -/
  ecc : List Nat := []
  cores : Vector Core 128 := Vector.replicate 128 {}
  clusterTlb : Vector (List TlbEnt) 16 := Vector.replicate 16 []
  flags : Vector (BitVec 32) 512 := Vector.replicate 512 0
  setters : Vector Setter 512 := Vector.replicate 512 {}
  funcs : Vector Func 16 := Vector.replicate 16 {}
  eqs : Vector EgQueue 32 := Vector.replicate 32 {}
  lqs : Vector LQueue 64 := Vector.replicate 64 {}
  /-- TORUS (R475). -/
  torus : Word := 0
  exts : List Extent := []
  /-- Links of the pool ports (R444). -/
  poolUp : Vector Bool 2 := Vector.replicate 2 true
  walks : List Walk := []
  winUnits : List WinUnit := []
  /-- Records written to each cluster's wait log since reset, and where the log lies in the cluster's slice (R439). -/
  waitN : Vector Nat 16 := Vector.replicate 16 0
  logAt : Vector Nat 16 := Vector.replicate 16 0x7E0000
  /-- Owned spaces of the channels: channel, space, core (R142); any other space is unowned. -/
  owners : List (Nat × Nat × CoreId) := []
  /-- Owner maps written and not yet in force: channel and its owned spaces (R142). -/
  pendOwners : List (Nat × List (Nat × CoreId)) := []
  /-- D by 512·core + channel, where it is not 180 (R142). -/
  dtab : List (Nat × Nat) := []
  /-- Entries written since the last lap boundary. -/
  pendD : List (Nat × Nat) := []
  tracks : List TrackReq := []
  /-- The borrower each channel served last (R143). -/
  turn : List (Nat × Nat) := []
  /-- FTMO and AGE in rt (R448). -/
  ftmo : Nat := 100000
  age : Nat := 100000
  held : List Resp := []
  pkts : List Pkt := []
  replies : List Reply := []
  /-- Fibres in service, outbound in the directions +x, -x, +y, -y, +z, -z, then inbound in the same order (R311); spares left, and
  switches under way (R315). -/
  fibres : Vector Nat 12 := Vector.replicate 12 4
  spares : Nat := 4
  swaps : Vector Nat 12 := Vector.replicate 12 0
  saved : List Saved := []
  /-- The collective slots, eight of each function's partition (R338). -/
  slots : Vector CSlot 128 := Vector.replicate 128 {}
  sends : List CSend := []
  /-- The collectives' packets that have left the node in this cycle, oldest first, a field of the model's own. -/
  sent : List CMsg := []
  /-- The router's side information: slot, block id, rank (R350). -/
  sideInfo : List (Nat × Nat × Nat) := []
  nests : Vector (Option Nest) 16 := Vector.replicate 16 none
  trees : Vector Tree 16 := Vector.replicate 16 {}
  /-- The trap queue (R410) and TQCMD (R449). -/
  tq : Vector (Option TrapRec) 64 := Vector.replicate 64 none
  tqcmd : Word := 0
  deadImgs : List DeadImg := []
  /-- Priority lent to each launch queue (R375), and the lends received from other nodes: queue, priority, links so far. -/
  lent : Vector Nat 64 := Vector.replicate 64 0
  lendIn : List (Nat × Nat × Nat) := []
  /-- FTMO and AGE written and not yet in force (R448). -/
  limNew : Option (Nat × Nat) := none
  /-- What the last read from outside the node got, a field of the model's own. -/
  hostData : List Byte := []
  /-- The number of the last context created. -/
  serials : Nat := 0
  fwExts : List FwExt := []
  images : List Image := []
  lastImage : Nat := 0
  mbox : Vector Mbox 17 := Vector.replicate 17 {}
  /-- Registered keys: function, slot, key (R452). -/
  keys : List (Nat × Nat × List Byte) := []
  /-- Sealing keys of the functions (R421, R458). -/
  seals : Vector (Option (List Byte)) 16 := Vector.replicate 16 none
  /-- The bring-up step in progress, 1 to 5, or 0 before power good (R456); whether the ROM has refused the firmware (R455). -/
  boot : Nat := 0
  romFail : Bool := false
  /-- The private half of the identity key, from step 2 on (R458). -/
  identity : Nat := 0
  /-- The cycle of the last watchdog write (R454). -/
  wdog : Nat := 0
  /-- Power cap in watts (R459), throttles of the four dies and of the cap in sixteenths, and whether a trip holds. -/
  cap : Nat := 0
  thermal : BitVec 4 := 0
  capK : Nat := 0
  /-- The throttles of earlier cycles, newest first: the cycle from which they held, and the two above (R459). -/
  slow : List (Nat × BitVec 4 × Nat) := []
  trip : Bool := false
  /-- Clusters whose clock is gated, when each of them that has work wakes, and the state OFF (R460). -/
  gated : BitVec 16 := 0
  wakeAt : Vector (Option Nat) 16 := Vector.replicate 16 none
  off : Bool := false
  /-- Machine checks raised (R410, R459). -/
  mchecks : Nat := 0
  /-- Droop samples written, the cycle of each domain's last one, and its DROPS (R440). -/
  droops : Nat := 0
  droopAt : Vector (Option Nat) 16 := Vector.replicate 16 none
  drops : Vector Nat 16 := Vector.replicate 16 0
  /-- The droop detectors' thresholds (R440, R453). -/
  droopTh : Vector Word 16 := Vector.replicate 16 0
  /-- Words that a patrol found uncorrectable, as telemetry counts them (R461). -/
  scrubbed : Nat := 0
  /-- Single-bit errors corrected (R149, R460, R461): the four buffer kinds, the 16 slices, the 8 stacks, the two pool ports. -/
  corrected : Vector Nat 30 := Vector.replicate 30 0
  /-- Uncorrectable errors met by loads that a transfer killed, as telemetry counts them (R149). -/
  lost : Nat := 0
  deriving DecidableEq, Repr

/-- The machine right after node reset. -/
def State.reset : State := {}

abbrev Out := Host.Outcome State Fault Refusal

end Sys2Proof.Machine
end

