-- ==== Sys2Proof/Machine/Mem.lean ====
section
/-! DEFINITION. The memory of the node as one canonical list of bytes, keyed by KIND and OFFSET (R20, R21), and the marks
of uncorrectable words (R149). -/

namespace Sys2Proof.Machine

/-- What an address that nothing has written reads as: 0 in the typed buffers (R456); elsewhere a DESIGN CHOICE (log
entry 3; unsafe). -/
def unlisted : Byte := 0

/-- One byte. -/
def Memory.get (m : Memory) (a : Nat) : Byte :=
  match m.find? (fun e => e.1 == a) with
  | some e => e.2
  | none => unlisted
/-- The entries of a list of bytes from `a`. -/
def cellsFrom (a : Nat) : List Byte → Memory
  | [] => []
  | v :: r => if v == unlisted then cellsFrom (a + 1) r else (a, v) :: cellsFrom (a + 1) r
/-- Write a list of bytes from `a`, keeping the canonical form. -/
def Memory.write (m : Memory) (a : Nat) (bs : List Byte) : Memory :=
  let hi := a + bs.length
  m.filter (fun e => decide (e.1 < a)) ++ cellsFrom a bs ++ m.filter (fun e => decide (hi ≤ e.1))
/-- Write one byte. -/
def Memory.put (m : Memory) (a : Nat) (v : Byte) : Memory := m.write a [v]

/-- All keys of `m` lie above `lo`, strictly rising, and no entry is `unlisted`. -/
def Memory.wfFrom (lo : Option Nat) : Memory → Bool
  | [] => true
  | (a, v) :: r =>
    (match lo with | none => true | some l => l < a) && v != unlisted && Memory.wfFrom (some a) r

/-- The canonical form. -/
def Memory.wf (m : Memory) : Bool := Memory.wfFrom none m

/-- `n` bytes from `a` of entries that all lie at `a` or above, in canonical form. -/
def Memory.span (m : Memory) (a : Nat) : Nat → List Byte
  | 0 => []
  | n + 1 =>
    match m with
    | (b, v) :: r => if b == a then v :: Memory.span r (a + 1) n else unlisted :: Memory.span ((b, v) :: r) (a + 1) n
    | [] => unlisted :: Memory.span [] (a + 1) n
/-- `n` bytes from `a`, as a list, lowest address first. -/
def Memory.read (m : Memory) (a n : Nat) : List Byte := Memory.span (m.filter (fun e => decide (a ≤ e.1) && decide (e.1 < a + n))) a n

/-- Little-endian value of bytes (R2). -/
def leNat : List Byte → Nat
  | [] => 0
  | b :: r => b.toNat + 256 * leNat r

/-- The `n` bytes of a value, lowest first (R2). -/
def leBytes (v : Nat) : Nat → List Byte
  | 0 => []
  | n + 1 => BitVec.ofNat 8 v :: leBytes (v / 256) n

/-- `n` bytes as a number. -/
def Memory.readN (m : Memory) (a n : Nat) : Nat := leNat (m.read a n)
/-- The low `n` bytes of a number. -/
def Memory.writeN (m : Memory) (a n v : Nat) : Memory := m.write a (leBytes v n)

/-- The key of `KIND`, `OFFSET` (R20); NODE is left out, the memory is this node's. -/
def key (kind off : Nat) : Nat := kind * 2 ^ 40 + off

/-- Buffer code of KIND 0x02 (R21). -/
def Space.code2 : Space → Nat
  | .g => 0 | .wb => 0 | .ab => 1 | .cb => 2 | .jb => 3

/-- Size of a typed buffer (R128). -/
def Space.size : Space → Nat
  | .g => 0 | .wb => 0x180000 | .ab => 0x180000 | .cb => 0xC0000 | .jb => 0x40000

/-- The key of a byte of a core's typed buffer (R21). -/
def bufKey (c : CoreId) (sp : Space) (off : Nat) : Nat := key 2 (c.val * 2 ^ 25 + Space.code2 sp * 2 ^ 23 + off)

/-- Some byte of `[a, a+n)` lies in a word marked uncorrectable: the first such word's address. -/
def eccHit (marks : List Nat) (a n : Nat) : Option Nat := marks.find? (fun w => w < a + n && a < w + 8)

end Sys2Proof.Machine
end

