-- ==== Sys2Proof/Machine/Ops.lean ====
section
/-! DEFINITION. The named operations over the registers of a context and over memory; the exposed pipeline (R78 to R83,
R108); taking a trap (R400 to R408) and returning from one (R409). -/

namespace Sys2Proof.Machine

/- Cores and contexts. -/
def State.core (s : State) (c : CoreId) : Core := s.cores[c.val]
def State.setCore (s : State) (c : CoreId) (k : Core) : State := { s with cores := s.cores.set c.val k }
def State.ctxOf (s : State) (c : CoreId) : Ctx := (s.core c).ctx
def State.setCtxOf (s : State) (c : CoreId) (x : Ctx) : State := s.setCore c { s.core c with ctx := x }
/-- The context whose cycle it is. -/
def State.ctx (s : State) : Ctx := s.ctxOf s.cur
def State.setCtx (s : State) (x : Ctx) : State := s.setCtxOf s.cur x

/- Registers. -/
/-- A main-file register; s0 reads zero (R59). -/
def Ctx.rs (c : Ctx) (i : Fin 64) : Word := if i = 0 then 0 else c.s[i.val]
/-- A predicate; p0 reads true (R59). -/
def Ctx.pr (c : Ctx) (i : Fin 8) : Bool := i == 0 || c.p[i.val]
/-- A scalar source (R59 to R61). -/
def Ctx.src (c : Ctx) : SSrc → Word
  | .s i => c.rs i
  | .o i => c.o[i.val]
  | .lx i => c.lx[i.val]
  | .imm v => v.signExtend 64
/-- A destination register read as a source (R95, R157). -/
def Ctx.dsrc (c : Ctx) : SDst → Word
  | .s i => c.rs i
  | .o i => c.o[i.val]
/-- The guard (R54, R105). -/
def Ctx.guard (c : Ctx) (g : Guard) : Bool := c.pr g.pred != g.neg
def Ctx.row (c : Ctx) (i : Fin 128) : Row := c.rows[i.val]

/-- The elements of width `w` of a row, element 0 first (R177). -/
def rowEls (r : Row) (w : Nat) : List Nat := (List.range (4096 / w)).map (fun e => bits r.toNat (w * e) w)
/-- A row from its elements of width `w`. -/
def rowOf (xs : List Nat) (w : Nat) : Row := BitVec.ofNat 4096 (xs.foldr (fun x a => a * 2 ^ w + x % 2 ^ w) 0)
/-- The row in which every element of width `w` holds the scalar's low bits (R182). -/
def bcast (v : Word) (w : Nat) : Row := rowOf (List.replicate (4096 / w) (v.toNat % 2 ^ w)) w
def Ctx.rsrc (c : Ctx) (w : Nat) : RSrc → Row
  | .row i => c.row i
  | .sc x => bcast (c.src x) w

/- Destination codes (R59). -/
def sCode : SDst → Nat
  | .s i => i.val
  | .o i => 0x40 + i.val
def cCode : CDst → Nat
  | .sc d => sCode d
  | .p i => 0x58 + i.val
def rCode (i : Fin 128) : Nat := 0x80 + i.val
def Slot.num : Slot → Nat
  | .a => 0 | .m => 1 | .v => 2 | .e => 3
def Slot.ofNum : Nat → Slot
  | 0 => .a | 1 => .m | 2 => .v | _ => .e
def Slot.ix : Slot → Fin 4
  | .a => 0 | .m => 1 | .v => 2 | .e => 3

/-- A value lands in the register a destination code names; 0x00 and p0 discard it (R59, R82). -/
def Ctx.write (c : Ctx) (code : Nat) (v : Word) (r : Option Row) : Ctx :=
  if code == 0 then c
  else if code < 0x40 then { c with s := c.s.setIfInBounds code v }
  else if code < 0x48 then { c with o := c.o.setIfInBounds (code - 0x40) v }
  else if code < 0x58 then c
  else if code < 0x60 then (if code == 0x58 then c else { c with p := c.p.setIfInBounds (code - 0x58) (v != 0) })
  else if code < 0x80 then c
  else match r with
    | some x => { c with rows := c.rows.setIfInBounds (code - 0x80) x }
    | none => c

/-- The latch of a slot takes a result (R61). -/
def Ctx.setLx (c : Ctx) (s : Slot) (v : Word) : Ctx := { c with lx := c.lx.setIfInBounds (Slot.num s) v }

/-- FPSTAT ORs flags in (R36). -/
def Ctx.orFlags (c : Ctx) (f : Fl) : Ctx := { c with fpstat := c.fpstat ||| f.setWidth 64 }
/-- Flags of the issuing bundle are ORed in, and kept for a `syswr` of the same bundle (R36). -/
def Ctx.raise (c : Ctx) (f : Fl) : Ctx := { c.orFlags f with raised := c.raised ||| f }
/-- SMSTAT and the SMAM bit of a row are set (R223). -/
def Ctx.orSm (c : Ctx) (b : BitVec 3) (am : Option (Fin 128)) : Ctx :=
  let c := { c with smstat := c.smstat ||| b.setWidth 64 }
  match am with
  | none => c
  | some r => if r.val < 64 then { c with smam0 := c.smam0 ||| (1 : Word) <<< r.val }
              else { c with smam1 := c.smam1 ||| (1 : Word) <<< (r.val - 64) }

/-- A register by its code (R157). -/
def Ctx.byCode (c : Ctx) (code : Nat) : Word :=
  if code < 0x40 then c.rs (Fin.ofNat 64 code) else c.o.toArray.getD (code - 0x40) 0
/-- A result reaches its register; of a load's base update the value before is kept while the load is in flight. -/
def Ctx.deliver (c : Ctx) (f : Flight) : Ctx :=
  let u := c.undo.filter (fun u => u.2.1 != f.code)
  { c.write f.code f.val f.row with undo := if f.base == 0 then u else u ++ [(f.base, f.code, c.byCode f.code)] }

/-- One result at cycle `now` (R80): its latch, operand-file, predicate or row destination from `fin`, its main-file
destination for bundles that issue at `fin + 2`. -/
def landOne (now : Nat) (c : Ctx) (f : Flight) : Ctx :=
  let main := 0 < f.code && f.code < 0x40
  if now < f.fin then { c with flight := c.flight ++ [f] }
  else
    let c := if f.landed then c else
      let c := if f.latch then c.setLx f.slot f.val else c
      let c := (c.orFlags f.flags).orSm f.sm f.am
      if main then c else c.deliver f
    if main then
      if f.fin + 2 ≤ now then c.deliver f
      else { c with flight := c.flight ++ [{ f with landed := true }] }
    else c

/-- A token is written: the register alone, and it is pending no more (R13). -/
def Ctx.tokenWrite (c : Ctx) (t : Tok) (v : Word) : Ctx :=
  if t == 0 then c else
    { c with s := c.s.set t.val v, toks := c.toks.filter (· != t), undo := c.undo.filter (fun u => u.2.1 != t.val) }
/-- A token is pending (R13). -/
def Ctx.tokenPend (c : Ctx) (t : Tok) : Ctx := if t == 0 || c.toks.contains t then c else { c with toks := c.toks ++ [t] }

/-- The row results that land at cycle `now`: code, and the cycle of issue. -/
def rowsLanding (fs : List Flight) (now : Nat) : List (Nat × Nat) :=
  (fs.filter (fun f => f.row.isSome && decide (f.fin ≤ now))).map (fun f => (f.code, f.born))
/-- The results due at cycle `now` land, in issue order (R80, R82, R62). -/
def Ctx.land (c : Ctx) (now : Nat) : Ctx :=
  let c := c.flight.foldl (landOne now) { c with flight := [], rowsIn := (now, rowsLanding c.flight now) }
  { c with undo := c.undo.filter (fun u => c.flight.any (fun f => f.pid == u.1) || c.frameFl.any (fun f => f.pid == u.1)) }
/-- The token writes due at cycle `now` land (R155). -/
def Ctx.landToks (c : Ctx) (now : Nat) : Ctx :=
  (c.tokDue.filter (fun t => t.1 ≤ now)).foldl (fun c t => c.tokenWrite t.2.1 t.2.2)
    { c with tokDue := c.tokDue.filter (fun t => !(t.1 ≤ now)) }

/-- A squashable syllable of the issuing bundle is killed by a taken transfer (R108). -/
def Ctx.kills (c : Ctx) (g : Guard) (lat : Nat) : Bool :=
  g.sq && (match c.kpos with | some k => 3 ≤ k + lat | none => false)
/-- A squashable syllable in a taken transfer's bundle or delay bundles: its own fault kills it (R108). -/
def Ctx.faultKills (c : Ctx) (g : Guard) : Bool := g.sq && c.kpos.isSome

/-- Put a result in flight, unless it is killed. -/
def Ctx.fly (c : Ctx) (g : Guard) (lat : Nat) (f : Flight) : Ctx :=
  if c.kills g lat then c else { c with flight := c.flight ++ [f] }

/-- Put a scalar or predicate result of latency `lat` in flight (R61, R80). -/
def Ctx.result (c : Ctx) (now : Nat) (g : Guard) (slot : Slot) (lat code : Nat) (v : Word) : Ctx :=
  c.fly g lat { fin := now + lat, born := now, code, slot, val := v, sq := g.sq }
/-- A result that enters no latch (R61). -/
def Ctx.resultNl (c : Ctx) (now : Nat) (g : Guard) (slot : Slot) (lat code : Nat) (v : Word) : Ctx :=
  c.fly g lat { fin := now + lat, born := now, code, slot, val := v, sq := g.sq, latch := false }
/-- Lanes 1 and 0 of a row, as its latch holds it (R61). -/
def rowLatch (r : Row) : Word := r.setWidth 64
/-- Put a row result in flight. -/
def Ctx.resultRow (c : Ctx) (now : Nat) (g : Guard) (lat : Nat) (d : Fin 128) (r : Row) : Ctx :=
  c.fly g lat { fin := now + lat, born := now, code := rCode d, slot := .v, val := rowLatch r, row := some r, sq := g.sq }
/-- A result with FPSTAT flags: a squashable one carries them until it lands (R36, R108). -/
def Ctx.resultFl (c : Ctx) (now : Nat) (g : Guard) (slot : Slot) (lat code : Nat) (v : Word) (r : Option Row) (fl : Fl) : Ctx :=
  if g.sq then c.fly g lat { fin := now + lat, born := now, code, slot, val := v, row := r, sq := true, flags := fl }
  else (c.fly g lat { fin := now + lat, born := now, code, slot, val := v, row := r }).raise fl

/-- FPSTAT as a read sees it: flags raised by squashable syllables still in flight count (R35, R36), those in the trap frame among
them. -/
def Ctx.fpstatNow (c : Ctx) : Word :=
  (c.flight ++ c.frameFl).foldl (fun w f => w ||| f.flags.setWidth 64) c.fpstat
/-- SMSTAT as a read sees it (R223). -/
def Ctx.smstatNow (c : Ctx) : Word := (c.flight ++ c.frameFl).foldl (fun w f => w ||| f.sm.setWidth 64) c.smstat
/-- The bit of a row in SMAM0 (`hi` false) or SMAM1 (R223). -/
def amBit (hi : Bool) : Option (Fin 128) → Word
  | some r => if (64 ≤ r.val) == hi then (1 : Word) <<< (r.val % 64) else 0
  | none => 0
/-- SMAM0 and SMAM1 as a read sees them (R223). -/
def Ctx.smamNow (c : Ctx) (hi : Bool) : Word := (c.flight ++ c.frameFl).foldl (fun w f => w ||| amBit hi f.am) (if hi then c.smam1 else c.smam0)

/-- Loads write nothing: their results, and their base updates, landed or not (R108, R149, R205). -/
def Ctx.unload (c : Ctx) (ids : List Nat) : Ctx :=
  (c.undo.filter (fun u => ids.contains u.1)).foldl (fun c u => c.write u.2.1 u.2.2 none)
    { c with flight := c.flight.filter (fun f => !(f.pid != 0 && ids.contains f.pid) && !(f.base != 0 && ids.contains f.base))
             undo := c.undo.filter (fun u => !(ids.contains u.1)) }
/-- A result that a taken transfer of cycle `now` kills (R108). -/
def Flight.dies (f : Flight) (now : Nat) : Bool := f.sq && f.born < now && now + 3 ≤ f.fin
/-- A recorded error of a load that the transfer kills (R149). -/
def Pend.dies (p : Pend) (now : Nat) : Bool := match p.kill with | some f => now + 3 ≤ f | none => false
/-- A taken transfer issued at `now` kills squashable results that have not come far enough (R108). -/
def Ctx.killOlder (c : Ctx) (now : Nat) : Ctx :=
  let ids := ((c.flight.filter (fun f => f.dies now)).map Flight.pid).filter (· != 0)
  let c := c.unload ids
  { c with flight := c.flight.filter (fun f => !(f.dies now)), pend := c.pend.filter (fun p => !(p.dies now)) }

/-- The sequence number of the last command pushed (R16). -/
def Ctx.lastSeq (c : Ctx) : BitVec 32 := c.nextSeq - 1
/-- An access of the reserved port waits for the cycle two after its issue (R148). -/
def Ctx.queue (c : Ctx) (now : Nat) (slot : Slot) (syl : Word) (sp : Space) (act : PortAct) : Ctx :=
  let n := match act with | .pop _ n => n | .load .. => 1 | .row .. => 1 | _ => 0
  { c with portQ := c.portQ ++ [{ pid := c.nextPort, at_ := now + 2, sp, act, slot, pc := c.pc, seq := c.lastSeq.toNat, syl }]
           nextPort := c.nextPort + n }

/- The sequencer's place. -/
/-- The pops of a taken `br` or `jr`, from the innermost entry outward (R113). -/
def popTo (t : Word) : List LoopEnt → List LoopEnt
  | [] => []
  | e :: r => if e.start ≤ t && t ≤ e.fin then e :: r else popTo t r
/-- The loop test at the end PC (R113): the entries after it and the next bundle. -/
def loopTest (pc : Word) : List LoopEnt → List LoopEnt × Word
  | [] => ([], pc + 32)
  | e :: r =>
    if e.fin == pc then
      if 1 < e.count then ({ e with count := e.count - 1 } :: r, e.start) else loopTest pc r
    else (e :: r, pc + 32)
/-- The context moves past the bundle that issued (R52, R107, R113); after `end` it stays there (R126). -/
def Ctx.advance (c : Ctx) : Ctx :=
  let c0 := { c with issuing := false, kpos := none, raised := 0, raisedSm := 0, raisedAm := none }
  if c.ended.isSome then c0 else
  match c.xfer with
  | some x =>
    let c0 := { c0 with loops := (loopTest c.pc c.loops).1 }
    if c.kpos == some 0 then { c0 with pc := c.pc + 32 }
    else if x.left ≤ 1 then { c0 with pc := x.tgt, xfer := some { x with left := 0 } }
    else { c0 with pc := c.pc + 32, xfer := some { x with left := x.left - 1 } }
  | none =>
    let (ls, n) := loopTest c.pc c.loops
    { c0 with pc := n, loops := ls }

/- Bytes of the own core's buffers. -/
/-- Offset and length of a region word of a link buffer (R330). -/
def regOff (w : Word) : Nat := bits w.toNat 8 24
def regLen (w : Word) : Nat := bits w.toNat 32 24
/-- A byte of AB that a mapped shadow pair hides, an offset of bank 2k+1 (R302), or that a bound link buffer holds (R329). -/
def Ctx.hidden (c : Ctx) (sp : Space) (off n : Nat) : Bool :=
  sp == .ab && (c.xmaps.toList.any (fun m => bits m.toNat 0 3 == 2 &&
    off < bits m.toNat 8 24 + 0x30000 && bits m.toNat 8 24 + 0x18000 < off + n) ||
  c.lbufs.toList.any (fun b => match b with
    | some b => off < regOff b.region + regLen b.region && regOff b.region < off + n
    | none => false))

/-- Marks of the words that `[a, a+n)` covers whole, or touches, are cleared. -/
def clearEcc (marks : List Nat) (a n : Nat) (whole : Bool) : List Nat :=
  marks.filter (fun w => !(if whole then a ≤ w && w + 8 ≤ a + n else w < a + n && a < w + 8))

/-- Bytes written by a unit (R128): into memory, with fresh check bits for words written whole (R206). -/
def State.store (s : State) (a : Nat) (bs : List Byte) : State :=
  { s with mem := s.mem.write a bs, ecc := clearEcc s.ecc a bs.length true }
def State.load (s : State) (a n : Nat) : List Byte := s.mem.read a n

/-- JB pages that `[off, off+n)` touches are marked (R419). -/
def markPages (m : BitVec 64) (off n : Nat) : BitVec 64 :=
  (List.range 64).foldl (fun m k => if k * 4096 < off + n && off < (k + 1) * 4096 then m ||| (1 : BitVec 64) <<< k else m) m

/-- Bytes written to a buffer of a core, marking JB pages of its context. -/
def State.bufStore (s : State) (c : CoreId) (sp : Space) (off : Nat) (bs : List Byte) : State :=
  let s := s.store (bufKey c sp off) bs
  if sp == .jb then
    let x := s.ctxOf c
    s.setCtxOf c { x with jbPages := markPages x.jbPages off bs.length }
  else s
def State.bufLoad (s : State) (c : CoreId) (sp : Space) (off n : Nat) : List Byte := s.load (bufKey c sp off) n

/- Trap frames (R407) and records (R401). -/
def TrapClass.code : TrapClass → Nat
  | .illegal => 1 | .align => 2 | .access => 3 | .page => 4 | .buffer => 5 | .peer => 6 | .fwdWait => 7
  | .decodeMiss => 8 | .childFault => 9 | .ecc => 10 | .timeout => 11 | .arith => 12 | .trap => 13 | .bkpt => 14
/-- The last column of R400: fatal when reported. -/
def TrapClass.fatal : TrapClass → Bool
  | .illegal => true | .align => true | .buffer => true | .fwdWait => true | _ => false
def Eng.code : Eng → Nat
  | .seq => 0 | .me => 1 | .ce => 2 | .xe => 3 | .fi => 4 | .node => 5
def Eng.ofCode : Nat → Eng
  | 1 => .me | 2 => .ce | 3 => .xe | 4 => .fi | 5 => .node | _ => .seq
def TrapClass.list : List TrapClass :=
  [.illegal, .align, .access, .page, .buffer, .peer, .fwdWait, .decodeMiss, .childFault, .ecc, .timeout, .arith, .trap, .bkpt]
def b2n (b : Bool) : Nat := if b then 1 else 0

/-- Bytes 0 to 7 of a record (R401). -/
def TrapRec.head (r : TrapRec) (red : Bool) : Nat :=
  TrapClass.code r.cls + (if red then 0 else Slot.num r.slot * 2 ^ 8) + Eng.code r.eng * 2 ^ 10 + b2n r.fatal * 2 ^ 13 +
    b2n red * 2 ^ 14 + (if red then 0 else b2n r.nest * 2 ^ 15 + b2n r.inpl * 2 ^ 16) + r.ctx.toNat * 2 ^ 32
/-- The 64 bytes of a record (R401); a confidential context's is redacted outside the context (R421). -/
def TrapRec.bytes (r : TrapRec) (redact : Bool) : List Byte :=
  let red := redact && r.conf
  let h := r.head red
  let w (x : Nat) := if red then 0 else x
  leBytes h 8 ++ leBytes (w r.pc.toNat) 8 ++ leBytes (r.seq.toNat + w (r.core * 2 ^ 32 + r.fn * 2 ^ 39)) 8 ++
    leBytes (w r.esw.toNat) 8 ++ leBytes (w r.addr.toNat) 8 ++ leBytes (w r.prog.toNat) 8 ++ leBytes (w r.rpc.toNat) 8 ++
    leBytes (w r.time.toNat) 8

/-- The remaining latency of a result, counted from cycle `t0`, as five bits: a result whose latch has landed and whose
main-file read cycle has not passed counts -1 (log entry 30). -/
def remLat (f : Flight) (t0 : Nat) : Nat := wrapInt ((f.fin : Int) - t0) 5
def unRem (r : Nat) : Int := if r ≥ 30 then (r : Int) - 32 else r

/-- Results in order of landing, issue order among equals. -/
def insFin (f : Flight) : List Flight → List Flight
  | [] => [f]
  | g :: r => if f.fin < g.fin then f :: g :: r else g :: insFin f r
def sortFin (fs : List Flight) : List Flight := fs.foldl (fun a f => insFin f a) []

/-- One scalar entry of the frame: the value, then its second dword. -/
def flightBytes (t0 : Nat) (f : Flight) : List Byte :=
  leBytes f.val.toNat 8 ++
    leBytes (f.code + Slot.num f.slot * 2 ^ 8 + remLat f t0 * 2 ^ 10 + 2 ^ 15) 8
def rowHead (t0 : Nat) (f : Flight) : List Byte :=
  leBytes (f.code + remLat f t0 * 2 ^ 10 + 2 ^ 16) 16

/-- Pad a list of bytes with zeros to `n`, or cut it. -/
def padTo (n : Nat) (bs : List Byte) : List Byte := bs.take n ++ List.replicate (n - bs.length) 0

/-- The scalar results in flight in the frame's order, and the row results. -/
def frameOrder (fs : List Flight) : List Flight :=
  sortFin (fs.filter (fun f => f.row.isNone)) ++ sortFin (fs.filter (fun f => f.row.isSome))
/-- JB 0x4100-0x7A3F of R407: results in flight at cycle `t0`. -/
def flightArea (fs : List Flight) (t0 : Nat) : List Byte :=
  let sc := sortFin (fs.filter (fun f => f.row.isNone))
  let rw := sortFin (fs.filter (fun f => f.row.isSome))
  padTo 4096 ((sc.map (flightBytes t0)).flatten) ++
  padTo 320 ((rw.map (rowHead t0)).flatten) ++
  padTo 10240 ((rw.map (fun f => leBytes (f.row.getD 0).toNat 512)).flatten)

def predByte (c : Ctx) : Nat := (List.range 8).foldl (fun a i => a + (if i != 0 && c.p.getD i false then 2 ^ i else 0)) 0
/-- LOOPST (R111). -/
def loopst (ls : List LoopEnt) : Word :=
  match ls with
  | [] => 0
  | e :: _ => BitVec.ofNat 64 (ls.length * 2 ^ 32 + e.count % 2 ^ 32)
def loopBytes (ls : List LoopEnt) : List Byte :=
  padTo 96 ((ls.map (fun e => leBytes e.start.toNat 8 ++ leBytes e.fin.toNat 8 ++ leBytes e.count 8)).flatten)
def xferBytes (x : Option Xfer) : List Byte :=
  match x with
  | none => leBytes 0 16
  | some x => leBytes x.tgt.toNat 8 ++ leBytes (x.left + 4) 8

/-- The pending transfer pops loops (R113). -/
def Ctx.popsLoops (c : Ctx) : Bool := match c.xfer with | some x => x.pops | none => false
/-- The bytes of the trap save area (R407). -/
def frameBytes (c : Ctx) (r : TrapRec) (t0 : Nat) : List Byte :=
  padTo 0x4000 (r.bytes false ++ leBytes r.rpc.toNat 8 ++ xferBytes c.xfer ++ leBytes (predByte c) 8 ++
    (c.lx.toList.map (fun (x : Word) => leBytes x.toNat 8)).flatten ++ loopBytes c.loops ++
    leBytes (loopst c.loops).toNat 8 ++ leBytes 0 24 ++ flightArea c.flight t0)

/-- The syllable in a slot of the bundle at the pc (for ESW, R401); 0 when the bundle is not in the buffer. -/
def Core.syllable (k : Core) (slot : Slot) : Word :=
  match k.ibuf.find? (fun e => e.1 == k.ctx.pc) with
  | some e => BitVec.ofNat 64 (bits e.2.toNat (64 * Slot.num slot) 64)
  | none => 0

/-- RTC (R4, R424): the reference clock. -/
def State.rtc (s : State) : Nat := s.now / 30

/-- STATUS bits (R404). -/
def Ctx.ih (c : Ctx) : Bool := c.status.getLsbD 0
def Ctx.conf (c : Ctx) : Bool := c.status.getLsbD 1

/- Trace records (R437, R438). -/
/-- The enable of a record type: TRE for software, TRCTL for the others. -/
def Core.traces (k : Core) (ty : Nat) : Bool :=
  match ty with
  | 1 => k.ctx.status.getLsbD 4
  | 2 => k.trctl.getLsbD 0
  | 3 => k.trctl.getLsbD 1
  | 4 => k.trctl.getLsbD 2
  | _ => k.trctl.getLsbD 3
/-- The ring's records, and its key; `none` where there is no ring. -/
def Core.ring (k : Core) : Option (Nat × Nat) :=
  let base := bits k.trbase.toNat 12 45 * 4096
  if base == 0 then none else some (key (bits base 40 5) (bits base 0 40), 64 * 2 ^ bits k.trbase.toNat 0 4)
/-- TIME of a record or sample. -/
def State.stamp (s : State) : Nat := s.now / 30 * 32 + s.now % 30
/-- The order of the records of one cycle: trap, completion, push, software, switch. -/
def traceRank (ty : Nat) : Nat :=
  match ty with
  | 4 => 0
  | 3 => 1
  | 2 => 2
  | 1 => 3
  | _ => 4
/-- How many of the last `n` records at most are of this cycle and stand after a record of a rank. -/
def State.traceBack (s : State) (base cap rank : Nat) : Nat → Nat → Nat
  | _, 0 => 0
  | next, n + 1 =>
    let a := base + 64 * ((next - 1) % cap)
    if 0 < next && s.mem.readN (a + 24) 8 == s.stamp && rank < traceRank (bits (s.mem.readN a 1) 0 4) then
      1 + s.traceBack base cap rank (next - 1) n
    else 0
/-- A record is written as number `next`, before the `k` records that stand after it in their cycle. -/
def State.putTrace (s : State) (base cap next k : Nat) (r : List Byte) : State :=
  let at_ (i : Nat) : Nat := base + 64 * ((next - k + i) % cap)
  let ws := (List.range (k + 1)).zip (r :: (List.range k).map (fun i => s.mem.read (at_ i) 64))
  { s with mem := ws.foldl (fun m w => m.write (at_ w.1) w.2) s.mem, ecc := ws.foldl (fun e w => clearEcc e (at_ w.1) 64 true) s.ecc }
/-- A record in HBM takes the core's turn among the borrowers of its channel (R143; log entry 21). -/
def State.traceSpace (s : State) (c : CoreId) (fn a : Nat) : State :=
  { s with tracks := s.tracks ++
      (if 2 ^ 40 ≤ a then [] else [{ core := c, src := .gone fn, chan := bits a 6 9, ready := s.now + 1, borrowed := true, fn }]) }
/-- A record takes its place among those of its cycle, or is dropped and counted in LOST. -/
def State.traceRec (s : State) (c : CoreId) (ty eng : Nat) (pc : Word) (seq : BitVec 32) (p0 p1 : Word) : State :=
  let k := s.core c
  match k.ring with
  | none => s
  | some (base, cap) =>
    if !k.traces ty then s
    else
      let t := k.trptr.toNat
      let next := bits t 0 32
      let lost := bits t 32 16
      let stop := bit k.trctl.toNat 8
      let red := k.ctx.conf
      let hide (w : Word) : Nat := if red then 0 else w.toNat
      let a := base + 64 * (next % cap)
      if (stop && cap ≤ next) || (eccHit s.ecc a 64).isSome then
        s.setCore c { k with trptr := BitVec.ofNat 64 (next + min 0xFFFF (lost + 1) * 2 ^ 32 + b2n (stop && decide (cap ≤ next)) * 2 ^ 63) }
      else
        let rec_ := leBytes (ty + eng * 2 ^ 4 + b2n red * 2 ^ 7 + c.val * 2 ^ 8 + k.ctx.ctxid.toNat * 2 ^ 32) 8 ++ leBytes (hide pc) 8 ++
          leBytes seq.toNat 8 ++ leBytes s.stamp 8 ++ leBytes (hide p0) 8 ++ leBytes (hide p1) 8 ++ leBytes 0 16
        let s := s.traceSpace c k.ctx.fn.val a
        (s.putTrace base cap next (s.traceBack base cap (traceRank ty) next 8) rec_).setCore c { k with trptr := BitVec.ofNat 64 ((next + 1) % 2 ^ 32 + lost * 2 ^ 32 + b2n (stop && decide (cap ≤ next + 1)) * 2 ^ 63) }

/- Breakpoint hits (R433 to R435). -/
/-- The breakpoint is enabled with a kind and watches the context `x`. -/
def Core.watches (k : Core) (x : Ctx) (kind : Nat) (n : Fin 4) : Bool :=
  let b := k.bpc[n].toNat
  bit b 3 && bits b 0 3 == kind &&
    (if x.conf then bit b 18 && bits b 32 32 == x.ctxid.toNat else bit b 4 || bits b 32 32 == x.ctxid.toNat)
/-- Breakpoints `n` that `p` picks hit: BPHIT is set, and each hit waits for a boundary, or is discarded under IH (R436). -/
def Core.hit (k : Core) (x : Ctx) (kind : Nat) (pc : Word) (seq : BitVec 32) (p : Fin 4 → Bool) : Core × Ctx :=
  ([0, 1, 2, 3] : List (Fin 4)).foldl (fun (a : Core × Ctx) n =>
    if k.watches x kind n && p n then
      ({ a.1 with bphit := a.1.bphit ||| (1 : Word) <<< n.val },
       if x.ih || a.2.hits.any (fun h => h.n == n.val) then a.2 else { a.2 with hits := a.2.hits ++ [{ n := n.val, pc, seq }] })
    else a) (k, x)
/-- Hits of the context on a core. -/
def State.hit (s : State) (c : CoreId) (kind : Nat) (pc : Word) (seq : BitVec 32) (p : Fin 4 → Bool) : State :=
  let (k, x) := (s.core c).hit (s.ctxOf c) kind pc seq p
  s.setCore c { k with ctx := x }

/-- Results that every bundle from cycle `t0` on reads have landed (R80, R83). -/
def Ctx.settle (c : Ctx) (t0 : Nat) : Ctx :=
  c.flight.foldl (fun c f => if f.landed && f.fin + 2 ≤ t0 then c.deliver f else { c with flight := c.flight ++ [f] }) { c with flight := [] }

/-- Taking a trap (R403): handled within the context (R407), or reported, which stops the core for the save (R410).
`r` holds the record but for the fields every trap shares; `t0` is the cycle in which the resume PC would have issued. -/
def State.takeTrap (s : State) (c : CoreId) (r0 : TrapRec) (t0 : Nat) : State :=
  let k := s.core c
  let x := k.ctx.settle t0
  let handled := x.trapvec.getLsbD 0 && !x.ih && r0.cls != .bkpt
  let r := { r0 with nest := x.ih, conf := x.conf, ctx := x.ctxid, core := c.val, fn := x.fn.val,
                     time := BitVec.ofNat 64 s.rtc, fatal := !handled && (r0.fatal || TrapClass.fatal r0.cls) }
  let s := s.traceRec c 4 (Eng.code r.eng) r.pc r.seq (BitVec.ofNat 64 (r.head false)) r.addr
  let k := s.core c
  if handled then
    let s := s.bufStore c .jb 0x4000 (frameBytes x r t0)
    let k := s.core c
    let info := BitVec.ofNat 64 (TrapClass.code r.cls + Slot.num r.slot * 2 ^ 8 + Eng.code r.eng * 2 ^ 10 + r.seq.toNat * 2 ^ 32)
    s.setCore c { k with
      ctx := { x with jbPages := k.ctx.jbPages, frameFl := frameOrder x.flight, framePops := x.popsLoops, frameEnd := x.endOnly || x.ended.isSome,
                          flight := [], loops := [], xfer := none, kpos := none, issuing := false, wait := none, ended := none, endOnly := false,
                          engFaults := [], engHeld := k.ctx.engHeld ++ k.ctx.engFaults, preHeld := k.ctx.status.getLsbD 3,
                          chk := none, chkOk := false, thaw := none, sysAt := 0,
                          trapSeq := k.ctx.nextSeq, status := k.ctx.status ||| 1, trapinfo := info,
                          pc := k.ctx.trapvec &&& 0x01FFFFFFFFFFFFE0#64 }
      holdUntil := t0 + 16 }
  else
    s.setCore c { k with
      ctx := { x with kpos := none, issuing := false, pc := r.rpc, ended := none, endOnly := x.endOnly || x.ended.isSome, thaw := none }
      stop := some { why := .report, rcd := some r, since := t0 } }


/-- A trap of a syllable, precise at its bundle (R402): nothing of the syllable takes effect; a squashable syllable of a
taken transfer's bundle or delay bundles is killed instead (R108). -/
def State.precise (s : State) (g : Guard) (slot : Slot) (cls : TrapClass) (addr : Nat) : State :=
  let k := s.core s.cur
  if k.ctx.faultKills g then s
  else
    let r : TrapRec := { cls, slot, pc := k.ctx.pc, rpc := k.ctx.pc, seq := k.ctx.lastSeq, addr := BitVec.ofNat 64 addr,
                         esw := k.syllable slot }
    let s := s.takeTrap s.cur r s.now
    let k := s.core s.cur
    s.setCore s.cur { k with traps := k.traps + 1 }

/-- Some flag raised has its enable bit set (R35, R36). -/
def Ctx.enabled (c : Ctx) (fl : Fl) : Bool := (fl.setWidth 5 &&& (c.fpstat >>> 16).setWidth 5 : BitVec 5) != 0

/-- ARITH (R36): the flags are set, with those of the bundle's other syllables, nothing else of the bundle takes effect; ESW
holds the flags (R401). -/
def State.arith (s : State) (g : Guard) (slot : Slot) (fl0 : Fl) : State :=
  let k := s.core s.cur
  let fl := fl0 ||| k.ctx.raised
  if k.ctx.faultKills g then s
  else
    let s := s.setCtx (k.ctx.orFlags fl)
    let r : TrapRec := { cls := .arith, slot, pc := k.ctx.pc, rpc := k.ctx.pc, seq := k.ctx.lastSeq, esw := (fl.setWidth 5).setWidth 64 }
    let s := s.takeTrap s.cur r s.now
    let k := s.core s.cur
    s.setCore s.cur { k with traps := k.traps + 1 }

/-- A fixed-latency syllable's result with its flags: nothing when its guard reads false (R105), ARITH when an enabled
flag is raised (R36), else the result is put in flight (R80). -/
def State.finish (s : State) (g : Guard) (slot : Slot) (lat code : Nat) (v : Word) (r : Option Row) (fl : Fl) : Out :=
  if !s.ctx.guard g then .next s
  else if s.ctx.kills g lat then .next s
  else if s.ctx.enabled fl then .next (s.arith g slot fl)
  else .next (s.setCtx (s.ctx.resultFl s.now g slot lat code v r fl))

/-- A trap taken after its bundle (R402): the context moves past the bundle first; where `pushm` or `popm` holds the next bundle
(R157), the trap waits for the cycle in which it could issue. DESIGN CHOICE: a transfer taken in that bundle is pending, as R402 has it,
although R127 speaks of any syllable's trap (log entry 86). -/
def State.afterBundle (s : State) (c : CoreId) (r : TrapRec) : State :=
  let x := s.ctxOf c
  let s := if x.issuing then s.setCtxOf c x.advance else s
  let k := s.core c
  if k.holdUntil ≤ s.now + 1 then s.takeTrap c { r with rpc := k.ctx.pc } (s.now + 1)
  else s.setCore c { k with ctx := { k.ctx with trapDue := some r } }

/-- What the layout does not hold of a result, taken from the entry the part keeps beside it (log entry 30). -/
def Flight.beside (f : Flight) (e : Option Flight) : Flight :=
  match e with
  | none => f
  | some e => { f with latch := e.latch, sq := e.sq, landed := e.landed, flags := e.flags, sm := e.sm, am := e.am,
                       pid := e.pid, base := e.base }
/-- One scalar entry read back from the frame. -/
def parseScalar (lo hi t0 : Nat) : Flight :=
  { fin := ((t0 : Int) + unRem (bits hi 10 5)).toNat, code := bits hi 0 8, slot := Slot.ofNum (bits hi 8 2), val := BitVec.ofNat 64 lo }
def parseRow (h v t0 : Nat) : Flight :=
  let r : Row := BitVec.ofNat 4096 v
  { fin := ((t0 : Int) + unRem (bits h 10 5)).toNat, code := bits h 0 8, slot := .v, val := rowLatch r, row := some r }

/-- Results in flight read from the layout of JB 0x4100-0x7A3F at `a`, landing from cycle `t0` on (R83); `rd a n` reads `n`
bytes at `a`; `ex` holds what the part keeps beside the entries. -/
def parseFlights (rd : Nat → Nat → Nat) (a t0 : Nat) (ex : List Flight) : List Flight :=
  (List.range 256).filterMap (fun i =>
    let hi := rd (a + 16 * i + 8) 8
    if bit hi 15 then some ((parseScalar (rd (a + 16 * i) 8) hi t0).beside (ex.filter (fun f => f.row.isNone))[i]?) else none) ++
  (List.range 20).filterMap (fun i =>
    let h := rd (a + 0x1000 + 16 * i) 16
    if bit h 16 then some ((parseRow h (rd (a + 0x1140 + 512 * i) 512) t0).beside (ex.filter (fun f => f.row.isSome))[i]?) else none)

def parseXfer (rd : Nat → Nat → Nat) (a : Nat) (pops : Bool) : Option Xfer :=
  let b := rd (a + 8) 8
  if bit b 2 then some { tgt := BitVec.ofNat 64 (rd a 8), left := bits b 0 2, pops } else none
def parseLoops (rd : Nat → Nat → Nat) (a depth : Nat) : List LoopEnt :=
  (List.range depth).map (fun i =>
    { start := BitVec.ofNat 64 (rd (a + 24 * i) 8)
      fin := BitVec.ofNat 64 (rd (a + 24 * i + 8) 8)
      count := rd (a + 24 * i + 16) 8 })

/-- Return from a handler (R409), from the frame of the trap save area: results of earlier bundles have landed; predicates, latches, loops, pending transfer
and results in flight, which wait for the first resumed bundle; it issues 16 ck later. -/
def State.returnTrap (s : State) (c : CoreId) : State :=
  let k := s.core c
  let a := bufKey c .jb 0x4000
  let m := s.mem
  let pb := m.readN (a + 0x58) 8
  let t0 := s.now + 16
  let own := k.ctx.flight.filter (fun f => s.now ≤ f.born)
  let y := (k.ctx.flight.filter (fun f => f.born < s.now)).foldl (landOne (s.now + 2)) { k.ctx with flight := [] }
  let x := { y with
    pc := BitVec.ofNat 64 (m.readN (a + 0x40) 8)
    xfer := parseXfer m.readN (a + 0x48) k.ctx.framePops
    endOnly := k.ctx.frameEnd
    p := Vector.ofFn (fun i => i != 0 && bit pb i.val)
    lx := Vector.ofFn (fun i => BitVec.ofNat 64 (m.readN (a + 0x60 + 8 * i.val) 8))
    loops := parseLoops m.readN (a + 0x80) (bits (m.readN (a + 0xE0) 8) 32 3)
    status := k.ctx.status &&& ~~~1#64
    flight := parseFlights m.readN (a + 0x100) t0 k.ctx.frameFl ++ own
    engFaults := k.ctx.engHeld ++ k.ctx.engFaults
    engHeld := []
    preHeld := false
    frameFl := []
    thaw := some t0
    kpos := none
    issuing := false }
  s.setCore c { k with ctx := x, holdUntil := t0 }

/-- Results in flight, and what waits with them, move from cycle `a` to cycle `b` (R83). -/
def Ctx.shift (x : Ctx) (a b : Nat) : Ctx :=
  { x with flight := x.flight.map (fun (f : Flight) => { f with fin := f.fin + b - a, born := f.born + b - a })
           tabDue := x.tabDue + b - a
           pend := x.pend.map (fun (p : Pend) => { p with due := p.due + b - a, kill := p.kill.map (fun k => k + b - a) }) }
/-- At cycle `now`, results wait for the first bundle after a stop while it has not issued (R83, R409). -/
def Ctx.frozen (x : Ctx) (now : Nat) : Ctx :=
  match x.thaw with
  | some t => if t < now then { x.shift t now with thaw := some now } else x
  | none => x

end Sys2Proof.Machine
end

