-- ==== Sys2Proof/Machine/Float.lean ====
section
/-! DEFINITION. The scalar floating-point instructions of the M slot (04_scalar.md, R98 to R103). -/

namespace Sys2Proof.Machine

def State.fbin (s : State) (x : FBin) (lat : Nat) (op : Rm → Ex → Ex → Ex × Fl) : Out :=
  let (v, fl) := fop2 op x.t x.rm x.ftz x.sat (s.ctx.src x.a).toNat (s.ctx.src x.b).toNat
  s.finish x.g .m lat (sCode x.d) (BitVec.ofNat 64 v) none fl

/-- R99; latency 4 (R81). -/
def execFadd (x : FBin) (s : State) : Out := s.fbin x 4 fAddX
/-- R99. -/
def execFsub (x : FBin) (s : State) : Out := s.fbin x 4 fSubX
/-- R99. -/
def execFmul (x : FBin) (s : State) : Out := s.fbin x 4 fMulX
/-- R99. -/
def execFfma (x : FTer) (s : State) : Out :=
  let (v, fl) := fop3 false x.t x.rm x.ftz x.sat (s.ctx.src x.a).toNat (s.ctx.src x.b).toNat (s.ctx.src x.c).toNat
  s.finish x.g .m 4 (sCode x.d) (BitVec.ofNat 64 v) none fl
/-- R99; latency 14 (R81). -/
def execFdiv (x : FBin) (s : State) : Out := s.fbin x 14 fDivX
/-- R99; latency 14 (R81). -/
def execFsqrt (x : FUna) (s : State) : Out :=
  let (v, fl) := fopSqrt x.t x.rm x.ftz x.sat (s.ctx.src x.a).toNat
  s.finish x.g .m 14 (sCode x.d) (BitVec.ofNat 64 v) none fl
/-- R100; latency 2 (R81). -/
def execFmin (x : FBin) (s : State) : Out :=
  let (v, fl) := fMinMax false x.t x.ftz (s.ctx.src x.a).toNat (s.ctx.src x.b).toNat
  s.finish x.g .m 2 (sCode x.d) (BitVec.ofNat 64 v) none fl
/-- R100. -/
def execFmax (x : FBin) (s : State) : Out :=
  let (v, fl) := fMinMax true x.t x.ftz (s.ctx.src x.a).toNat (s.ctx.src x.b).toNat
  s.finish x.g .m 2 (sCode x.d) (BitVec.ofNat 64 v) none fl
/-- R101; latency 2 (R81). -/
def execFcmp (x : FCmp) (s : State) : Out :=
  let (h, fl) := fCmpX x.cond.val (flushIn x.ftz (decodeEl (s.ctx.src x.a).toNat x.t)) (flushIn x.ftz (decodeEl (s.ctx.src x.b).toNat x.t))
  s.finish x.g .m 2 (cCode x.d) (if h then 1 else 0) none fl
/-- R103; latency 4 (R81). -/
def execFcvt (x : FCvt) (s : State) : Out :=
  let (v, fl) := convEl x.t x.src x.rm x.ftz x.sat (s.ctx.src x.a).toNat
  let w : Word := if ETy.isSigned x.t then BitVec.ofInt 64 (sext v (ETy.bits x.t)) else BitVec.ofNat 64 v
  s.finish x.g .m 4 (sCode x.d) w none fl
/-- R102; latency 2 (R81). -/
def execFclass (x : FUna) (s : State) : Out :=
  s.finish x.g .m 2 (sCode x.d) (BitVec.ofNat 64 (fClassBits x.t (s.ctx.src x.a).toNat)) none 0

end Sys2Proof.Machine
end

