-- ==== Sys2Proof/WellFormed.lean ====
section
/-! DEFINITION. Which terms of Instr an encoding can hold: the checks of R63 that a syllable's fields alone decide once
they are split, namely guards (R54), squashing (R55), types, modifiers and combinations of the entries. -/

namespace Sys2Proof

/-- Guard of a syllable that R55 lets be squashed: (pred, neg) = (0, 1) is undefined (R54). -/
def Guard.ok (g : Guard) : Bool := !(g.pred == 0 && g.neg)
/-- Guard of a syllable that may not be squashed (R55). -/
def Guard.okNs (g : Guard) : Bool := g.ok && !g.sq

/-- Base address of R60: any scalar source but a small immediate. -/
def SSrc.isBase : SSrc → Bool
  | .imm _ => false
  | _ => true
/-- A base that a post-increment may update: codes 0x01-0x47 (R146, R200). -/
def SSrc.isPiBase : SSrc → Bool
  | .s i => i != 0
  | .o _ => true
  | _ => false
/-- Destination and source are one register. -/
def SDst.isSrc (d : SDst) (a : SSrc) : Bool :=
  match d, a with
  | .s i, .s j => i == j
  | .o i, .o j => i == j
  | _, _ => false

/-- Scalar slots: an A/M operation stands in A or M. -/
def Slot.am : Slot → Bool
  | .a => true
  | .m => true
  | _ => false

def Bin.wfAM (x : Bin) (sat : Bool) : Bool := x.g.ok && x.slot.am && (sat || !x.sat)
def Bin.wfM (x : Bin) (sat : Bool) : Bool := x.g.ok && x.slot == .m && (sat || !x.sat)
def Una.wf (x : Una) (sat : Bool) : Bool := x.g.ok && x.slot.am && (sat || !x.sat)
/-- R91: 1 ≤ len ≤ 64 and pos + len ≤ 64. -/
def Bfx.wf (x : Bfx) : Bool := x.g.ok && x.slot.am && 1 ≤ x.len.val && x.pos.val + x.len.val ≤ 64
def Bfi.wf (x : Bfi) : Bool := x.g.ok && x.slot.am && 1 ≤ x.len.val && x.pos.val + x.len.val ≤ 64
def Sel.wf (x : Sel) : Bool := x.g.ok && x.slot.am
/-- R90: condition codes 12 to 15 are undefined. -/
def Cmp.wf (x : Cmp) : Bool := x.g.ok && x.slot.am && x.cond.val < 12
def Lea.wf (x : Lea) : Bool := x.g.ok && x.slot.am
def ImmOp.wf (x : ImmOp) : Bool := x.g.ok && x.slot.am
/-- R96: bits 44:37 accept 0x00-0x4B. -/
def Cmpi.wf (x : Cmpi) : Bool := x.g.ok && x.slot.am && x.src.isBase
def Movl.wf (x : Movl) : Bool := x.g.ok

/-- The types of scalar floating point (R98). -/
def ETy.f3 : ETy → Bool
  | .f32 => true | .f16 => true | .bf16 => true | _ => false
def FBin.wf (x : FBin) : Bool := x.g.ok && x.t.f3
def FBin.wfMin (x : FBin) : Bool := x.g.ok && x.t.f3 && x.rm == .rne && !x.sat
def FTer.wf (x : FTer) : Bool := x.g.ok && x.t.f3
def FUna.wf (x : FUna) : Bool := x.g.ok && x.t.f3
def FUna.wfClass (x : FUna) : Bool :=
  x.g.ok && (x.t.f3 || x.t == .f8a || x.t == .f8b || x.t == .lg6) && x.rm == .rne && !x.ftz && !x.sat
def FCmp.wf (x : FCmp) : Bool := x.g.ok && x.t.f3
def FCvt.wf (x : FCvt) : Bool := x.g.ok

/-- Access types of R146: not i4 or n4; dw only with type 0x0. -/
def accTy (t : ETy) (dw : Bool) : Bool := t != .i4 && t != .n4 && (!dw || t == .f32)
def Load.wf (x : Load) : Bool :=
  x.g.ok && accTy x.t x.dw && x.sp != .g && x.a.isBase && (!x.pi || (x.a.isPiBase && !x.d.isSrc x.a))
def Store.wfSt (x : Store) : Bool :=
  x.g.okNs && accTy x.t x.dw && x.sp != .g && x.a.isBase && (!x.pi || x.a.isPiBase)
def Store.wfStg (x : Store) : Bool := x.g.okNs && accTy x.t x.dw && x.sp == .g && x.a.isBase && !x.pi
def GLoad.wf (x : GLoad) : Bool := x.g.okNs && accTy x.t x.dw && x.tok != 0 && x.a.isBase
def GLoad.wfPrf (x : GLoad) : Bool := x.g.okNs && x.t == .f32 && !x.dw && x.tok == 0 && x.a.isBase
/-- R154: the type column, space 0 or 1 to 4 (space 1 is a run-time BUFFER), base address; `uc`: the entry reads c. -/
def Atom.wf (x : Atom) (ts : List ETy) (dw : Bool) (uc : Bool := false) : Bool :=
  x.g.okNs && (if x.dw then dw && x.t == .f32 else ts.contains x.t) && x.a.isBase && (uc || x.c == .s 0)
/-- R157: f in 0x01-0x47, 1 ≤ n, f+n-1 ≤ 0x47. -/
def Multi.wf (x : Multi) : Bool := x.g.okNs && 1 ≤ x.f.val && 1 ≤ x.n.val && x.f.val + x.n.val ≤ 0x48
/-- R169: scope 0 to 4, mask not zero. -/
def Fence.wf (x : Fence) : Bool := x.g.okNs && x.scope.val < 5 && x.mask != 0

def Br.wf (x : Br) : Bool := x.g.okNs
def Jr.wf (x : Jr) : Bool := x.g.okNs && x.a.isBase
def Call.wf (x : Call) : Bool := x.g.okNs
def Callr.wf (x : Callr) : Bool := x.g.okNs && x.a.isBase
def Loop.wf (x : Loop) : Bool := x.g.okNs
/-- R56: a count of 0 is undefined. -/
def Loopi.wf (x : Loopi) : Bool := x.g.okNs && x.n != 0
def PBin.wf (x : PBin) : Bool := x.g.ok
def PUna.wfNot (x : PUna) : Bool :=
  x.g.ok && (match x.a with | .p _ => true | .sc _ => false)
def PUna.wfMov (x : PUna) : Bool :=
  x.g.ok && (match x.a with | .p _ => true | .sc _ => !x.na)

/-- Integer types of the vector arithmetic (R183). -/
def ETy.vint : ETy → Bool
  | .i32 => true | .n32 => true | .i8 => true | .n8 => true | _ => false
/-- R181: MF for floating types, sat only for integer types. -/
def VBin.wf (x : VBin) : Bool :=
  x.g.ok && x.part == 0 && (x.t.f3 || (x.t.vint && x.rm == .rne && !x.ftz))
/-- R192: f16, bf16, i8, n8; part below the ratio of widths; no modifier for integers. -/
def VBin.wfWide (x : VBin) : Bool :=
  x.g.ok && (match x.t with
    | .f16 => x.part.val < 2
    | .bf16 => x.part.val < 2
    | .i8 => x.part.val < 4 && x.rm == .rne && !x.ftz && !x.sat
    | .n8 => x.part.val < 4 && x.rm == .rne && !x.ftz && !x.sat
    | _ => false)
def VTer.wf (x : VTer) : Bool := x.g.ok && x.t.f3
/-- R183: vabs, vneg take f32, f16, bf16, i32, i8; sat for integers only. -/
def VUna.wfAbs (x : VUna) : Bool := x.g.ok && ((x.t.f3 && !x.sat) || x.t == .i32 || x.t == .i8)
/-- R186, R219: n32 or n8. -/
def VUna.wfN (x : VUna) : Bool := x.g.ok && !x.sat && (x.t == .n32 || x.t == .n8)
def VLog.wf0 (x : VLog) : Bool := x.g.ok && x.t == .f32
def VLog.wfSh (x : VLog) : Bool := x.g.ok && x.t.vint
/-- R187: conditions 6, 7 floating, 8, 9 integer. -/
def VCmp.wf (x : VCmp) : Bool :=
  x.g.ok && ((x.t.f3 && x.cond.val < 8) || (x.t.vint && (x.cond.val < 6 || x.cond.val == 8 || x.cond.val == 9)))
def VSel.wf (x : VSel) : Bool := x.g.ok
def VMov.wf (x : VMov) : Bool := x.g.ok
def VRowS.wf (x : VRowS) : Bool := x.g.ok
def VLane.wf (x : VLane) : Bool := x.g.ok
def VIota.wf (x : VIota) : Bool := x.g.ok && x.t.vint
/-- R191's table of part and c. -/
def VCvt.wf (x : VCvt) : Bool :=
  x.g.ok &&
    (if x.t.sw == x.src.sw then x.part == 0 && x.c.isNone
     else if x.src.sw < x.t.sw then x.part.val < x.t.sw / x.src.sw && x.c.isNone
     else x.part.val < x.src.sw / x.t.sw && x.c.isSome)
/-- Code types of R193, and parts of them. -/
def qTy (t : ETy) (part : Nat) : Bool :=
  match t with
  | .f8a => part < 4 | .f8b => part < 4 | .i8 => part < 4 | .lg6 => part < 4 | .i4 => part < 8 | _ => false
def VQuant.wf (x : VQuant) : Bool := x.g.ok && qTy x.t x.part.val
def VDeq.wf (x : VDeq) : Bool := x.g.ok && qTy x.t x.part.val
def VScan.wf (x : VScan) : Bool := x.g.ok && (x.t == .f32 || x.t == .i32 || x.t == .n32) && x.op.val < 3
def VRed.wf (x : VRed) : Bool := x.g.ok && (x.t.f3 || x.t.vint) && x.op.val < 3
def VPerm.wf (x : VPerm) : Bool := x.g.ok
/-- R199: .rev takes no b, the other patterns a row. -/
def VShuf.wf (x : VShuf) : Bool := x.g.ok && ((x.pat.val < 4 && x.b.isSome) || (x.pat.val == 4 && x.b.isNone))
/-- R200. -/
def VMem.wf (x : VMem) (ld : Bool) : Bool :=
  (if ld then x.g.ok else x.g.okNs) && x.t == .f32 && x.sp != .g && x.a.isBase && x.acc == 0 && (!x.pi || x.a.isPiBase)
def VMem.wfT (x : VMem) (ld : Bool) : Bool :=
  (if ld then x.g.ok else x.g.okNs) && x.t != .i4 && x.t != .n4 && x.sp != .g && x.a.isBase && x.acc.val < 16 &&
    x.t.sw / 8 ≤ 2 ^ x.acc.val && (!x.pi || x.a.isPiBase)
def VMem.wfMask (x : VMem) (ld : Bool) : Bool :=
  (if ld then x.g.ok else x.g.okNs) && x.sp != .g && x.a.isBase && !x.pi
def VFn.wf (x : VFn) : Bool := x.g.ok
def VTbld.wf (x : VTbld) : Bool := x.g.okNs
def VFold.wf (x : VFold) : Bool := x.g.ok
def VSexp.wf (x : VSexp) : Bool := x.g.ok
def VSdiv.wf (x : VSdiv) : Bool := x.g.ok
def VPart.wf (x : VPart) : Bool := x.g.ok && x.key.val < 2
def VGs.wf (x : VGs) (ld : Bool) : Bool :=
  (if ld then x.g.ok else x.g.okNs) && x.t != .i4 && x.t != .n4 && x.sp != .g && x.a.isBase

/-- R120: n condition words in s1..s63. -/
def Wait.wf (x : Wait) : Bool := x.g.okNs && x.n.val < 4 && 1 ≤ x.a.val && x.a.val + x.n.val ≤ 63
/-- R121. -/
def WaitQ.wf (x : WaitQ) : Bool :=
  x.g.okNs && 1 ≤ x.q.val && x.q.val ≤ 4 && x.n.val < 4 && 1 ≤ x.a.val && x.a.val + x.n.val ≤ 63
def FlagOp.wf (x : FlagOp) : Bool := x.g.okNs && x.q.val ≤ 4
def FlagNo.wf (x : FlagNo) : Bool := x.g.okNs && x.q.val ≤ 4
def FlagNo.wfGet (x : FlagNo) : Bool := x.g.okNs && x.q == 0
def Eseq.wf (x : Eseq) : Bool := x.g.okNs && x.sel.val ≤ 4
def LiveA.wf (x : LiveA) : Bool := x.g.okNs
/-- R125: the space of a live region is WB, AB or CB. -/
def LiveR.wf (x : LiveR) : Bool := x.g.okNs && (x.sp == .wb || x.sp == .ab || x.sp == .cb)

/-- A command: its type among `ts`, its modifiers within `mask`, operands it does not use 0x00 (R246, R265, R293, R317,
R341, R378). -/
def Ecmd.wf (x : Ecmd) (ts : List ETy) (mask : Nat) (ua ub uc : Bool) : Bool :=
  x.g.okNs && ts.contains x.t && (x.md.val &&& mask) == x.md.val &&
    (ua || x.a == .s 0) && (ub || x.b == .s 0) && (uc || x.c == .s 0)
/-- All twelve types. -/
def allTy : List ETy := [.f32, .f16, .bf16, .f8a, .f8b, .lg6, .i32, .n32, .i8, .n8, .i4, .n4]
/-- R250: pattern 1 to 6. -/
def Ecmd.wfSp (x : Ecmd) : Bool := x.wf [.f32] 0xE1 true true true && 1 ≤ x.mf 5 3 && x.mf 5 3 ≤ 6
/-- b32 goes with a type that R23 lets be block-scaled alone. -/
def Ecmd.wfB32 (x : Ecmd) : Bool := !x.m 8 || x.t.canScale
/-- R246: the streamed type (an unlisted pair is ILLEGAL at push). -/
def Ecmd.wfStrr (x : Ecmd) : Bool := x.wf allTy 0x1F19 true true true && x.wfB32
/-- R293: `xget` and `xput`. -/
def Ecmd.wfMove (x : Ecmd) : Bool := x.wf allTy 0x1FFC true true true && x.wfB32
/-- R246: `mabort.both` names no array: the word with arr = 1 is ILLEGAL (DESIGN CHOICE, log entry 97). -/
def Ecmd.wfAbort (x : Ecmd) : Bool := x.wf [.f32] 0x5 false false false && !(x.m 2 && x.m 0)
/-- R317: the operation in bits 35:32, its types and its dw (R154). -/
def Ecmd.wfRatom (x : Ecmd) (op : Nat) (ts : List ETy) (dw uc : Bool) : Bool :=
  x.wf allTy 0x1F0F true true uc && x.mf 0 4 == op && (if x.m 8 then dw && x.t == .f32 else ts.contains x.t)
/-- R317: q 0 to 4, the operation in bits 35:32. -/
def Ecmd.wfRflag (x : Ecmd) (op : Nat) (ub : Bool) : Bool := x.wf [.f32] 0x7F true ub false && x.mf 0 4 == op && x.mf 4 3 ≤ 4
/-- R317, R341: a command whose sub field is fixed. R341 gives `cmset.close` and `cmheld.clr` no oc: here theirs must be zero
(DESIGN CHOICE, log entry 81). -/
def Ecmd.wfSub (x : Ecmd) (mask sub : Nat) (ua ub uc : Bool) : Bool := x.wf [.f32] mask ua ub uc && x.mf 0 4 == sub
/-- R378: tokens of `nest` and `join` are not 0x00. -/
def Ecmd.wfTok (x : Ecmd) (mask : Nat) (ua : Bool) : Bool := x.wf [.f32] mask ua false false && x.tok != 0
/-- R265, R283: sel 0 has two rows, 1 and 2 three; no two are equal. -/
def ChStat.wf (x : ChStat) : Bool :=
  x.g.okNs && x.sel.val < 3 && x.ta != x.tb &&
    (match x.tc with
     | none => x.sel == 0
     | some t => x.sel != 0 && t != x.ta && t != x.tb)
def Edst.wfPrio (x : Edst) : Bool := x.g.okNs && !x.sub
def Edst.wfYield (x : Edst) : Bool := x.g.okNs && !x.sub && x.a == .s 0
def Edst.wfJrd (x : Edst) : Bool := x.g.okNs
def Eimm.wf (x : Eimm) : Bool := x.g.okNs
def SysRd.wf (x : SysRd) : Bool := x.g.okNs
def SysWr.wf (x : SysWr) : Bool := x.g.okNs
def CtxOp.wf (x : CtxOp) (rest : Bool) : Bool := x.g.okNs && (!rest || (x.d == .s 0 && x.b == .s 0))
def Trc.wf (x : Trc) : Bool := x.g.okNs

/-- The types of `aadd` and the other integer atomics (R154). -/
def tyIN : List ETy := [.i32, .n32]

/-- Well-formedness of a term of Instr as a syllable; an event is none, and the words of `xext` are read as `xextAdd`, whose
operand chooses the operation (R307). -/
def Instr.wf : Instr → Bool
  | .nop _ => true
  | .add x => x.wfAM true | .sub x => x.wfAM true | .neg x => x.wf true | .and x => x.wfAM false | .or x => x.wfAM false
  | .xor x => x.wfAM false | .andn x => x.wfAM false | .shl x => x.wfAM false | .shr x => x.wfAM false | .sra x => x.wfAM false
  | .rotl x => x.wfAM false | .clz x => x.wf false | .ctz x => x.wf false | .popc x => x.wf false | .bfx x => x.wf | .bfxn x => x.wf
  | .bfi x => x.wf | .min x => x.wfAM false | .max x => x.wfAM false | .minn x => x.wfAM false | .maxn x => x.wfAM false
  | .sel x => x.wf | .cmp x => x.wf | .mov x => x.wf false | .lea x => x.wf | .addi x => x.wf | .andi x => x.wf | .ori x => x.wf
  | .xori x => x.wf | .cmpi x => x.wf | .movi x => x.wf | .movl x => x.wf
  | .mul x => x.wfM true | .mulh x => x.wfM false | .mulhn x => x.wfM false | .div x => x.wfM false | .divn x => x.wfM false
  | .rem x => x.wfM false | .remn x => x.wfM false
  | .fadd x => x.wf | .fsub x => x.wf | .fmul x => x.wf | .ffma x => x.wf | .fdiv x => x.wf | .fsqrt x => x.wf | .fmin x => x.wfMin
  | .fmax x => x.wfMin | .fcmp x => x.wf | .fcvt x => x.wf | .fclass x => x.wfClass
  | .ld x => x.wf | .ldn x => x.wf | .st x => x.wfSt | .ldg x => x.wf | .stg x => x.wfStg | .prf x => x.wfPrf
  | .aadd x => x.wf tyIN true | .aand x => x.wf tyIN true | .aor x => x.wf tyIN true | .axor x => x.wf tyIN true
  | .amin x => x.wf [.i32] true | .amax x => x.wf [.i32] true | .aminn x => x.wf [.n32] true | .amaxn x => x.wf [.n32] true
  | .axchg x => x.wf [.i32, .n32, .f32] true | .acas x => x.wf tyIN true true | .afadd x => x.wf [.f32] false | .afmax x => x.wf [.f32] false
  | .pushm x => x.wf | .popm x => x.wf | .fence x => x.wf
  | .br x => x.wf | .jr x => x.wf | .call x => x.wf | .callr x => x.wf | .ret x => x.wf | .loop x => x.wf | .loopi x => x.wf
  | .pand x => x.wf | .por x => x.wf | .pxor x => x.wf | .pnot x => x.wfNot | .pmov x => x.wfMov
  | .wait x => x.wf | .waitQ x => x.wf | .fset x => x.wf | .finc x => x.wf | .fclr x => x.wf | .fget x => x.wfGet | .eseq x => x.wf
  | .liveNone g => g.okNs | .liveAll g => g.okNs | .liveS x => x.wf | .liveT x => x.wf | .liveR x => x.wf | .liveRclr g => g.okNs
  | .endCtx x => x.wf
  | .mld x => x.wf [.f32] 0x1 true true false | .mldsp x => x.wfSp | .mstr x => x.wf [.f32] 0x19 true true true | .mstrr x => x.wfStrr
  | .mzero x => x.wf [.f32] 0x1 true true false | .mdrain x => x.wf [.f32, .f16, .bf16] 0x1E03 true true true
  | .mcfg x => x.wf [.f32] 0x1 true false false | .mpip x => x.wf [.f32] 0x3 true false false | .mabort x => x.wfAbort
  | .chbind x => x.wf [.f32, .f16, .bf16] 0x1FC0 true true true | .chkv x => x.wf [.f32] 0 true true true
  | .chlink x => x.wf [.f32] 0 true true true | .chmask x => x.wf [.f32] 0 true false false | .chfin x => x.wf [.f32] 0x1 false false false
  | .chsave x => x.wf [.f32] 0x3 true false false | .chrest x => x.wf [.f32] 0x2 true false false | .chstat x => x.wf
  | .chdrop x => x.wf [.f32] 0 false false false
  | .xcopy x => x.wf allTy 0xBC true true true | .xlist x => x.wf [.f32] 0x1E00 true true true | .xget x => x.wfMove
  | .xput x => x.wfMove | .xfill x => x.wf [.f32] 0x80 true true true
  | .xtrans x => x.wf allTy 0x80 true true true && x.t.sw != 4 | .xpub x => x.wf [.f32] 0 true false false
  | .xmap x => x.wf [.f32] 0 true false false | .xmcast x => x.wf [.f32] 0x80 true true true
  | .xextAdd x => x.wf [.f32] 0 true true false | .xextRelease _ => false
  | .rld x => x.wf [.f32] 0x1E00 true true true | .rst x => x.wf [.f32] 0x1E00 true true true
  | .ratomAdd x => x.wfRatom 0 tyIN true false | .ratomAnd x => x.wfRatom 1 tyIN true false | .ratomOr x => x.wfRatom 2 tyIN true false
  | .ratomXor x => x.wfRatom 3 tyIN true false | .ratomMin x => x.wfRatom 4 [.i32] true false | .ratomMax x => x.wfRatom 5 [.i32] true false
  | .ratomMinn x => x.wfRatom 6 [.n32] true false | .ratomMaxn x => x.wfRatom 7 [.n32] true false
  | .ratomXchg x => x.wfRatom 8 [.i32, .n32, .f32] true false | .ratomCas x => x.wfRatom 9 tyIN true true
  | .ratomFadd x => x.wfRatom 10 [.f32] false false | .ratomFmax x => x.wfRatom 11 [.f32] false false
  | .renq x => x.wf [.f32] 0 true true false | .rflagSet x => x.wfRflag 0 true | .rflagInc x => x.wfRflag 1 true
  | .rflagClr x => x.wfRflag 2 false | .lbufBind x => x.wfSub 0xF 0 true true false | .lbufRelease x => x.wfSub 0xF 1 true false false
  | .cmset x => x.wfSub 0x1E0F 0 true true true | .cmsetClose x => x.wfSub 0xF 1 true false false
  | .cmheld x => x.wfSub 0x1E0F 0 true true true | .cmheldClr x => x.wfSub 0xF 1 true false false
  | .cmdec x => x.wfSub 0xF 0 true true false | .cmdecRel x => x.wfSub 0xF 1 true false false
  | .cmgath x => x.wf [.f32] 0x1E00 true true true | .cmshuf x => x.wf [.f32] 0x1E00 true true true
  | .cmpol x => x.wf [.f32] 0 true false false | .cmstat x => x.wf [.f32] 0x1 true true false
  | .nest x => x.wfTok 0 false | .spawn x => x.wf [.f32] 0 true true false | .join x => x.wfTok 0x1 true
  | .ecinit x => x.wf [.f32] 0 true true false | .ecdone x => x.wf [.f32] 0 true true false | .egput x => x.wf [.f32] 0 true true false
  | .egrel x => x.wf [.f32] 0 true true false | .egdrop x => x.wf [.f32] 0 true true false
  | .prio x => x.wfPrio | .yield x => x.wfYield | .trap x => x.wf | .rte g => g.okNs | .rteDrop g => g.okNs | .sysrd x => x.wf
  | .syswr x => x.wf | .ctxsave x => x.wf false | .ctxrest x => x.wf true | .dump x => x.wf false | .bkpt x => x.wf | .trace x => x.wf
  | .jrd x => x.wfJrd
  | .vadd x => x.wf | .vsub x => x.wf | .vmul x => x.wf | .vfma x => x.wf | .vfms x => x.wf | .vmin x => x.wf | .vmax x => x.wf
  | .vabs x => x.wfAbs | .vneg x => x.wfAbs | .vand x => x.wf0 | .vor x => x.wf0 | .vxor x => x.wf0 | .vshl x => x.wfSh | .vshr x => x.wfSh
  | .vsra x => x.wfSh | .vcmp x => x.wf | .vsel x => x.wf | .vmov x => x.wf | .vbcast x => x.wf | .vlane x => x.wf | .viota x => x.wf
  | .vcvt x => x.wf | .vquant x => x.wf | .vdequant x => x.wf | .vwadd x => x.wfWide | .vwmul x => x.wfWide | .vscan x => x.wf
  | .vred x => x.wf | .vperm x => x.wf | .vrot x => x.wf | .vshuf x => x.wf | .vpopc x => x.wfN | .vld x => x.wf true | .vst x => x.wf false
  | .vldt x => x.wfT true | .vstt x => x.wfT false | .vldm x => x.wfMask true | .vstm x => x.wfMask false
  | .vexp2 x => x.wf | .vlog2 x => x.wf | .vrcp x => x.wf | .vrsqrt x => x.wf | .vtanh x => x.wf | .vsigm x => x.wf
  | .vtbl x => x.wfN | .vtbld x => x.wf | .vtbsw g => g.okNs | .vsmax x => x.wf | .vsexp x => x.wf | .vsdiv x => x.wf | .vmstat x => x.wf
  | .vpart x => x.wf | .vgath x => x.wf true | .vscat x => x.wf false
  -- an event stands in no bundle
  | .formatRegWrite _ => false | .trctlWrite _ => false | .bpcWrite _ => false | .xstatRead _ => false
  | .fistatRead _ => false | .resultLand _ => false | .ibufFill _ => false | .checkedModeEval _ => false
  | .waitEnd _ => false | .waitTimeout _ => false | .engineWaitSatisfied _ => false | .flagPerform _ => false
  | .scoreboardRelease _ => false | .meRowCommit _ => false | .meCommandComplete _ => false | .mstrrRowArrive _ => false
  | .chainBlockCommit _ => false | .chainCommandComplete _ => false | .xeGranuleArrive _ => false | .xeUnitCommit _ => false
  | .xeCommandComplete _ => false | .publishSwap _ => false | .windowUnitLand _ => false | .trackSpace _ => false
  | .trackLapBoundary => false | .trackDataArrive _ => false | .refreshRetry _ _ => false | .pageWalkDone _ => false
  | .ldgReturn _ => false | .stgAck _ => false | .globalAtomicReturn _ => false | .fiRequestArrive _ => false
  | .fiResponseArrive _ => false | .packetTrim _ => false | .resendRequest _ => false | .resendBackoffExpiry _ => false
  | .flitCrcFail _ => false | .fibreFail _ => false | .spareSwitchDone _ => false | .fabricTimeout _ => false
  | .readyNotice _ => false | .replyRelease _ => false | .linkUnitArrive _ => false | .renqArrive _ => false
  | .inboxDequeue _ _ => false | .cmsetMatch _ _ => false | .codedBarrier _ => false | .announceStore _ => false
  | .routerFork _ _ => false | .forkSplit _ => false | .forkCopyArrive _ => false | .fallbackRequest _ => false
  | .codedBlockArrive _ => false | .blockAckArrive _ => false | .codedSettle _ => false | .codedTimeout _ => false
  | .tailWrite _ => false | .launchTake => false | .nestGrant _ _ => false | .nestComplete _ => false
  | .contextRetire _ => false | .joinReady _ _ => false | .releasePerform _ => false | .schedLapBoundary => false
  | .corePlace _ => false | .lendMessage _ _ => false | .ageExpiry _ => false | .preemptRequest _ => false
  | .preemptTake _ => false | .contextSaved _ => false | .contextResume _ => false | .engineFault _ => false
  | .trapTake _ => false | .breakpointHit _ => false | .droopDetect _ _ => false | .tqcmdResume _ _ => false
  | .tqcmdResumeDrop _ _ => false | .tqcmdKill _ _ => false | .tqcmdRelease _ _ => false | .frst _ => false
  | .flrDrainDone _ => false | .inval _ => false | .invalComplete _ => false | .limitsWrite _ => false
  | .ownerMapWrite _ => false | .torusWrite _ => false | .pboxWrite _ => false | .phltClear _ _ => false
  | .phltSet _ _ => false | .flagWindowSet _ => false | .flagWindowInc _ => false | .flagWindowClr _ => false
  | .lqWrite _ => false | .eqWrite _ => false | .grantWrite _ => false | .eqctlWrite _ => false | .headWrite _ => false
  | .egressSlotRead _ _ _ => false | .key _ => false | .admitImg _ _ => false | .withdraw _ => false | .attest _ => false
  | .extent _ _ => false | .mailboxDone _ => false | .firmwareExtentAnswer _ _ => false | .poolLinkDown _ => false
  | .watchdogWrite _ => false | .watchdogExpiry => false | .powerGood => false | .thermalThrottle _ _ => false
  | .trip => false | .tripRelease => false | .clusterWake _ => false | .patrolScrub _ => false | .registerWrite _ => false
  | .throttleRelease _ => false | .poolLinkUp _ => false | .egputTimeout _ => false | .announcementWithdraw _ _ => false

end Sys2Proof
end

