-- ==== Sys2Proof/Decode.lean ====
section
/-! DEFINITION. Decoding of bundles and syllables (R52 to R67): total on any bytes, rejecting by name; and after it the
encoder, written from the same encoding tables. A syllable is read as a natural number below 2^64. -/

namespace Sys2Proof

/-- Why a syllable is undefined (R63). -/
inductive Reject where
  | opcode | guard | type | modifier | operand | combination | movlUpper
  deriving DecidableEq, Repr

abbrev Dec := Except Reject

/- Fields (R54, R56). -/
def fOp (w : Nat) : Nat := bits w 49 10
def fTy (w : Nat) : Nat := bits w 45 4
def fMd (w : Nat) : Nat := bits w 32 13
def fDst (w : Nat) : Nat := bits w 24 8
def fA (w : Nat) : Nat := bits w 16 8
def fB (w : Nat) : Nat := bits w 8 8
def fC (w : Nat) : Nat := bits w 0 8
def fI16 (w : Nat) : Nat := bits w 0 16
def fI32 (w : Nat) : Nat := bits w 0 32
def fDstI (w : Nat) : Nat := bits w 37 8
def fMdI (w : Nat) : Nat := bits w 32 5

/-- The common fields sq, pred, neg (R54). -/
def dGuard (w : Nat) : Guard := { sq := bit w 63, pred := Fin.ofNat 8 (bits w 60 3), neg := bit w 59 }

/-- A field that must be zero. -/
def zero (x : Nat) : Dec Unit := if x == 0 then .ok () else .error .modifier
/-- An operand field that the form does not use (R56). -/
def unused (x : Nat) : Dec Unit := if x == 0 then .ok () else .error .operand

/-- The element types in the order of their codes (R23). -/
def tyList : List ETy := [.f32, .f16, .bf16, .f8a, .f8b, .lg6, .i32, .n32, .i8, .n8, .i4, .n4]
def dTyC (c : Nat) : Dec ETy :=
  match tyList[c]? with
  | some t => .ok t
  | none => .error .type
def dTy (w : Nat) : Dec ETy := dTyC (fTy w)
def ty0 (w : Nat) : Dec Unit := if fTy w == 0 then .ok () else .error .type
def dRm (c : Nat) : Rm :=
  match c with
  | 0 => .rne | 1 => .rtz | 2 => .rup | _ => .rdn
def spList : List Space := [.g, .wb, .ab, .cb, .jb]
def dSp (c : Nat) : Dec Space :=
  match spList[c]? with
  | some t => .ok t
  | none => .error .modifier

/- Operands (R59, R60). -/
def dSSrc (c : Nat) : Dec SSrc :=
  if c < 0x40 then .ok (.s (Fin.ofNat 64 c))
  else if c < 0x48 then .ok (.o (Fin.ofNat 8 (c - 0x40)))
  else if c < 0x4C then .ok (.lx (Fin.ofNat 4 (c - 0x48)))
  else if 0x60 ≤ c ∧ c < 0x80 then .ok (.imm (BitVec.ofNat 5 (c - 0x60)))
  else .error .operand
def dSDst (c : Nat) : Dec SDst :=
  if c < 0x40 then .ok (.s (Fin.ofNat 64 c))
  else if c < 0x48 then .ok (.o (Fin.ofNat 8 (c - 0x40)))
  else .error .operand
def dPred (c : Nat) : Dec (Fin 8) :=
  if 0x58 ≤ c ∧ c < 0x60 then .ok (Fin.ofNat 8 (c - 0x58)) else .error .operand
def dCDst (c : Nat) : Dec CDst :=
  if 0x58 ≤ c ∧ c < 0x60 then .ok (.p (Fin.ofNat 8 (c - 0x58)))
  else do let d ← dSDst c; .ok (.sc d)
def dPSrc (c : Nat) : Dec PSrc :=
  if 0x58 ≤ c ∧ c < 0x60 then .ok (.p (Fin.ofNat 8 (c - 0x58)))
  else do let d ← dSSrc c; .ok (.sc d)
def dRow (c : Nat) : Dec (Fin 128) :=
  if 0x80 ≤ c then .ok (Fin.ofNat 128 (c - 0x80)) else .error .operand
def dRSrc (c : Nat) : Dec RSrc :=
  if 0x80 ≤ c then .ok (.row (Fin.ofNat 128 (c - 0x80)))
  else do let d ← dSSrc c; .ok (.sc d)
def dORow (c : Nat) : Dec (Option (Fin 128)) :=
  if c == 0 then .ok none else do let r ← dRow c; .ok (some r)
def dTok (c : Nat) : Dec Tok := if c < 0x40 then .ok (Fin.ofNat 64 c) else .error .operand

/- Shapes of the A and M slots (R85, R95 to R98, R110, R112, R114, R146, R154, R157, R169). -/
def pBin (s : Slot) (k : Bin → Instr) (w : Nat) : Dec Instr := do
  ty0 w; zero (fMd w - 512 * bits w 41 1); unused (fC w)
  let d ← dSDst (fDst w); let a ← dSSrc (fA w); let b ← dSSrc (fB w)
  .ok (k { g := dGuard w, slot := s, d, a, b, sat := bit w 41 })
def pUna (s : Slot) (k : Una → Instr) (w : Nat) : Dec Instr := do
  ty0 w; zero (fMd w - 512 * bits w 41 1); unused (fB w); unused (fC w)
  let d ← dSDst (fDst w); let a ← dSSrc (fA w)
  .ok (k { g := dGuard w, slot := s, d, a, sat := bit w 41 })
def pBfx (s : Slot) (k : Bfx → Instr) (w : Nat) : Dec Instr := do
  ty0 w; unused (fB w); unused (fC w)
  let d ← dSDst (fDst w); let a ← dSSrc (fA w)
  .ok (k { g := dGuard w, slot := s, d, a, pos := Fin.ofNat 64 (bits w 39 6), len := Fin.ofNat 128 (bits w 32 7) })
def pBfi (s : Slot) (w : Nat) : Dec Instr := do
  ty0 w; unused (fC w)
  let d ← dSDst (fDst w); let a ← dSSrc (fA w); let b ← dSSrc (fB w)
  .ok (.bfi { g := dGuard w, slot := s, d, a, b, pos := Fin.ofNat 64 (bits w 39 6), len := Fin.ofNat 128 (bits w 32 7) })
def pSel (s : Slot) (w : Nat) : Dec Instr := do
  ty0 w; zero (fMd w)
  let d ← dSDst (fDst w); let a ← dSSrc (fA w); let b ← dSSrc (fB w); let p ← dPred (fC w)
  .ok (.sel { g := dGuard w, slot := s, d, a, b, p })
def pCmp (s : Slot) (w : Nat) : Dec Instr := do
  ty0 w; zero (bits w 36 9); unused (fC w)
  let d ← dCDst (fDst w); let a ← dSSrc (fA w); let b ← dSSrc (fB w)
  .ok (.cmp { g := dGuard w, slot := s, d, a, b, cond := Fin.ofNat 16 (bits w 32 4) })
def pLea (s : Slot) (w : Nat) : Dec Instr := do
  ty0 w; zero (bits w 36 9)
  let d ← dSDst (fDst w); let a ← dSSrc (fA w); let b ← dSSrc (fB w); let c ← dSSrc (fC w)
  .ok (.lea { g := dGuard w, slot := s, d, a, b, sh := Fin.ofNat 16 (bits w 32 4), c })
def pImm (s : Slot) (k : ImmOp → Instr) (w : Nat) : Dec Instr := do
  ty0 w; zero (bits w 32 4)
  let d ← dSDst (fDstI w)
  .ok (k { g := dGuard w, slot := s, d, zx := bit w 36, imm := BitVec.ofNat 32 (fI32 w) })
def pCmpi (s : Slot) (w : Nat) : Dec Instr := do
  ty0 w
  let a ← dSSrc (fDstI w)
  .ok (.cmpi { g := dGuard w, slot := s, src := a, p := Fin.ofNat 8 (bits w 34 3), cond := Fin.ofNat 4 (bits w 32 2),
               imm := BitVec.ofNat 32 (fI32 w) })
def pFBin (k : FBin → Instr) (w : Nat) : Dec Instr := do
  let t ← dTy w; zero (bits w 32 9); unused (fC w)
  let d ← dSDst (fDst w); let a ← dSSrc (fA w); let b ← dSSrc (fB w)
  .ok (k { g := dGuard w, t, rm := dRm (bits w 43 2), ftz := bit w 42, sat := bit w 41, d, a, b })
def pFTer (w : Nat) : Dec Instr := do
  let t ← dTy w; zero (bits w 32 9)
  let d ← dSDst (fDst w); let a ← dSSrc (fA w); let b ← dSSrc (fB w); let c ← dSSrc (fC w)
  .ok (.ffma { g := dGuard w, t, rm := dRm (bits w 43 2), ftz := bit w 42, sat := bit w 41, d, a, b, c })
def pFUna (k : FUna → Instr) (w : Nat) : Dec Instr := do
  let t ← dTy w; zero (bits w 32 9); unused (fB w); unused (fC w)
  let d ← dSDst (fDst w); let a ← dSSrc (fA w)
  .ok (k { g := dGuard w, t, rm := dRm (bits w 43 2), ftz := bit w 42, sat := bit w 41, d, a })
def pFCmp (w : Nat) : Dec Instr := do
  let t ← dTy w; zero (bits w 43 2); zero (bits w 35 7); unused (fC w)
  let d ← dCDst (fDst w); let a ← dSSrc (fA w); let b ← dSSrc (fB w)
  .ok (.fcmp { g := dGuard w, t, ftz := bit w 42, cond := Fin.ofNat 8 (bits w 32 3), d, a, b })
def pFCvt (w : Nat) : Dec Instr := do
  let t ← dTy w; let src ← dTyC (bits w 36 4); zero (bit w 40).toNat; zero (bits w 32 4); unused (fB w); unused (fC w)
  let d ← dSDst (fDst w); let a ← dSSrc (fA w)
  .ok (.fcvt { g := dGuard w, t, src, rm := dRm (bits w 43 2), ftz := bit w 42, sat := bit w 41, d, a })
def pLoad (k : Load → Instr) (w : Nat) : Dec Instr := do
  let t ← dTy w; let sp ← dSp (bits w 38 3); zero (bits w 32 4)
  let d ← dSDst (fDst w); let a ← dSSrc (fA w)
  .ok (k { g := dGuard w, t, dw := bit w 37, pi := bit w 36, oc := Fin.ofNat 16 (bits w 41 4), sp, d, a,
           off := BitVec.ofNat 16 (fI16 w) })
def pStore (k : Store → Instr) (w : Nat) : Dec Instr := do
  let t ← dTy w; let sp ← dSp (bits w 38 3); zero (bits w 32 4)
  let d ← dSSrc (fDst w); let a ← dSSrc (fA w)
  .ok (k { g := dGuard w, t, dw := bit w 37, pi := bit w 36, oc := Fin.ofNat 16 (bits w 41 4), sp, d, a,
           off := BitVec.ofNat 16 (fI16 w) })
def pGLoad (k : GLoad → Instr) (w : Nat) : Dec Instr := do
  let t ← dTy w; zero (bits w 38 3); zero (bits w 32 5)
  let tok ← dTok (fDst w); let a ← dSSrc (fA w)
  .ok (k { g := dGuard w, t, dw := bit w 37, oc := Fin.ofNat 16 (bits w 41 4), tok, a, off := BitVec.ofNat 16 (fI16 w) })
def pAtom (k : Atom → Instr) (w : Nat) : Dec Instr := do
  let t ← dTy w; let sp ← dSp (bits w 38 3); zero (bits w 32 5)
  let tok ← dTok (fDst w); let a ← dSSrc (fA w); let b ← dSSrc (fB w); let c ← dSSrc (fC w)
  .ok (k { g := dGuard w, t, dw := bit w 37, oc := Fin.ofNat 16 (bits w 41 4), sp, tok, a, b, c })
def pAtom2 (k : Atom → Instr) (w : Nat) : Dec Instr := do unused (fC w); pAtom k w
def pMulti (k : Multi → Instr) (w : Nat) : Dec Instr := do
  ty0 w; zero (bits w 39 6); unused (fDst w); unused (fB w); unused (fC w)
  .ok (k { g := dGuard w, f := Fin.ofNat 256 (fA w), n := Fin.ofNat 128 (bits w 32 7) })
def pFence (w : Nat) : Dec Instr := do
  ty0 w; unused (fDstI w); zero (bits w 16 16)
  .ok (.fence { g := dGuard w, scope := Fin.ofNat 8 (bits w 34 3), order := Fin.ofNat 4 (bits w 32 2),
                mask := BitVec.ofNat 16 (fI16 w) })
def pBr (w : Nat) : Dec Instr := do
  ty0 w; unused (fDstI w); zero (fMdI w)
  .ok (.br { g := dGuard w, disp := BitVec.ofNat 32 (fI32 w) })
def pJr (k : Jr → Instr) (w : Nat) : Dec Instr := do
  ty0 w; zero (fMd w); unused (fDst w); unused (fB w); unused (fC w)
  let a ← dSSrc (fA w)
  .ok (k { g := dGuard w, a })
def pCall (w : Nat) : Dec Instr := do
  ty0 w; zero (fMdI w)
  let d ← dSDst (fDstI w)
  .ok (.call { g := dGuard w, link := d, disp := BitVec.ofNat 32 (fI32 w) })
def pCallr (w : Nat) : Dec Instr := do
  ty0 w; zero (fMd w); unused (fB w); unused (fC w)
  let d ← dSDst (fDst w); let a ← dSSrc (fA w)
  .ok (.callr { g := dGuard w, link := d, a })
def pLoop (w : Nat) : Dec Instr := do
  ty0 w; zero (fMd w); unused (fDst w)
  let a ← dSSrc (fA w)
  .ok (.loop { g := dGuard w, a, disp := BitVec.ofNat 16 (fI16 w) })
def pLoopi (w : Nat) : Dec Instr := do
  ty0 w; zero (fMd w)
  .ok (.loopi { g := dGuard w, n := BitVec.ofNat 16 (bits w 16 16), disp := BitVec.ofNat 16 (fI16 w) })
def pPBin (k : PBin → Instr) (w : Nat) : Dec Instr := do
  ty0 w; zero (bits w 34 11); unused (fC w)
  let d ← dPred (fDst w); let a ← dPred (fA w); let b ← dPred (fB w)
  .ok (k { g := dGuard w, na := bit w 32, nb := bit w 33, d, a, b })
def pPUna (k : PUna → Instr) (w : Nat) : Dec Instr := do
  ty0 w; zero (bits w 33 12); unused (fB w); unused (fC w)
  let d ← dPred (fDst w); let a ← dPSrc (fA w)
  .ok (k { g := dGuard w, na := bit w 32, d, a })

/- Shapes of the V slot (R181, R200, R210, R219 to R221, R224, R229, R230). -/
def pVBin (k : VBin → Instr) (w : Nat) : Dec Instr := do
  let t ← dTy w; zero (bits w 35 6); unused (fC w)
  let d ← dRow (fDst w); let a ← dRow (fA w); let b ← dRSrc (fB w)
  .ok (k { g := dGuard w, t, rm := dRm (bits w 43 2), ftz := bit w 42, sat := bit w 41, part := Fin.ofNat 8 (bits w 32 3), d, a, b })
def pVTer (k : VTer → Instr) (w : Nat) : Dec Instr := do
  let t ← dTy w; zero (bits w 32 9)
  let d ← dRow (fDst w); let a ← dRow (fA w); let b ← dRSrc (fB w); let c ← dRow (fC w)
  .ok (k { g := dGuard w, t, rm := dRm (bits w 43 2), ftz := bit w 42, sat := bit w 41, d, a, b, c })
def pVUna (k : VUna → Instr) (w : Nat) : Dec Instr := do
  let t ← dTy w; zero (bits w 42 3); zero (bits w 32 9); unused (fB w); unused (fC w)
  let d ← dRow (fDst w); let a ← dRow (fA w)
  .ok (k { g := dGuard w, t, sat := bit w 41, d, a })
def pVLog (k : VLog → Instr) (w : Nat) : Dec Instr := do
  let t ← dTy w; zero (fMd w); unused (fC w)
  let d ← dRow (fDst w); let a ← dRow (fA w); let b ← dRSrc (fB w)
  .ok (k { g := dGuard w, t, d, a, b })
def pVCmp (w : Nat) : Dec Instr := do
  let t ← dTy w; zero (bits w 36 9); unused (fC w)
  let d ← dRow (fDst w); let a ← dRow (fA w); let b ← dRSrc (fB w)
  .ok (.vcmp { g := dGuard w, t, cond := Fin.ofNat 16 (bits w 32 4), d, a, b })
def pVSel (w : Nat) : Dec Instr := do
  let t ← dTy w; zero (fMd w)
  let d ← dRow (fDst w); let a ← dRow (fA w); let b ← dRSrc (fB w); let c ← dRow (fC w)
  .ok (.vsel { g := dGuard w, t, d, a, b, c })
def pVMov (w : Nat) : Dec Instr := do
  let t ← dTy w; zero (fMd w); unused (fB w); unused (fC w)
  let d ← dRow (fDst w); let a ← dRSrc (fA w)
  .ok (.vmov { g := dGuard w, t, d, a })
def pVRowS (k : VRowS → Instr) (w : Nat) : Dec Instr := do
  let t ← dTy w; zero (fMd w); unused (fC w)
  let d ← dRow (fDst w); let a ← dRow (fA w); let b ← dSSrc (fB w)
  .ok (k { g := dGuard w, t, d, a, b })
def pVLane (w : Nat) : Dec Instr := do
  let t ← dTy w; zero (fMd w); unused (fC w)
  let d ← dSDst (fDst w); let a ← dRow (fA w); let b ← dSSrc (fB w)
  .ok (.vlane { g := dGuard w, t, d, a, b })
def pVIota (w : Nat) : Dec Instr := do
  let t ← dTy w; zero (fMd w); unused (fB w); unused (fC w)
  let d ← dRow (fDst w); let a ← dSSrc (fA w)
  .ok (.viota { g := dGuard w, t, d, a })
def pVCvt (w : Nat) : Dec Instr := do
  let t ← dTy w; let src ← dTyC (bits w 36 4); zero (bit w 40).toNat; zero (bit w 35).toNat; unused (fB w)
  let d ← dRow (fDst w); let a ← dRow (fA w); let c ← dORow (fC w)
  .ok (.vcvt { g := dGuard w, t, src, rm := dRm (bits w 43 2), ftz := bit w 42, sat := bit w 41,
               part := Fin.ofNat 8 (bits w 32 3), d, a, c })
def pVQuant (w : Nat) : Dec Instr := do
  let t ← dTy w; zero (bit w 41).toNat; zero (1 - bits w 40 1); zero (bits w 35 5)
  let d ← dRow (fDst w); let b ← dSDst (fB w); let a ← dRow (fA w); let c ← dRow (fC w)
  .ok (.vquant { g := dGuard w, t, rm := dRm (bits w 43 2), ftz := bit w 42, part := Fin.ofNat 8 (bits w 32 3), d, a, b, c })
def pVDeq (w : Nat) : Dec Instr := do
  let t ← dTy w; zero (1 - bits w 40 1); zero (bits w 35 5); unused (fC w)
  let d ← dRow (fDst w); let a ← dRow (fA w); let b ← dSSrc (fB w)
  .ok (.vdequant { g := dGuard w, t, rm := dRm (bits w 43 2), ftz := bit w 42, sat := bit w 41,
                   part := Fin.ofNat 8 (bits w 32 3), d, a, b })
def pVScan (w : Nat) : Dec Instr := do
  let t ← dTy w; zero (bits w 36 9); unused (fB w); unused (fC w)
  let d ← dRow (fDst w); let a ← dRow (fA w)
  .ok (.vscan { g := dGuard w, t, op := Fin.ofNat 16 (bits w 32 4), d, a })
def pVRed (w : Nat) : Dec Instr := do
  let t ← dTy w; zero (bits w 36 9); unused (fB w); unused (fC w)
  let d ← dSDst (fDst w); let a ← dRow (fA w)
  .ok (.vred { g := dGuard w, t, op := Fin.ofNat 16 (bits w 32 4), d, a })
def pVPerm (w : Nat) : Dec Instr := do
  ty0 w; zero (fMd w)
  let d ← dRow (fDst w); let a ← dRow (fA w); let b ← dRSrc (fB w); let c ← dORow (fC w)
  .ok (.vperm { g := dGuard w, d, a, b, c })
def pVShuf (w : Nat) : Dec Instr := do
  let t ← dTy w; zero (bits w 36 9); unused (fC w)
  let d ← dRow (fDst w); let a ← dRow (fA w); let b ← dORow (fB w)
  .ok (.vshuf { g := dGuard w, t, pat := Fin.ofNat 16 (bits w 32 4), d, a, b })
def pVMem (k : VMem → Instr) (w : Nat) : Dec Instr := do
  let t ← dTy w; let sp ← dSp (bits w 38 3); zero (bit w 37).toNat
  let d ← dRow (fDst w); let a ← dSSrc (fA w)
  .ok (k { g := dGuard w, t, oc := Fin.ofNat 16 (bits w 41 4), sp, pi := bit w 36, acc := Fin.ofNat 64 (bits w 32 4), d, a,
           off := BitVec.ofNat 16 (fI16 w) })
def pVMemM (k : VMem → Instr) (w : Nat) : Dec Instr := do
  let t ← dTy w; let sp ← dSp (bits w 38 3)
  let d ← dRow (fDst w); let a ← dSSrc (fA w)
  .ok (k { g := dGuard w, t, oc := Fin.ofNat 16 (bits w 41 4), sp, pi := false, acc := Fin.ofNat 64 (bits w 32 6), d, a,
           off := BitVec.ofNat 16 (fI16 w) })
def pVFn (k : VFn → Instr) (w : Nat) : Dec Instr := do
  ty0 w; zero (bits w 32 9); unused (fB w); unused (fC w)
  let d ← dRow (fDst w); let a ← dRSrc (fA w)
  .ok (k { g := dGuard w, rm := dRm (bits w 43 2), ftz := bit w 42, sat := bit w 41, d, a })
def pVTbld (w : Nat) : Dec Instr := do
  ty0 w; zero (bits w 33 12); unused (fDst w); unused (fB w); unused (fC w)
  let a ← dRow (fA w)
  .ok (.vtbld { g := dGuard w, part := Fin.ofNat 2 (bits w 32 1), a })
def pVTbsw (w : Nat) : Dec Instr := do
  zero (bits w 0 49)
  .ok (.vtbsw (dGuard w))
/-- rm, sat, b32, mk, m of R224. -/
def dMask (w : Nat) : Dec (Option (Fin 64)) := do
  zero (bits w 43 2); zero (bits w 40 2); zero (bit w 38).toNat
  if bit w 39 then .ok (some (Fin.ofNat 64 (bits w 32 6))) else do zero (bits w 32 6); .ok none
def pVFold (k : VFold → Instr) (w : Nat) : Dec Instr := do
  ty0 w; let mask ← dMask w; unused (fC w)
  let d ← dSDst (fDst w); let a ← dRow (fA w); let b ← dSSrc (fB w)
  .ok (k { g := dGuard w, ftz := bit w 42, mask, d, a, b })
def pVSexp (w : Nat) : Dec Instr := do
  ty0 w; let mask ← dMask w
  let d ← dRow (fDst w); let a ← dSDst (fA w); let b ← dSSrc (fB w); let c ← dSSrc (fC w)
  .ok (.vsexp { g := dGuard w, ftz := bit w 42, mask, d, a, b, c })
def pVSdiv (w : Nat) : Dec Instr := do
  ty0 w; zero (bits w 43 2); zero (bits w 32 10); unused (fC w)
  let d ← dRow (fDst w); let a ← dRow (fA w); let b ← dSSrc (fB w)
  .ok (.vsdiv { g := dGuard w, ftz := bit w 42, d, a, b })
def pVPart (w : Nat) : Dec Instr := do
  (if fTy w == 7 then .ok () else .error .type); zero (bits w 36 9); unused (fC w)
  let d ← dRow (fDst w); let a ← dRow (fA w); let b ← dSDst (fB w)
  .ok (.vpart { g := dGuard w, key := Fin.ofNat 16 (bits w 32 4), d, a, b })
def pVGs (k : VGs → Instr) (w : Nat) : Dec Instr := do
  let t ← dTy w; let sp ← dSp (bits w 38 3); zero (bits w 32 6)
  let d ← dRow (fDst w); let a ← dSSrc (fA w); let b ← dRow (fB w); let c ← dSSrc (fC w)
  .ok (k { g := dGuard w, t, oc := Fin.ofNat 16 (bits w 41 4), sp, d, a, b, c })

/- Shapes of the E slot (R116, R118, R120, R121, R125, R126). -/
/-- `wait`: with q = 0 the sequencer form, with q = 1..4 the engine-queue form (b = 0x00, tt = 0). -/
def pWait (w : Nat) : Dec Instr := do
  ty0 w; zero (bits w 39 6); unused (fC w)
  let a ← dTok (fA w)
  if bits w 32 3 == 0 then do
    let d ← dSDst (fDst w); let b ← dSSrc (fB w)
    .ok (.wait { g := dGuard w, tt := bit w 38, all := bit w 37, n := Fin.ofNat 4 (bits w 35 2), d, a, b })
  else do
    zero (bit w 38).toNat; unused (fB w)
    let tok ← dTok (fDst w)
    .ok (.waitQ { g := dGuard w, q := Fin.ofNat 8 (bits w 32 3), all := bit w 37, n := Fin.ofNat 4 (bits w 35 2), tok, a })
def pFlagOp (k : FlagOp → Instr) (w : Nat) : Dec Instr := do
  ty0 w; zero (bits w 35 10); zero (bits w 9 7)
  let tok ← dTok (fDst w); let a ← dSSrc (fA w)
  .ok (k { g := dGuard w, q := Fin.ofNat 8 (bits w 32 3), tok, a, flag := Fin.ofNat 512 (bits w 0 9) })
def pFlagNo (k : FlagNo → Instr) (w : Nat) : Dec Instr := do
  ty0 w; zero (bits w 35 10); zero (bits w 9 7); unused (fA w)
  let tok ← dTok (fDst w)
  .ok (k { g := dGuard w, q := Fin.ofNat 8 (bits w 32 3), tok, flag := Fin.ofNat 512 (bits w 0 9) })
def pEseq (w : Nat) : Dec Instr := do
  ty0 w; zero (bits w 35 10); unused (fA w); unused (fB w); unused (fC w)
  let d ← dSDst (fDst w)
  .ok (.eseq { g := dGuard w, sel := Fin.ofNat 8 (bits w 32 3), d })
/-- `live`: the kind in bits 34:32 chooses the row of the table (R125). -/
def pLive (w : Nat) : Dec Instr := do
  ty0 w; zero (bits w 41 4); zero (bits w 35 3); unused (fDst w); unused (fC w)
  let sp ← dSp (bits w 38 3)
  let kind := bits w 32 3
  if kind == 4 then do
    let a ← dSSrc (fA w); let b ← dSSrc (fB w)
    .ok (.liveR { g := dGuard w, sp, a, b })
  else do
    zero (bits w 38 3); unused (fB w)
    if kind == 2 then do let a ← dSSrc (fA w); .ok (.liveS { g := dGuard w, a })
    else if kind == 3 then do let a ← dSSrc (fA w); .ok (.liveT { g := dGuard w, a })
    else do
      unused (fA w)
      if kind == 0 then .ok (.liveNone (dGuard w))
      else if kind == 1 then .ok (.liveAll (dGuard w))
      else if kind == 5 then .ok (.liveRclr (dGuard w))
      else .error .modifier
def pEnd (w : Nat) : Dec Instr := do
  ty0 w; zero (fMd w); unused (fDst w); unused (fB w); unused (fC w)
  let a ← dSSrc (fA w)
  .ok (.endCtx { g := dGuard w, a })

/-- A slot's opcode map: opcode and the reader of its entry. -/
abbrev OpMap := List (Nat × (Nat → Dec Instr))

/-- Opcodes 0x040-0x058 and 0x060-0x065 of the A and M maps (R64, R65). -/
def mapAM (s : Slot) : OpMap :=
  [(0x040, pBin s .add), (0x041, pBin s .sub), (0x042, pUna s .neg), (0x043, pBin s .and), (0x044, pBin s .or),
   (0x045, pBin s .xor), (0x046, pBin s .andn), (0x047, pBin s .shl), (0x048, pBin s .shr), (0x049, pBin s .sra),
   (0x04A, pBin s .rotl), (0x04B, pUna s .clz), (0x04C, pUna s .ctz), (0x04D, pUna s .popc), (0x04E, pBfx s .bfx),
   (0x04F, pBfx s .bfxn), (0x050, pBfi s), (0x051, pBin s .min), (0x052, pBin s .max), (0x053, pBin s .minn),
   (0x054, pBin s .maxn), (0x055, pSel s), (0x056, pCmp s), (0x057, pUna s .mov), (0x058, pLea s),
   (0x060, pImm s .addi), (0x061, pImm s .andi), (0x062, pImm s .ori), (0x063, pImm s .xori), (0x064, pCmpi s),
   (0x065, pImm s .movi)]

/-- The rest of the A map (R64); `movl` (0x070) is read with its bundle (R57). -/
def mapA : OpMap :=
  [(0x200, pBr), (0x201, pJr .jr), (0x202, pCall), (0x203, pCallr), (0x204, pJr .ret), (0x205, pLoop), (0x206, pLoopi),
   (0x210, pPBin .pand), (0x211, pPBin .por), (0x212, pPBin .pxor), (0x213, pPUna .pnot), (0x214, pPUna .pmov)]

/-- The rest of the M map (R65). -/
def mapM : OpMap :=
  [(0x080, pBin .m .mul), (0x081, pBin .m .mulh), (0x082, pBin .m .mulhn), (0x083, pBin .m .div), (0x084, pBin .m .divn),
   (0x085, pBin .m .rem), (0x086, pBin .m .remn),
   (0x0A0, pFBin .fadd), (0x0A1, pFBin .fsub), (0x0A2, pFBin .fmul), (0x0A3, pFTer), (0x0A4, pFBin .fdiv),
   (0x0A5, pFUna .fsqrt), (0x0A6, pFBin .fmin), (0x0A7, pFBin .fmax), (0x0A8, pFCmp), (0x0A9, pFCvt), (0x0AA, pFUna .fclass),
   (0x100, pLoad .ld), (0x101, pLoad .ldn), (0x102, pStore .st), (0x103, pGLoad .ldg), (0x104, pStore .stg), (0x105, pGLoad .prf),
   (0x110, pAtom2 .aadd), (0x111, pAtom2 .aand), (0x112, pAtom2 .aor), (0x113, pAtom2 .axor), (0x114, pAtom2 .amin),
   (0x115, pAtom2 .amax), (0x116, pAtom2 .aminn), (0x117, pAtom2 .amaxn), (0x118, pAtom2 .axchg), (0x119, pAtom .acas),
   (0x11A, pAtom2 .afadd), (0x11B, pAtom2 .afmax),
   (0x120, pMulti .pushm), (0x121, pMulti .popm), (0x130, pFence)]

/-- The V map (R66). -/
def mapV : OpMap :=
  [(0x040, pVBin .vadd), (0x041, pVBin .vsub), (0x042, pVBin .vmul), (0x043, pVTer .vfma), (0x044, pVTer .vfms),
   (0x045, pVBin .vmin), (0x046, pVBin .vmax), (0x047, pVUna .vabs), (0x048, pVUna .vneg),
   (0x050, pVLog .vand), (0x051, pVLog .vor), (0x052, pVLog .vxor), (0x053, pVLog .vshl), (0x054, pVLog .vshr), (0x055, pVLog .vsra),
   (0x060, pVCmp), (0x061, pVSel), (0x062, pVMov), (0x063, pVRowS .vbcast), (0x064, pVLane), (0x065, pVIota),
   (0x070, pVCvt), (0x071, pVQuant), (0x072, pVDeq), (0x073, pVBin .vwadd), (0x074, pVBin .vwmul),
   (0x080, pVScan), (0x081, pVRed), (0x082, pVPerm), (0x083, pVRowS .vrot), (0x084, pVShuf), (0x085, pVUna .vpopc),
   (0x090, pVMem .vld), (0x091, pVMem .vst), (0x092, pVMem .vldt), (0x093, pVMem .vstt), (0x094, pVMemM .vldm), (0x095, pVMemM .vstm),
   (0x0C0, pVFn .vexp2), (0x0C1, pVFn .vlog2), (0x0C2, pVFn .vrcp), (0x0C3, pVFn .vrsqrt), (0x0C4, pVFn .vtanh), (0x0C5, pVFn .vsigm),
   (0x0D0, pVUna .vtbl), (0x0D1, pVTbld), (0x0D2, pVTbsw),
   (0x0E0, pVFold .vsmax), (0x0E1, pVSexp), (0x0E2, pVSdiv), (0x0E3, pVFold .vmstat),
   (0x0F0, pVPart), (0x0F1, pVGs .vgath), (0x0F2, pVGs .vscat)]

/-- A command (R246, R265, R293, R317, R341, R378): type and modifiers are checked by its well-formedness. -/
def pCmd (k : Ecmd → Instr) (w : Nat) : Dec Instr := do
  let t ← dTy w
  let tok ← dTok (fDst w); let a ← dSSrc (fA w); let b ← dSSrc (fB w); let c ← dSSrc (fC w)
  .ok (k { g := dGuard w, t, md := Fin.ofNat 8192 (fMd w), tok, a, b, c })
/-- A command whose constructor bits 35:32 choose. -/
def pSub (ks : List (Ecmd → Instr)) (w : Nat) : Dec Instr :=
  match ks[bits w 32 4]? with
  | some k => pCmd k w
  | none => .error .modifier
def pChStat (w : Nat) : Dec Instr := do
  ty0 w; zero (bits w 34 11)
  let tok ← dTok (fDst w); let ta ← dRow (fA w); let tb ← dRow (fB w); let tc ← dORow (fC w)
  .ok (.chstat { g := dGuard w, sel := Fin.ofNat 4 (bits w 32 2), tok, ta, tb, tc })
def pEdst (k : Edst → Instr) (w : Nat) : Dec Instr := do
  ty0 w; zero (bits w 33 12); unused (fB w); unused (fC w)
  let d ← dSDst (fDst w); let a ← dSSrc (fA w)
  .ok (k { g := dGuard w, sub := bit w 32, d, a })
def pEimm (k : Eimm → Instr) (w : Nat) : Dec Instr := do
  ty0 w; unused (fDstI w); zero (fMdI w)
  .ok (k { g := dGuard w, imm := BitVec.ofNat 32 (fI32 w) })
/-- `rte` (R422). -/
def pRte (w : Nat) : Dec Instr := do
  ty0 w; zero (bits w 33 12); unused (bits w 0 32)
  .ok (if bit w 32 then .rteDrop (dGuard w) else .rte (dGuard w))
def pSysRd (w : Nat) : Dec Instr := do
  ty0 w; zero (fMd w); unused (fA w)
  let d ← dSDst (fDst w)
  .ok (.sysrd { g := dGuard w, d, reg := BitVec.ofNat 16 (fI16 w) })
def pSysWr (w : Nat) : Dec Instr := do
  ty0 w; zero (fMd w); unused (fDst w)
  let a ← dSSrc (fA w)
  .ok (.syswr { g := dGuard w, a, reg := BitVec.ofNat 16 (fI16 w) })
def pCtxOp (k : CtxOp → Instr) (w : Nat) : Dec Instr := do
  ty0 w; zero (bits w 32 9); unused (fC w)
  let d ← dSDst (fDst w); let a ← dSSrc (fA w); let b ← dSSrc (fB w)
  .ok (k { g := dGuard w, oc := Fin.ofNat 16 (bits w 41 4), d, a, b })
def pTrc (w : Nat) : Dec Instr := do
  ty0 w; zero (fMd w); unused (fDst w); unused (fC w)
  let a ← dSSrc (fA w); let b ← dSSrc (fB w)
  .ok (.trace { g := dGuard w, a, b })

/-- The E map (R67). -/
def mapE : OpMap :=
  [(0x040, pWait), (0x041, pFlagOp .fset), (0x042, pFlagOp .finc), (0x043, pFlagNo .fclr), (0x044, pFlagNo .fget), (0x045, pEseq),
   (0x046, pLive), (0x047, pEnd),
   (0x100, pCmd .mld), (0x101, pCmd .mldsp), (0x102, pCmd .mstr), (0x103, pCmd .mstrr), (0x104, pCmd .mzero), (0x105, pCmd .mdrain),
   (0x106, pCmd .mcfg), (0x107, pCmd .mpip), (0x108, pCmd .mabort),
   (0x120, pCmd .chbind), (0x121, pCmd .chkv), (0x122, pCmd .chlink), (0x123, pCmd .chmask), (0x124, pCmd .chfin), (0x125, pCmd .chsave),
   (0x126, pCmd .chrest), (0x127, pChStat), (0x128, pCmd .chdrop),
   (0x140, pCmd .xcopy), (0x141, pCmd .xlist), (0x142, pCmd .xget), (0x143, pCmd .xput), (0x144, pCmd .xfill), (0x145, pCmd .xtrans),
   (0x146, pCmd .xpub), (0x147, pCmd .xmap), (0x148, pCmd .xmcast), (0x149, pCmd .xextAdd),
   (0x160, pCmd .rld), (0x161, pCmd .rst),
   (0x162, pSub [.ratomAdd, .ratomAnd, .ratomOr, .ratomXor, .ratomMin, .ratomMax, .ratomMinn, .ratomMaxn, .ratomXchg, .ratomCas,
                 .ratomFadd, .ratomFmax]),
   (0x163, pCmd .renq), (0x164, pSub [.rflagSet, .rflagInc, .rflagClr]), (0x165, pSub [.lbufBind, .lbufRelease]),
   (0x180, pSub [.cmset, .cmsetClose]), (0x181, pSub [.cmheld, .cmheldClr]), (0x182, pSub [.cmdec, .cmdecRel]), (0x183, pCmd .cmgath),
   (0x184, pCmd .cmshuf), (0x185, pCmd .cmpol), (0x186, pCmd .cmstat),
   (0x1A0, pCmd .nest), (0x1A1, pCmd .spawn), (0x1A2, pCmd .join), (0x1A3, pCmd .ecinit), (0x1A4, pCmd .ecdone), (0x1A5, pCmd .egput),
   (0x1A6, pCmd .egrel), (0x1A7, pCmd .egdrop), (0x1A8, pEdst .prio), (0x1A9, pEdst .yield),
   (0x1C0, pEimm .trap), (0x1C1, pRte), (0x1C2, pSysRd), (0x1C3, pSysWr), (0x1C4, pCtxOp .ctxsave), (0x1C5, pCtxOp .ctxrest),
   (0x1C6, pCtxOp .dump), (0x1C7, pEimm .bkpt), (0x1C8, pTrc), (0x1C9, pEdst .jrd)]

def lookup (m : OpMap) (op : Nat) : Option (Nat → Dec Instr) :=
  match m with
  | [] => none
  | (o, p) :: r => if o == op then some p else lookup r op

/-- One syllable of a slot with its map (R63): the all-zero syllable is `nop`, and whatever a reader builds must be well
formed. `movl` is read with its bundle. -/
def decodeWith (m : OpMap) (s : Slot) (w : Nat) : Dec Instr :=
  if w == 0 then .ok (.nop s)
  else match lookup m (fOp w) with
    | none => .error .opcode
    | some p => do
      let i ← p w
      if i.wf then .ok i else .error .combination

def amapA : OpMap := mapAM .a ++ mapA
def amapM : OpMap := mapAM .m ++ mapM
def decodeA (w : Nat) : Dec Instr := decodeWith amapA .a w
def decodeM (w : Nat) : Dec Instr := decodeWith amapM .m w
def decodeV (w : Nat) : Dec Instr := decodeWith mapV .v w
def decodeE (w : Nat) : Dec Instr := decodeWith mapE .e w

/-- The A syllable of a `movl` bundle. -/
def isMovl (w : Nat) : Bool := fOp w == 0x070
/-- `movl` with the constant's upper half from the M syllable (R57). -/
def decodeMovl (a m : Nat) : Dec Instr := do
  ty0 a; zero (fMdI a)
  let d ← dSDst (fDstI a)
  let i : Instr := .movl { g := dGuard a, d, imm := BitVec.ofNat 64 (fI32 a + bits m 0 32 * 2 ^ 32) }
  if i.wf then .ok i else .error .combination

/-- The four instructions of a bundle. -/
structure Bundle where
  a : Instr
  m : Instr
  v : Instr
  e : Instr
  deriving DecidableEq, Repr

def atSlot (s : Slot) (d : Dec Instr) : Except (Slot × Reject) Instr :=
  match d with
  | .ok i => .ok i
  | .error r => .error (s, r)

/-- A bundle (R52, R63): slot A in bits 63:0; the lowest failing slot is named. -/
def decodeBundle (w : Nat) : Except (Slot × Reject) Bundle := do
  let wa := bits w 0 64
  let wm := bits w 64 64
  let a ← atSlot .a (if isMovl wa then decodeMovl wa wm else decodeA wa)
  let m ← atSlot .m (if isMovl wa then (if wm / 2 ^ 32 == 0 then .ok (.nop .m) else .error .movlUpper) else decodeM wm)
  let v ← atSlot .v (decodeV (bits w 128 64))
  let e ← atSlot .e (decodeE (bits w 192 64))
  .ok { a, m, v, e }

/-- The slot of a syllable. -/
def Instr.isNop : Instr → Bool
  | .nop _ => true
  | _ => false
/-- The first instruction of a bundle that is no `nop`; `nop` for a bundle of four. -/
def Bundle.first (b : Bundle) : Instr :=
  if !b.a.isNop then b.a else if !b.m.isNop then b.m else if !b.v.isNop then b.v else if !b.e.isNop then b.e else .nop .a

/-- The instruction read from an instruction's bits, numbered as the table numbers them: the bundle whose low bits they
are (a bundle is 256 bits, bit 0 the lowest of its first byte, R52). -/
def decodeTableWord (_nbits w : Nat) : Option Instr :=
  match decodeBundle (w % 2 ^ 256) with
  | .ok b => some b.first
  | .error _ => none

/- The encoder, from the encoding tables of the spec (R54, R56, R58 to R61 and each entry). -/
def eB (b : Bool) (i : Nat) : Nat := if b then 2 ^ i else 0
def eG (g : Guard) : Nat := eB g.sq 63 + g.pred.val * 2 ^ 60 + eB g.neg 59
/-- Format G (R56): four operand fields and the modifiers in bits 44:32. -/
def wG (g : Guard) (op t md d a b c : Nat) : Nat :=
  eG g + op * 2 ^ 49 + t * 2 ^ 45 + md * 2 ^ 32 + d * 2 ^ 24 + a * 2 ^ 16 + b * 2 ^ 8 + c
/-- Format G with an immediate in bits 15:0. -/
def wH (g : Guard) (op t md d a i : Nat) : Nat := eG g + op * 2 ^ 49 + t * 2 ^ 45 + md * 2 ^ 32 + d * 2 ^ 24 + a * 2 ^ 16 + i
/-- Format I (R56): an operand in bits 44:37, modifiers in bits 36:32, an immediate in bits 31:0. -/
def wI (g : Guard) (op d md i : Nat) : Nat := eG g + op * 2 ^ 49 + d * 2 ^ 37 + md * 2 ^ 32 + i
def eT : ETy → Nat
  | .f32 => 0 | .f16 => 1 | .bf16 => 2 | .f8a => 3 | .f8b => 4 | .lg6 => 5 | .i32 => 6 | .n32 => 7 | .i8 => 8 | .n8 => 9 | .i4 => 10 | .n4 => 11
def eRm : Rm → Nat
  | .rne => 0 | .rtz => 1 | .rup => 2 | .rdn => 3
def eSp : Space → Nat
  | .g => 0 | .wb => 1 | .ab => 2 | .cb => 3 | .jb => 4
def eS : SSrc → Nat
  | .s i => i.val | .o i => 0x40 + i.val | .lx i => 0x48 + i.val | .imm v => 0x60 + v.toNat
def eD : SDst → Nat
  | .s i => i.val | .o i => 0x40 + i.val
def eP (i : Fin 8) : Nat := 0x58 + i.val
def eR (i : Fin 128) : Nat := 0x80 + i.val
def eCD : CDst → Nat
  | .sc d => eD d | .p i => eP i
def ePS : PSrc → Nat
  | .sc a => eS a | .p i => eP i
def eRS : RSrc → Nat
  | .sc a => eS a | .row i => eR i
def eOR : Option (Fin 128) → Nat
  | none => 0 | some i => eR i
/-- rm, ftz and sat in bits 44:41. -/
def eF (rm : Rm) (ftz sat : Bool) : Nat := eRm rm * 2 ^ 11 + eB ftz 10 + eB sat 9
/-- mk and m of R224. -/
def eM : Option (Fin 64) → Nat
  | none => 0 | some m => 2 ^ 7 + m.val

def eBin (op : Nat) (x : Bin) : Nat := wG x.g op 0 (eB x.sat 9) (eD x.d) (eS x.a) (eS x.b) 0
def eUna (op : Nat) (x : Una) : Nat := wG x.g op 0 (eB x.sat 9) (eD x.d) (eS x.a) 0 0
def eBfx (op : Nat) (x : Bfx) : Nat := wG x.g op 0 (x.pos.val * 2 ^ 7 + x.len.val) (eD x.d) (eS x.a) 0 0
def eImm (op : Nat) (x : ImmOp) : Nat := wI x.g op (eD x.d) (eB x.zx 4) x.imm.toNat
def eFBin (op : Nat) (x : FBin) : Nat := wG x.g op (eT x.t) (eF x.rm x.ftz x.sat) (eD x.d) (eS x.a) (eS x.b) 0
def eFUna (op : Nat) (x : FUna) : Nat := wG x.g op (eT x.t) (eF x.rm x.ftz x.sat) (eD x.d) (eS x.a) 0 0
def eLoad (op : Nat) (x : Load) : Nat :=
  wH x.g op (eT x.t) (x.oc.val * 2 ^ 9 + eSp x.sp * 2 ^ 6 + eB x.dw 5 + eB x.pi 4) (eD x.d) (eS x.a) x.off.toNat
def eStore (op : Nat) (x : Store) : Nat :=
  wH x.g op (eT x.t) (x.oc.val * 2 ^ 9 + eSp x.sp * 2 ^ 6 + eB x.dw 5 + eB x.pi 4) (eS x.d) (eS x.a) x.off.toNat
def eGLoad (op : Nat) (x : GLoad) : Nat := wH x.g op (eT x.t) (x.oc.val * 2 ^ 9 + eB x.dw 5) x.tok.val (eS x.a) x.off.toNat
def eAtom (op : Nat) (x : Atom) : Nat :=
  wG x.g op (eT x.t) (x.oc.val * 2 ^ 9 + eSp x.sp * 2 ^ 6 + eB x.dw 5) x.tok.val (eS x.a) (eS x.b) (eS x.c)
def eMulti (op : Nat) (x : Multi) : Nat := wG x.g op 0 x.n.val 0 x.f.val 0 0
def eJr (op : Nat) (x : Jr) : Nat := wG x.g op 0 0 0 (eS x.a) 0 0
def ePBin (op : Nat) (x : PBin) : Nat := wG x.g op 0 (eB x.nb 1 + eB x.na 0) (eP x.d) (eP x.a) (eP x.b) 0
def ePUna (op : Nat) (x : PUna) : Nat := wG x.g op 0 (eB x.na 0) (eP x.d) (ePS x.a) 0 0
def eVBin (op : Nat) (x : VBin) : Nat := wG x.g op (eT x.t) (eF x.rm x.ftz x.sat + x.part.val) (eR x.d) (eR x.a) (eRS x.b) 0
def eVTer (op : Nat) (x : VTer) : Nat := wG x.g op (eT x.t) (eF x.rm x.ftz x.sat) (eR x.d) (eR x.a) (eRS x.b) (eR x.c)
def eVUna (op : Nat) (x : VUna) : Nat := wG x.g op (eT x.t) (eB x.sat 9) (eR x.d) (eR x.a) 0 0
def eVLog (op : Nat) (x : VLog) : Nat := wG x.g op (eT x.t) 0 (eR x.d) (eR x.a) (eRS x.b) 0
def eVRowS (op : Nat) (x : VRowS) : Nat := wG x.g op (eT x.t) 0 (eR x.d) (eR x.a) (eS x.b) 0
def eVMem (op : Nat) (x : VMem) : Nat :=
  wH x.g op (eT x.t) (x.oc.val * 2 ^ 9 + eSp x.sp * 2 ^ 6 + eB x.pi 4 + x.acc.val) (eR x.d) (eS x.a) x.off.toNat
def eVFn (op : Nat) (x : VFn) : Nat := wG x.g op 0 (eF x.rm x.ftz x.sat) (eR x.d) (eRS x.a) 0 0
def eVFold (op : Nat) (x : VFold) : Nat := wG x.g op 0 (eB x.ftz 10 + eM x.mask) (eD x.d) (eR x.a) (eS x.b) 0
def eVGs (op : Nat) (x : VGs) : Nat := wG x.g op (eT x.t) (x.oc.val * 2 ^ 9 + eSp x.sp * 2 ^ 6) (eR x.d) (eS x.a) (eR x.b) (eS x.c)
def eFlagOp (op : Nat) (x : FlagOp) : Nat := wH x.g op 0 x.q.val x.tok.val (eS x.a) x.flag.val
def eFlagNo (op : Nat) (x : FlagNo) : Nat := wH x.g op 0 x.q.val x.tok.val 0 x.flag.val
def eCmd (op : Nat) (x : Ecmd) : Nat := wG x.g op (eT x.t) x.md.val x.tok.val (eS x.a) (eS x.b) (eS x.c)
def eEdst (op : Nat) (x : Edst) : Nat := wG x.g op 0 (eB x.sub 0) (eD x.d) (eS x.a) 0 0
def eEimm (op : Nat) (x : Eimm) : Nat := wI x.g op 0 0 x.imm.toNat
def eCtxOp (op : Nat) (x : CtxOp) : Nat := wG x.g op 0 (x.oc.val * 2 ^ 9) (eD x.d) (eS x.a) (eS x.b) 0

/-- The slot of a syllable (R52, R64 to R67). -/
def Instr.slotOf : Instr → Slot
  | .nop s => s | .movl _ => .a
  | .add x => x.slot | .sub x => x.slot | .neg x => x.slot | .and x => x.slot | .or x => x.slot | .xor x => x.slot
  | .andn x => x.slot | .shl x => x.slot | .shr x => x.slot | .sra x => x.slot | .rotl x => x.slot | .clz x => x.slot
  | .ctz x => x.slot | .popc x => x.slot | .bfx x => x.slot | .bfxn x => x.slot | .bfi x => x.slot | .min x => x.slot
  | .max x => x.slot | .minn x => x.slot | .maxn x => x.slot | .sel x => x.slot | .cmp x => x.slot | .mov x => x.slot
  | .lea x => x.slot | .addi x => x.slot | .andi x => x.slot | .ori x => x.slot | .xori x => x.slot | .cmpi x => x.slot
  | .movi x => x.slot
  | .br _ => .a | .jr _ => .a | .call _ => .a | .callr _ => .a | .ret _ => .a | .loop _ => .a | .loopi _ => .a | .pand _ => .a
  | .por _ => .a | .pxor _ => .a | .pnot _ => .a | .pmov _ => .a
  | .mul _ => .m | .mulh _ => .m | .mulhn _ => .m | .div _ => .m | .divn _ => .m | .rem _ => .m | .remn _ => .m | .fadd _ => .m
  | .fsub _ => .m | .fmul _ => .m | .ffma _ => .m | .fdiv _ => .m | .fsqrt _ => .m | .fmin _ => .m | .fmax _ => .m
  | .fcmp _ => .m | .fcvt _ => .m | .fclass _ => .m | .ld _ => .m | .ldn _ => .m | .st _ => .m | .ldg _ => .m | .stg _ => .m
  | .prf _ => .m | .aadd _ => .m | .aand _ => .m | .aor _ => .m | .axor _ => .m | .amin _ => .m | .amax _ => .m
  | .aminn _ => .m | .amaxn _ => .m | .axchg _ => .m | .acas _ => .m | .afadd _ => .m | .afmax _ => .m | .pushm _ => .m
  | .popm _ => .m | .fence _ => .m
  | .vadd _ => .v | .vsub _ => .v | .vmul _ => .v | .vfma _ => .v | .vfms _ => .v | .vmin _ => .v | .vmax _ => .v
  | .vabs _ => .v | .vneg _ => .v | .vand _ => .v | .vor _ => .v | .vxor _ => .v | .vshl _ => .v | .vshr _ => .v
  | .vsra _ => .v | .vcmp _ => .v | .vsel _ => .v | .vmov _ => .v | .vbcast _ => .v | .vlane _ => .v | .viota _ => .v
  | .vcvt _ => .v | .vquant _ => .v | .vdequant _ => .v | .vwadd _ => .v | .vwmul _ => .v | .vscan _ => .v | .vred _ => .v
  | .vperm _ => .v | .vrot _ => .v | .vshuf _ => .v | .vpopc _ => .v | .vld _ => .v | .vst _ => .v | .vldt _ => .v
  | .vstt _ => .v | .vldm _ => .v | .vstm _ => .v | .vexp2 _ => .v | .vlog2 _ => .v | .vrcp _ => .v | .vrsqrt _ => .v
  | .vtanh _ => .v | .vsigm _ => .v | .vtbl _ => .v | .vtbld _ => .v | .vtbsw _ => .v | .vsmax _ => .v | .vsexp _ => .v
  | .vsdiv _ => .v | .vmstat _ => .v | .vpart _ => .v | .vgath _ => .v | .vscat _ => .v
  | _ => .e
/-- The syllable of an instruction: of `movl`, its A syllable; of `nop` and of an event, zero. -/
def Instr.syllable : Instr → Nat
  | .add x => eBin 0x040 x | .sub x => eBin 0x041 x | .neg x => eUna 0x042 x | .and x => eBin 0x043 x | .or x => eBin 0x044 x
  | .xor x => eBin 0x045 x | .andn x => eBin 0x046 x | .shl x => eBin 0x047 x | .shr x => eBin 0x048 x | .sra x => eBin 0x049 x
  | .rotl x => eBin 0x04A x | .clz x => eUna 0x04B x | .ctz x => eUna 0x04C x | .popc x => eUna 0x04D x
  | .bfx x => eBfx 0x04E x | .bfxn x => eBfx 0x04F x | .min x => eBin 0x051 x | .max x => eBin 0x052 x
  | .minn x => eBin 0x053 x | .maxn x => eBin 0x054 x | .mov x => eUna 0x057 x | .addi x => eImm 0x060 x
  | .andi x => eImm 0x061 x | .ori x => eImm 0x062 x | .xori x => eImm 0x063 x | .movi x => eImm 0x065 x
  | .mul x => eBin 0x080 x | .mulh x => eBin 0x081 x | .mulhn x => eBin 0x082 x | .div x => eBin 0x083 x
  | .divn x => eBin 0x084 x | .rem x => eBin 0x085 x | .remn x => eBin 0x086 x | .fadd x => eFBin 0x0A0 x
  | .fsub x => eFBin 0x0A1 x | .fmul x => eFBin 0x0A2 x | .fdiv x => eFBin 0x0A4 x | .fsqrt x => eFUna 0x0A5 x
  | .fmin x => eFBin 0x0A6 x | .fmax x => eFBin 0x0A7 x | .fclass x => eFUna 0x0AA x | .ld x => eLoad 0x100 x
  | .ldn x => eLoad 0x101 x | .st x => eStore 0x102 x | .ldg x => eGLoad 0x103 x | .stg x => eStore 0x104 x
  | .prf x => eGLoad 0x105 x | .aadd x => eAtom 0x110 x | .aand x => eAtom 0x111 x | .aor x => eAtom 0x112 x
  | .axor x => eAtom 0x113 x | .amin x => eAtom 0x114 x | .amax x => eAtom 0x115 x | .aminn x => eAtom 0x116 x
  | .amaxn x => eAtom 0x117 x | .axchg x => eAtom 0x118 x | .acas x => eAtom 0x119 x | .afadd x => eAtom 0x11A x
  | .afmax x => eAtom 0x11B x | .pushm x => eMulti 0x120 x | .popm x => eMulti 0x121 x | .jr x => eJr 0x201 x
  | .ret x => eJr 0x204 x | .pand x => ePBin 0x210 x | .por x => ePBin 0x211 x | .pxor x => ePBin 0x212 x
  | .pnot x => ePUna 0x213 x | .pmov x => ePUna 0x214 x | .fset x => eFlagOp 0x041 x | .finc x => eFlagOp 0x042 x
  | .fclr x => eFlagNo 0x043 x | .fget x => eFlagNo 0x044 x | .mld x => eCmd 0x100 x | .mldsp x => eCmd 0x101 x
  | .mstr x => eCmd 0x102 x | .mstrr x => eCmd 0x103 x | .mzero x => eCmd 0x104 x | .mdrain x => eCmd 0x105 x
  | .mcfg x => eCmd 0x106 x | .mpip x => eCmd 0x107 x | .mabort x => eCmd 0x108 x | .chbind x => eCmd 0x120 x
  | .chkv x => eCmd 0x121 x | .chlink x => eCmd 0x122 x | .chmask x => eCmd 0x123 x | .chfin x => eCmd 0x124 x
  | .chsave x => eCmd 0x125 x | .chrest x => eCmd 0x126 x | .chdrop x => eCmd 0x128 x | .xcopy x => eCmd 0x140 x
  | .xlist x => eCmd 0x141 x | .xget x => eCmd 0x142 x | .xput x => eCmd 0x143 x | .xfill x => eCmd 0x144 x
  | .xtrans x => eCmd 0x145 x | .xpub x => eCmd 0x146 x | .xmap x => eCmd 0x147 x | .xmcast x => eCmd 0x148 x
  | .xextAdd x => eCmd 0x149 x | .rld x => eCmd 0x160 x | .rst x => eCmd 0x161 x | .ratomAdd x => eCmd 0x162 x
  | .ratomAnd x => eCmd 0x162 x | .ratomOr x => eCmd 0x162 x | .ratomXor x => eCmd 0x162 x | .ratomMin x => eCmd 0x162 x
  | .ratomMax x => eCmd 0x162 x | .ratomMinn x => eCmd 0x162 x | .ratomMaxn x => eCmd 0x162 x | .ratomXchg x => eCmd 0x162 x
  | .ratomCas x => eCmd 0x162 x | .ratomFadd x => eCmd 0x162 x | .ratomFmax x => eCmd 0x162 x | .renq x => eCmd 0x163 x
  | .rflagSet x => eCmd 0x164 x | .rflagInc x => eCmd 0x164 x | .rflagClr x => eCmd 0x164 x | .lbufBind x => eCmd 0x165 x
  | .lbufRelease x => eCmd 0x165 x | .cmset x => eCmd 0x180 x | .cmsetClose x => eCmd 0x180 x | .cmheld x => eCmd 0x181 x
  | .cmheldClr x => eCmd 0x181 x | .cmdec x => eCmd 0x182 x | .cmdecRel x => eCmd 0x182 x | .cmgath x => eCmd 0x183 x
  | .cmshuf x => eCmd 0x184 x | .cmpol x => eCmd 0x185 x | .cmstat x => eCmd 0x186 x | .nest x => eCmd 0x1A0 x
  | .spawn x => eCmd 0x1A1 x | .join x => eCmd 0x1A2 x | .ecinit x => eCmd 0x1A3 x | .ecdone x => eCmd 0x1A4 x
  | .egput x => eCmd 0x1A5 x | .egrel x => eCmd 0x1A6 x | .egdrop x => eCmd 0x1A7 x | .prio x => eEdst 0x1A8 x
  | .yield x => eEdst 0x1A9 x | .trap x => eEimm 0x1C0 x | .ctxsave x => eCtxOp 0x1C4 x | .ctxrest x => eCtxOp 0x1C5 x
  | .dump x => eCtxOp 0x1C6 x | .bkpt x => eEimm 0x1C7 x | .jrd x => eEdst 0x1C9 x | .vadd x => eVBin 0x040 x
  | .vsub x => eVBin 0x041 x | .vmul x => eVBin 0x042 x | .vfma x => eVTer 0x043 x | .vfms x => eVTer 0x044 x
  | .vmin x => eVBin 0x045 x | .vmax x => eVBin 0x046 x | .vabs x => eVUna 0x047 x | .vneg x => eVUna 0x048 x
  | .vand x => eVLog 0x050 x | .vor x => eVLog 0x051 x | .vxor x => eVLog 0x052 x | .vshl x => eVLog 0x053 x
  | .vshr x => eVLog 0x054 x | .vsra x => eVLog 0x055 x | .vbcast x => eVRowS 0x063 x | .vwadd x => eVBin 0x073 x
  | .vwmul x => eVBin 0x074 x | .vrot x => eVRowS 0x083 x | .vpopc x => eVUna 0x085 x | .vld x => eVMem 0x090 x
  | .vst x => eVMem 0x091 x | .vldt x => eVMem 0x092 x | .vstt x => eVMem 0x093 x | .vldm x => eVMem 0x094 x
  | .vstm x => eVMem 0x095 x | .vexp2 x => eVFn 0x0C0 x | .vlog2 x => eVFn 0x0C1 x | .vrcp x => eVFn 0x0C2 x
  | .vrsqrt x => eVFn 0x0C3 x | .vtanh x => eVFn 0x0C4 x | .vsigm x => eVFn 0x0C5 x | .vtbl x => eVUna 0x0D0 x
  | .vsmax x => eVFold 0x0E0 x | .vmstat x => eVFold 0x0E3 x | .vgath x => eVGs 0x0F1 x | .vscat x => eVGs 0x0F2 x
  | .bfi x => wG x.g 0x050 0 (x.pos.val * 2 ^ 7 + x.len.val) (eD x.d) (eS x.a) (eS x.b) 0
  | .sel x => wG x.g 0x055 0 0 (eD x.d) (eS x.a) (eS x.b) (eP x.p)
  | .cmp x => wG x.g 0x056 0 x.cond.val (eCD x.d) (eS x.a) (eS x.b) 0
  | .lea x => wG x.g 0x058 0 x.sh.val (eD x.d) (eS x.a) (eS x.b) (eS x.c)
  | .cmpi x => wI x.g 0x064 (eS x.src) (x.p.val * 2 ^ 2 + x.cond.val) x.imm.toNat
  | .movl x => wI x.g 0x070 (eD x.d) 0 (bits x.imm.toNat 0 32)
  | .ffma x => wG x.g 0x0A3 (eT x.t) (eF x.rm x.ftz x.sat) (eD x.d) (eS x.a) (eS x.b) (eS x.c)
  | .fcmp x => wG x.g 0x0A8 (eT x.t) (eB x.ftz 10 + x.cond.val) (eCD x.d) (eS x.a) (eS x.b) 0
  | .fcvt x => wG x.g 0x0A9 (eT x.t) (eF x.rm x.ftz x.sat + eT x.src * 2 ^ 4) (eD x.d) (eS x.a) 0 0
  | .fence x => wI x.g 0x130 0 (x.scope.val * 2 ^ 2 + x.order.val) x.mask.toNat
  | .br x => wI x.g 0x200 0 0 x.disp.toNat
  | .call x => wI x.g 0x202 (eD x.link) 0 x.disp.toNat
  | .callr x => wG x.g 0x203 0 0 (eD x.link) (eS x.a) 0 0
  | .loop x => wH x.g 0x205 0 0 0 (eS x.a) x.disp.toNat
  | .loopi x => wI x.g 0x206 0 0 (x.n.toNat * 2 ^ 16 + x.disp.toNat)
  | .vcmp x => wG x.g 0x060 (eT x.t) x.cond.val (eR x.d) (eR x.a) (eRS x.b) 0
  | .vsel x => wG x.g 0x061 (eT x.t) 0 (eR x.d) (eR x.a) (eRS x.b) (eR x.c)
  | .vmov x => wG x.g 0x062 (eT x.t) 0 (eR x.d) (eRS x.a) 0 0
  | .vlane x => wG x.g 0x064 (eT x.t) 0 (eD x.d) (eR x.a) (eS x.b) 0
  | .viota x => wG x.g 0x065 (eT x.t) 0 (eR x.d) (eS x.a) 0 0
  | .vcvt x => wG x.g 0x070 (eT x.t) (eF x.rm x.ftz x.sat + eT x.src * 2 ^ 4 + x.part.val) (eR x.d) (eR x.a) 0 (eOR x.c)
  | .vquant x => wG x.g 0x071 (eT x.t) (eF x.rm x.ftz false + 2 ^ 8 + x.part.val) (eR x.d) (eR x.a) (eD x.b) (eR x.c)
  | .vdequant x => wG x.g 0x072 (eT x.t) (eF x.rm x.ftz x.sat + 2 ^ 8 + x.part.val) (eR x.d) (eR x.a) (eS x.b) 0
  | .vscan x => wG x.g 0x080 (eT x.t) x.op.val (eR x.d) (eR x.a) 0 0
  | .vred x => wG x.g 0x081 (eT x.t) x.op.val (eD x.d) (eR x.a) 0 0
  | .vperm x => wG x.g 0x082 0 0 (eR x.d) (eR x.a) (eRS x.b) (eOR x.c)
  | .vshuf x => wG x.g 0x084 (eT x.t) x.pat.val (eR x.d) (eR x.a) (eOR x.b) 0
  | .vtbld x => wG x.g 0x0D1 0 x.part.val 0 (eR x.a) 0 0
  | .vtbsw g => wG g 0x0D2 0 0 0 0 0 0
  | .vsexp x => wG x.g 0x0E1 0 (eB x.ftz 10 + eM x.mask) (eR x.d) (eD x.a) (eS x.b) (eS x.c)
  | .vsdiv x => wG x.g 0x0E2 0 (eB x.ftz 10) (eR x.d) (eR x.a) (eS x.b) 0
  | .vpart x => wG x.g 0x0F0 7 x.key.val (eR x.d) (eR x.a) (eD x.b) 0
  | .wait x => wG x.g 0x040 0 (eB x.tt 6 + eB x.all 5 + x.n.val * 2 ^ 3) (eD x.d) x.a.val (eS x.b) 0
  | .waitQ x => wG x.g 0x040 0 (eB x.all 5 + x.n.val * 2 ^ 3 + x.q.val) x.tok.val x.a.val 0 0
  | .eseq x => wG x.g 0x045 0 x.sel.val (eD x.d) 0 0 0
  | .liveNone g => wG g 0x046 0 0 0 0 0 0
  | .liveAll g => wG g 0x046 0 1 0 0 0 0
  | .liveS x => wG x.g 0x046 0 2 0 (eS x.a) 0 0
  | .liveT x => wG x.g 0x046 0 3 0 (eS x.a) 0 0
  | .liveR x => wG x.g 0x046 0 (eSp x.sp * 2 ^ 6 + 4) 0 (eS x.a) (eS x.b) 0
  | .liveRclr g => wG g 0x046 0 5 0 0 0 0
  | .endCtx x => wG x.g 0x047 0 0 0 (eS x.a) 0 0
  | .chstat x => wG x.g 0x127 0 x.sel.val x.tok.val (eR x.ta) (eR x.tb) (eOR x.tc)
  | .rte g => wG g 0x1C1 0 0 0 0 0 0
  | .rteDrop g => wG g 0x1C1 0 1 0 0 0 0
  | .sysrd x => wH x.g 0x1C2 0 0 (eD x.d) 0 x.reg.toNat
  | .syswr x => wH x.g 0x1C3 0 0 0 (eS x.a) x.reg.toNat
  | .trace x => wG x.g 0x1C8 0 0 0 (eS x.a) (eS x.b) 0
  | _ => 0
/-- The M syllable that goes with an instruction in slot A: the upper half of a `movl` constant (R57). -/
def Instr.upper : Instr → Nat
  | .movl x => bits x.imm.toNat 32 32
  | _ => 0
/-- The bundle that holds an instruction alone (R52); an event has none. -/
def encode (i : Instr) : Option Nat :=
  if i.wf then some (i.syllable * 2 ^ (match i.slotOf with | .a => 0 | .m => 64 | .v => 128 | .e => 192) + i.upper * 2 ^ 64) else none
/-- What the decoder reads in a slot. -/
def decodeAt (s : Slot) (w : Nat) : Dec Instr :=
  match s with
  | .a => decodeA w
  | .m => decodeM w
  | .v => decodeV w
  | .e => decodeE w

end Sys2Proof
end

