-- ==== Sys2Proof/Machine/Bundle.lean ====
section
/-! DEFINITION. What a bundle's syllables name: guards, the main-file registers that the token scoreboard watches (R13,
R106), which syllables push commands (R12) and which put a row result in flight (R408). -/

namespace Sys2Proof.Machine

/-- What the holds of R106 and R408 ask of a syllable. -/
structure Facts where
  g : Guard := {}
  /-- The main-file registers it reads, and those it writes: destinations and tokens. -/
  s : List Nat := []
  d : List Nat := []
  push : Bool := false
  row : Bool := false
  /-- Class and port cycles of an access to the own buffers (R163, R204). -/
  port : Option (Nat × Nat) := none

/-- The main-file register a source reads, if it is one. -/
def sr : SSrc → List Nat
  | .s i => [i.val]
  | _ => []
def dr : SDst → List Nat
  | .s i => [i.val]
  | _ => []
def cr : CDst → List Nat
  | .sc d => dr d
  | .p _ => []
def rr : RSrc → List Nat
  | .sc x => sr x
  | .row _ => []
def pr : PSrc → List Nat
  | .sc x => sr x
  | .p _ => []
def cmdF (x : Ecmd) : Option Facts := some { g := x.g, s := sr x.a ++ sr x.b ++ sr x.c, d := [x.tok.val], push := true }
def tokF (g : Guard) (tok : Tok) (xs : List Nat) : Option Facts := some { g, s := xs, d := [tok.val] }
def binF (x : Bin) : Option Facts := some { g := x.g, s := sr x.a ++ sr x.b, d := dr x.d }
def unaF (x : Una) : Option Facts := some { g := x.g, s := sr x.a, d := dr x.d }
def bfxF (x : Bfx) : Option Facts := some { g := x.g, s := sr x.a, d := dr x.d }
def immF (x : ImmOp) : Option Facts := some { g := x.g, s := dr x.d, d := dr x.d }
def fbinF (x : FBin) : Option Facts := some { g := x.g, s := sr x.a ++ sr x.b, d := dr x.d }
def funaF (x : FUna) : Option Facts := some { g := x.g, s := sr x.a, d := dr x.d }
def loadF (x : Load) : Option Facts := some { g := x.g, s := sr x.a, d := dr x.d, port := some (x.oc.val, 1) }
def storeF (x : Store) : Option Facts := some { g := x.g, s := sr x.d ++ sr x.a, port := if x.sp == .g then none else some (x.oc.val, 1) }
def gloadF (x : GLoad) : Option Facts := tokF x.g x.tok (sr x.a)
def atomF (x : Atom) : Option Facts :=
  some { g := x.g, s := sr x.a ++ sr x.b ++ sr x.c, d := [x.tok.val], port := if x.sp == .g then none else some (x.oc.val, 1) }
def multiF (x : Multi) (pop : Bool) : Option Facts :=
  let rs := (List.range x.n.val).filterMap (fun i => if x.f.val + i < 64 then some (x.f.val + i) else none)
  some { g := x.g, s := if pop then [] else rs, d := if pop then rs else [], port := some (0, (x.n.val + 7) / 8) }
def vbinF (x : VBin) : Option Facts := some { g := x.g, s := rr x.b, row := true }
def vlogF (x : VLog) : Option Facts := some { g := x.g, s := rr x.b, row := true }
def vterF (x : VTer) : Option Facts := some { g := x.g, s := rr x.b, row := true }
def vunaF (x : VUna) : Option Facts := some { g := x.g, row := true }
def vmemF (x : VMem) (row : Bool) (n : Nat) : Option Facts := some { g := x.g, s := sr x.a, row, port := some (x.oc.val, n) }
def vfnF (x : VFn) : Option Facts := some { g := x.g, s := rr x.a, row := true }
def vfoldF (x : VFold) : Option Facts := some { g := x.g, s := sr x.b, d := dr x.d }
def flagF (x : FlagOp) : Option Facts := some { g := x.g, s := sr x.a, d := [x.tok.val], push := true }
def flagNF (x : FlagNo) : Option Facts := some { g := x.g, d := [x.tok.val], push := true }
def dstF (x : Edst) : Option Facts := some { g := x.g, s := sr x.a, d := dr x.d }
def ctxF (x : CtxOp) : Option Facts := some { g := x.g, s := sr x.a ++ sr x.b, d := dr x.d }

/-- The facts of a syllable; none for `nop` and for events. -/
def facts : Instr → Option Facts
  | .add x => binF x | .sub x => binF x | .and x => binF x | .or x => binF x | .xor x => binF x | .andn x => binF x
  | .shl x => binF x | .shr x => binF x | .sra x => binF x | .rotl x => binF x
  | .min x => binF x | .max x => binF x | .minn x => binF x | .maxn x => binF x
  | .mul x => binF x | .mulh x => binF x | .mulhn x => binF x | .div x => binF x | .divn x => binF x | .rem x => binF x | .remn x => binF x
  | .neg x => unaF x | .clz x => unaF x | .ctz x => unaF x | .popc x => unaF x | .mov x => unaF x
  | .bfx x => bfxF x | .bfxn x => bfxF x | .bfi x => some { g := x.g, s := sr x.a ++ sr x.b, d := dr x.d }
  | .sel x => some { g := x.g, s := sr x.a ++ sr x.b, d := dr x.d }
  | .cmp x => some { g := x.g, s := sr x.a ++ sr x.b, d := cr x.d }
  | .lea x => some { g := x.g, s := sr x.a ++ sr x.b ++ sr x.c, d := dr x.d }
  | .addi x => immF x | .andi x => immF x | .ori x => immF x | .xori x => immF x | .movi x => some { g := x.g, d := dr x.d }
  | .cmpi x => some { g := x.g, s := sr x.src }
  | .movl x => some { g := x.g, d := dr x.d }
  | .fadd x => fbinF x | .fsub x => fbinF x | .fmul x => fbinF x | .fdiv x => fbinF x | .fmin x => fbinF x | .fmax x => fbinF x
  | .ffma x => some { g := x.g, s := sr x.a ++ sr x.b ++ sr x.c, d := dr x.d }
  | .fsqrt x => funaF x | .fclass x => funaF x
  | .fcmp x => some { g := x.g, s := sr x.a ++ sr x.b, d := cr x.d }
  | .fcvt x => some { g := x.g, s := sr x.a, d := dr x.d }
  | .ld x => loadF x | .ldn x => loadF x | .st x => storeF x | .ldg x => gloadF x | .stg x => storeF x | .prf x => gloadF x
  | .aadd x => atomF x | .aand x => atomF x | .aor x => atomF x | .axor x => atomF x | .amin x => atomF x | .amax x => atomF x
  | .aminn x => atomF x | .amaxn x => atomF x | .axchg x => atomF x | .acas x => atomF x | .afadd x => atomF x | .afmax x => atomF x
  | .pushm x => multiF x false | .popm x => multiF x true | .fence x => some { g := x.g }
  | .br x => some { g := x.g } | .jr x => some { g := x.g, s := sr x.a } | .call x => some { g := x.g, d := dr x.link }
  | .callr x => some { g := x.g, s := sr x.a, d := dr x.link } | .ret x => some { g := x.g, s := sr x.a }
  | .loop x => some { g := x.g, s := sr x.a } | .loopi x => some { g := x.g }
  | .pand x => some { g := x.g } | .por x => some { g := x.g } | .pxor x => some { g := x.g }
  | .pnot x => some { g := x.g, s := pr x.a } | .pmov x => some { g := x.g, s := pr x.a }
  | .wait x => some { g := x.g, d := dr x.d, s := sr x.b ++ (List.range (x.n.val + 1)).map (fun i => (x.a.val + i) % 64) }
  | .waitQ x => some { g := x.g, d := [x.tok.val], s := (List.range (x.n.val + 1)).map (fun i => (x.a.val + i) % 64), push := true }
  | .fset x => flagF x | .finc x => flagF x | .fclr x => flagNF x | .fget x => flagNF x
  | .eseq x => some { g := x.g, d := dr x.d }
  | .liveNone g => some { g } | .liveAll g => some { g } | .liveS x => some { g := x.g, s := sr x.a } | .liveT x => some { g := x.g, s := sr x.a }
  | .liveR x => some { g := x.g, s := sr x.a ++ sr x.b } | .liveRclr g => some { g } | .endCtx x => some { g := x.g, s := sr x.a }
  | .mld x => cmdF x | .mldsp x => cmdF x | .mstr x => cmdF x | .mstrr x => cmdF x | .mzero x => cmdF x | .mdrain x => cmdF x
  | .mcfg x => cmdF x | .mpip x => cmdF x | .mabort x => cmdF x | .chbind x => cmdF x | .chkv x => cmdF x | .chlink x => cmdF x
  | .chmask x => cmdF x | .chfin x => cmdF x | .chsave x => cmdF x | .chrest x => cmdF x
  | .chstat x => some { g := x.g, d := [x.tok.val], push := true }
  | .chdrop x => cmdF x | .xcopy x => cmdF x | .xlist x => cmdF x | .xget x => cmdF x | .xput x => cmdF x | .xfill x => cmdF x
  | .xtrans x => cmdF x | .xpub x => cmdF x | .xmap x => cmdF x | .xmcast x => cmdF x | .xextAdd x => cmdF x | .xextRelease x => cmdF x
  | .rld x => cmdF x | .rst x => cmdF x | .ratomAdd x => cmdF x | .ratomAnd x => cmdF x | .ratomOr x => cmdF x | .ratomXor x => cmdF x
  | .ratomMin x => cmdF x | .ratomMax x => cmdF x | .ratomMinn x => cmdF x | .ratomMaxn x => cmdF x | .ratomXchg x => cmdF x
  | .ratomCas x => cmdF x | .ratomFadd x => cmdF x | .ratomFmax x => cmdF x | .renq x => cmdF x
  | .rflagSet x => cmdF x | .rflagInc x => cmdF x | .rflagClr x => cmdF x | .lbufBind x => cmdF x | .lbufRelease x => cmdF x
  | .cmset x => cmdF x | .cmsetClose x => cmdF x | .cmheld x => cmdF x | .cmheldClr x => cmdF x | .cmdec x => cmdF x | .cmdecRel x => cmdF x
  | .cmgath x => cmdF x | .cmshuf x => cmdF x | .cmpol x => cmdF x | .cmstat x => cmdF x
  | .nest x => tokF x.g x.tok [] | .join x => tokF x.g x.tok (sr x.a)
  | .spawn x => cmdF x | .ecinit x => cmdF x | .ecdone x => cmdF x | .egput x => cmdF x | .egrel x => cmdF x | .egdrop x => cmdF x
  | .prio x => dstF x | .yield x => dstF x | .trap x => some { g := x.g } | .rte g => some { g } | .rteDrop g => some { g }
  | .sysrd x => some { g := x.g, d := dr x.d } | .syswr x => some { g := x.g, s := sr x.a }
  | .ctxsave x => ctxF x | .ctxrest x => ctxF x | .dump x => ctxF x | .bkpt x => some { g := x.g }
  | .trace x => some { g := x.g, s := sr x.a ++ sr x.b } | .jrd x => some { g := x.g, s := sr x.a, d := dr x.d, port := some (0, 1) }
  | .vadd x => vbinF x | .vsub x => vbinF x | .vmul x => vbinF x | .vmin x => vbinF x | .vmax x => vbinF x | .vwadd x => vbinF x | .vwmul x => vbinF x
  | .vfma x => vterF x | .vfms x => vterF x | .vabs x => vunaF x | .vneg x => vunaF x | .vpopc x => vunaF x | .vtbl x => vunaF x
  | .vand x => vlogF x | .vor x => vlogF x | .vxor x => vlogF x | .vshl x => vlogF x | .vshr x => vlogF x | .vsra x => vlogF x
  | .vcmp x => some { g := x.g, s := rr x.b, row := true } | .vsel x => some { g := x.g, s := rr x.b, row := true }
  | .vmov x => some { g := x.g, s := rr x.a, row := true }
  | .vbcast x => some { g := x.g, s := sr x.b, row := true } | .vrot x => some { g := x.g, s := sr x.b, row := true }
  | .vlane x => some { g := x.g, s := sr x.b, d := dr x.d } | .viota x => some { g := x.g, s := sr x.a, row := true }
  | .vcvt x => some { g := x.g, row := true } | .vquant x => some { g := x.g, d := dr x.b, row := true }
  | .vdequant x => some { g := x.g, s := sr x.b, row := true } | .vscan x => some { g := x.g, row := true }
  | .vred x => some { g := x.g, d := dr x.d } | .vperm x => some { g := x.g, s := rr x.b, row := true } | .vshuf x => some { g := x.g, row := true }
  | .vld x => vmemF x true 1 | .vst x => vmemF x false 1 | .vldt x => vmemF x true (128 / x.t.sw) | .vstt x => vmemF x false (128 / x.t.sw)
  | .vldm x => vmemF x true 1 | .vstm x => vmemF x false 1
  | .vexp2 x => vfnF x | .vlog2 x => vfnF x | .vrcp x => vfnF x | .vrsqrt x => vfnF x | .vtanh x => vfnF x | .vsigm x => vfnF x
  | .vtbld x => some { g := x.g } | .vtbsw g => some { g } | .vsmax x => vfoldF x | .vmstat x => vfoldF x
  | .vsexp x => some { g := x.g, s := sr x.b ++ sr x.c, d := dr x.a, row := true } | .vsdiv x => some { g := x.g, s := sr x.b, row := true }
  | .vpart x => some { g := x.g, d := dr x.b, row := true }
  | .vgath x => some { g := x.g, s := sr x.a ++ sr x.c, row := true, port := some (x.oc.val, 4) }
  | .vscat x => some { g := x.g, s := sr x.a ++ sr x.c, port := some (x.oc.val, 4) }
  | _ => none

/-- The bundle at the pc, if the buffer holds it. -/
def Core.word (k : Core) : Option (BitVec 256) := (k.ibuf.find? (fun e => e.1 == k.ctx.pc)).map Prod.snd
def Bundle.slots (b : Bundle) : List Instr := [b.a, b.m, b.v, b.e]
/-- The facts of the syllables whose guards read true. -/
def Ctx.live (x : Ctx) (b : Bundle) : List Facts := ((Bundle.slots b).filterMap facts).filter (fun f => x.guard f.g)
/-- The bundle names a register of `ts`. -/
def Ctx.names (x : Ctx) (b : Bundle) (ts : List Tok) : Bool :=
  (x.live b).any (fun f => (f.s ++ f.d).any (fun i => i != 0 && ts.any (fun t => t.val == i)))
/-- The bundle reads a register of `ts`. -/
def Ctx.readsOf (x : Ctx) (b : Bundle) (ts : List Tok) : Bool :=
  (x.live b).any (fun f => f.s.any (fun i => i != 0 && ts.any (fun t => t.val == i)))
/-- The pending `join` tokens that a core's next bundle names, which hold it (R374). -/
def Core.joinWaits (k : Core) : List Tok :=
  match k.word with
  | none => []
  | some w => match decodeBundle w.toNat with
    | .ok b => (k.ctx.joinTok.map (fun j => j.2.1)).filter (fun t => k.ctx.names b [t])
    | .error _ => []
/-- The core's next bundle is held by a pending `join` token (R374). -/
def Core.joinStall (k : Core) : Bool := !k.joinWaits.isEmpty

end Sys2Proof.Machine
end

