-- ==== Sys2Proof/Config.lean ====
section
/-! DEFINITION. What the spec leaves open: constants without a body, so that nothing can be proved of their values. Each is
applied to what it depends on, or to the counter `State.free`. -/

namespace Sys2Proof

/-- Bits of the engine status word of an FI or coded command's fault that its entry does not name (log entry 7). -/
opaque Config.eswFi : Nat → BitVec 64

/-- The bytes of a read that system instructions make from another node (log entry 1): by count and index. -/
opaque Config.farByte : Nat → Nat → BitVec 8
/-- An entry of a page table of another node (log entry 18): by physical address and cycle. -/
opaque Config.farPte : Nat → Nat → BitVec 64
/-- The initialisation vector of a sealed image or dump, 96 bits (R421; log entry 34). -/
opaque Config.iv : Nat → BitVec 96
/-- The sealing key of a function for which firmware has installed none (log entry 34). -/
opaque Config.noSeal : Nat → BitVec 256
/-- Salt and info of HKDF (R458; log entry 34). -/
opaque Config.hkdfSalt : List (BitVec 8)
opaque Config.hkdfInfo : List (BitVec 8)
/-- Firmware's ephemeral private keys (R458). -/
opaque Config.ephemeral : Nat → Nat
/-- The identity key's private half, derived from fused secrets (R458), and the nonce of a signature under it (log entry 114). -/
opaque Config.identityKey : Nat
opaque Config.sigNonce : Nat → Nat
/-- The firmware image (R455): its bytes before the signature, its version, its key and its signature; the ROM's digest of the vendor's
key (log entry 114). -/
opaque Config.fwBody : List (BitVec 8)
opaque Config.fwVersion : BitVec 64
opaque Config.fwKey : List (BitVec 8)
opaque Config.fwSig : List (BitVec 8)
opaque Config.romDigest : List (BitVec 8)
/-- The fuse rollback counter, low, and the part's serial (R455, R458). -/
opaque Config.fuses : BitVec 128
/-- The exit code in the report of a faulted or killed context (R372). -/
opaque Config.exitNone : Nat → BitVec 32
/-- The energy that NRG gains in a cycle of a context (R441): core, cycle. -/
opaque Config.energy : Nat → Nat → Nat
/-- Temperatures and powers as telemetry reads them (R460; log entry 115): by sensor and cycle. -/
opaque Config.sensor : Nat → Nat → BitVec 64
/-- How long a gated cluster takes to wake (R460; log entry 116): by cluster and cycle. -/
opaque Config.wakeTime : Nat → Nat → Nat

end Sys2Proof
end

