-- ==== Sys2Proof/Machine/Operands.lean ====
section
/-! DEFINITION. Operand forms of the memory syllables: access widths and extension (R146), addresses and post-increment
(R147, R201), the checks of the own core's buffers (R129, R130, R302), read-modify-write results (R154). -/

namespace Sys2Proof.Machine

/-- Access width in bytes (R146). -/
def accW (t : ETy) (dw : Bool) : Nat :=
  if dw then 8 else match t with
    | .f32 => 4 | .i32 => 4 | .n32 => 4 | .f16 => 2 | .bf16 => 2 | _ => 1
/-- Extend of R51: sign for i8 and i32, else zero. -/
def accExt (t : ETy) (dw : Bool) (v : Nat) : Word :=
  if dw then BitVec.ofNat 64 v
  else if t == .i8 then BitVec.ofInt 64 (sext v 8)
  else if t == .i32 then BitVec.ofInt 64 (sext v 32)
  else BitVec.ofNat 64 v

/-- `base + SignExtend(imm16)` (R147). -/
def offAddr (base : Word) (off : BitVec 16) : Word := base + off.signExtend 64
/-- The address of an access: the base alone with post-increment (R147, R201). -/
def accAddr (base : Word) (off : BitVec 16) (pi : Bool) : Nat := if pi then base.toNat else (offAddr base off).toNat

/-- What the own core's buffers refuse a scalar access (R129, R130, R147, R302). -/
def Ctx.scalarFault (c : Ctx) (sp : Space) (addr w : Nat) (wr : Bool) : Option TrapClass :=
  if addr % w != 0 then some .align
  else if Space.size sp < addr + w then some .buffer
  else if sp == .wb && wr then some .buffer
  else if sp == .jb && addr < 0x8000 then some .buffer
  else if c.hidden sp addr w then some .buffer
  else none

/-- A register that a post-increment updates, by its code. -/
def srcCode : SSrc → Nat
  | .s i => i.val
  | .o i => 0x40 + i.val
  | _ => 0

/-- The new contents from the old ones, both `w` bytes (R154). -/
def AOp.apply (op : AOp) (w old b c : Nat) : Nat :=
  let m := 2 ^ (8 * w)
  let b := b % m
  match op with
  | .add => (old + b) % m
  | .and => old &&& b
  | .or => old ||| b
  | .xor => old ^^^ b
  | .min => if sext old (8 * w) ≤ sext b (8 * w) then old else b
  | .max => if sext b (8 * w) ≤ sext old (8 * w) then old else b
  | .minn => if old ≤ b then old else b
  | .maxn => if b ≤ old then old else b
  | .xchg => b
  | .cas => if old == b then c % m else old
  | .fadd => (encodeEl (exactSum .rne [decodeEl old .f32, decodeEl b .f32]).1 .f32 .rne false false).1
  | .fmax =>
    let x := decodeEl old .f32
    let y := decodeEl b .f32
    if anySigE x || anySigE y then ETy.nanBits .f32
    else if x.isNan && y.isNan then ETy.nanBits .f32
    else if x.isNan then b
    else if y.isNan then old
    else match x.cmp y with
      | .lt => b
      | .gt => old
      | .eq => if x.isZero && x.neg then b else old
where anySigE (x : Ex) : Bool := x.isSig

end Sys2Proof.Machine
end

