-- ==== Sys2Proof/Machine/Node.lean ====
section
/-! DEFINITION. The words of node control space that contexts reach (R366 to R369, R392), physical addresses (R20 to R22,
R304, R316, R329, R475), page walks and TLBs (R133 to R138). -/

namespace Sys2Proof.Machine

/-- This node's id (R475). -/
def State.nodeId (s : State) : Nat := bits s.torus.toNat 16 12
def State.func (s : State) (f : Nat) : Func := s.funcs[f % 16]'(Nat.mod_lt _ (by decide))
def State.setFunc (s : State) (f : Nat) (x : Func) : State := { s with funcs := s.funcs.setIfInBounds (f % 16) x }
def State.lq (s : State) (q : Nat) : LQueue := s.lqs[q % 64]'(Nat.mod_lt _ (by decide))
def State.setLq (s : State) (q : Nat) (x : LQueue) : State := { s with lqs := s.lqs.setIfInBounds (q % 64) x }
def State.eq (s : State) (e : Nat) : EgQueue := s.eqs[e % 32]'(Nat.mod_lt _ (by decide))
def State.setEq (s : State) (e : Nat) (x : EgQueue) : State := { s with eqs := s.eqs.setIfInBounds (e % 32) x }

/-- A word with one field replaced. -/
def setBits (w : Word) (lo n v : Nat) : Word :=
  BitVec.ofNat 64 (w.toNat - bits w.toNat lo n * 2 ^ lo + v % 2 ^ n * 2 ^ lo)

/-- A write of TAIL (R369): accepted when the queue is enabled and TAIL < V ≤ HEAD + 64; `none` is a refusal. -/
def State.tailWrite (s : State) (q : Nat) (v : Word) : Option State :=
  let x := s.lq q
  if bit x.qctl.toNat 7 && decide (x.tail.toNat < v.toNat) && decide (v.toNat ≤ x.head.toNat + 64) then
    some (s.setLq q { x with tail := v, arr := x.arr ++ [(v.toNat, s.now)] })
  else none
/-- A write of EQCTL (R392): CHK and GATE; `none` is a refusal. -/
def State.eqctlWrite (s : State) (e : Nat) (v : Word) : Option State :=
  let x := s.eq e
  let keep := bits v.toNat 44 20 == 0 && bits v.toNat 3 5 == 0
  if keep && (bit v.toNat 1 == bit x.ctl.toNat 1 || x.put == x.rel) then
    some (s.setEq e { x with ctl := setBits (setBits x.ctl 8 32 (bits v.toNat 8 32)) 1 1 (bits v.toNat 1 1) })
  else none

/-- Kinds of access to a translated address. -/
inductive AccK where
  | rd | wr | at | fetch
  deriving DecidableEq, Repr

/-- The rows of R366: whether the layout has the access's row, and whether it allows the access to the owning function. -/
def ctlRow (off n : Nat) (k : AccK) : Option Bool :=
  if 0x200000 ≤ off then none
  else if off < 0x100000 then
    let r := off % 0x4000
    if r + n ≤ 0x2000 then some (k == .rd || k == .wr)
    else if r == 0x2000 then some (n == 8 && (k == .rd || k == .wr))
    else if r == 0x2008 || r == 0x2010 then some (n == 8 && k == .rd)
    else none
  else
    let r := (off - 0x100000) % 0x8000
    if r + n ≤ 0x4000 then some (k == .rd)
    else if r == 0x4000 then some (n == 8 && (k == .rd || k == .wr))
    else if r == 0x4008 || r == 0x4010 || r == 0x4018 then some (n == 8 && k == .rd)
    else none
/-- The function that owns the queue of an offset. -/
def State.ctlOwner (s : State) (off : Nat) : Nat :=
  if off < 0x100000 then bits (s.lq (off / 0x4000)).qctl.toNat 0 4 else bits (s.eq ((off - 0x100000) / 0x8000)).ctl.toNat 40 4
/-- Faults of a context's access to node control space (R366). -/
def State.ctlCheck (s : State) (fn off n : Nat) (k : AccK) : Option TrapClass :=
  match ctlRow off n k with
  | none => some .buffer
  | some ok => if s.ctlOwner off != fn then some .access else if ok then none else some .buffer

/-- One record of an egress queue as a reader sees it: from outside the node only a record before REL reads as it stands (R392). -/
def State.slotRead (s : State) (off n : Nat) (outside : Bool) : List Byte :=
  let e := (off - 0x100000) / 0x8000
  let x := s.eq e
  (List.range n).map (fun i =>
    let o := off + i
    let seq := leNat (s.mem.read (key 5 (o - o % 64)) 8)
    if outside && decide (x.rel.toNat ≤ seq) then 0 else s.mem.get (key 5 o))
/-- A read of node control space below 0x20_0000 (R366). -/
def State.ctlRead (s : State) (off n : Nat) (outside : Bool) : List Byte :=
  if off < 0x100000 then
    let x := s.lq (off / 0x4000)
    let r := off % 0x4000
    if r == 0x2000 then leBytes x.tail.toNat n
    else if r == 0x2008 then leBytes x.head.toNat n
    else if r == 0x2010 then leBytes x.qctl.toNat n
    else s.mem.read (key 5 off) n
  else
    let x := s.eq ((off - 0x100000) / 0x8000)
    let r := (off - 0x100000) % 0x8000
    if r == 0x4000 then leBytes x.ctl.toNat n
    else if r == 0x4008 then leBytes x.put.toNat n
    else if r == 0x4010 then leBytes x.rel.toNat n
    else if r == 0x4018 then leBytes x.head.toNat n
    else s.slotRead off n outside
/-- A write of node control space below 0x20_0000 by a context; `none` is a refusal, which the writer takes as ACCESS. -/
def State.ctlWrite (s : State) (off : Nat) (bs : List Byte) : Option State :=
  let v := BitVec.ofNat 64 (leNat bs)
  if off < 0x100000 && off % 0x4000 == 0x2000 then s.tailWrite (off / 0x4000) v
  else if 0x100000 ≤ off && (off - 0x100000) % 0x8000 == 0x4000 then s.eqctlWrite ((off - 0x100000) / 0x8000) v
  else some (s.store (key 5 off) bs)

/- Flags (R14, R116, R439). -/
def State.flag (s : State) (f : Nat) : BitVec 32 := s.flags.toList.getD f 0
/-- A flag lies in the function's granted range (R14, R451). -/
def State.flagOk (s : State) (fn f : Nat) : Bool :=
  let w := (s.func fn).flags.toNat
  bits w 0 9 ≤ f && f < bits w 0 9 + bits w 16 10

/-- Comparison codes of a flag condition (R119). -/
def flagCmp (cmp f v : Nat) : Bool :=
  match cmp with
  | 0 => f == v | 1 => f != v | 2 => decide (f < v) | 3 => decide (v ≤ f) | 4 => decide (v < f) | _ => decide (f ≤ v)
/-- Breakpoints of KIND 3 hit on a flag's new value (R434): of every core's context, and of the saved contexts. -/
def State.flagHits (s : State) (f : Nat) (v : BitVec 32) : State :=
  let p (k : Core) (n : Fin 4) : Bool :=
    let b := k.bpc[n].toNat
    bits b 8 9 == f && flagCmp (bits b 5 3) v.toNat (bits k.bpv[n].toNat 0 32)
  let armed (k : Core) : Bool := k.bpc.toList.any (fun (b : Word) => bits b.toNat 0 4 == 11)
  if !(s.cores.toList.any armed) then s
  else
    let s := (List.range 128).foldl (fun (s : State) n =>
      let c : CoreId := Fin.ofNat 128 n
      let k := s.core c
      if k.busy then s.hit c 3 k.ctx.lastPc k.ctx.lastQ (p k) else s) s
    (List.range s.saved.length).foldl (fun (s : State) i =>
      match s.saved[i]? with
      | none => s
      | some v =>
        let k := s.core v.core
        let (k2, x) := k.hit v.ctx 3 v.ctx.lastPc v.ctx.lastQ (p k)
        { s.setCore v.core k2 with saved := s.saved.set i { v with ctx := x } }) s
/-- A flag takes a value, and its last setter is recorded (R375, R439). -/
def State.setFlag (s : State) (f : Nat) (v : BitVec 32) (by_ : Setter) : State :=
  { s with flags := s.flags.setIfInBounds f v, setters := s.setters.setIfInBounds f by_ }.flagHits f v
/-- The setter that a context is, on a unit's behalf. -/
def State.setterOf (s : State) (c : CoreId) (eng : Nat) : Setter :=
  let x := s.ctxOf c
  { ctx := x.ctxid, node := s.nodeId, core := c.val, eng, conf := x.conf, lq := some x.lq.val }
/-- `finc`'s sum and whether the clamp changed it (R116). -/
def incClamp (old : BitVec 32) (v : Word) : BitVec 32 × Bool :=
  let r : Int := old.toNat + sext v.toNat 32
  if r < 0 then (0, true) else if 2 ^ 32 ≤ r then (BitVec.allOnes 32, true) else (BitVec.ofInt 32 r, false)

/- Physical addresses (R20). -/
def paNode (pa : Nat) : Nat := bits pa 45 12
def paKind (pa : Nat) : Nat := bits pa 40 5
def paOff (pa : Nat) : Nat := bits pa 0 40
/-- X, Y and Z of the torus (R475). -/
def State.dims (s : State) : Nat × Nat × Nat :=
  (bits s.torus.toNat 0 4 + 1, bits s.torus.toNat 4 4 + 1, bits s.torus.toNat 8 4 + 1)
/-- A node of the torus. -/
def State.nodeIn (s : State) (n : Nat) : Bool :=
  let (x, y, z) := s.dims
  bits n 0 4 < x && bits n 4 4 < y && bits n 8 4 < z
/-- A node of a partition box (R475). -/
def State.inBox (s : State) (box : Word) (n : Nat) : Bool :=
  let (x, y, z) := s.dims
  let b := box.toNat
  let along (p first ext size : Nat) : Bool := (List.range (ext + 1)).any (fun i => (first + i) % size == p)
  bit b 31 && s.nodeIn n && along (bits n 0 4) (bits b 0 4) (bits b 16 4) x && along (bits n 4 4) (bits b 4 4) (bits b 20 4) y &&
    along (bits n 8 4) (bits b 8 4) (bits b 24 4) z
/-- A node that a function may reach (R22, R316): its own node, or a node of its healthy partition. -/
def State.reachable (s : State) (fn n : Nat) : Bool :=
  n == s.nodeId || (s.inBox (s.func fn).pbox n && bit (s.func fn).phlt.toNat 0)

def bufOf : Nat → Space
  | 0 => .wb | 1 => .ab | 2 => .cb | _ => .jb
/-- Core `c` belongs to a function's core set (R451). -/
def State.hasCore (s : State) (fn c : Nat) : Bool := (s.func fn).cores.getLsbD c
/-- A current extent of a pool window on a link that is up (R22, R444). -/
def State.poolOk (s : State) (w off n : Nat) : Bool :=
  s.poolUp.toList.getD (w % 2) false &&
  s.exts.any (fun e => e.win == w && e.start * 2 ^ 21 ≤ off && off + n ≤ (e.start + e.count) * 2 ^ 21)

/-- Slice bytes `[o, o+n)` touch a bound decode buffer (R347). -/
def State.inDec (s : State) (o n : Nat) : Bool :=
  s.slots.toList.any (fun sl => match sl.dec with
    | some (clu, off, len) => clu * 2 ^ 23 + off < o + n && o < clu * 2 ^ 23 + off + len
    | none => false)
/-- R22, R304: the populated range of each kind, and the node. -/
def State.physFault (s : State) (fn pa n : Nat) : Option TrapClass :=
  let o := paOff pa
  let k := paKind pa
  if !s.reachable fn (paNode pa) then some .peer
  else if k == 0 then (if o + n ≤ 2 ^ 39 then none else some .access)
  else if k == 1 then (if o < 2 ^ 27 && o % 2 ^ 23 + n ≤ 2 ^ 23 && !(paNode pa == s.nodeId && s.inDec o n) then none else some .access)
  else if k == 2 then
    (if o < 2 ^ 32 && bits o 0 23 + n ≤ Space.size (bufOf (bits o 23 2)) then none else some .access)
  else if k == 3 then (if o < 2 ^ 32 && bits o 24 1 == 0 && bits o 18 2 == 0 then none else some .access)
  else if k == 4 then
    (let m := bits o 32 8
     let targets := (List.range 8).filter (fun c => bit m c)
     if m == 0 || bits o 24 2 == 3 || bits o 30 2 != 0 || bits o 23 1 != 0 ||
        !(bits o 0 23 + n ≤ Space.size (bufOf (bits o 24 2))) ||
        !(paNode pa != s.nodeId || targets.all (fun c => s.hasCore fn (bits o 26 4 * 8 + c))) then some .access else none)
  else if k == 5 then (if o + n ≤ 0xD01000 then none else some .access)
  else if 0x10 ≤ k && k ≤ 0x17 then
    (if paNode pa != s.nodeId || s.poolOk (k - 0x10) o n then none else some .access)
  else some .access

/- Page walks (R135 to R137). -/
/-- One table entry; `none` for an uncorrectable error. What a table of another node holds is a free value (log entry 18). -/
def State.pte (s : State) (tab idx : Nat) : Option Nat :=
  let a := key 0 (paOff tab + 8 * idx)
  if paNode tab != s.nodeId then some (Config.farPte (tab + 8 * idx) s.now).toNat
  else if (eccHit s.ecc a 8).isSome then none else some (s.mem.readN a 8)
/-- A leaf of R135 at level 3, 2 or 1, checked as R136 and R137 state. -/
def leafOf (lvl e va : Nat) : Option TlbEnt :=
  let sz := bit e 7
  let size := match lvl, sz with
    | 3, true => 2 ^ 32 | 3, false => 2 ^ 30 | 2, _ => 2 ^ 21 | _, true => 2 ^ 16 | _, false => 2 ^ 12
  let pa := bits e 12 45 * 2 ^ 12
  if !bit e 0 || !bit e 1 || bits e 57 7 != 0 || bits e 8 4 != 0 || (lvl == 2 && sz) || pa % size != 0 then none
  else some { va := va / size * size, size, pa, fn := 0, asid := 0, g := bit e 6, cf := bit e 5, x := bit e 4, w := bit e 3, r := bit e 2 }
/-- The walk from a table of level `lvl`. -/
def State.walkFrom (s : State) (va : Nat) : Nat → Nat → Option TlbEnt
  | 0, _ => none
  | lvl + 1, tab =>
    let l := lvl + 1
    let idx := bits va (12 + 9 * lvl) 9
    if paKind tab != 0 then none
    else match s.pte tab idx with
      | none => none
      | some e =>
        if !bit e 0 || bits e 57 7 != 0 || bits e 8 4 != 0 then none
        else if bit e 1 then
          if 4 ≤ l then none
          else if bit e 7 && l != 2 then
            let grp := if l == 3 then 4 else 16
            match s.pte tab (idx / grp * grp) with
            | none => none
            | some e1 => if bit e1 7 then leafOf l e1 va else none
          else leafOf l e va
        else if bit e 7 then none
        else s.walkFrom va lvl (bits e 12 45 * 2 ^ 12)
/-- The leaf that maps a virtual address; `none` is PAGE (R137). -/
def State.walk (s : State) (root fn asid va : Nat) : Option TlbEnt :=
  (s.walkFrom va 5 root).map (fun e => { e with fn, asid })

def TlbEnt.hits (e : TlbEnt) (fn asid va : Nat) : Bool := e.fn == fn && e.asid == asid && e.va == va / e.size * e.size
def tlbFind (l : List TlbEnt) (fn asid va : Nat) : Option TlbEnt := l.find? (fun e => TlbEnt.hits e fn asid va)
/-- A TLB of `cap` entries takes one; the oldest leaves (the spec gives no replacement: DESIGN CHOICE, log entry 31). -/
def tlbAdd (l : List TlbEnt) (cap : Nat) (e : TlbEnt) : List TlbEnt :=
  e :: (l.filter (fun x => !(x.fn == e.fn && x.asid == e.asid && x.va == e.va && x.size == e.size))).take (cap - 1)

def cluOf (c : CoreId) : Nat := c.val / 8
def State.cluTlb (s : State) (c : CoreId) : List TlbEnt := s.clusterTlb.toList.getD (cluOf c) []
/-- Fill the core TLB and the cluster TLB (R138). -/
def State.tlbFill (s : State) (c : CoreId) (e : TlbEnt) : State :=
  let k := s.core c
  let s := s.setCore c { k with tlb := tlbAdd k.tlb 256 e }
  { s with clusterTlb := s.clusterTlb.setIfInBounds (cluOf c) (tlbAdd (s.cluTlb c) 4096 e) }

/-- Root, FN and ASID of a context's TTB (R134). -/
def Ctx.root (c : Ctx) : Nat := bits c.ttb.toNat 12 45 * 2 ^ 12
def Ctx.tfn (c : Ctx) : Nat := bits c.ttb.toNat 8 4
def Ctx.asid (c : Ctx) : Nat := bits c.ttb.toNat 0 8

/-- The entry that translates a context's address, from the tiers of R138. -/
def State.tlbHit (s : State) (c : CoreId) (va : Nat) : Option TlbEnt :=
  let x := s.ctxOf c
  match tlbFind (s.core c).tlb x.tfn x.asid va with
  | some e => some e
  | none => tlbFind (s.cluTlb c) x.tfn x.asid va

/-- What a valid leaf forbids (R137). -/
def leafOk (e : TlbEnt) (conf : Bool) (k : AccK) : Bool :=
  (!e.cf || conf) && (match k with | .rd => e.r | .wr => e.w | .at => e.r && e.w | .fetch => e.x)

/-- Translation of a context's address (R133 to R138): the TLBs filled, and the physical address or the fault. -/
def State.xlate (s : State) (c : CoreId) (va n : Nat) (k : AccK) : State × Except TrapClass Nat :=
  let x := s.ctxOf c
  if 2 ^ 57 ≤ va then (s, .error .page)
  else
    let hit := s.tlbHit c va
    match (match hit with | some e => some e | none => s.walk x.root x.tfn x.asid va) with
    | none => (s, .error .page)
    | some e =>
      let s := s.tlbFill c e
      if !leafOk e x.conf k then (s, .error .access)
      else
        let pa := e.pa + va % e.size
        match s.physFault x.fn.val pa n with
        | some cls => (s, .error cls)
        | none => (s, .ok pa)

/-- The key of a physical address of this node. -/
def paKey (pa : Nat) : Nat := key (paKind pa) (paOff pa)

/-- The entries that a walk from a table of level `lvl` reads, in order (R135, R136). -/
def State.pathFrom (s : State) (va : Nat) : Nat → Nat → List Nat
  | 0, _ => []
  | lvl + 1, tab =>
    let idx := bits va (12 + 9 * lvl) 9
    if paKind tab != 0 then []
    else match s.pte tab idx with
      | none => [tab + 8 * idx]
      | some e =>
        if bit e 0 && !bit e 1 && !bit e 7 then (tab + 8 * idx) :: s.pathFrom va lvl (bits e 12 45 * 2 ^ 12)
        else if bit e 0 && bit e 1 && bit e 7 && (lvl == 0 || lvl == 2) then
          [tab + 8 * idx, tab + 8 * (idx / (if lvl == 2 then 4 else 16) * (if lvl == 2 then 4 else 16))]
        else [tab + 8 * idx]
/-- A core's use of a page: the walk in flight has answered, or the cluster TLB's 24 ck have passed, at the cycle kept (R138). -/
def Core.hasPage (k : Core) (page now : Nat) : Bool :=
  match k.xlat with
  | some (p, some t) => p == page && decide (t ≤ now)
  | _ => false
/-- A walk of the node finishes (R138): the TLBs of the waiters are filled, or their bundles learn of the fault. -/
def State.walkDone (s : State) (i : Nat) : State :=
  match s.walks[i]? with
  | none => s
  | some w =>
    let s := { s with walks := s.walks.eraseIdx i }
    (List.range 128).foldl (fun s n =>
      let c : CoreId := Fin.ofNat 128 n
      let k := s.core c
      let x := k.ctx
      if k.busy && x.tfn == w.fn && x.asid == w.asid then
        let found := s.walk w.root w.fn w.asid w.page
        if k.xlat == some (w.page, none) then
          let good (e : TlbEnt) : Bool := !k.xprf || (leafOk e x.conf .rd && (s.physFault x.fn.val (e.pa + w.page % e.size) 1).isNone)
          let s := match found with | some e => if good e then s.tlbFill c e else s | none => s
          let k := s.core c
          s.setCore c { k with xlat := some (w.page, some s.now) }
        else if w.engs.contains c then (match found with | some e => s.tlbFill c e | none => s)
        else s
      else s) s

/- Packets to other nodes (R333). -/
def isBulk : Instr → Bool
  | .rld _ => true
  | .rst _ => true
  | _ => false
/-- The packet of a request: the units of an `rld` or `rst` go in one, and so do those of a response (R321). -/
def State.pktOf (s : State) : PktId → PktId
  | .cmd c q i => if (s.ctxOf c).cmds.any (fun m => m.seq.toNat == q && !m.done && isBulk m.ins) then .cmd c q 0 else .cmd c q i
  | .resp n _ => .resp n 0
  | p => p
/-- Whether a packet is on its way, neither trimmed nor refused. -/
def State.onWay (s : State) (p : PktId) : Bool := s.pkts.all (fun q => q.id != s.pktOf p || q.phase == .sent)
def State.pkt? (s : State) (p : PktId) : Option Pkt := s.pkts.find? (fun q => q.id == s.pktOf p)
def State.setPkt (s : State) (q : Pkt) : State := { s with pkts := s.pkts.filter (fun x => x.id != s.pktOf q.id) ++ [{ q with id := s.pktOf q.id }] }
def State.dropPkt (s : State) (p : PktId) : State := { s with pkts := s.pkts.filter (fun x => x.id != s.pktOf p) }
/-- The classes that an access through the fabric or to the pool may fail with (R22, R137, R316, R337). -/
def reachCls (cls : TrapClass) : Bool := cls == .page || cls == .access || cls == .peer || cls == .buffer || cls == .ecc || cls == .timeout
/-- What another node, or the pool, may answer. -/
def Answer.legal : Answer → Bool
  | .ok _ => true
  | .fail cls => reachCls cls

/-- R138: 64 walks in flight, one for each page, FN and ASID; `eng` for a miss of an engine of the core. -/
def State.startWalk (s : State) (c : CoreId) (va : Nat) (eng : Bool) : State :=
  let x := s.ctxOf c
  let page := va / 4096 * 4096
  let same (w : Walk) : Bool := w.page == page && w.fn == x.tfn && w.asid == x.asid
  if s.walks.any same then
    { s with walks := s.walks.map (fun (w : Walk) => if same w && eng && !w.engs.contains c then { w with engs := c :: w.engs } else w) }
  else if 64 ≤ s.walks.length then s
  else { s with walks := s.walks ++ [{ page, fn := x.tfn, asid := x.asid, root := x.root, engs := if eng then [c] else [] }] }
/-- The tiers of R138 for the sequencer's next bundle: `none` once the core TLB holds the page or its fault is known, else the
state in which the bundle is held, by the cluster TLB's 24 ck or by a walk. -/
def State.vaHeld (s : State) (c : CoreId) (va : Nat) : Option State :=
  let x := s.ctxOf c
  let k := s.core c
  let page := va / 4096 * 4096
  if 2 ^ 57 ≤ va || (tlbFind k.tlb x.tfn x.asid va).isSome || k.hasPage page s.now then none
  else match k.xlat with
    | some (p, some t) =>
      if p == page && s.now < t then some s
      else some (missed s c va page)
    | some (p, none) => if p == page then some (s.startWalk c va false) else some (missed s c va page)
    | none => some (missed s c va page)
where
  /-- A miss of the core TLB. -/
  missed (s : State) (c : CoreId) (va page : Nat) : State :=
    let x := s.ctxOf c
    let k := s.core c
    if (tlbFind (s.cluTlb c) x.tfn x.asid va).isSome then s.setCore c { k with xlat := some (page, some (s.now + 24)) }
    else (s.setCore c { k with xlat := some (page, none) }).startWalk c va false

end Sys2Proof.Machine
end

