-- ==== Sys2Proof/Machine/Engine.lean ====
section
/-! DEFINITION. Commands: push, scoreboard, journal, start, completion and faults (R10 to R13, R15, R16, R117, R171,
R402, R411). -/

namespace Sys2Proof.Machine

/- Finding and changing a command. -/
def Ctx.cmd? (c : Ctx) (seq : Nat) : Option Cmd := c.cmds.find? (fun m => m.seq.toNat == seq && !m.done)
def State.cmd? (s : State) (r : CmdRef) : Option Cmd :=
  if r.ctx != 0 && (s.ctxOf r.core).serial != r.ctx then none else (s.ctxOf r.core).cmd? r.seq
def Ctx.setCmd (c : Ctx) (m : Cmd) : Ctx := { c with cmds := c.cmds.map (fun x => if x.seq == m.seq then m else x) }

/-- The progress a record or a journal entry gives: of an inbound block, the entry (R327). -/
def Cmd.progress (m : Cmd) : Nat := if m.inb.isSome then m.ix else m.prog
/-- Entries of an inbound block (R326). -/
def Inb.count (b : Inb) : Nat := bits (leNat (b.data.take 8)) 0 3
/-- What stands in `ins` while an inbound block runs no entry. -/
def idleIns : Instr := .renq { g := {}, t := .f32, md := 0, tok := 0, a := .s 0, b := .s 0, c := .s 0 }
/-- Dword 5 of a journal entry (R411). -/
def Cmd.dword5 (m : Cmd) : Nat :=
  m.seq.toNat + Eng.code m.eng * 2 ^ 32 + b2n m.started * 2 ^ 40 + b2n m.done * 2 ^ 41 + b2n m.faulted * 2 ^ 42 + b2n m.eff * 2 ^ 43
/-- The 64 bytes of a command's journal entry (R411). -/
def Cmd.entry (m : Cmd) : List Byte :=
  leBytes m.syl.toNat 8 ++ leBytes m.a.toNat 8 ++ leBytes m.b.toNat 8 ++ leBytes m.c.toNat 8 ++ leBytes m.pc.toNat 8 ++
    leBytes m.dword5 8 ++ leBytes m.progress 8 ++ leBytes m.res.toNat 8
/-- The journal in JB takes the command's entry (R411). -/
def State.journal (s : State) (c : CoreId) (m : Cmd) : State :=
  { s with mem := s.mem.write (bufKey c .jb (m.seq.toNat % 128 * 64)) m.entry }
/-- A changed command: in the context and in the journal. -/
def State.putCmd (s : State) (c : CoreId) (m : Cmd) : State := (s.setCtxOf c ((s.ctxOf c).setCmd m)).journal c m

/-- Commands in flight (R12). -/
def Ctx.inFlight (c : Ctx) : Nat := (c.cmds.filter (fun m => !m.done)).length

/-- The push of a command that has passed its checks (R117): number, journal, scoreboard, token. With 32 in flight the
bundle stalls instead (R12). -/
def State.push (s : State) (m0 : Cmd) : State :=
  let k := s.core s.cur
  let x := k.ctx
  if 32 ≤ x.inFlight then s
  else
    let m := { m0 with seq := x.nextSeq, pc := x.pc, syl := k.syllable .e, born := s.now }
    let x := { x.tokenPend m.tok with cmds := x.cmds ++ [m], nextSeq := x.nextSeq + 1 }
    let s := (s.setCtx x).journal s.cur m
    let s := s.traceRec s.cur 2 (Eng.code m.eng) m.pc m.seq m.syl 0
    let s := s.hit s.cur 2 m.pc m.seq (fun n => !bit k.bpc[n].toNat 17 && bits k.bpv[n].toNat 0 32 == m.seq.toNat)
    if m.pay.isEmpty then s
    else { s with mem := s.mem.write (bufKey s.cur .jb (0x2000 + m.seq.toNat % 32 * 256)) (m.pay.take 256) }

/-- A failed push-time check: the class and the address it names. -/
abbrev Chk := Except (TrapClass × Nat)
/-- Require a condition, else the class. -/
def need (ok : Bool) (cls : TrapClass) (addr : Nat := 0) : Chk Unit := if ok then .ok () else .error (cls, addr)

/-- A command syllable (R117): nothing when its guard reads false, the first failed check as a precise trap, else what
`f` does with the checked result. -/
def State.command {α : Type} (s : State) (g : Guard) (chk : Chk α) (f : α → State) : Out :=
  if !s.ctx.guard g then .next s
  else match chk with
    | .error (cls, addr) => .next (s.precise g .e cls addr)
    | .ok x => .next (f x)

/-- Two ranges overlap (R11). -/
def Rng.meets (r q : Rng) : Bool := r.buf == q.buf && r.lo < q.hi && q.lo < r.hi
def meetsAny (xs ys : List Rng) : Bool := xs.any (fun x => ys.any (fun y => Rng.meets x y))
/-- A hazard of a later command on an earlier one: RAW, WAR or WAW (R11). -/
def hazard (e m : Cmd) : Bool := meetsAny e.writes m.reads || meetsAny e.reads m.writes || meetsAny e.writes m.writes
/-- The commands pushed before one, not yet complete. -/
def Ctx.earlier (c : Ctx) (m : Cmd) : List Cmd := (c.cmds.takeWhile (fun x => x.seq != m.seq)).filter (fun x => !x.done)

/-- An ordering class two global sides share. -/
def sameCls (a b : Option Nat) : Bool := a.isSome && a == b

/-- A block command of CE (R262). -/
def isBlock : Instr → Bool
  | .chkv _ => true
  | .chlink _ => true
  | _ => false
/-- CE's order (R262): a block starts behind running blocks alone, any other command after every earlier one. A wait in CE's
queue counts as such a command, though R121 tests it once the earlier ones have started (DESIGN CHOICE, log entry 92). -/
def ceOrder (e m : Cmd) : Bool := e.eng != .ce || m.eng != .ce || e.aside || (isBlock e.ins && isBlock m.ins)
/-- The queue an `rflag` waits behind (R328). -/
def relQ : Instr → Nat
  | .rflagSet x => x.mf 4 3
  | .rflagInc x => x.mf 4 3
  | .rflagClr x => x.mf 4 3
  | _ => 0
/-- The end-counter commands, which FI runs in push order (R391). -/
def isEc : Instr → Bool
  | .ecinit _ => true
  | .ecdone _ => true
  | _ => false
/-- A command of the coded collectives (R340). -/
def isCoded : Instr → Bool
  | .cmset _ => true
  | .cmsetClose _ => true
  | .cmheld _ => true
  | .cmheldClr _ => true
  | .cmdec _ => true
  | .cmdecRel _ => true
  | .cmgath _ => true
  | .cmshuf _ => true
  | .cmpol _ => true
  | .cmstat _ => true
  | _ => false
/-- A sequencer access of a command's class, issued before its push, has not performed (R171). -/
def Ctx.behindAcc (c : Ctx) (m : Cmd) : Bool :=
  match m.gcls with | none => false | some k => c.gacc.any (fun g => g.cls == k && g.born ≤ m.born)
/-- An own-buffer access of the command's bundle or an earlier one has not taken place: the command's buffer events come after it (R172). -/
def Ctx.portAhead (c : Ctx) (m : Cmd) : Bool := c.portQ.any (fun o => o.at_ ≤ m.born + 2)
/-- The global side of a started command is held (R171): a command of its engine and class, or an access of its class, goes before it. -/
def Ctx.gHeld (c : Ctx) (m : Cmd) : Bool :=
  (c.earlier m).any (fun e => e.eng == m.eng && sameCls e.gcls m.gcls) || c.behindAcc m
/-- What holds every command before it starts: engine order (R12), hazards (R11), arrays held by an earlier command
(R10), of FI also its class on the global side (R171; of ME and XE only the requests wait, R465), and an unhandled fault of its
engine (R402). An `mabort` passes commands (R257) but no wait of its queue (R121). -/
def Ctx.mayStart (c : Ctx) (m : Cmd) : Bool :=
  let es := c.earlier m
  !m.started && !m.aside && !(m.eng == .me && m.arrs != 0 && c.chHold) &&
  (if isAbort m then es.all (fun e => e.eng != .me || e.aside || !isQWait e) else es.all (fun e =>
    !(hazard e m) &&
    !e.inb.isSome && !m.inb.isSome && !(isCoded e.ins && isCoded m.ins) && !(isEc e.ins && isEc m.ins) && (relQ m.ins == 0 || Eng.code e.eng != relQ m.ins) &&
    (e.eng != m.eng || e.aside || (e.started && !e.faulted && !isWait e)) &&
    (e.arrs &&& m.arrs == 0) && ceOrder e m &&
    (asksLate m || !(e.eng == m.eng && sameCls e.gcls m.gcls)))) &&
  (asksLate m || !(c.behindAcc m))
where
  asksLate (m : Cmd) : Bool := m.eng == .me || m.eng == .xe
  isQWait (e : Cmd) : Bool := match e.ins with | .waitQ _ => true | _ => false
  isAbort (e : Cmd) : Bool := match e.ins with | .mabort _ => true | _ => false
  isWait (e : Cmd) : Bool := match e.ins with | .waitQ _ => true | .renq _ => true | .egput _ => true | _ => false

/-- Completion numbers (R118): the engine's leading complete commands leave the list. -/
def Ctx.retireCmds (c : Ctx) (e : Eng) : Ctx :=
  let mine := c.cmds.filter (fun m => m.eng == e && !m.aside)
  let lead := mine.takeWhile (fun m => m.done)
  let comp := match lead.getLast? with
    | none => c.comp
    | some m => if Eng.code e == 0 then c.comp else c.comp.setIfInBounds (Eng.code e - 1) m.seq
  { c with comp, cmds := c.cmds.filter (fun m => !(m.done && (m.aside || lead.any (fun l => l.seq == m.seq)))) }

/-- A command of one entry completes (R13): its token is written, its journal entry is DONE, completion numbers advance. -/
def State.completeCmd (s : State) (c : CoreId) (m0 : Cmd) (tok : Word) : State :=
  let m := { m0 with done := true, res := tok }
  let s := s.putCmd c m
  let x := (s.ctxOf c).tokenWrite m.tok tok
  let s := s.setCtxOf c (x.retireCmds m.eng)
  let s := s.traceRec c 3 (Eng.code m.eng) m.pc m.seq tok 0
  let k := s.core c
  s.hit c 2 m.pc m.seq (fun n => bit k.bpc[n].toNat 17 && bits k.bpv[n].toNat 0 32 == m.seq.toNat)
/-- A command completes; of an inbound block, an entry does, and with the last one the block, whose notify flag the part
increments at the sender's node (R327). -/
def State.complete (s : State) (c : CoreId) (m : Cmd) (tok : Word) : State :=
  match m.inb with
  | none => s.completeCmd c m tok
  | some b =>
    if m.ix + 1 < b.count then
      s.putCmd c { m with ix := m.ix + 1, ins := idleIns, ext := [], staged := [], prog := 0, res := 0, eff := false, pay := b.data }
    else
      let h := leNat (b.data.take 8)
      let f := bits h 16 9
      let s := s.completeCmd c { m with ix := m.ix + 1 } tok
      if bit h 31 && b.node == s.nodeId && s.flagOk b.fn f then
        s.setFlag f (incClamp (s.flag f) 1).1 (s.setterOf c 4)
      else s

/-- PIPCNT.PIPS takes the totals as a command of ME or CE completes (R245); a breakpoint of KIND 4 may hit (R434). -/
def State.setPips (s : State) (c : CoreId) (m : Cmd) : State :=
  let x := s.ctxOf c
  let v := min (2 ^ 48 - 1) (x.sa.pips + x.va.pips)
  let k := s.core c
  (s.setCtxOf c { x with pipcnt := v }).hit c 4 m.pc m.seq (fun n =>
    let t := bits k.bpv[n].toNat 0 48
    decide (x.pipcnt < t) && decide (t ≤ v))
/-- The start of a command whose hazards have cleared: `f` is what its entry does at its start. -/
def State.startCmd (s : State) (c : CoreId) (m : Cmd) (due : Nat) : State :=
  s.putCmd c { m with started := true, start := s.now, due := due }

/-- An engine fault is detected (R402): the command is marked, and its record waits for the next bundle boundary. -/
def State.engineFault (s : State) (c : CoreId) (m : Cmd) : State :=
  let s := s.putCmd c { m with faulted := true }
  let x := s.ctxOf c
  s.setCtxOf c { x with engFaults := x.engFaults ++ [m.seq] }

/-- Engine faults are delivered lowest sequence number first (R416), numbers compared modulo 2^32 (R15). -/
def seqLe (a b : BitVec 32) : Bool := (b - a).toNat < 2 ^ 31
def lowestSeq : List (BitVec 32) → Option (BitVec 32)
  | [] => none
  | a :: r => match lowestSeq r with
    | none => some a
    | some b => if seqLe a b then some a else some b

/-- The engine status word of a faulted command: what its entry recorded. -/
def Cmd.esw (m : Cmd) : Nat := match m.fail with | some (_, _, e) => e | none => 0

/-- A pending engine fault of a core is taken at a bundle boundary (R402, R403): the resume PC is the next bundle. -/
def State.takeEngineFault (s : State) (c : CoreId) : State :=
  let x := s.ctxOf c
  match lowestSeq x.engFaults with
  | none => s
  | some q =>
    let s := s.setCtxOf c { x with engFaults := x.engFaults.filter (· != q) }
    match x.cmds.find? (fun m => m.seq == q) with
    | none => s
    | some m =>
      let (cls, addr, _) := m.fail.getD (.ecc, 0, 0)
      s.takeTrap c { cls, slot := .e, eng := m.eng, pc := m.pc, seq := m.seq, esw := BitVec.ofNat 64 m.esw,
                     addr := BitVec.ofNat 64 addr, prog := BitVec.ofNat 64 m.progress, rpc := x.pc } (max s.now (s.core c).holdUntil)

/- Contexts that are on no core. -/
/-- What `f` does with a saved context in its core's place; the journal in JB is the saved context's meanwhile. -/
def State.inSaved (s : State) (i : Nat) (f : State → State) : State :=
  match s.saved[i]? with
  | none => s
  | some v =>
    let jb := bufKey v.core .jb 0
    let keep := s.mem.read jb 0x4000
    let mine := s.ctxOf v.core
    let t := f ({ s with mem := s.mem.write jb (v.cells.read jb 0x4000) }.setCtxOf v.core v.ctx)
    let cells := v.cells.write jb (t.mem.read jb 0x4000)
    { t.setCtxOf v.core mine with saved := t.saved.set i { v with ctx := t.ctxOf v.core, cells }, mem := t.mem.write jb keep }
/-- A command of a core's context, or of a saved context of that core (R309, R364): what `f` does with it. -/
def State.onCmd (s : State) (r : CmdRef) (f : State → Cmd → State) : State :=
  match s.cmd? r with
  | some m => f s m
  | none =>
    match (List.range s.saved.length).find? (fun i => match s.saved[i]? with
        | some v => v.core == r.core && (r.ctx == 0 || v.ctx.serial == r.ctx) && (v.ctx.cmd? r.seq).isSome
        | none => false) with
    | some i => s.inSaved i (fun t => match t.cmd? r with | some m => f t m | none => t)
    | none => s

end Sys2Proof.Machine
end

