-- ==== Sys2Proof/Machine/Wait.lean ====
section
/-! DEFINITION. Flags and waits (05_control.md R115, R116, R119 to R122), and the wait log (R439). -/

namespace Sys2Proof.Machine

/- Conditions (R119). -/
def condKind (w : Word) : Nat := bits w.toNat 29 3
def condObj (w : Word) : Nat := bits w.toNat 0 10
/-- Well-formedness of a condition word. -/
def condOk (w : Word) : Bool :=
  let obj := condObj w
  let cmp := bits w.toNat 26 3
  bits w.toNat 10 16 == 0 && (match condKind w with
    | 0 => obj < 512 && cmp < 6
    | 1 => 1 ≤ obj && obj < 64 && cmp == 0
    | 2 => 1 ≤ obj && obj ≤ 4 && cmp == 0
    | 3 => obj < 16 && cmp == 0
    | 4 => obj < 32 && cmp == 0
    | _ => false)
/-- Whether a condition of a context on core `c` holds now. -/
def State.cond (s : State) (c : CoreId) (w : Word) : Bool :=
  let x := s.ctxOf c
  let obj := condObj w
  let val := bits w.toNat 32 32
  match condKind w with
  | 0 => flagCmp (bits w.toNat 26 3) (s.flag obj).toNat val
  | 1 => !x.toks.contains (Fin.ofNat 64 obj)
  | 2 => x.cmds.all (fun m => m.done || m.aside || Eng.code m.eng != obj || !seqLe m.seq (BitVec.ofNat 32 val))
  | 3 => (x.joins.toList.getD obj {}).pend == 0
  | _ => (s.eq obj).rel.toNat < (s.eq obj).put.toNat
/-- The true conditions as bits, the first condition in bit 0. -/
def State.condBits (s : State) (c : CoreId) (ws : List Word) : Nat :=
  (ws.zip (List.range ws.length)).foldl (fun a p => a + b2n (s.cond c p.1) * 2 ^ p.2) 0
/-- An any- or all-wait is over. -/
def condEnds (n h : Nat) (all : Bool) : Bool := if all then h == 2 ^ n - 1 else h != 0

/-- A byte of a cluster's wait log, in the cluster's slice (R439; log entry 121). -/
def State.logKey (s : State) (k o : Nat) : Nat := key 1 (k * 2 ^ 23 + s.logAt.toList.getD k 0 + o)
/-- Records that the log has overwritten (R439). -/
def State.waitLost (s : State) (k : Nat) : Nat := s.waitN.toList.getD k 0 - 4096
/-- One record of the cluster's wait log (R439); `t` is the wait's length in cycles. -/
def State.logWait (s : State) (c : CoreId) (eng : Nat) (ws : List Word) (h : Nat) (tmo : Bool) (pc : Word) (seq : BitVec 32) (t : Nat) : State :=
  let fl := (ws.zip (List.range ws.length)).filter (fun p => condKind p.1 == 0)
  match fl with
  | [] => s
  | f0 :: _ =>
    let w := (fl.find? (fun p => bit h p.2)).getD f0
    let f := condObj w.1
    let x := s.ctxOf c
    let st := s.setters.toList.getD f {}
    let red := x.conf || st.conf
    let hide (b : Bool) (v : Nat) : Nat := if b then 0 else v
    let d0 := hide x.conf x.ctxid.toNat + c.val * 2 ^ 32 + eng * 2 ^ 39 + b2n tmo * 2 ^ 42 + b2n red * 2 ^ 43 + f * 2 ^ 44
    let d2 := hide x.conf seq.toNat + min t (2 ^ 32 - 1) * 2 ^ 32
    let d3 := hide st.conf st.ctx.toNat + st.node * 2 ^ 32 + st.core * 2 ^ 44 + st.eng * 2 ^ 51
    let n := s.waitN.toList.getD (cluOf c) 0
    { s.store (s.logKey (cluOf c) (32 * (n % 4096))) (leBytes d0 8 ++ leBytes (hide x.conf pc.toNat) 8 ++ leBytes d2 8 ++ leBytes d3 8) with
      waitN := s.waitN.setIfInBounds (cluOf c) (n + 1) }

/- Sequencer waits (R120). -/
/-- The condition words of a wait. -/
def Ctx.condWords (c : Ctx) (a : Fin 64) (n : Fin 4) : List Word := (List.range (n.val + 1)).map (fun i => c.rs (Fin.ofNat 64 (a.val + i)))
/-- R119: a word that is not well formed raises ILLEGAL, a flag outside the range ACCESS. DESIGN CHOICE: ILLEGAL comes first (log entry
84). -/
def State.condChk (s : State) (fn : Nat) (ws : List Word) : Chk Unit := do
  need (ws.all condOk) .illegal
  need (ws.all (fun w => condKind w != 0 || s.flagOk fn (condObj w))) .access

/-- R120: the wait begins; it ends by WAIT_END or WAIT_TIMEOUT. -/
def execWait (x : Wait) (s : State) : Out :=
  let c := s.ctx
  let ws := c.condWords x.a x.n
  s.command x.g (s.condChk c.fn.val ws) (fun _ =>
    s.setCtx { c with wait := some { conds := ws, all := x.all, tt := x.tt, deadline := s.now + 30 * bits (c.src x.b).toNat 0 32,
                                     d := x.d, pc := c.pc, seq := c.lastSeq, syl := (s.core s.cur).syllable .e, start := s.now } })

/-- What a wait's end adds to a context that does not run, whose clock stands at `t`: its status, which the resumed bundle finds,
and its time-out's trap, which waits until the context next runs (R120). -/
def Ctx.waitOver (x : Ctx) (w : WaitSt) (st t : Nat) (tmo : Bool) : Ctx :=
  { x with wait := none
           flight := x.flight ++ [{ fin := t, code := sCode w.d, slot := .e, val := BitVec.ofNat 64 st, born := t }]
           pend := x.pend ++ (if tmo && w.tt then
             [{ cls := .timeout, pc := w.pc, slot := .e, seq := w.seq.toNat, addr := 0, due := t, syl := BitVec.ofNat 64 st }] else []) }
/-- A wait ends with a status: the result lands as one of latency 1 of this cycle, and the next bundle could issue in the next one. -/
def State.endWait (s : State) (c : CoreId) (w : WaitSt) (h : Nat) (tmo : Bool) : State :=
  let x := s.ctxOf c
  let st := h + b2n tmo * 2 ^ 8
  if let some sp := (s.core c).stop then
    (s.setCtxOf c (x.waitOver w st sp.since tmo)).logWait c 0 w.conds h tmo w.pc w.seq (s.now - w.start)
  else
  let f : Flight := { fin := s.now + 1, code := sCode w.d, slot := .e, val := BitVec.ofNat 64 st, born := s.now }
  let k := s.core c
  let s := s.setCore c { k with ctx := { x with wait := none, flight := x.flight ++ [f] }, holdUntil := max k.holdUntil (s.now + 1) }
  let s := s.logWait c 0 w.conds h tmo w.pc w.seq (s.now - w.start)
  if tmo && w.tt then
    s.afterBundle c { cls := .timeout, slot := .e, pc := w.pc, seq := w.seq, esw := BitVec.ofNat 64 st }
  else s

/-- The wait of a saved context ends (R120, R374): its status is the result of latency 1 that the resumed bundle finds, a
time-out's trap waits until it next runs, and the context is ready. -/
def State.endSavedWait (s : State) (v : Saved) (w : WaitSt) (h : Nat) (tmo : Bool) : State × Saved :=
  let st := h + b2n tmo * 2 ^ 8
  let x := v.ctx
  let t := (s.setCtxOf v.core x).logWait v.core 0 w.conds h tmo w.pc w.seq (s.now - w.start)
  ({ s with mem := t.mem, ecc := t.ecc, waitN := t.waitN },
   { v with ctx := x.waitOver w st v.t0 tmo,
            phase := if v.phase == .wait then .ready else v.phase, since := s.now })
/-- Waits of a core's contexts, running and saved, that end now, by their conditions or by their time-out. -/
def State.endWaits (s : State) (c : CoreId) (tmo : Bool) : State :=
  let ended (t : State) (w : WaitSt) : Option Nat :=
    let h := t.condBits c w.conds
    let e := condEnds w.conds.length h w.all
    if tmo then (if !e && decide (w.deadline ≤ t.now) then some h else none) else (if e then some h else none)
  let s := match (s.ctxOf c).wait with
    | some w => (match ended s w with | some h => s.endWait c w h tmo | none => s)
    | none => s
  (List.range s.saved.length).foldl (fun (s : State) i =>
    match s.saved[i]? with
    | some v =>
      if v.core != c then s
      else match v.ctx.wait with
        | none => s
        | some w => match ended (s.setCtxOf c v.ctx) w with
          | none => s
          | some h =>
            let (s, v) := s.endSavedWait v w h tmo
            { s with saved := s.saved.set i v }
    | none => s) s
/-- R120: the event WAIT_END, when the conditions hold. -/
def execWaitEnd (c : CoreId) (s : State) : Out := .next (s.endWaits c false)
/-- R120: the event WAIT_TIMEOUT, at or after the deadline, when they do not hold. -/
def execWaitTimeout (c : CoreId) (s : State) : Out := .next (s.endWaits c true)

/- Engine-queue waits (R121, R122). -/
def engOfQ : Nat → Eng
  | 1 => .me | 2 => .ce | 3 => .xe | 4 => .fi | _ => .seq
/-- A flag is external or in the set-map (R122). -/
def Ctx.forwarded (c : Ctx) (f : Nat) : Bool :=
  let e := c.flgext.toNat
  (bits e 0 9 ≤ f && f < bits e 0 9 + bits e 16 10) || c.setmap.getLsbD f
/-- Checks of a wait in an engine's queue (R119, R121, R122). -/
def State.chkWaitQ (s : State) (ws : List Word) : Chk Unit := do
  need (ws.all (fun w => condOk w && condKind w == 0)) .illegal
  need (ws.all (fun w => s.flagOk s.ctx.fn.val (condObj w))) .access
  need (ws.all (fun w => s.ctx.forwarded (condObj w))) .fwdWait
/-- R121. -/
def execWaitQ (x : WaitQ) (s : State) : Out :=
  let ws := s.ctx.condWords x.a x.n
  s.command x.g (s.chkWaitQ ws) (fun _ =>
    s.push { eng := engOfQ x.q.val, ins := .waitQ x, tok := x.tok, a := ws.getD 0 0, b := ws.getD 1 0, c := ws.getD 2 0, ext := ws.map BitVec.toNat })
/-- R121: the event ENGINE_WAIT_SATISFIED; the engine has reached the wait, and its conditions hold. -/
def execEngineWaitSatisfied (r : CmdRef) (s : State) : Out :=
  match s.cmd? r with
  | some m =>
    match m.ins with
    | .waitQ x =>
      let ws := m.ext.map (BitVec.ofNat 64)
      let h := s.condBits r.core ws
      if m.started && condEnds ws.length h x.all then
        let s := s.logWait r.core x.q.val ws h false m.pc m.seq (s.now - m.start)
        .next (s.complete r.core m (BitVec.ofNat 64 h))
      else .next s
    | _ => .next s
  | none => .next s

/- Flag operations (R116). -/
/-- Checks of a flag operation (R116). -/
def State.chkFlag (s : State) (f : Fin 512) : Chk Unit := need (s.flagOk s.ctx.fn.val f.val) .access
/-- The push of a flag operation: ACCESS outside the range; the set-map (R122). -/
def State.flagCmd (s : State) (g : Guard) (q : Fin 8) (tok : Tok) (a : Word) (f : Fin 512) (sets : Bool) (i : Instr) : Out :=
  s.command g (s.chkFlag f) (fun _ =>
    let s := s.push { eng := engOfQ q.val, ins := i, tok, a, aside := true }
    if sets then s.setCtx { s.ctx with setmap := s.ctx.setmap ||| (1 : BitVec 512) <<< f.val } else s)
/-- R116. -/
def execFset (x : FlagOp) (s : State) : Out := s.flagCmd x.g x.q x.tok (s.ctx.src x.a) x.flag true (.fset x)
/-- R116. -/
def execFinc (x : FlagOp) (s : State) : Out := s.flagCmd x.g x.q x.tok (s.ctx.src x.a) x.flag true (.finc x)
/-- R116. -/
def execFclr (x : FlagNo) (s : State) : Out := s.flagCmd x.g x.q x.tok 0 x.flag true (.fclr x)
/-- R116. -/
def execFget (x : FlagNo) (s : State) : Out := s.flagCmd x.g x.q x.tok 0 x.flag false (.fget x)

/-- R116: the event FLAG_PERFORM, once the earlier commands of its queue have completed. -/
def execFlagPerform (r : CmdRef) (s : State) : Out :=
  match s.cmd? r with
  | some m =>
    let ready := ((s.ctxOf r.core).earlier m).all (fun e => e.eng != m.eng)
    let op : Option (Fin 512 × Nat) := match m.ins with
      | .fset x => some (x.flag, 0) | .finc x => some (x.flag, 1) | .fclr x => some (x.flag, 2) | .fget x => some (x.flag, 3) | _ => none
    match op with
    | none => .next s
    | some (f, k) =>
      if !ready then .next s
      else
        let old := s.flag f.val
        let (v, cl) := match k with
          | 0 => (m.a.setWidth 32, false)
          | 1 => incClamp old m.a
          | 2 => (0, false)
          | _ => (old, false)
        let s := if k == 3 then s else s.setFlag f.val v (s.setterOf r.core (Eng.code m.eng))
        .next (s.complete r.core { m with eff := k != 3 } (old.setWidth 64 ||| (if cl then 1 <<< 32 else 0)))
  | none => .next s

end Sys2Proof.Machine
end

