-- ==== Sys2Proof/Machine/Scratch.lean ====
section
/-! DEFINITION. Scalar loads and stores of the own core's typed buffers, push and pop multiple, and the local side of the
atomics (06_memory.md, R146 to R149, R154 to R157). -/

namespace Sys2Proof.Machine

/-- The port is in use for issues before cycle `t` (R148, R204). -/
def State.port (s : State) (c : CoreId) (t : Nat) : State :=
  let k := s.core c
  s.setCore c { k with portFree := max k.portFree t }

/-- A store of `n` whole bytes. -/
def wholePiece (off n v : Nat) : Piece := { off, n, val := v % 2 ^ (8 * n), mask := 2 ^ (8 * n) - 1 }
/-- The base update of a load (R147, R201): of latency 1, in no latch, and none where the load writes nothing (R205). -/
def piFlight (now : Nat) (slot : Slot) (pi : Bool) (code : Nat) (v : Word) (load : Nat) : List Flight :=
  if pi then [{ fin := now + 1, born := now, code, slot, val := v, latch := false, base := load }] else []

/- Port cycles (R148, R204). -/
/-- Bytes of a core's buffer as one number. -/
def State.bufN (s : State) (c : CoreId) (sp : Space) (off n : Nat) : Nat := s.mem.readN (bufKey c sp off) n
/-- The first 64-byte unit with an uncorrectable word among ranges of a buffer, lowest offset first (R206; for a gather
that order is a DESIGN CHOICE, log entry 96). -/
def State.rowEcc (s : State) (c : CoreId) (sp : Space) (rs : List (Nat × Nat)) : Option Nat :=
  let us := rs.flatMap (fun r => (s.ecc.filter (fun w => w < bufKey c sp r.1 + r.2 && bufKey c sp r.1 < w + 8)).map
    (fun w => max (w - bufKey c sp 0) r.1 / 64 * 64))
  us.min?
/-- The place of an entry in the trap frame (R407): entry `i` of `fs`, its value and its head. -/
def framePlace (c : CoreId) (fs : List Flight) (i : Nat) (row : Bool) : Nat × Nat :=
  let n := (fs.filter (fun f => f.row.isNone)).length
  if row then (bufKey c .jb (0x5240 + 512 * (i - n)), bufKey c .jb (0x5100 + 16 * (i - n)))
  else (bufKey c .jb (0x4100 + 16 * i), bufKey c .jb (0x4108 + 16 * i))
/-- What a port cycle does to entries of the trap frame that wait for it. -/
def State.inFrame (s : State) (c : CoreId) (p : Flight → Bool) (f : State → Flight → Nat × Nat → State) : State :=
  let fs := (s.ctxOf c).frameFl
  (fs.zip (List.range fs.length)).foldl (fun (s : State) e =>
    if p e.1 then f s e.1 (framePlace c fs e.2 e.1.row.isSome) else s) s
/-- The value that a port cycle brings to result `pid`, in flight or in the trap frame. -/
def State.give (s : State) (c : CoreId) (pid : Nat) (v : Word) (r : Option Row) : State :=
  let x := s.ctxOf c
  let s := s.setCtxOf c { x with flight := x.flight.map (fun (f : Flight) => if f.pid == pid then { f with val := v, row := r } else f) }
  s.inFrame c (fun f => f.pid == pid) (fun s _ a =>
    { s with mem := match r with | none => s.mem.writeN a.1 8 v.toNat | some r => s.mem.writeN a.1 512 r.toNat })
/-- A load that met an uncorrectable error (R149, R206): it writes nothing, and ECC waits for the first bundle three or more
cycles after its issue; the error of a load that a transfer has killed is counted alone. -/
def State.loadEcc (s : State) (c : CoreId) (o : PortOp) (off : Nat) : State :=
  let x := s.ctxOf c
  match (x.flight ++ x.frameFl).find? (fun f => f.pid == o.pid) with
  | none => { s with lost := s.lost + 1 }
  | some f =>
    let p : Pend := { cls := .ecc, pc := o.pc, slot := o.slot, seq := o.seq, addr := off, due := o.at_ + 1, syl := o.syl,
                      fatal := o.slot == .e, kill := if f.sq then some f.fin else none }
    let s := s.inFrame c (fun f => f.pid == o.pid || f.base == o.pid) (fun s e a =>
      let h := s.mem.readN a.2 8
      let b := if e.row.isSome then 16 else 15
      { s with mem := s.mem.writeN a.2 8 (if bit h b then h - 2 ^ b else h) })
    s.setCtxOf c { x.unload [o.pid] with pend := x.pend ++ [p] }
/-- The bits of a store's bytes are written (R147, R203). -/
def State.putPiece (s : State) (c : CoreId) (sp : Space) (p : Piece) : State :=
  let v := if p.mask + 1 == 2 ^ (8 * p.n) then p.val else
    let old := s.bufN c sp p.off p.n
    old - (old &&& p.mask) + (p.val &&& p.mask)
  s.bufStore c sp p.off (leBytes v p.n)
/-- Every bit of a byte is written. -/
def coversByte (ps : List Piece) (a : Nat) : Bool :=
  ps.foldl (fun m p => if p.off ≤ a && a < p.off + p.n then m ||| bits p.mask (8 * (a - p.off)) 8 else m) 0 == 255
/-- A store in its port cycle: its bytes, then fresh check bits (R149, R206). -/
def State.putPieces (s : State) (c : CoreId) (sp : Space) (fresh : Bool) (ps : List Piece) : State :=
  let s := ps.foldl (fun (s : State) p => s.putPiece c sp p) s
  let b := bufKey c sp 0
  { s with ecc := s.ecc.filter (fun w =>
      !((fresh && ps.any (fun p => w < b + p.off + p.n && b + p.off < w + 8)) ||
        (b ≤ w && (List.range 8).all (fun i => coversByte ps (w - b + i))))) }
/-- A local atomic at the bank ALU (R155, R156): the read-modify-write, and the token 6 ck after issue; an uncorrectable error
leaves memory as it is and marks the token. -/
def State.atomPort (s : State) (c : CoreId) (o : PortOp) (op : AOp) (off w b d : Nat) (t : ETy) (dw : Bool) (tok : Tok) : State :=
  let x := s.ctxOf c
  if (s.rowEcc c o.sp [(off, w)]).isSome then
    let p : Pend := { cls := .ecc, pc := o.pc, slot := o.slot, seq := o.seq, addr := off, tok, due := o.at_, syl := o.syl }
    s.setCtxOf c { x with toks := x.toks.filter (fun t => tok == 0 || t != tok), pend := x.pend ++ [p] }
  else
    let old := s.bufN c o.sp off w
    let s := s.bufStore c o.sp off (leBytes (op.apply w old b d) w)
    let x := s.ctxOf c
    if tok == 0 then s else s.setCtxOf c { x with tokDue := x.tokDue ++ [(o.at_ + 4, tok, accExt t dw old)] }
/-- One access in its port cycle. Of an access that holds the port for several cycles every element moves in the first (R204 leaves that
open: DESIGN CHOICE, log entry 94). -/
def State.portAct (s : State) (c : CoreId) (o : PortOp) : State :=
  match o.act with
  | .load off w t dw =>
    if (s.rowEcc c o.sp [(off, w)]).isSome then s.loadEcc c o off
    else s.give c o.pid (accExt t dw (s.bufN c o.sp off w)) none
  | .pop off n => (List.range n).foldl (fun (s : State) i => s.give c (o.pid + i) (BitVec.ofNat 64 (s.bufN c o.sp (off + 8 * i) 8)) none) s
  | .row w es =>
    match s.rowEcc c o.sp ((es.filter (fun e => e.2.1 != 0)).map (fun e => (e.1, e.2.1))) with
    | some u => s.loadEcc c o u
    | none =>
      let r := rowOf (es.map (fun e => bits (s.bufN c o.sp e.1 e.2.1) e.2.2 w)) w
      s.give c o.pid (rowLatch r) (some r)
  | .store fresh ps => s.putPieces c o.sp fresh ps
  | .atom op off w b d t dw tok => s.atomPort c o op off w b d t dw tok
/-- The port cycles of this cycle, in issue order (R148, R162, R204). -/
def State.portStep (s : State) (c : CoreId) : State :=
  let x := s.ctxOf c
  let due := x.portQ.filter (fun o => o.at_ ≤ s.now)
  if due.isEmpty then s
  else due.foldl (fun (s : State) o => s.portAct c o) (s.setCtxOf c { x with portQ := x.portQ.filter (fun o => !(o.at_ ≤ s.now)) })

/-- The buffers as the accesses issued so far leave them (R164): what a command reads through the port at its push (R325, R386,
R393; log entry 77). -/
def State.portView (s : State) (c : CoreId) : State := (s.ctxOf c).portQ.foldl (fun (s : State) o => s.portAct c o) s

/-- A load of the own core's buffers (R147), checked at issue and read in its port cycle; `quiet` for `ldn`, whose faults write 0
and leave the base. -/
def State.loadLocal (s : State) (x : Load) (quiet : Bool) : Out :=
  let c := s.ctx
  let w := accW x.t x.dw
  let base := c.src x.a
  let addr := accAddr base x.off x.pi
  if !c.guard x.g then .next s
  else match c.scalarFault x.sp addr w false with
    | some cls =>
      if quiet then .next (s.setCtx (c.result s.now x.g .m 4 (sCode x.d) 0))
      else .next (s.precise x.g .m cls addr)
    | none =>
      if c.kills x.g 4 then .next s
      else
        let q := c.queue s.now .m ((s.core s.cur).syllable .m) x.sp (.load addr w x.t x.dw)
        let d : Flight := { fin := s.now + 4, born := s.now, code := sCode x.d, slot := .m, val := 0, sq := x.g.sq, pid := c.nextPort }
        .next (s.setCtx { q with flight := q.flight ++ d :: piFlight s.now .m x.pi (srcCode x.a) (offAddr base x.off) c.nextPort })

/-- R147; latency 4. -/
def execLd (x : Load) (s : State) : Out := s.loadLocal x false
/-- R147. -/
def execLdn (x : Load) (s : State) : Out := s.loadLocal x true

/-- R147: the low bytes of the source; the word takes fresh check bits (R149). -/
def execSt (x : Store) (s : State) : Out :=
  let c := s.ctx
  let w := accW x.t x.dw
  let base := c.src x.a
  let addr := accAddr base x.off x.pi
  if !c.guard x.g then .next s
  else match c.scalarFault x.sp addr w true with
    | some cls => .next (s.precise x.g .m cls addr)
    | none =>
      let q := c.queue s.now .m ((s.core s.cur).syllable .m) x.sp (.store true [wholePiece addr w (c.src x.d).toNat])
      .next (s.setCtx (if x.pi then q.result s.now x.g .m 1 (srcCode x.a) (offAddr base x.off) else q))

/-- `ceil(n/8)`. -/
def ceil8 (n : Nat) : Nat := (n + 7) / 8

/-- SP with a new offset (R124): OFF in bits 17:3. -/
def spOf (off : Nat) : Word := BitVec.ofNat 64 (off / 8 % 2 ^ 15 * 8)

/-- The port and the next bundle are held for `ceil(n/8)` ck (R157). -/
def State.holdMulti (s : State) (n : Nat) : State :=
  let k := s.core s.cur
  s.setCore s.cur { k with holdUntil := max k.holdUntil (s.now + ceil8 n), portFree := max k.portFree (s.now + ceil8 n) }

/-- R157. -/
def execPushm (x : Multi) (s : State) : Out :=
  let c := s.ctx
  let sp := c.sp.toNat
  let n := x.n.val
  if !c.guard x.g then .next s
  else if sp < 0x8000 || 0x3FFF8 < sp + 8 * n then .next (s.precise x.g .m .buffer sp)
  else
    let q := c.queue s.now .m ((s.core s.cur).syllable .m) .jb
      (.store false ((List.range n).map (fun i => wholePiece (sp + 8 * i) 8 (c.byCode (x.f.val + i)).toNat)))
    .next ((s.setCtx { q with sp := spOf (sp + 8 * n) }).holdMulti n)

/-- R157: results of latency 3 + ceil(n/8) that enter no latch. The spec names no ECC exception of a pop: a word marked
uncorrectable is read as it stands (DESIGN CHOICE, log entry 77). -/
def execPopm (x : Multi) (s : State) : Out :=
  let c := s.ctx
  let n := x.n.val
  if !c.guard x.g then .next s
  else if c.sp.toNat < 0x8000 + 8 * n then .next (s.precise x.g .m .buffer c.sp.toNat)
  else
    let sp := c.sp.toNat - 8 * n
    let q := c.queue s.now .m ((s.core s.cur).syllable .m) .jb (.pop sp n)
    let fs : List Flight := (List.range n).map (fun i =>
      { fin := s.now + 3 + ceil8 n, born := s.now, code := x.f.val + i, slot := .m, val := 0, latch := false, pid := c.nextPort + i })
    .next ((s.setCtx { q with flight := q.flight ++ fs, sp := spOf sp }).holdMulti n)

/-- A local atomic (R154 to R156): checked at issue, run at the bank ALU in its port cycle. -/
def State.atomLocal (s : State) (x : Atom) (op : AOp) : Out :=
  let c := s.ctx
  let w := accW x.t x.dw
  let addr := (c.src x.a).toNat
  match c.scalarFault x.sp addr w true with
  | some cls => .next (s.precise x.g .m cls addr)
  | none =>
    let q := c.queue s.now .m ((s.core s.cur).syllable .m) x.sp
      (.atom op addr w (c.src x.b).toNat (c.src x.c).toNat x.t x.dw x.tok)
    .next (s.setCtx (q.tokenPend x.tok))

end Sys2Proof.Machine
end

