-- ==== Sys2Proof/Machine/Track.lean ====
section
/-! DEFINITION. HBM tracks (06_memory.md R140 to R144): the calendar, owned and borrowed requests, refresh retries. -/

namespace Sys2Proof.Machine

/-- The channel of a KIND 0x00 address (R140). -/
def chanOf (pa : Nat) : Nat := bits pa 6 9
/-- The owner of a space of a channel. -/
def State.ownerOf (s : State) (ch sp : Nat) : Option CoreId :=
  (s.owners.find? (fun o => o.1 == ch && o.2.1 == sp)).map (fun o => o.2.2)
/-- A core owns a space of a channel. -/
def State.ownsSome (s : State) (c : CoreId) (ch : Nat) : Bool := s.owners.any (fun o => o.1 == ch && o.2.2 == c)
/-- D (R142); 180 where firmware wrote none (DESIGN CHOICE, log entry 4). -/
def State.latD (s : State) (c : CoreId) (ch : Nat) : Nat :=
  match s.dtab.find? (fun d => d.1 == 512 * c.val + ch) with | some d => d.2 | none => 180
/-- The space of the shared lap counter (R141). -/
def State.space (s : State) : Nat := s.now % 256 / 4

/-- A request enters its channel's queues. -/
def State.addTrack (s : State) (r : TrackReq) : State := { s with tracks := s.tracks ++ [r] }

/-- Who a request borrows for: a core by its number, or the node walker, after core 127 (R143). -/
def TrackReq.who (r : TrackReq) : Nat := match r.src with | .walk _ => 128 | _ => r.core.val
/-- A request that nothing waits for any more: it stays in service until its stack answers, and goes if no space has served it (R472). -/
def TrackReq.gone (r : TrackReq) : Option TrackReq := if r.served.isSome then some { r with src := .gone r.fn } else none
/-- The first request of a borrower, or of an owner, in a channel, if it is ready; those served have left the queue. A retried one
stands at the head, the one retried last first (R143, R144). -/
def State.firstReq (s : State) (ch who : Nat) (borrowed : Bool) : Option Nat :=
  let ok (r : TrackReq) : Bool := r.chan == ch && r.who == who && r.borrowed == borrowed && r.served.isNone
  let order := (s.tracks.zip (List.range s.tracks.length)).filter (fun p => ok p.1)
  let best := order.foldl (fun (b : Option (TrackReq × Nat)) p =>
    match b with
    | none => some p
    | some q => if p.1.head && !q.1.head then some p else if !p.1.head && !q.1.head && p.1.ready < q.1.ready then some p else b) none
  match best with
  | some (r, i) => if r.ready ≤ s.now then some i else none
  | none => none
def State.setTrack (s : State) (i : Nat) (f : TrackReq → TrackReq) : State :=
  match s.tracks[i]? with
  | some r => { s with tracks := s.tracks.set i (f r) }
  | none => s
/-- The next borrower in turn with an eligible request (R143). -/
def State.nextBorrower (s : State) (ch : Nat) : Option (Nat × Nat) :=
  let last := match s.turn.find? (fun t => t.1 == ch) with | some t => t.2 | none => 128
  (List.range 129).findSome? (fun k =>
    let c := (last + 1 + k) % 129
    (s.firstReq ch c true).map (fun i => (c, i)))

/-- R141: the event TRACK_SPACE of a channel, at the cycle a space begins; it serves one request. -/
def execTrackSpace (ch : Fin 512) (s : State) : Out :=
  if s.now % 4 != 0 then .next s
  else match s.ownerOf ch.val s.space with
    | some c =>
      match s.firstReq ch.val c.val false with
      | some i => .next (s.setTrack i (fun r => { r with served := some s.now, due := some (s.now + s.latD c ch.val) }))
      | none => .next s
    | none =>
      match s.nextBorrower ch.val with
      | some (c, i) =>
        let s := s.setTrack i (fun r => { r with served := some s.now })
        .next { s with turn := (ch.val, c) :: s.turn.filter (fun t => t.1 != ch.val) }
      | none => .next s

/-- R142: the event TRACK_LAP_BOUNDARY: the owner maps written since, and the latencies. A request that waits for an owned space of a core
that owns none of its channel any more is borrowed (R143). -/
def execTrackLapBoundary (s : State) : Out :=
  if s.now % 256 != 0 then .next s
  else
    let own := s.pendOwners.foldl (fun (o : List (Nat × Nat × CoreId)) p =>
      o.filter (fun x => x.1 != p.1) ++ p.2.map (fun q => (p.1, q.1, q.2))) s.owners
    let d := s.pendD.foldl (fun (t : List (Nat × Nat)) p => p :: t.filter (fun x => x.1 != p.1)) s.dtab
    let s := { s with owners := own, pendOwners := [], dtab := d, pendD := [] }
    .next { s with tracks := s.tracks.map (fun r =>
      if !r.borrowed && r.served.isNone && !(s.ownsSome r.core r.chan) then { r with borrowed := true } else r) }

/-- The start of the first space with a number in a lap at or after a cycle; a space that begins in the very cycle in which the retry
response arrives counts (R144 leaves that cycle open: DESIGN CHOICE, log entry 79). -/
def spaceFrom (t sp : Nat) : Nat := if t ≤ t / 256 * 256 + 4 * sp then t / 256 * 256 + 4 * sp else (t / 256 + 1) * 256 + 4 * sp
/-- R144: the event REFRESH_RETRY for a served request: a retry with hint `h` in 1..63 comes in place of the data. -/
def execRefreshRetry (i : Nat) (h : Fin 64) (s : State) : Out :=
  match s.tracks[i]? with
  | some r =>
    match r.served with
    | some t =>
      let late := match r.due with | some d => decide (d ≤ s.now) | none => true
      if h == 0 || !late then .next s
      else if (match r.src with | .gone _ => true | _ => false) then .next { s with tracks := s.tracks.eraseIdx i }
      else
        let ready := (spaceFrom s.now ((t % 256 / 4 + h.val) % 64))
        let s := { s with tracks := { r with served := none, due := none, borrowed := true, head := true, ready } :: s.tracks.eraseIdx i }
        match r.src with
        | .acc _ => .next s
        | .gone _ => .next s
        | .walk _ => .next s
        | .cmd q =>
          let x := s.ctxOf r.core
          .next (s.setCtxOf r.core { x with cmds := x.cmds.map (fun m =>
            if m.seq.toNat == q && !m.done && m.eng == .xe then { m with retry := min 255 (m.retry + 1) } else m) })
    | none => .next s
  | none => .next s

/-- The track of a request, if it has one. -/
def State.trackOf (s : State) (c : CoreId) (src : WinSrc) (idx : Nat) : Option TrackReq :=
  s.tracks.find? (fun r => r.core == c && r.src == src && r.idx == idx)
/-- A request with no track, or whose space has begun (and for an owned space, D has passed), may answer. -/
def State.trackReady (s : State) (c : CoreId) (src : WinSrc) (idx : Nat) : Bool :=
  match s.trackOf c src idx with
  | none => true
  | some r => r.served.isSome && (match r.due with | some d => decide (d ≤ s.now) | none => true)
def State.dropTrack (s : State) (c : CoreId) (src : WinSrc) (idx : Nat) : State :=
  { s with tracks := s.tracks.filter (fun r => !(r.core == c && r.src == src && r.idx == idx)) }

/- The translations of an engine's requests (R138, R292). -/
/-- A page that a command's request names is translated: at once where the core TLB holds it, 24 ck after a hit of the cluster TLB,
else when its walk is done. A fault found by the walk counts as an answer, which the request then meets. -/
def State.pageFor (s : State) (c : CoreId) (q : BitVec 32) (va : Nat) : State × Bool :=
  let x := s.ctxOf c
  let page := va / 4096 * 4096
  let note (s : State) (t : Option Nat) : State :=
    let x := s.ctxOf c
    s.setCtxOf c { x with cmds := x.cmds.map (fun (m : Cmd) => if m.seq == q then { m with pages := (page, t) :: m.pages } else m) }
  let walking (s : State) : Bool := s.walks.any (fun w => w.page == page && w.fn == x.tfn && w.asid == x.asid)
  if 2 ^ 57 ≤ va || (tlbFind (s.core c).tlb x.tfn x.asid va).isSome then (s, true)
  else match (match x.cmds.find? (fun m => m.seq == q) with | some m => m.pages.find? (fun (p : Nat × Option Nat) => p.1 == page) | none => none) with
    | some (_, some t) => (s, decide (t ≤ s.now))
    | some (_, none) => (s, !walking s)
    | none =>
      if (tlbFind (s.cluTlb c) x.tfn x.asid va).isSome then (note s (some (s.now + 24)), false)
      else
        let t := s.startWalk c va true
        (if walking t then note t none else t, false)

/- The walker's requests (R143). -/
/-- The next step of the walk at place `i`: a borrowed request for the entry it reads next, or the entry, once its space has come.
Entries of another node's tables take no space of this node. -/
def State.walkStep (s : State) (i : Nat) : State :=
  match s.walks[i]? with
  | none => s
  | some w =>
    let set (w : Walk) (s : State) : State := { s with walks := s.walks.set i w }
    match (s.pathFrom w.page 5 w.root)[w.n]? with
    | none => s
    | some a =>
      let src := WinSrc.walk (w.page + 2 ^ 57 * (w.fn * 256 + w.asid))
      if paNode a != s.nodeId then set { w with n := w.n + 1 } s
      else if !w.asked then
        (set { w with asked := true } s).addTrack { core := 0, src, idx := w.n, chan := chanOf a, ready := s.now + 1, borrowed := true, fn := w.fn }
      else if s.trackReady 0 src w.n then (set { w with n := w.n + 1, asked := false } s).dropTrack 0 src w.n
      else s
/-- A walk has read its last entry. -/
def State.walkOver (s : State) (w : Walk) : Bool := (s.pathFrom w.page 5 w.root).length ≤ w.n
/-- R138: the event PAGE_WALK_DONE for the walk at place `i`, once it has read its last entry. -/
def execPageWalkDone (i : Nat) (s : State) : Out :=
  match s.walks[i]? with
  | some w => if s.walkOver w then .next (s.walkDone i) else .next s
  | none => .next s

end Sys2Proof.Machine
end

