-- ==== Sys2Proof/Machine/Global.lean ====
section
/-! DEFINITION. Global accesses of the sequencer: `ldg`, `stg`, `prf`, global atomics and `fence` at issue (R150 to R156,
R169, R170), their returns (R151, R152, R155), and window units (R304, R305). -/

namespace Sys2Proof.Machine

/-- A memory of this node whose reads are plain bytes: HBM, slices, pool. -/
def plainKind (k : Nat) : Bool := k == 0 || k == 1 || (0x10 ≤ k && k ≤ 0x17)

/-- Kinds that a scalar access may not reach (R150), and node control space (R366). -/
def State.scalarKind (s : State) (fn pa n : Nat) (k : AccK) : Option TrapClass :=
  let kind := paKind pa
  if kind == 2 || kind == 3 then some .buffer
  else if kind == 4 then (if k == .wr then none else some .buffer)
  else if k == .at && (kind != 0 || paNode pa != s.nodeId) then some .buffer
  else if kind == 5 then
    -- the layout is every node's; who owns a queue of another node only that node knows
    if paNode pa == s.nodeId then s.ctlCheck fn (paOff pa) n k
    else if ctlRow (paOff pa) n k == some true then none else some .buffer
  else none

/-- The checks of R150 at the bundle, and the physical address. -/
def State.gCheck (s : State) (va n : Nat) (k : AccK) : State × Except TrapClass Nat :=
  if va % n != 0 then (s, .error .align)
  else
    let (s, r) := s.xlate s.cur va n k
    match r with
    | .error e => (s, .error e)
    | .ok pa => match s.scalarKind s.ctx.fn.val pa n k with
      | some cls => (s, .error cls)
      | none => (s, .ok pa)

/-- An access goes out (R151, R152, R155); one to this node's HBM borrows a space (R143). -/
def State.issueAcc (s : State) (g : GAcc) : State :=
  let x := s.ctx
  let s := if paKind g.pa == 0 && paNode g.pa == s.nodeId then
      s.addTrack { core := s.cur, src := .acc x.nextAcc, chan := chanOf g.pa, ready := s.now + 1, borrowed := true, fn := x.fn.val }
    else s
  s.setCtx { x.tokenPend g.tok with gacc := x.gacc ++ [{ g with id := x.nextAcc, born := s.now, syl := (s.core s.cur).syllable .m, pc := x.pc, seq := x.lastSeq.toNat }], nextAcc := x.nextAcc + 1 }

/-- R151. -/
def execLdg (x : GLoad) (s : State) : Out :=
  let va := (offAddr (s.ctx.src x.a) x.off).toNat
  let n := accW x.t x.dw
  if !s.ctx.guard x.g then .next s
  else match s.gCheck va n .rd with
    | (s, .error cls) => .next (s.precise x.g .m cls va)
    | (s, .ok pa) =>
      .next (s.issueAcc { id := 0, ins := .ldg x, pc := 0, seq := 0, va, pa, cls := x.oc.val, tok := x.tok, width := n })
/-- R153: the TLBs alone; a page whose translation faults leaves them. The spec names no permission that `prf` needs: it is checked as
a read (DESIGN CHOICE, log entry 78). -/
def execPrf (x : GLoad) (s : State) : Out :=
  let va := (offAddr (s.ctx.src x.a) x.off).toNat
  if !s.ctx.guard x.g then .next s
  else match s.xlate s.cur va 1 .rd with
    | (_, .error _) => .next s
    | (t, .ok _) => .next t

/-- The window bytes of a store at byte offset `o` of a 64-byte unit. -/
def winData (o : Nat) (bs : List Byte) : List (Option Byte) :=
  (List.range 64).map (fun i => if o ≤ i then bs[i - o]? else none)
/-- A window unit sent to a physical window address, ready for its lane at cycle `t`. -/
def State.winSend (s : State) (c : CoreId) (src : WinSrc) (idx pa : Nat) (bs : List Byte) (sh : Bool) (t : Nat) : State :=
  let o := paOff pa
  let u : WinUnit :=
    { core := c, src, idx, clu := bits o 26 4, mask := bits o 32 8, buf := bufOf (bits o 24 2), off := bits o 0 23 / 64 * 64,
      data := winData (bits o 0 23 % 64) bs, sh, ready := t }
  { s with winUnits := s.winUnits ++ [u] }
/-- A unit for the sender's own cluster, which has the core's lane (R305). -/
def WinUnit.own (u : WinUnit) : Bool := u.clu == cluOf u.core
/-- A store of the sequencer. -/
def WinUnit.isStg (u : WinUnit) : Bool := match u.src with | .acc _ => true | _ => false
/-- The unit that a core's lane carries in this cycle: the first to be ready, the sequencer's in a tie (R305). -/
def State.laneNext (s : State) (c : CoreId) : Option Nat :=
  ((s.winUnits.zip (List.range s.winUnits.length)).filter (fun p => p.1.core == c && p.1.own && p.1.due.isNone && p.1.ready ≤ s.now)).foldl
    (fun (b : Option (WinUnit × Nat)) p => match b with
      | none => some p
      | some q => if p.1.ready < q.1.ready || (p.1.ready == q.1.ready && p.1.isStg && !q.1.isStg) then some p else b) none |>.map Prod.snd
/-- A core's lane in one cycle: the unit lands 20 ck later. -/
def State.lane (s : State) (c : CoreId) : State :=
  match s.laneNext c with
  | none => s
  | some i => { s with winUnits := (s.winUnits.zip (List.range s.winUnits.length)).map (fun p =>
      if p.2 == i then { p.1 with due := some (s.now + 20) } else p.1) }
/-- A cluster's foreign lane in one cycle: the first unit in the order of arrival (R305). -/
def State.foreignLane (s : State) (clu : Nat) : State :=
  match (List.range s.winUnits.length).find? (fun i => match s.winUnits[i]? with
      | some u => !u.own && u.clu == clu && u.due.isNone && decide (u.ready ≤ s.now)
      | none => false) with
  | none => s
  | some i => { s with winUnits := s.winUnits.modify i (fun u => { u with due := some (s.now + 20) }) }

/-- R152; into KIND 0x04 the store is a window unit, ready at issue + 2 (R305). -/
def execStg (x : Store) (s : State) : Out :=
  let va := (offAddr (s.ctx.src x.a) x.off).toNat
  let n := accW x.t x.dw
  if !s.ctx.guard x.g then .next s
  else match s.gCheck va n .wr with
    | (s, .error cls) => .next (s.precise x.g .m cls va)
    | (s, .ok pa) =>
      let v := s.ctx.src x.d
      let id := s.ctx.nextAcc
      let s := s.issueAcc { id := 0, ins := .stg x, pc := 0, seq := 0, va, pa, cls := x.oc.val, tok := 0, width := n, b := v }
      .next (if paKind pa == 4 && paNode pa == s.nodeId then s.winSend s.cur (.acc id) 0 pa (leBytes v.toNat n) false (s.now + 2) else s)

/-- A scalar atomic: the bank ALU for spaces 1 to 4 (R155, R156), the memory side for space 0. -/
def State.atomic (s : State) (x : Atom) (op : AOp) (i : Instr) : Out :=
  if !s.ctx.guard x.g then .next s
  else if x.sp != .g then s.atomLocal x op
  else
    let va := (s.ctx.src x.a).toNat
    let n := accW x.t x.dw
    match s.gCheck va n .at with
    | (s, .error cls) => .next (s.precise x.g .m cls va)
    | (s, .ok pa) =>
      .next (s.issueAcc { id := 0, ins := i, pc := 0, seq := 0, va, pa, cls := x.oc.val, tok := x.tok, width := n,
                          b := s.ctx.src x.b, c := s.ctx.src x.c })
/-- R154. -/
def execAadd (x : Atom) (s : State) : Out := s.atomic x .add (.aadd x)
/-- R154. -/
def execAand (x : Atom) (s : State) : Out := s.atomic x .and (.aand x)
/-- R154. -/
def execAor (x : Atom) (s : State) : Out := s.atomic x .or (.aor x)
/-- R154. -/
def execAxor (x : Atom) (s : State) : Out := s.atomic x .xor (.axor x)
/-- R154. -/
def execAmin (x : Atom) (s : State) : Out := s.atomic x .min (.amin x)
/-- R154. -/
def execAmax (x : Atom) (s : State) : Out := s.atomic x .max (.amax x)
/-- R154. -/
def execAminn (x : Atom) (s : State) : Out := s.atomic x .minn (.aminn x)
/-- R154. -/
def execAmaxn (x : Atom) (s : State) : Out := s.atomic x .maxn (.amaxn x)
/-- R154. -/
def execAxchg (x : Atom) (s : State) : Out := s.atomic x .xchg (.axchg x)
/-- R154. -/
def execAcas (x : Atom) (s : State) : Out := s.atomic x .cas (.acas x)
/-- R154. -/
def execAfadd (x : Atom) (s : State) : Out := s.atomic x .fadd (.afadd x)
/-- R154. -/
def execAfmax (x : Atom) (s : State) : Out := s.atomic x .fmax (.afmax x)

/-- R170: the hold before issue is the cycle's (`State.fenceHeld`); the fence itself writes nothing. -/
def execFence (_ : Fence) (s : State) : Out := .next s

/-- The scope of a physical location for a core (R160): 1 cluster, 2 node, 3 partition, 4 system. -/
def State.locScope (s : State) (c : CoreId) (pa : Nat) : Nat :=
  let k := paKind pa
  let o := paOff pa
  if 0x10 ≤ k && k ≤ 0x17 then 4
  else if paNode pa != s.nodeId then 3
  else if k == 1 && bits o 23 4 == cluOf c then 1
  else if k == 4 && bits o 26 4 == cluOf c then 1
  else if k == 2 && bits o 28 4 == cluOf c then 1
  else 2
/-- A fence holds its bundle (R170): a covered global access, or at node scope and wider a sequencer flag operation, has
not performed. -/
def State.fenceHeld (s : State) (x : Fence) : Bool :=
  let c := s.ctx
  c.guard x.g &&
  (c.gacc.any (fun g => x.mask.getLsbD g.cls && s.locScope s.cur g.pa ≤ x.scope.val) ||
   (2 ≤ x.scope.val && c.cmds.any (fun m => !m.done && isFlagQ0 m.ins)))
where
  isFlagQ0 : Instr → Bool
    | .fset x => x.q == 0
    | .finc x => x.q == 0
    | .fclr x => x.q == 0
    | .fget x => x.q == 0
    | _ => false

/- Returns. -/
/-- The access has performed. -/
def Ctx.dropAcc (c : Ctx) (id : Nat) : Ctx := { c with gacc := c.gacc.filter (fun g => g.id != id) }
/-- The access `id` of a core, when its packet is not on hold (R333) and every earlier access of its class has performed (R163). -/
def State.acc? (s : State) (a : AccAns) : Option GAcc :=
  let x := s.ctxOf a.core
  match x.gacc.find? (fun g => g.id == a.id) with
  | none => none
  | some g =>
    if (x.gacc.takeWhile (fun h => h.id != a.id)).all (fun h => h.cls != g.cls) && s.trackReady a.core (.acc a.id) 0 &&
       s.onWay (.acc a.core a.id) && Answer.legal a.ans then some g else none

/-- Bytes of this node at a physical address. -/
def State.own (s : State) (pa n : Nat) : List Byte :=
  if paKind pa == 5 then s.ctlRead (paOff pa) n false else s.load (paKey pa) n
/-- Bytes of a global location, or the failure that reached the access. Where the location is of this node's HBM, slices
or control space, the node's own state answers; from elsewhere the answer carries the bytes. -/
def State.gRead (s : State) (pa n : Nat) (ans : Answer) : Except TrapClass (List Byte) :=
  match ans with
  | .fail cls =>
    if paNode pa == s.nodeId && paKind pa < 0x10 then (if (eccHit s.ecc (paKey pa) n).isSome then .error .ecc else .ok (s.own pa n))
    else .error cls
  | .ok bs =>
    if paNode pa != s.nodeId then .ok ((bs ++ List.replicate n 0).take n)
    else if 0x10 ≤ paKind pa && !s.poolOk (paKind pa - 0x10) (paOff pa) n then .error .access
    else if (eccHit s.ecc (paKey pa) n).isSome then .error .ecc
    else .ok (s.own pa n)

/-- A failure of an access with a token (R151): the token is marked, and pending no more. -/
def Ctx.markTok (c : Ctx) (g : GAcc) (cls : TrapClass) : Ctx :=
  let c := { c with toks := c.toks.filter (· != g.tok) }
  { c with pend := c.pend ++ [{ cls, pc := g.pc, slot := .m, seq := g.seq, addr := g.va, tok := g.tok, oc := g.cls, syl := g.syl }] }
/-- A store's failure is recorded (R152). -/
def Ctx.recordStore (c : Ctx) (g : GAcc) (cls : TrapClass) : Ctx :=
  { c with pend := c.pend ++ [{ cls, pc := g.pc, slot := .m, seq := g.seq, addr := g.va, oc := g.cls, store := true, syl := g.syl }] }

/-- R151: the event LDG_RETURN. -/
def execLdgReturn (a : AccAns) (s : State) : Out :=
  match s.acc? a with
  | some g =>
    let s := (s.dropTrack a.core (.acc a.id) 0).dropPkt (.acc a.core a.id)
    match g.ins with
    | .ldg x =>
      let c := (s.ctxOf a.core).dropAcc a.id
      match s.gRead g.pa g.width a.ans with
      | .ok bs => .next (s.setCtxOf a.core (c.tokenWrite x.tok (accExt x.t x.dw (leNat bs))))
      | .error cls => .next (s.setCtxOf a.core (c.markTok g cls))
    | _ => .next s
  | none => .next s

/-- R152: the event STG_ACK. A store into this node performs here; one into a window has landed before. -/
def execStgAck (a : AccAns) (s : State) : Out :=
  match s.acc? a with
  | some g =>
    match g.ins with
    | .stg _ =>
      let s := (s.dropTrack a.core (.acc a.id) 0).dropPkt (.acc a.core a.id)
      let bs := leBytes g.b.toNat g.width
      let own := paNode g.pa == s.nodeId
      let done (s : State) : Out := .next (s.setCtxOf a.core ((s.ctxOf a.core).dropAcc a.id))
      let bad (cls : TrapClass) : Out := .next (s.setCtxOf a.core (((s.ctxOf a.core).dropAcc a.id).recordStore g cls))
      if own && paKind g.pa == 4 then
        match g.landed with
        | none => .next s
        | some true => done s
        | some false => bad .buffer
      else if own && paKind g.pa == 5 then
        match s.ctlWrite (paOff g.pa) bs with
        | some s => done s
        | none => bad .access
      else if !own then
        match a.ans with
        | .ok _ => done s
        | .fail cls => bad cls
      else if 0x10 ≤ paKind g.pa && !s.poolOk (paKind g.pa - 0x10) (paOff g.pa) g.width then bad .access
      else done (s.store (paKey g.pa) bs)
    | _ => .next s
  | none => .next s

/-- The operation and operands of a scalar atomic. -/
def atomOf : Instr → Option (AOp × Atom)
  | .aadd x => some (.add, x) | .aand x => some (.and, x) | .aor x => some (.or, x) | .axor x => some (.xor, x)
  | .amin x => some (.min, x) | .amax x => some (.max, x) | .aminn x => some (.minn, x) | .amaxn x => some (.maxn, x)
  | .axchg x => some (.xchg, x) | .acas x => some (.cas, x) | .afadd x => some (.fadd, x) | .afmax x => some (.fmax, x)
  | _ => none
/-- R155: the event GLOBAL_ATOMIC_RETURN; the read-modify-write and its token. -/
def execGlobalAtomicReturn (a : AccAns) (s : State) : Out :=
  match s.acc? a with
  | some g =>
    match atomOf g.ins with
    | some (op, x) =>
      let s := s.dropTrack a.core (.acc a.id) 0
      let c := (s.ctxOf a.core).dropAcc a.id
      match s.gRead g.pa g.width (.ok []) with
      | .ok bs =>
        let old := leNat bs
        let s := s.setCtxOf a.core (c.tokenWrite x.tok (accExt x.t x.dw old))
        .next (s.store (paKey g.pa) (leBytes (op.apply g.width old g.b.toNat g.c.toNat) g.width))
      | .error cls => .next (s.setCtxOf a.core (c.markTok g cls))
    | none => .next s
  | none => .next s

/- Accesses of engines by virtual address, in 64-byte units (R132). -/
/-- The pieces of `[va, va+n)` that lie in one 64-byte unit each. -/
def chunks (va n : Nat) : List (Nat × Nat) :=
  if n == 0 then [] else
  (List.range ((va % 64 + n + 63) / 64)).map (fun i =>
    let lo := max va (va / 64 * 64 + 64 * i)
    let hi := min (va + n) (va / 64 * 64 + 64 * (i + 1))
    (lo, hi - lo))
/-- Every byte of `[va, va+n)` lies in this node, or the access meets a fault. -/
def State.allOwn (s : State) (c : CoreId) (va n : Nat) (k : AccK) : Bool :=
  (chunks va n).all (fun ch => match (s.xlate c ch.1 ch.2 k).2 with | .ok pa => paNode pa == s.nodeId | .error _ => true)
/-- The pages of pieces of virtual bytes are all translated for a command (R138). -/
def State.pagesFor (s : State) (c : CoreId) (q : BitVec 32) (cs : List (Nat × Nat)) : State × Bool :=
  cs.foldl (fun (a : State × Bool) ch => let (s, ok) := a.1.pageFor c q ch.1; (s, a.2 && ok)) (s, true)
/-- A command's request of a granule goes out: in this node's HBM it waits for a space of its channel, an owned one with `tr` (R143,
R292). -/
def State.sendPart (s : State) (c : CoreId) (q : BitVec 32) (idx va n : Nat) (k : AccK) (tr : Bool) : State :=
  match s.xlate c va n k with
  | (s, .error _) => s
  | (s, .ok pa) =>
    if paKind pa == 0 && paNode pa == s.nodeId then
      s.addTrack { core := c, src := .cmd q.toNat, idx, chan := chanOf pa, ready := s.now, borrowed := !(tr && s.ownsSome c (chanOf pa)), fn := (s.ctxOf c).fn.val }
    else s
/-- An engine's read of virtual bytes: `pol` is what the kinds of the translated addresses refuse; the answer carries the
bytes that come from outside the node. The failure names its class and address. -/
def State.gReadVa (s : State) (c : CoreId) (va n : Nat) (ans : Answer) (pol : State → Nat → Nat → Option TrapClass) :
    State × Except (TrapClass × Nat) (List Byte) :=
  (chunks va n).foldl (fun (a : State × Except (TrapClass × Nat) (List Byte)) ch =>
    match a.2 with
    | .error e => (a.1, .error e)
    | .ok got =>
      let (s, r) := a.1.xlate c ch.1 ch.2 .rd
      match r with
      | .error cls => (s, .error (cls, ch.1))
      | .ok pa => match pol s pa ch.2 with
        | some cls => (s, .error (cls, ch.1))
        | none =>
          let sub : Answer := match ans with | .ok bs => .ok (bs.drop got.length) | .fail f => .fail f
          match s.gRead pa ch.2 sub with
          | .ok bs => (s, .ok (got ++ bs))
          | .error cls => (s, .error (cls, ch.1))) (s, .ok [])
/-- Bytes written at a physical address of this node, or the class of a refusal (R369, R392). -/
def State.gWrite (s : State) (pa : Nat) (bs : List Byte) (ans : Answer) : Except TrapClass State :=
  if paNode pa != s.nodeId then (match ans with | .ok _ => .ok s | .fail cls => .error cls)
  else if paKind pa == 5 then (match s.ctlWrite (paOff pa) bs with | some s => .ok s | none => .error .access)
  else if 0x10 ≤ paKind pa && !s.poolOk (paKind pa - 0x10) (paOff pa) bs.length then .error .access
  else .ok (s.store (paKey pa) bs)
/-- An engine's write of virtual bytes that lie in one 64-byte unit. -/
def State.gWriteVa (s : State) (c : CoreId) (va : Nat) (bs : List Byte) (ans : Answer) (pol : State → Nat → Nat → Option TrapClass) :
    State × Option (TrapClass × Nat) :=
  (chunks va bs.length).foldl (fun (a : State × Option (TrapClass × Nat)) ch =>
    if a.2.isSome then a else
    let (s, r) := a.1.xlate c ch.1 ch.2 .wr
    match r with
    | .error cls => (s, some (cls, ch.1))
    | .ok pa => match pol s pa ch.2 with
      | some cls => (s, some (cls, ch.1))
      | none => match s.gWrite pa ((bs.drop (ch.1 - va)).take ch.2) ans with
        | .ok s => (s, none)
        | .error cls => (s, some (cls, ch.1))) (s, none)

/- Window units (R305). -/
/-- The half of a mapped pair an AB offset lies in: its map slot and whether it is bank 2k+1 (R302). -/
def Ctx.pairAt (c : Ctx) (off : Nat) : Option (Fin 8 × Bool) :=
  match (List.range 8).find? (fun i =>
    let m := (c.xmaps.toList.getD i 0).toNat
    bits m 0 3 == 2 && bits m 8 24 ≤ off && off < bits m 8 24 + 0x30000) with
  | some i => some (Fin.ofNat 8 i, bits (c.xmaps.toList.getD i 0).toNat 8 24 + 0x18000 ≤ off)
  | none => none
/-- Where a unit lands in a target (R305): with sh in the shadow half, or at the offset plus 0x1_8000 without a map. The
visible half of a pair stands at bank 2k. -/
def winOff (c : Ctx) (u : WinUnit) : Nat :=
  if !u.sh then u.off
  else if u.buf != .ab then u.off + 0x18000
  else match c.pairAt u.off with | some (_, true) => u.off | _ => u.off + 0x18000
/-- Bytes under their enables. -/
def State.putSome (s : State) (a : Nat) (bs : List (Option Byte)) : State :=
  if bs.all Option.isSome then s.store a (bs.filterMap id) else
  (bs.zip (List.range bs.length)).foldl (fun s p => match p.1 with | some b => s.store (a + p.2) [b] | none => s) s
/-- The target cores of a unit. -/
def WinUnit.targets (u : WinUnit) : List CoreId :=
  ((List.range 8).filter (fun c => bit u.mask c)).map (fun c => Fin.ofNat 128 (u.clu * 8 + c))
/-- An enabled byte of a unit that lands at `o` lies in a bound link buffer, which only FI writes (R329). -/
def Ctx.linkHit (c : Ctx) (u : WinUnit) (o : Nat) : Bool :=
  u.buf == .ab && c.lbufs.toList.any (fun b => match b with
    | some b => (List.range 64).any (fun i => (u.data.getD i none).isSome && regOff b.region ≤ o + i && o + i < regOff b.region + regLen b.region)
    | none => false)
/-- A unit lands nowhere if it does not fit some target: without sh, where a mapped pair hides its bytes (R305); in a bound link
buffer (R329); past the buffer's end (log entry 80). -/
def State.winRefused (s : State) (u : WinUnit) : Bool :=
  u.targets.any (fun t =>
    let x := s.ctxOf t
    (!u.sh && u.buf == .ab && (match x.pairAt u.off with | some (_, b) => b | none => false)) ||
      x.linkHit u (winOff x u) || decide (Space.size u.buf < winOff x u + 64))
/-- The landing of a unit in every target, or in none. -/
def State.winLand (s : State) (u : WinUnit) : State × Bool :=
  if s.winRefused u then (s, false)
  else (u.targets.foldl (fun s t => s.putSome (bufKey t u.buf (winOff (s.ctxOf t) u)) u.data) s, true)
/-- Two units write a byte of one target, where each lands in it (R175, R305). -/
def State.unitsMeet (s : State) (u v : WinUnit) : Bool :=
  u.clu == v.clu && u.buf == v.buf && u.targets.any (fun t => v.targets.any (fun r => r == t) && winOff (s.ctxOf t) u == winOff (s.ctxOf t) v)
/-- What keeps a unit from landing (R163, R175, R305): its lane or its landing cycle is still to come; a unit of a lower core that lands
in this cycle on the same bytes; for a store, an earlier access of its class. -/
def State.winHeld (s : State) (u : WinUnit) : Bool :=
  (match u.due with
   | some d => decide (s.now < d)
   | none => true) ||
  s.winUnits.any (fun v => v.core < u.core && (match v.due with | some d => decide (d ≤ s.now) | none => false) && s.unitsMeet v u) ||
  (match u.src with | .acc id => (s.acc? { core := u.core, id, ans := .ok [] }).isNone | _ => false)

/-- R305: the event WINDOW_UNIT_LAND for the unit at place `i`. A store's unit marks its access; a command's unit that lands nowhere
is the command's BUFFER. -/
def execWindowUnitLand (i : Nat) (s : State) : Out :=
  match s.winUnits[i]? with
  | none => .next s
  | some u =>
    if s.winHeld u then .next s
    else
      let (s, ok) := { s with winUnits := s.winUnits.eraseIdx i }.winLand u
      let x := s.ctxOf u.core
      match u.src with
      | .acc id => .next (s.setCtxOf u.core { x with gacc := x.gacc.map (fun g => if g.id == id then { g with landed := some ok } else g) })
      | .cmd q =>
        .next (s.setCtxOf u.core { x with cmds := x.cmds.map (fun m =>
          if m.seq.toNat == q && !m.done then
            { m with staged := m.staged.map (fun g => if g.idx == u.idx then { g with time := s.now, here := true, fail := if ok then none else some .buffer } else g) }
          else m) })
      | .gone _ => .next s
      | .walk _ => .next s

end Sys2Proof.Machine
end

