-- ==== Sys2Proof/Machine/Matrix.lean ====
section
/-! DEFINITION. Bank formats (R40, R42), rings (R301), and the matrix commands of ME: checks and push (R246 to R257), the
arithmetic of a stream (R235 to R237), its time and counters (R240 to R244), its commit (R243) and completion (R238). -/

namespace Sys2Proof.Machine

/-- Fields of a bank format register (R40). -/
structure Fmt where
  ty : ETy
  bs : Bool
  rm : Rm
  ftz : Bool
  sat : Bool
  soff : Nat
  deriving DecidableEq, Repr

def tyOf (c : Nat) : ETy :=
  [ETy.f32, .f16, .bf16, .f8a, .f8b, .lg6, .i32, .n32, .i8, .n8, .i4, .n4].getD c .f32
def rmOf (c : Nat) : Rm := [Rm.rne, .rtz, .rup, .rdn].getD c .rne
def Fmt.of (r : BitVec 32) : Fmt :=
  let x := r.toNat
  { ty := tyOf (bits x 0 4), bs := bit x 4, rm := rmOf (bits x 5 2), ftz := bit x 7, sat := bit x 8, soff := bits x 16 9 }

/-- Bytes of a bank of WB, AB or CB (R128). -/
def bankSize : Nat := 0x18000
/-- The format of the bank that holds an offset; CB has none (R128). -/
def Ctx.fmtAt (c : Ctx) (sp : Space) (off : Nat) : Fmt :=
  match sp with
  | .wb => Fmt.of (c.wfmt.toArray.getD (off / bankSize) 0)
  | .ab => Fmt.of (c.afmt.toArray.getD (off / bankSize) 0)
  | _ => Fmt.of 0
/-- An offset lies in the buffer, so that a bank holds it: a check of a bank's format is one of R247's first two steps, an
offset beyond the buffer one of its last. -/
def inBuf (sp : Space) (off : Nat) : Bool := decide (off < Space.size sp)
/-- `[off, off+n)` lies in one bank, and in its data area when the bank is block-scaled (R40, R249, R251). -/
def Ctx.inBank (c : Ctx) (sp : Space) (off n : Nat) : Bool :=
  let f := c.fmtAt sp off
  let rel := off % bankSize
  off < Space.size sp && rel + n ≤ (if f.bs then f.soff * 256 else bankSize)
/-- Bytes of `n` elements (R24). -/
def elBytes (t : ETy) (n : Nat) : Nat := (n * t.sw + 7) / 8
def ceilDiv (a b : Nat) : Nat := (a + b - 1) / b

/-- The view of a context whose maps and link buffers are those of the push records (R300, R330). -/
def Ctx.pushView (c : Ctx) : Ctx :=
  { c with xmaps := c.xmRec, lbufs := c.lbRec.map (fun r => r.map (fun p => { bind := p.1, region := p.2 })) }

/-- The ring that holds an AB offset: START and SIZE (R299, R301). -/
def Ctx.ringAt (c : Ctx) (off : Nat) : Option (Nat × Nat) :=
  (c.xmaps.toList.find? (fun m => bits m.toNat 0 3 == 1 && bits m.toNat 8 24 ≤ off &&
    off < bits m.toNat 8 24 + bits m.toNat 32 24)).map (fun m => (bits m.toNat 8 24, bits m.toNat 32 24))
/-- An offset of a range that starts at `a`, taken modulo the ring of `a` (R301). -/
def Ctx.wrapOff (c : Ctx) (sp : Space) (a o : Nat) : Nat :=
  if sp != .ab then o
  else match c.ringAt a with
    | none => o
    | some (st, sz) => st + (o - st) % sz
/-- The pieces of the bytes `[o, o+n)` of a range that starts at `a`: two where its ring ends between them (R301). -/
def Ctx.runs (c : Ctx) (sp : Space) (a o n : Nat) : List (Nat × Nat) :=
  if n == 0 then []
  else match (if sp == .ab then c.ringAt a else none) with
    | none => [(o, n)]
    | some (st, sz) =>
      let w := st + (o - st) % sz
      if w + n ≤ st + sz then [(w, n)] else [(w, st + sz - w), (st, n - (st + sz - w))]
/-- The scale bytes of the blocks that pieces of a buffer touch in its block-scaled banks (R40). -/
def Ctx.scaleRuns (c : Ctx) (sp : Space) (rs : List (Nat × Nat)) : List (Nat × Nat) :=
  rs.flatMap (fun r => (List.range 16).filterMap (fun b =>
    let f := c.fmtAt sp (b * bankSize)
    let lo := r.1 - b * bankSize
    let hi := min (r.1 + r.2 - b * bankSize) (f.soff * 256)
    if f.bs && lo < hi then
      some (b * bankSize + f.soff * 256 + lo / (4 * f.ty.sw), (hi - 1) / (4 * f.ty.sw) + 1 - lo / (4 * f.ty.sw))
    else none))
def toRngs (sp : Space) (rs : List (Nat × Nat)) : List Rng := rs.map (fun r => { buf := sp, lo := r.1, hi := r.1 + r.2 })
/-- R301: a range that exceeds its ring, or reaches into one from outside, raises BUFFER. -/
def Ctx.ringIn (c : Ctx) (sp : Space) (a n : Nat) : Bool :=
  sp != .ab ||
  (match c.ringAt a with
   | some (_, sz) => n ≤ sz
   | none => !(c.xmaps.toList.any (fun m => bits m.toNat 0 3 == 1 && a < bits m.toNat 8 24 + bits m.toNat 32 24 &&
       bits m.toNat 8 24 < a + n)))
/-- So does one that touches the hidden half of a shadow pair (R302). -/
def Ctx.ringOk (c : Ctx) (sp : Space) (a n : Nat) : Bool :=
  c.ringIn sp a n && (sp != .ab || (c.ringAt a).isSome || !c.hidden .ab a n)
/-- A range fits its buffer, piece by piece, and no piece is hidden (R301, R302, R329). -/
def Ctx.runIn (c : Ctx) (sp : Space) (a n : Nat) : Bool :=
  a < Space.size sp && c.ringOk sp a n && (c.runs sp a a n).all (fun r => r.1 + r.2 ≤ Space.size sp && !c.hidden sp r.1 r.2)
/-- The row of `n` bytes at `o` of a range that starts at `a` lies in the data area of one bank, with the TYPE and BS of the range's
first bank (R251, R290). -/
def Ctx.rowIn (c : Ctx) (sp : Space) (a o n : Nat) : Bool :=
  let f := c.fmtAt sp a
  let o0 := c.wrapOff sp a o
  (c.runs sp a o n).all (fun r => c.inBank sp r.1 r.2 && r.1 / bankSize == o0 / bankSize && (c.fmtAt sp r.1).ty == f.ty &&
    (c.fmtAt sp r.1).bs == f.bs && !c.hidden sp r.1 r.2)
/-- The byte ranges of `[a, a+n)` for the scoreboard: two of them where a ring wraps (R11). -/
def Ctx.ranges (c : Ctx) (sp : Space) (a n : Nat) : List Rng := toRngs sp (c.runs sp a a n)
/-- The byte ranges of `[a, a+n)` and of the scales of its blocks (R11, R40). -/
def Ctx.allRngs (c : Ctx) (sp : Space) (a n : Nat) : List Rng :=
  c.ranges sp a n ++ toRngs sp (c.scaleRuns sp (c.runs sp a a n))
/-- `n` bytes of a buffer from offset `o` of a range that starts at `a`, taken modulo its ring (R301). -/
def State.ringRead (s : State) (c : CoreId) (sp : Space) (a o n : Nat) : List Byte :=
  (((s.ctxOf c).runs sp a o n).map (fun r => s.bufLoad c sp r.1 r.2)).flatten
/-- An uncorrectable error among `n` bytes of a range and the scales of their blocks: the first 64-byte unit (R149, R206). -/
def State.runEcc (s : State) (c : CoreId) (sp : Space) (a o n : Nat) : Option Nat :=
  let rs := (s.ctxOf c).runs sp a o n
  s.rowEcc c sp (rs ++ (s.ctxOf c).scaleRuns sp rs)

/-- Such an error where no bank's format is consulted. -/
def State.rawEcc (s : State) (c : CoreId) (sp : Space) (a o n : Nat) : Option Nat := s.rowEcc c sp ((s.ctxOf c).runs sp a o n)
/-- Bytes written to a range that starts at `a`, from offset `o`, taken modulo its ring (R301). -/
def State.ringStore (s : State) (c : CoreId) (sp : Space) (a o : Nat) (bs : List Byte) : State :=
  (((s.ctxOf c).runs sp a o bs.length).foldl (fun (p : State × List Byte) r =>
    (p.1.bufStore c sp r.1 (p.2.take r.2), p.2.drop r.2)) (s, bs)).1
/-- The mark of an uncorrectable error in an array's cells (R461): a key of its own, in no kind of R20. -/
def cellKey (c : CoreId) (va : Bool) : Nat := key 0x1F (16 * c.val + 8 * b2n va)
def State.cellBad (s : State) (c : CoreId) (va : Bool) : Bool := s.ecc.contains (cellKey c va)
/-- The cells are written anew. -/
def State.cellClean (s : State) (c : CoreId) (va : Bool) : State := { s with ecc := s.ecc.filter (· != cellKey c va) }

/- The engine ports (R242). -/
/-- Bytes that a buffer's engine port moves in a cycle, in each direction (R128). -/
def portWidth : Space → Nat
  | .wb => 512 | .jb => 64 | _ => 1024
/-- Requests of one engine in a cycle are served together, or wait (R242). -/
def State.takePort (s : State) (c : CoreId) (rs : List (Space × Bool × Nat)) : Option State :=
  let k := s.core c
  let used := if k.ports.1 == s.now then k.ports.2 else []
  let all := used ++ rs
  if rs.all (fun r => ((all.filter (fun u => u.1 == r.1 && u.2.1 == r.2.1)).map (fun u => u.2.2)).foldl (· + ·) 0 ≤ portWidth r.1) then
    some (s.setCore c { k with ports := (s.now, all) })
  else none

/-- Element `i` of packed bytes; of LG6 the bits 7:6 are left out (R24). -/
def elAt (t : ETy) (bs : List Byte) (i : Nat) : Nat :=
  let w := t.sw
  bits (leNat ((bs.drop (i * w / 8)).take 4)) (i * w % 8) (if t == .lg6 then 6 else w)
def elAt32 (bs : List Byte) (i : Nat) : Nat := leNat ((bs.drop (4 * i)).take 4)
/-- The scale of the element at byte `off` of a block-scaled bank (R40); 127 without scales. -/
def State.scaleAt (s : State) (c : CoreId) (sp : Space) (off : Nat) : Nat :=
  let f := (s.ctxOf c).fmtAt sp off
  if f.bs then
    let base := off / bankSize * bankSize
    (s.bufLoad c sp (base + f.soff * 256 + (off - base) / (4 * f.ty.sw)) 1).headD 0 |>.toNat
  else 127

/-- Ns and M of a pattern (R246); dense is 1:1. -/
def patNM : Nat → Nat × Nat
  | 1 => (2, 4) | 2 => (1, 4) | 3 => (4, 8) | 4 => (2, 8) | 5 => (8, 16) | 6 => (4, 16) | _ => (1, 1)
/-- Reduction length of a stationary (R235). -/
def Shape.keff (h : Shape) : Nat := h.kc * (patNM h.pat).2 / (patNM h.pat).1

/-- Types a stationary or stream may have (R234). -/
def meTy (t : ETy) : Bool := t != .f32 && t != .i32 && t != .n32
def unscaledInt (t : ETy) (bs : Bool) : Bool := ETy.isInt t && !bs
/-- R234's table. -/
def pairOk (t : ETy) (x : ETy) : Bool := meTy t && meTy x && ((t == .lg6) == (x == .lg6))

def Ctx.arrRec (c : Ctx) (va : Bool) : Shape := if va then c.vaRec else c.saRec
def Ctx.arr (c : Ctx) (va : Bool) : Arr := if va then c.va else c.sa
def Ctx.setArr (c : Ctx) (va : Bool) (a : Arr) : Ctx := if va then { c with va := a } else { c with sa := a }
def Ctx.setRec (c : Ctx) (va : Bool) (h : Shape) : Ctx := if va then { c with vaRec := h } else { c with saRec := h }
def arrBit (va : Bool) : Nat := if va then 2 else 1
/-- G of a configuration (R255). -/
def Arr.G (a : Arr) : Nat := match a.gw with | 1 => 8 | 2 => 32 | _ => 16

/-- Flags as bits 4:0 of MSTAT and 36:32 of a result word (R238, R239). -/
def flWord (f : Fl) : Nat := b2n (f.getLsbD 4) + b2n (f.getLsbD 2) * 2 + b2n (f.getLsbD 1) * 4 + b2n (f.getLsbD 0) * 8 + b2n (f.getLsbD 5) * 16

/- Push (R247 to R257). -/
/-- The operand words of a command, read at push. -/
def Ctx.opA (c : Ctx) (x : Ecmd) : Nat := (c.src x.a).toNat
def Ctx.opB (c : Ctx) (x : Ecmd) : Nat := (c.src x.b).toNat
def Ctx.opC (c : Ctx) (x : Ecmd) : Nat := (c.src x.c).toNat
/-- A command with its operands (R117). -/
def Ctx.mkCmd (c : Ctx) (x : Ecmd) (e : Eng) (i : Instr) : Cmd :=
  { eng := e, ins := i, a := c.src x.a, b := c.src x.b, c := c.src x.c, tok := x.tok }

/-- Checks of a load (R249, R250): the shape and the ranges read. -/
def Ctx.chkLoad (c : Ctx) (x : Ecmd) (sparse : Bool) : Chk (Shape × List Rng) := do
  let a := c.opA x
  let b := c.opB x
  let kc := bits b 0 8 + 1
  let n := bits b 8 8 + 1
  let p := bits b 16 16
  let f := c.fmtAt .wb a
  let h : Shape := { valid := true, ty := f.ty, bs := f.bs, kc, n, pat := if sparse then x.mf 5 3 else 0 }
  need (bits b 32 32 == 0 && kc ≤ 128 && n ≤ 128) .illegal
  need (!inBuf .wb a || elBytes f.ty n ≤ p * 64) .illegal
  if sparse then need (kc % (patNM h.pat).1 == 0 && h.keff ≤ 512) .illegal
  need (!inBuf .wb a || meTy f.ty) .illegal
  need (a % 64 == 0) .align a
  if sparse then need (c.opC x % 64 == 0) .align (c.opC x)
  let span := (kc - 1) * p * 64 + elBytes f.ty n
  need (c.inBank .wb a span) .buffer a
  if sparse then need (c.opC x < Space.size .wb && c.opC x % bankSize + kc * 64 ≤ bankSize) .buffer (c.opC x)
  .ok (h, c.allRngs .wb a span ++ (if sparse then [{ buf := .wb, lo := c.opC x, hi := c.opC x + kc * 64 }] else []))
def State.pushLoad (s : State) (x : Ecmd) (i : Instr) (sparse : Bool) : Out :=
  let c := s.ctx
  let va := x.m 0
  s.command x.g (c.chkLoad x sparse) (fun (h, rs) =>
    let s := s.push { c.mkCmd x .me i with reads := rs, arrs := arrBit va }
    s.setCtx (s.ctx.setRec va h))
/-- R249. -/
def execMld (x : Ecmd) (s : State) : Out := s.pushLoad x (.mld x) false
/-- R250. -/
def execMldsp (x : Ecmd) (s : State) : Out := s.pushLoad x (.mldsp x) true

/-- Checks of a stream (R251, R252); a later row of another TYPE or BS takes BUFFER (DESIGN CHOICE, log entry 100). -/
def Ctx.chkStream (c : Ctx) (x : Ecmd) (remote : Bool) : Chk (List Rng × List Rng) := do
  let a := c.opA x
  let b := c.opB x
  let w := c.opC x
  let S := bits w 0 16
  let pa := bits w 16 16
  let pc := bits w 32 16
  let h := c.arrRec (x.m 0)
  let f := c.fmtAt .ab a
  let ty := if remote then x.t else f.ty
  let bs := if remote then x.m 8 else f.bs
  let keff := h.keff
  let len := elBytes ty keff
  need (bits w 48 16 == 0 && 1 ≤ S && S ≤ 4096) .illegal
  let at_ := remote || inBuf .ab a
  need ((!at_ || len + (if remote && bs then keff / 32 else 0) ≤ pa * 64) && h.n * 4 ≤ pc * 64) .illegal
  if remote && bs then need (keff % 32 == 0) .illegal
  need (h.valid && (!at_ || pairOk h.ty ty)) .illegal
  need (a % 64 == 0) .align a
  need (b % 64 == 0) .align b
  let span := (S - 1) * pa * 64 + len
  let out := (S - 1) * pc * 64 + h.n * 4
  if !remote then
    need (a < Space.size .ab && c.ringOk .ab a span) .buffer a
    need ((List.range S).all (fun r => c.rowIn .ab a (a + r * pa * 64) len)) .buffer a
  need (b + out ≤ Space.size .cb) .buffer b
  .ok ((if remote then [] else c.allRngs .ab a span) ++ (if x.m 3 then [{ buf := .cb, lo := b, hi := b + out }] else []),
    [{ buf := .cb, lo := b, hi := b + out }])
def State.pushStream (s : State) (x : Ecmd) (i : Instr) (remote : Bool) : Out :=
  let c := s.ctx
  s.command x.g (c.pushView.chkStream x remote) (fun (rs, ws) =>
    s.push { c.mkCmd x .me i with reads := rs, writes := ws, arrs := arrBit (x.m 0),
                                  gcls := if remote then some (x.mf 9 4) else none })
/-- R251. -/
def execMstr (x : Ecmd) (s : State) : Out := s.pushStream x (.mstr x) false
/-- R252. -/
def execMstrr (x : Ecmd) (s : State) : Out := s.pushStream x (.mstrr x) true
/-- Checks of `mzero` (R253). -/
def Ctx.chkZero (c : Ctx) (x : Ecmd) : Chk Unit := do
  need (c.opB x != 0 && c.opB x < 2 ^ 32) .illegal
  need (c.opA x % 64 == 0 && c.opB x % 64 == 0) .align (c.opA x)
  need (c.opA x + c.opB x ≤ Space.size .cb) .buffer (c.opA x)
/-- R253. -/
def execMzero (x : Ecmd) (s : State) : Out :=
  let c := s.ctx
  let a := c.opA x
  let b := c.opB x
  s.command x.g (c.chkZero x) (fun _ => s.push { c.mkCmd x .me (.mzero x) with writes := [{ buf := .cb, lo := a, hi := a + b }], arrs := arrBit (x.m 0) })
/-- Destination width of a drain. -/
def drainSpan (c R n w : Nat) (ps : Nat) : Nat := c + (R - 1) * ps * 64 + (n * w + 7) / 8
/-- Checks of `mdrain` (R254): the ends of its source and destination rows. -/
def Ctx.chkDrain (c : Ctx) (x : Ecmd) : Chk (Nat × Nat) := do
  let a := c.opA x
  let b := c.opB x
  let w := c.opC x
  let R := bits w 0 16
  let n := bits w 16 7 + 1
  let scl := bit w 23
  let ps := bits w 24 8
  let pd := bits w 32 8
  let so := bits w 40 21
  let wt := ETy.bits x.t
  let sEnd := drainSpan a R n 32 ps
  let dEnd := drainSpan b R n wt pd
  need (bits w 61 3 == 0 && 1 ≤ R && R ≤ 4096 && (scl || so == 0)) .illegal
  need (n * 4 ≤ ps * 64 && n * wt / 8 ≤ pd * 64) .illegal
  if scl then need (!inBuf .wb so || ((c.fmtAt .wb so).ty == .f32 && !(c.fmtAt .wb so).bs)) .illegal
  need (a % 64 == 0) .align a
  need (b % 64 == 0) .align b
  need (so % 64 == 0) .align so
  need (sEnd ≤ Space.size .cb && dEnd ≤ Space.size .cb) .buffer a
  if scl then need (so < Space.size .wb && so % bankSize + n * 4 ≤ bankSize) .buffer so
  need ((b == a && pd == ps) || sEnd ≤ b || dEnd ≤ a) .buffer b
  .ok (sEnd, dEnd)
/-- R254. -/
def execMdrain (x : Ecmd) (s : State) : Out :=
  let c := s.ctx
  let a := c.opA x
  let b := c.opB x
  let w := c.opC x
  let n := bits w 16 7 + 1
  let scl := bit w 23
  let so := bits w 40 21
  s.command x.g (c.chkDrain x) (fun (sEnd, dEnd) => s.push { c.mkCmd x .me (.mdrain x) with
    reads := { buf := .cb, lo := a, hi := sEnd } :: (if scl then [{ buf := .wb, lo := so, hi := so + n * 4 }] else [])
    writes := [{ buf := .cb, lo := b, hi := dEnd }]
    arrs := arrBit (x.m 0) })
/-- Checks of `mcfg` (R255). -/
def Ctx.chkCfg (c : Ctx) (x : Ecmd) : Chk Unit := need (c.opA x < 32 && c.opA x % 4 != 3) .illegal
/-- R255. -/
def execMcfg (x : Ecmd) (s : State) : Out :=
  let c := s.ctx
  s.command x.g (c.chkCfg x) (fun _ =>
    s.push { c.mkCmd x .me (.mcfg x) with arrs := arrBit (x.m 0) })
/-- Checks of `mpip` (R256). -/
def Ctx.chkPip (c : Ctx) (x : Ecmd) : Chk Unit := do
  need (c.opA x % 64 == 0) .align (c.opA x)
  need (c.opA x + 1088 ≤ Space.size .cb) .buffer (c.opA x)
/-- R256. -/
def execMpip (x : Ecmd) (s : State) : Out :=
  let c := s.ctx
  let a := c.opA x
  s.command x.g (c.chkPip x) (fun _ => s.push { c.mkCmd x .me (.mpip x) with writes := [{ buf := .cb, lo := a, hi := a + 1088 }], arrs := arrBit (x.m 0) })
/-- Arrays an `mabort` names (R257). -/
def abortArrs (x : Ecmd) : Nat := if x.m 2 then 3 else arrBit (x.m 0)
/-- R257: at push the named arrays become invalid (R248). -/
def execMabort (x : Ecmd) (s : State) : Out :=
  let c := s.ctx
  let w := abortArrs x
  s.command x.g (.ok ()) (fun _ =>
    let s := s.push { c.mkCmd x .me (.mabort x) with arrs := 0 }
    let c := s.ctx
    let c := if bit w 0 then c.setRec false { c.saRec with valid := false } else c
    let c := if bit w 1 then c.setRec true { c.vaRec with valid := false } else c
    s.setCtx c)

/- Streams at work. -/
/-- One streamed row as elements with scales: encoding and E8. -/
abbrev Els := List (Nat × Nat)
def packEls (xs : Els) : List Byte := (xs.map (fun p => leBytes p.1 2 ++ leBytes p.2 1)).flatten
def unpackEls (bs : List Byte) (n : Nat) : Els :=
  (List.range n).map (fun i => (leNat ((bs.drop (3 * i)).take 2), leNat ((bs.drop (3 * i + 2)).take 1)))

/-- A row of AB as its bank's format gives it (R42, R251). -/
def State.abRow (s : State) (c : CoreId) (a o n : Nat) : Els :=
  let x := s.ctxOf c
  let t := (x.fmtAt .ab (x.wrapOff .ab a o)).ty
  let bs := s.ringRead c .ab a o (elBytes t n)
  (List.range n).map (fun i => (elAt t bs i, s.scaleAt c .ab (x.wrapOff .ab a (o + i * t.sw / 8))))

/-- One product (R236, R47): log mode for two LG6 operands. -/
def cellMul (log : Bool) (ftz : Bool) (ts : ETy) (st : Cell) (tx : ETy) (x : Nat × Nat) : Ex × Fl :=
  if log then
    if st.e8 == 0xFF || x.2 == 0xFF then (.nan false, 0)
    else
      let u := flushIn ftz (decodeScaled st.enc ts st.e8)
      let v := flushIn ftz (decodeScaled x.1 tx x.2)
      if u.isZero || v.isZero then (.zero (u.neg != v.neg), 0)
      else ((logMul st.enc x.1).scale ((st.e8 : Int) + x.2 - 254), 0)
  else exactMul (flushIn ftz (decodeScaled st.enc ts st.e8)) (flushIn ftz (decodeScaled x.1 tx x.2))

/-- The streamed index of a cell (R235). -/
def cellK (pat kc idx : Nat) : Nat := let (ns, m) := patNM pat; if pat == 0 then kc else kc / ns * m + idx % m

/-- One group's step of a floating accumulator (R49, R236). -/
def accF (ftz : Bool) (acc : Ex) (terms : List (Ex × Fl)) (fl : Fl) : Ex × Fl :=
  let (v, f1) := exactSum .rne (acc :: terms.map Prod.fst)
  let (r, f2) := roundRne v .f32
  (flushIn ftz r, terms.foldl (fun a t => a ||| t.2) (fl ||| f1 ||| f2))
/-- One group's step of an integer accumulator (R50). -/
def accI (sat : Bool) (acc : Int) (terms : List Int) (fl : Fl) : Int × Fl :=
  let v := terms.foldl (· + ·) acc
  if sat && v < -2 ^ 31 then (-2 ^ 31, fl ||| Fl.sv)
  else if sat && 2 ^ 31 ≤ v then (2 ^ 31 - 1, fl ||| Fl.sv)
  else (sext (wrapInt v 32) 32, fl)

/-- Split a list into groups of `g`, the last one short. -/
def groupsOf {α : Type} (g : Nat) (xs : List α) : List (List α) := blocks g (ceilDiv xs.length g) xs
where
  blocks (g : Nat) : Nat → List α → List (List α)
    | 0, _ => []
    | k + 1, ys => ys.take g :: blocks g k (ys.drop g)

/-- One output word (R236): column `n` of the stationary against the streamed row. -/
def outWord (ar : Arr) (tx : ETy) (int isat : Bool) (xs : Els) (n : Nat) (cin : Option Nat) : Nat × Fl :=
  let col := (ar.cells.take ar.sh.kc).map (fun r => r.getD n { enc := 0 })
  let ks := col.zip (List.range col.length)
  let op := fun (p : Cell × Nat) => (p.1, xs.getD (cellK ar.sh.pat p.2 p.1.idx) (0, 127))
  let gs := groupsOf ar.G (ks.map op)
  if int then
    let v0 : Int := match cin with | some w => sext w 32 | none => 0
    let (v, f) := gs.foldl (fun (a : Int × Fl) g =>
      accI isat a.1 (g.map (fun p => ivalI ar.sh.ty p.1.enc * ivalI tx p.2.1)) a.2) (v0, 0)
    (wrapInt v 32, f)
  else
    let v0 := match cin with | some w => decodeEl w .f32 | none => .zero false
    let (v, f) := gs.foldl (fun (a : Ex × Fl) g =>
      accF ar.ftz a.1 (g.map (fun p => cellMul (ar.sh.ty == .lg6) ar.ftz ar.sh.ty p.1 tx p.2)) a.2) (v0, 0)
    ((encodeEl v .f32 .rne false false).1, f)
where
  ivalI (t : ETy) (b : Nat) : Int := if ETy.isSigned t then sext b (ETy.bits t) else (b % 2 ^ ETy.bits t : Nat)

/-- Step time, pips and zero-skip of each group on a row (R240, R244). -/
def stepTimes (ar : Arr) (tx : ETy) (xs : Els) : List (Nat × Nat × Bool) :=
  let (ns, m) := patNM ar.sh.pat
  let span := if ar.sh.pat == 0 then ar.G else ar.G * m / ns
  (groupsOf span (xs.take ar.sh.keff)).map (fun g =>
    let ps := g.map (fun p => pips p.1 tx)
    (max 1 (ps.foldl max 0), ps.foldl (· + ·) 0, ps.all (· == 0)))

/-- A throttle gates the cycle for a core's arrays (R459). -/
def State.slowed (s : State) (c : CoreId) (t : Nat) : Bool :=
  match s.slow.find? (fun h => h.1 ≤ t) with
  | some h => decide (t % 16 < max (if h.2.1.getLsbD (c.val / 32) then 8 else 0) h.2.2)
  | none => false
/-- The first cycle from `t` on that is not gated, looked for in `n` cycles. -/
def nextClk (gated : Nat → Bool) : Nat → Nat → Nat
  | 0, t => t
  | n + 1, t => if gated t then nextClk gated n (t + 1) else t
/-- When a step that could begin in cycle `t0 + t` begins, counted from `t0`; what lies ahead goes by the present throttle. -/
def State.stepClk (s : State) (c : CoreId) (t0 t : Nat) : Nat :=
  if s.slow.isEmpty then t else nextClk (fun u => s.slowed c (t0 + u)) (s.now + 32 - (t0 + t)) t

/-- Begin and end of each group's step (R241): `hist` holds the ends of earlier rows, newest first; `clk` moves a begin past gated
cycles (R459). -/
def stepEnds (clk : Nat → Nat) (hist : List (List Nat)) (a : Nat) (ts : List Nat) : List (Nat × Nat) :=
  let last := hist.headD []
  let far := (hist.getD 7 []).foldl max 0
  (ts.zip (List.range ts.length)).map (fun p =>
    let b := clk (max (last.getD p.2 0) (max a far))
    (b, b + p.1))

/-- Saturating count (R244). -/
def Arr.limit (a : Arr) : Nat := if a.pw then 2 ^ 32 - 1 else 2 ^ 48 - 1
def satAdd (lim x y : Nat) : Nat := min lim (x + y)

/-- Counts of groups, rows and cycles are added, each up to its limit; whether one of them would have passed it (R244). A count
that stands above the limit when PW is set falls to it here, and has passed it (DESIGN CHOICE, log entry 98). -/
def Arr.add (a : Arr) (ds : List GrpCnt) (rows cycles : Nat) : Arr × Bool :=
  let lim := a.limit
  let gs := a.grp.zip (List.range 16)
  let tot := ds.foldl (fun n d => n + d.pips) 0
  let passes (g d : GrpCnt) : Bool :=
    lim < g.pips + d.pips || lim < g.steps + d.steps || lim < g.busy + d.busy || lim < g.wait + d.wait || lim < g.zskip + d.zskip
  let past := gs.any (fun p => match ds[p.2]? with | some d => passes p.1 d | none => false) ||
    decide (lim < a.pips + tot) || decide (lim < a.rows + rows) || decide (lim < a.cycles + cycles)
  ({ a with
    grp := gs.map (fun p => match ds[p.2]? with
      | some d => { pips := satAdd lim p.1.pips d.pips, steps := satAdd lim p.1.steps d.steps, busy := satAdd lim p.1.busy d.busy,
                    wait := satAdd lim p.1.wait d.wait, zskip := satAdd lim p.1.zskip d.zskip }
      | none => p.1)
    pips := satAdd lim a.pips tot, rows := satAdd lim a.rows rows, cycles := satAdd lim a.cycles cycles, sat := a.sat || past }, past)
/-- What a committed row adds to each group (R244): `hist` holds the ends of earlier rows. -/
def rowCounts (hist : List (List Nat)) (ts : List (Nat × Nat × Bool)) (be : List (Nat × Nat)) : List GrpCnt :=
  let last := hist.headD []
  ((ts.zip be).zip (List.range ts.length)).map (fun p =>
    { pips := p.1.1.2.1, steps := 1, busy := p.1.1.1, wait := p.1.2.1 - last.getD p.2 0, zskip := b2n p.1.1.2.2 })
/-- What a discarded row adds: the cycles it spent before cycle `cut` (R243, R244). -/
def lostCounts (hist : List (List Nat)) (be : List (Nat × Nat)) (cut : Nat) : List GrpCnt :=
  let last := hist.headD []
  (be.zip (List.range be.length)).map (fun p => { busy := min p.1.2 cut - p.1.1, wait := min p.1.1 cut - last.getD p.2 0 })
/-- The cycles of rows discarded at cycle `cut`, each with the cycle it reached the recoder and its steps; and the last cycle spent. -/
def Arr.discard (a : Arr) (clk : Nat → Nat) (hist : List (List Nat)) (cut : Nat) (rows : List (Nat × List (Nat × Nat × Bool))) : Arr × Bool × Nat :=
  let (a, past, _, t) := rows.foldl (fun (q : Arr × Bool × List (List Nat) × Nat) r =>
    let be := stepEnds clk q.2.2.1 r.1 (r.2.map Prod.fst)
    let (a, o) := q.1.add (lostCounts q.2.2.1 be cut) 0 0
    (a, q.2.1 || o, (be.map Prod.snd :: q.2.2.1).take 8, max q.2.2.2 (min cut ((be.map Prod.snd).foldl max 0)))) (a, false, hist, 0)
  (a, past, t)

/-- The end of the last step so far (T of R241). -/
def Cmd.tEnd (m : Cmd) : Nat := (m.hist.headD []).foldl max 0

/-- The operands of an engine command. -/
def ecmd? : Instr → Option Ecmd
  | .mld x => some x | .mldsp x => some x | .mstr x => some x | .mstrr x => some x | .mzero x => some x | .mdrain x => some x
  | .mcfg x => some x | .mpip x => some x | .mabort x => some x | .chbind x => some x | .chkv x => some x | .chlink x => some x
  | .chmask x => some x | .chfin x => some x | .chsave x => some x | .chrest x => some x | .chdrop x => some x
  | .xcopy x => some x | .xlist x => some x | .xget x => some x | .xput x => some x | .xfill x => some x | .xtrans x => some x
  | .xpub x => some x | .xmap x => some x | .xmcast x => some x | .xextAdd x => some x | .xextRelease x => some x
  | .rld x => some x | .rst x => some x | .renq x => some x | .rflagSet x => some x | .rflagInc x => some x | .rflagClr x => some x
  | .ratomAdd x => some x | .ratomAnd x => some x | .ratomOr x => some x | .ratomXor x => some x | .ratomMin x => some x
  | .ratomMax x => some x | .ratomMinn x => some x | .ratomMaxn x => some x | .ratomXchg x => some x | .ratomCas x => some x
  | .ratomFadd x => some x | .ratomFmax x => some x | .lbufBind x => some x | .lbufRelease x => some x
  | .cmset x => some x | .cmsetClose x => some x | .cmheld x => some x | .cmheldClr x => some x | .cmdec x => some x
  | .cmdecRel x => some x | .cmgath x => some x | .cmshuf x => some x | .cmpol x => some x | .cmstat x => some x
  | .nest x => some x | .spawn x => some x | .join x => some x | .ecinit x => some x | .ecdone x => some x
  | .egput x => some x | .egrel x => some x | .egdrop x => some x
  | _ => none

/-- PSAT (R238). -/
def psatBit (past : Bool) : Nat := if past then 2 ^ 5 else 0

/-- A stream ends or stops now: its CYCLES, and those of the rows in flight that it discards (R243, R244). -/
def State.endStream (s : State) (c : CoreId) (m : Cmd) (x : Ecmd) (remote : Bool) : State × Cmd :=
  let cx := s.ctxOf c
  let ar := cx.arr (x.m 0)
  let tx := if remote then x.t else (cx.fmtAt .ab m.a.toNat).ty
  let t0 := m.start + 16
  let rows := (((List.range m.staged.length).map (fun i => m.staged.find? (fun g => g.idx == m.prog + i && g.fail.isNone))).takeWhile
    Option.isSome).filterMap (fun g => g.map (fun g => (g.time - t0, stepTimes ar tx (unpackEls g.data ar.sh.keff))))
  let (a1, o1, t) := ar.discard (s.stepClk c t0) m.hist (s.now - t0) rows
  let (a2, o2) := a1.add [] 0 (max m.tEnd t)
  (s.setCtxOf c (cx.setArr (x.m 0) a2), { m with res := m.res ||| BitVec.ofNat 64 (psatBit (o1 || o2) * 2 ^ 32) })
/-- A stream stops before its end; any other command has no cycles to count. -/
def State.stopStream (s : State) (c : CoreId) (m : Cmd) : State × Cmd :=
  if !m.started || m.fail.isSome then (s, m)
  else match m.ins with
    | .mstr x => s.endStream c m x false
    | .mstrr x => s.endStream c m x true
    | _ => (s, m)

/-- A command has met a fault: it is recorded, and the array's cycles so far are counted (R243, R244). -/
def State.meFail (s : State) (c : CoreId) (m : Cmd) (cls : TrapClass) (addr : Nat) : State :=
  let (s, m) := s.stopStream c m
  s.putCmd c { m with fail := some (cls, addr, m.prog) }

/-- Commit the next row of a stream (R236, R243), once CB's port moves it (R242): `xs` its elements, `at_` the cycle it reached the
recoder. -/
def State.commitStream (s : State) (c : CoreId) (m : Cmd) (x : Ecmd) (tx : ETy) (xbs : Bool) (xs : Els) (at_ : Nat) : State :=
  let cx := s.ctxOf c
  let va := x.m 0
  let ar := cx.arr va
  let ts := stepTimes ar tx xs
  let be := stepEnds (s.stepClk c (m.start + 16)) m.hist at_ (ts.map Prod.fst)
  let w := m.c.toNat
  let off := m.b.toNat + m.prog * bits w 32 16 * 64
  let int := unscaledInt ar.sh.ty ar.sh.bs && unscaledInt tx xbs
  let old := s.bufLoad c .cb off (ar.sh.n * 4)
  if s.now < m.start + 32 + (be.map Prod.snd).foldl max 0 then s
  else if s.cellBad c va || ((eccHit s.ecc (bufKey c .cb off) (ar.sh.n * 4)).isSome && x.m 3) then
    s.meFail c m .ecc off
  else match s.takePort c ((.cb, true, ar.sh.n * 4) :: (if x.m 3 then [(.cb, false, ar.sh.n * 4)] else [])) with
  | none => s
  | some s =>
    let outs := (List.range ar.sh.n).map (fun n => outWord ar tx int (x.m 4) xs n (if x.m 3 then some (elAt32 old n) else none))
    let fl := outs.foldl (fun a o => a ||| o.2) (0 : Fl)
    let s := s.bufStore c .cb off ((outs.map (fun o => leBytes o.1 4)).flatten)
    let (ar', past) := ar.add (rowCounts m.hist ts be) 1 0
    let s := s.setCtxOf c ((s.ctxOf c).setArr va ar')
    s.putCmd c { m with prog := m.prog + 1, hist := (be.map Prod.snd :: m.hist).take 8
                        staged := m.staged.filter (fun g => g.idx != m.prog)
                        res := m.res ||| BitVec.ofNat 64 ((flWord fl ||| psatBit past) * 2 ^ 32) }

/-- One row of a drain (R254). -/
def State.commitDrain (s : State) (c : CoreId) (m : Cmd) (x : Ecmd) : State :=
  let w := m.c.toNat
  let n := bits w 16 7 + 1
  let src := m.a.toNat + m.prog * bits w 24 8 * 64
  let dst := m.b.toNat + m.prog * bits w 32 8 * 64
  let so := bits w 40 21
  let i32 := x.m 1
  let wt := ETy.bits x.t
  if s.now < m.start + 8 + m.prog + 1 - m.first then s
  else if (eccHit s.ecc (bufKey c .cb src) (n * 4)).isSome || (bit w 23 && (eccHit s.ecc (bufKey c .wb so) (n * 4)).isSome) then
    s.meFail c m .ecc src
  else match s.takePort c ([(.cb, false, n * 4), (.cb, true, n * wt / 8)] ++ (if bit w 23 then [(.wb, false, n * 4)] else [])) with
  | none => s
  | some s =>
    let bs := s.bufLoad c .cb src (n * 4)
    let sc := s.bufLoad c .wb so (n * 4)
    let els := (List.range n).map (fun k =>
      let v := if i32 then Ex.ofInt (sext (elAt32 bs k) 32) else flushIn (x.m 10) (decodeEl (elAt32 bs k) .f32)
      let (u, f) := if bit w 23 then exactMul v (decodeEl (elAt32 sc k) .f32) else (v, 0)
      encJoin (u, f) x.t (rmOf (x.mf 11 2)) (x.m 10) (x.m 9))
    let s := s.bufStore c .cb dst ((els.map (fun e => leBytes e.1 (ETy.bits x.t / 8))).flatten)
    let fl := els.foldl (fun a e => a ||| e.2) (0 : Fl)
    s.putCmd c { m with prog := m.prog + 1, res := m.res ||| BitVec.ofNat 64 (flWord fl * 2 ^ 32) }

/-- The stationary of a load (R249, R250). -/
def State.loadCells (s : State) (c : CoreId) (m : Cmd) (sparse : Bool) (pat : Nat) : Shape × List (List Cell) :=
  let b := m.b.toNat
  let a := m.a.toNat
  let kc := bits b 0 8 + 1
  let n := bits b 8 8 + 1
  let p := bits b 16 16
  let f := (s.ctxOf c).fmtAt .wb a
  let cells := (List.range kc).map (fun k =>
    let o := a + k * p * 64
    let bs := s.bufLoad c .wb o (elBytes f.ty n)
    let ix := if sparse then s.bufLoad c .wb (m.c.toNat + k * 64) 64 else []
    (List.range n).map (fun j =>
      { enc := elAt f.ty bs j, e8 := s.scaleAt c .wb (o + j * f.ty.sw / 8),
        idx := if sparse then bits ((ix.getD (j / 2) 0).toNat) (j % 2 * 4) 4 else 0 }))
  ({ valid := true, ty := f.ty, bs := f.bs, kc, n, pat }, cells)

/-- The counter record of an array (R256). -/
def Arr.record (a : Arr) (seq : Nat) : List Byte :=
  leBytes a.pips 8 ++ leBytes a.rows 8 ++ leBytes a.cycles 8 ++ leBytes (a.gw + b2n a.ftz * 4 + b2n a.pw * 8) 8 ++ leBytes seq 8 ++
    leBytes (b2n a.sat) 8 ++ leBytes 0 16 ++
    (a.grp.map (fun g => leBytes g.pips 8 ++ leBytes g.steps 8 ++ leBytes g.busy 8 ++ leBytes g.wait 8 ++ leBytes g.zskip 8 ++ leBytes 0 24)).flatten
def Arr.clear (a : Arr) : Arr := { a with pips := 0, rows := 0, cycles := 0, grp := List.replicate 16 {}, sat := false }

/-- Duration of a load (R249, R250). -/
def loadTime (t : ETy) (b : Nat) (sparse : Bool) : Nat :=
  let kc := bits b 0 8 + 1
  let n := bits b 8 8 + 1
  12 + ceilDiv (kc * ceilDiv (elBytes t n) 64) 8 + (if sparse then ceilDiv kc 8 else 0)

/-- A run begins at the progress so far (R243, R308): nothing is asked for yet. -/
def Cmd.fresh (m : Cmd) : Cmd := { m with hist := [], staged := [], first := m.prog, asks := m.prog, late := [], asked := [], pages := [] }
/-- `n` bytes in pieces of `w`, for a port. -/
def portCut (sp : Space) (wr : Bool) (n w : Nat) : List (Space × Bool × Nat) :=
  (List.range (ceilDiv n w)).map (fun i => (sp, wr, min w (n - i * w)))
/-- What a command of fixed time moves through the engine ports: the first cycle after its start, and a share for each cycle (R242, R249,
R250, R253, R256). -/
def State.meShares (s : State) (c : CoreId) (m : Cmd) : Nat × List (Space × Bool × Nat) :=
  let kc := bits m.b.toNat 0 8 + 1
  let tile := kc * ceilDiv (elBytes ((s.ctxOf c).fmtAt .wb m.a.toNat).ty (bits m.b.toNat 8 8 + 1)) 64 * 64
  match m.ins with
  | .mld _ => (12, portCut .wb false tile 512)
  | .mldsp _ => (12, portCut .wb false tile 512 ++ portCut .wb false (kc * 64) 512)
  | .mzero _ => (4, portCut .cb true m.b.toNat 1024)
  | .mpip _ => (6, portCut .cb true 1088 1024)
  | _ => (0, [])
/-- The next of a command's shares: `d` ck after its start at the earliest, one in a cycle, the last `tail` ck before its end (R242). -/
def State.nextShare (s : State) (c : CoreId) (m : Cmd) (d tail : Nat) (cs : List (Space × Bool × Nat)) : State :=
  match cs[m.asks]? with
  | none => s
  | some q =>
    if s.now < m.start + d + m.asks then s
    else match s.takePort c [q] with
      | none => s
      | some s => s.putCmd c { m with asks := m.asks + 1, due := max m.due (s.now + 1 + tail) }
/-- A command's shares have all been served. -/
def State.meMoved (s : State) (c : CoreId) (m : Cmd) : Bool := (s.meShares c m).2.length ≤ m.asks
/-- A command's next use of an engine port (R242): the AB read of a streamed row, which then is in the recoder, or the next share. -/
def State.mePort (s : State) (c : CoreId) (m : Cmd) : State :=
  if !m.started || m.faulted || m.fail.isSome then s
  else match m.ins with
    | .mstr x =>
      let w := m.c.toNat
      let r := m.asks
      if bits w 0 16 ≤ r || s.now < m.start + 16 + (r - m.first) then s
      else
        let cx := s.ctxOf c
        let keff := (cx.arr (x.m 0)).sh.keff
        let o := m.a.toNat + r * bits w 16 16 * 64
        let len := elBytes (cx.fmtAt .ab m.a.toNat).ty keff
        match s.takePort c [(.ab, false, len)] with
        | none => s
        | some s =>
          let hit := s.runEcc c .ab m.a.toNat o len
          let g : Staged := { idx := r, data := packEls (s.abRow c m.a.toNat o keff), fail := hit.map (fun _ => TrapClass.ecc)
                              addr := hit.getD o, time := s.now }
          s.putCmd c { m with staged := m.staged ++ [g], asks := r + 1 }
    | _ =>
      let (d, cs) := s.meShares c m
      s.nextShare c m d 0 cs

/-- The start of a matrix command (R10, R241, R249 to R256). -/
def State.startMe (s : State) (c : CoreId) (m : Cmd) : State :=
  match m.ins with
  | .mld _ => s.startCmd c { m with asks := 0 } (s.now + loadTime ((s.ctxOf c).fmtAt .wb m.a.toNat).ty m.b.toNat false)
  | .mldsp _ => s.startCmd c { m with asks := 0 } (s.now + loadTime ((s.ctxOf c).fmtAt .wb m.a.toNat).ty m.b.toNat true)
  | .mstr _ => s.startCmd c m.fresh (s.now + 32)
  | .mstrr _ => s.startCmd c m.fresh (s.now + 32)
  | .mabort x =>
    let cx := s.ctxOf c
    let void (va : Bool) (y : Ctx) : Ctx := if bit (abortArrs x) (b2n va) then y.setArr va { y.arr va with sh := { (y.arr va).sh with valid := false } } else y
    (s.setCtxOf c (void true (void false cx))).startCmd c m s.now
  | .mzero _ => s.startCmd c { m with asks := 0 } (s.now + 4 + ceilDiv m.b.toNat 1024)
  | .mdrain _ => s.startCmd c m.fresh (s.now + 8)
  | .mcfg x =>
    let a := (s.ctxOf c).arr (x.m 0)
    let w := m.a.toNat
    let prev := a.gw + b2n a.ftz * 4 + b2n a.pw * 8
    let a1 := { (if bit w 4 then a.clear else a) with gw := bits w 0 2, ftz := bit w 2, pw := bit w 3 }
    let s := s.setCtxOf c ((s.ctxOf c).setArr (x.m 0) a1)
    s.startCmd c { m with res := BitVec.ofNat 64 prev, eff := true } (s.now + 4)
  | .mpip x =>
    let a := (s.ctxOf c).arr (x.m 0)
    let s := if x.m 1 then s.setCtxOf c ((s.ctxOf c).setArr (x.m 0) a.clear) else s
    s.startCmd c { m with asks := 0, staged := [{ idx := 0, data := a.record m.seq.toNat }], res := BitVec.ofNat 64 a.pips, eff := true } (s.now + 8)
  | _ => s

/-- A command's completion with its status (R238, R239, R245). -/
def State.completeMe (s : State) (c : CoreId) (m : Cmd) (count : Nat) (own : Bool) (res : Word) : State :=
  let w : Word := if own then res else (res &&& 0xFFFFFFFF00000000#64) ||| BitVec.ofNat 64 count
  let x := s.ctxOf c
  let st := if own then x.mstat else x.mstat ||| BitVec.ofNat 64 (bits res.toNat 32 6)
  let s := (s.setCtxOf c { x with mstat := st }).setPips c m
  s.complete c m w

/-- ABT (R238). -/
def abtWord : Word := 1#64 <<< 62
/-- One array's earlier work ends (R257): the state and the number of commands that received ABT. A stream that a pre-emption has put back
into the journal counts as not started (DESIGN CHOICE, log entry 99). -/
def State.abortOne (s : State) (c : CoreId) (m : Cmd) : State × Nat :=
  let abt : Word := 1 <<< 62
  match m.ins with
  | .mabort _ => (s, 0)
  | .mzero _ => if m.started then (s, 0) else (s.complete c m abt, 1)
  | .mcfg _ => if m.started then (s, 0) else (s.complete c m abt, 1)
  | .mpip _ => if m.started then (s, 0) else (s.complete c m abt, 1)
  | .mld x => (abortLoad s c m x abt, 1)
  | .mldsp x => (abortLoad s c m x abt, 1)
  | .mstr _ => (abortRows s c m abt, 1)
  | .mstrr _ => (abortRows s c m abt, 1)
  | .mdrain _ => (abortRows s c m abt, 1)
  | _ => (s, 0)
where
  abortRows (s : State) (c : CoreId) (m : Cmd) (abt : Word) : State :=
    if m.started then
      let (s, m) := s.stopStream c m
      s.completeMe c m m.prog false (m.res ||| abt)
    else s.complete c m abt
  abortLoad (s : State) (c : CoreId) (m : Cmd) (x : Ecmd) (abt : Word) : State :=
    let s := if m.started then
        s.setCtxOf c ((s.ctxOf c).setArr (x.m 0) { (s.ctxOf c).arr (x.m 0) with sh := { ((s.ctxOf c).arr (x.m 0)).sh with valid := false } })
      else s
    s.complete c m abt

/-- The earlier ME work that an `mabort` names (R257). -/
def State.abortWork (s : State) (c : CoreId) (m : Cmd) (x : Ecmd) : List Cmd :=
  ((s.ctxOf c).earlier m).filter (fun e => e.eng == .me && e.arrs &&& abortArrs x != 0)
/-- `mabort` acts (R257); a faulted command stays until its fault is handled. -/
def State.abort (s : State) (c : CoreId) (m : Cmd) (x : Ecmd) : State :=
  let es := (s.abortWork c m x).filter (fun e => !e.faulted)
  let (s, n) := es.foldl (fun (a : State × Nat) e => let (t, k) := a.1.abortOne c e; (t, a.2 + k)) (s, 0)
  s.putCmd c { m with started := true, res := m.res + BitVec.ofNat 64 n }

/-- R243: the event ME_ROW_COMMIT; a save or a report stops the command at the boundary it has reached. -/
def execMeRowCommit (r : CmdRef) (s : State) : Out :=
  match s.cmd? r with
  | some m =>
    if !m.started || m.faulted || m.fail.isSome || (s.core r.core).stop.isSome || s.trip then .next s
    else match m.ins with
      | .mstr x => .next (row s m x false)
      | .mstrr x => .next (row s m x true)
      | .mdrain x => if m.prog < bits m.c.toNat 0 16 then .next (s.commitDrain r.core m x) else .next s
      | _ => .next s
  | none => .next s
where
  row (s : State) (m : Cmd) (x : Ecmd) (remote : Bool) : State :=
    if bits m.c.toNat 0 16 ≤ m.prog then s
    else match m.staged.find? (fun g => g.idx == m.prog) with
      | none => s
      | some g => match g.fail with
        | some cls => s.meFail r.core m cls g.addr
        | none =>
          let f := (s.ctxOf r.core).fmtAt .ab m.a.toNat
          let n := ((s.ctxOf r.core).arr (x.m 0)).sh.keff
          s.commitStream r.core m x (if remote then x.t else f.ty) (if remote then x.m 8 else f.bs) (unpackEls g.data n)
            (g.time - (m.start + 16))

/-- What `mstrr` rows may not reach (R252). -/
def State.mstrrPol (fn : Nat) (s : State) (pa n : Nat) : Option TrapClass :=
  let k := paKind pa
  if k == 2 || k == 3 || k == 4 then some .buffer
  else if k == 5 && paNode pa == s.nodeId then s.ctlCheck fn (paOff pa) n .rd
  else none
/-- The 64-byte pieces of row `r` of an `mstrr`, its scale bytes among them (R252). -/
def State.rowParts (s : State) (c : CoreId) (m : Cmd) (x : Ecmd) (r : Nat) : List (Nat × Nat) :=
  let n := ((s.ctxOf c).arr (x.m 0)).sh.keff
  chunks (m.a.toNat + r * bits m.c.toNat 16 16 * 64) (elBytes x.t n + (if x.m 8 then n / 32 else 0))
/-- The place of a row's piece among the command's track requests. -/
def rowPart (r j : Nat) : Nat := r * 64 + j
/-- The operand fetcher asks for up to 32 rows in ascending order, each once its pages are translated (R138, R252), and none while the
command's global side is held (R171). -/
def State.askRows (s : State) (c : CoreId) (m : Cmd) (x : Ecmd) : State :=
  let hi := min (bits m.c.toNat 0 16) (m.prog + 32)
  let m1 := { m with late := m.late ++ (List.range (hi - m.asks)).map (· + m.asks), asks := max m.asks hi }
  if m1.late.isEmpty || (s.ctxOf c).gHeld m then s
  else m1.late.foldl (fun (s : State) r =>
    let ps := s.rowParts c m x r
    let (s, ok) := s.pagesFor c m.seq ps
    if !ok then s
    else
      let s := (ps.zip (List.range ps.length)).foldl (fun (s : State) p => s.sendPart c m.seq (rowPart r p.2) p.1.1 p.1.2 .rd false) s
      match (s.ctxOf c).cmds.find? (fun e => e.seq == m.seq) with
      | some e => s.putCmd c { e with late := e.late.filter (· != r), asked := e.asked ++ [(r, s.now)] }
      | none => s) (s.putCmd c m1)
/-- R252: the event MSTRR_ROW_ARRIVE, of a row in flight whose spaces have come (R143). -/
def execMstrrRowArrive (a : CmdAns) (s : State) : Out :=
  match s.cmd? { core := a.core, seq := a.seq } with
  | some m =>
    match m.ins with
    | .mstrr x =>
      let ps := s.rowParts a.core m x a.idx
      let src := WinSrc.cmd a.seq
      if !m.started || m.faulted || m.fail.isSome || !(m.asked.any (fun p => p.1 == a.idx)) || !(Answer.legal a.ans) ||
         !((List.range ps.length).all (fun j => s.trackReady a.core src (rowPart a.idx j))) then .next s
      else
        let n := ((s.ctxOf a.core).arr (x.m 0)).sh.keff
        let va := m.a.toNat + a.idx * bits m.c.toNat 16 16 * 64
        let len := elBytes x.t n
        let sc := if x.m 8 then n / 32 else 0
        let s := (List.range ps.length).foldl (fun (s : State) j => s.dropTrack a.core src (rowPart a.idx j)) s
        let (s, r) := s.gReadVa a.core va (len + sc) a.ans (State.mstrrPol (s.ctxOf a.core).fn.val)
        let g : Staged := match r with
          | .error (cls, ad) => { idx := a.idx, data := [], fail := some cls, addr := ad, time := s.now }
          | .ok bs =>
            let els := (List.range n).map (fun i => (elAt x.t bs i, if x.m 8 then (bs.getD (len + i / 32) 0).toNat else 127))
            { idx := a.idx, data := packEls els, addr := va, time := s.now }
        .next (s.putCmd a.core { m with staged := m.staged ++ [g], asked := m.asked.filter (fun p => p.1 != a.idx) })
    | _ => .next s
  | none => .next s

/-- R238: the event ME_COMMAND_COMPLETE, when the command's work is done and its time has come. -/
def execMeCommandComplete (r : CmdRef) (s : State) : Out :=
  match s.cmd? r with
  | some m =>
    if !m.started || m.faulted || m.fail.isSome || s.now < m.due || !(s.meMoved r.core m) then .next s
    else match m.ins with
      | .mld x => .next (load s m x false 0)
      | .mldsp x => .next (load s m x true (x.mf 5 3))
      | .mstr x => .next (stream s m x false)
      | .mstrr x => .next (stream s m x true)
      | .mzero _ =>
        .next ((s.bufStore r.core .cb m.a.toNat (List.replicate m.b.toNat 0)).completeMe r.core { m with eff := true } m.b.toNat false 0)
      | .mdrain _ =>
        let R := bits m.c.toNat 0 16
        if m.prog == R && m.start + 8 + (R - m.first) ≤ s.now then .next (s.completeMe r.core m R false m.res) else .next s
      | .mcfg _ => .next (s.completeMe r.core m 0 true m.res)
      | .mpip _ =>
        .next ((m.staged.foldl (fun (s : State) g => s.bufStore r.core .cb m.a.toNat g.data) s).completeMe r.core m 0 true m.res)
      | .mabort x =>
        if (s.abortWork r.core m x).isEmpty then .next (s.completeMe r.core m 0 true m.res) else .next (s.abort r.core m x)
      | _ => .next s
  | none => .next s
where
  load (s : State) (m : Cmd) (x : Ecmd) (sparse : Bool) (pat : Nat) : State :=
    let b := m.b.toNat
    let f := (s.ctxOf r.core).fmtAt .wb m.a.toNat
    let kc := bits b 0 8 + 1
    let len := elBytes f.ty (bits b 8 8 + 1)
    -- the rows' own bytes and scales: the gaps between pitched rows are not read
    let bad := (List.range kc).any (fun k => (s.runEcc r.core .wb m.a.toNat (m.a.toNat + k * bits b 16 16 * 64) len).isSome) ||
      (sparse && (eccHit s.ecc (bufKey r.core .wb m.c.toNat) (kc * 64)).isSome)
    if bad then s.meFail r.core m .ecc m.a.toNat
    else
      let (sh, cells) := s.loadCells r.core m sparse pat
      let c := s.ctxOf r.core
      ((s.setCtxOf r.core (c.setArr (x.m 0) { c.arr (x.m 0) with sh, cells })).cellClean r.core (x.m 0)).completeMe r.core m kc false 0
  stream (s : State) (m : Cmd) (x : Ecmd) (remote : Bool) : State :=
    if m.prog == bits m.c.toNat 0 16 && m.start + 32 + m.tEnd ≤ s.now then
      let (s, m) := s.endStream r.core m x remote
      s.completeMe r.core m m.prog false m.res
    else s

end Sys2Proof.Machine
end

