-- ==== Sys2Proof/Machine/Vector.lean ====
section
/-! DEFINITION. The vector row instructions (08_vector.md, R182 to R206). -/

namespace Sys2Proof.Machine

/-- Apply an element operation to each element, joining the flags. -/
def mapFl {α : Type} (f : α → Nat × Fl) (xs : List α) : List Nat × Fl :=
  let ys := xs.map f
  (ys.map Prod.fst, ys.foldl (fun a y => a ||| y.2) 0)

/-- A row result (R178). -/
def State.vrow (s : State) (g : Guard) (lat : Nat) (d : Fin 128) (r : Row) (fl : Fl := 0) : Out :=
  s.finish g .v lat (rCode d) (rowLatch r) (some r) fl
/-- A row result from its elements of width `w` with their flags. -/
def State.vels (s : State) (g : Guard) (lat : Nat) (d : Fin 128) (w : Nat) (r : List Nat × Fl) : Out :=
  s.vrow g lat d (rowOf r.1 w) r.2

/-- The value of an integer element (R29). -/
def ival (t : ETy) (b : Nat) : Int := if ETy.isSigned t then sext b (ETy.bits t) else (b % 2 ^ ETy.bits t : Nat)
/-- An exact integer result, wrapped or clamped with SV (R183). -/
def intRes (t : ETy) (sat : Bool) (v : Int) : Nat × Fl :=
  if sat && v < ETy.lo t then (wrapInt (ETy.lo t) (ETy.bits t), Fl.sv)
  else if sat && ETy.hi t < v then (wrapInt (ETy.hi t) (ETy.bits t), Fl.sv)
  else (wrapInt v (ETy.bits t), 0)

/-- A binary arithmetic operation over the elements (R183). -/
def State.vbin (s : State) (x : VBin) (latI latF : Nat) (fi : Int → Int → Int) (ff : Nat → Nat → Nat × Fl) : Out :=
  let w := x.t.sw
  let ps := (rowEls (s.ctx.row x.a) w).zip (rowEls (s.ctx.rsrc w x.b) w)
  if ETy.isFloat x.t then s.vels x.g latF x.d w (mapFl (fun p => ff p.1 p.2) ps)
  else s.vels x.g latI x.d w (mapFl (fun p => intRes x.t x.sat (fi (ival x.t p.1) (ival x.t p.2))) ps)

/-- R183. -/
def execVadd (x : VBin) (s : State) : Out := s.vbin x 2 4 (· + ·) (fop2 fAddX x.t x.rm x.ftz x.sat)
/-- R183. -/
def execVsub (x : VBin) (s : State) : Out := s.vbin x 2 4 (· - ·) (fop2 fSubX x.t x.rm x.ftz x.sat)
/-- R183. -/
def execVmul (x : VBin) (s : State) : Out := s.vbin x 3 4 (· * ·) (fop2 fMulX x.t x.rm x.ftz x.sat)
/-- R183, R100. -/
def execVmin (x : VBin) (s : State) : Out := s.vbin x 2 4 min (fMinMax false x.t x.ftz)
/-- R183, R100. -/
def execVmax (x : VBin) (s : State) : Out := s.vbin x 2 4 max (fMinMax true x.t x.ftz)

/-- `vfma`, `vfms` (R183). -/
def State.vter (s : State) (x : VTer) (negz : Bool) : Out :=
  let w := x.t.sw
  let ps := (rowEls (s.ctx.row x.a) w).zip ((rowEls (s.ctx.rsrc w x.b) w).zip (rowEls (s.ctx.row x.c) w))
  s.vels x.g 4 x.d w (mapFl (fun p => fop3 negz x.t x.rm x.ftz x.sat p.1 p.2.1 p.2.2) ps)
/-- R183. -/
def execVfma (x : VTer) (s : State) : Out := s.vter x false
/-- R183. -/
def execVfms (x : VTer) (s : State) : Out := s.vter x true

/-- One-operand forms (R183): a bit operation on floating elements. -/
def State.vuna (s : State) (x : VUna) (fi : Int → Int) (ff : Nat → Nat) : Out :=
  let w := x.t.sw
  let xs := rowEls (s.ctx.row x.a) w
  if ETy.isFloat x.t then s.vels x.g 2 x.d w (xs.map ff, 0)
  else s.vels x.g 2 x.d w (mapFl (fun a => intRes x.t x.sat (fi (ival x.t a))) xs)
/-- R183: the sign is cleared, or |x|. -/
def execVabs (x : VUna) (s : State) : Out := s.vuna x (fun v => v.natAbs) (fun b => b % ETy.signBit x.t)
/-- R183: the sign is inverted, or -x. -/
def execVneg (x : VUna) (s : State) : Out :=
  s.vuna x (fun v => -v) (fun b => if b < ETy.signBit x.t then b + ETy.signBit x.t else b - ETy.signBit x.t)

/-- R184. -/
def execVand (x : VLog) (s : State) : Out := s.vrow x.g 2 x.d (s.ctx.row x.a &&& s.ctx.rsrc 32 x.b)
/-- R184. -/
def execVor (x : VLog) (s : State) : Out := s.vrow x.g 2 x.d (s.ctx.row x.a ||| s.ctx.rsrc 32 x.b)
/-- R184. -/
def execVxor (x : VLog) (s : State) : Out := s.vrow x.g 2 x.d (s.ctx.row x.a ^^^ s.ctx.rsrc 32 x.b)

def State.vshift (s : State) (x : VLog) (f : Nat → Nat → Nat → Nat) : Out :=
  let w := x.t.sw
  let ps := (rowEls (s.ctx.row x.a) w).zip (rowEls (s.ctx.rsrc w x.b) w)
  s.vels x.g 2 x.d w (ps.map (fun p => f w p.1 p.2), 0)
/-- R185. -/
def execVshl (x : VLog) (s : State) : Out := s.vshift x (fun w a n => if w ≤ n then 0 else a * 2 ^ n % 2 ^ w)
/-- R185. -/
def execVshr (x : VLog) (s : State) : Out := s.vshift x (fun w a n => if w ≤ n then 0 else a / 2 ^ n)
/-- R185. -/
def execVsra (x : VLog) (s : State) : Out :=
  s.vshift x (fun w a n => if w ≤ n then (if bit a (w - 1) then 2 ^ w - 1 else 0) else wrapInt (sext a w / 2 ^ n) w)
/-- R186. -/
def execVpopc (x : VUna) (s : State) : Out :=
  s.vels x.g 2 x.d x.t.sw ((rowEls (s.ctx.row x.a) x.t.sw).map (fun a => popcount a 32), 0)

/-- The integer conditions of R187. -/
def vcmpInt (t : ETy) (cond a b : Nat) : Bool :=
  let x := ival t a
  let y := ival t b
  match cond with
  | 0 => x == y
  | 1 => x != y
  | 2 => x < y
  | 3 => x ≤ y
  | 4 => y < x
  | 5 => y ≤ x
  | 8 => (a &&& b) != 0
  | _ => (a &&& b) == 0
/-- R187: all ones or zero; latency 2 for integers, 4 for floating types. -/
def execVcmp (x : VCmp) (s : State) : Out :=
  let w := x.t.sw
  let ps := (rowEls (s.ctx.row x.a) w).zip (rowEls (s.ctx.rsrc w x.b) w)
  if ETy.isFloat x.t then
    s.vels x.g 4 x.d w (mapFl (fun p =>
      let (h, f) := fCmpX x.cond.val (decodeEl p.1 x.t) (decodeEl p.2 x.t)
      (if h then 2 ^ w - 1 else 0, f)) ps)
  else s.vels x.g 2 x.d w (ps.map (fun p => if vcmpInt x.t x.cond.val p.1 p.2 then 2 ^ w - 1 else 0), 0)
/-- R188. -/
def execVsel (x : VSel) (s : State) : Out :=
  let w := x.t.sw
  let ps := (rowEls (s.ctx.row x.a) w).zip ((rowEls (s.ctx.rsrc w x.b) w).zip (rowEls (s.ctx.row x.c) w))
  s.vels x.g 2 x.d w (ps.map (fun p => if p.2.2 != 0 then p.1 else p.2.1), 0)
/-- R189. -/
def execVmov (x : VMov) (s : State) : Out := s.vrow x.g 2 x.d (s.ctx.rsrc x.t.sw x.a)
/-- R189: the element the scalar's low bits name, in every place. -/
def execVbcast (x : VRowS) (s : State) : Out :=
  let w := x.t.sw
  let e := (s.ctx.src x.b).toNat % (4096 / w)
  s.vels x.g 2 x.d w (List.replicate (4096 / w) (bits (s.ctx.row x.a).toNat (w * e) w), 0)
/-- R190; of LG6 the raw byte, bits 7:6 as well (DESIGN CHOICE, log entry 93). -/
def execVlane (x : VLane) (s : State) : Out :=
  let w := x.t.sw
  let e := (s.ctx.src x.b).toNat % (4096 / w)
  let v := bits (s.ctx.row x.a).toNat (w * e) w
  s.finish x.g .v 2 (sCode x.d) (if ETy.isSigned x.t then BitVec.ofInt 64 (sext v w) else BitVec.ofNat 64 v) none 0
/-- R189. -/
def execViota (x : VIota) (s : State) : Out :=
  let w := x.t.sw
  s.vels x.g 2 x.d w ((List.range (4096 / w)).map (fun e => ((s.ctx.src x.a).toNat + e) % 2 ^ w), 0)

/-- R191: the share of the elements that `part` names, converted as fcvt does. -/
def execVcvt (x : VCvt) (s : State) : Out :=
  let ws := x.src.sw
  let wt := x.t.sw
  let es := 4096 / ws
  let et := 4096 / wt
  let a := rowEls (s.ctx.row x.a) ws
  let cv := fun b => convEl x.t x.src x.rm x.ftz x.sat b
  if ws ≤ wt then s.vels x.g 4 x.d wt (mapFl cv ((a.drop (x.part.val * et)).take et))
  else
    let old := match x.c with | some r => rowEls (s.ctx.row r) wt | none => List.replicate et 0
    let (ys, fl) := mapFl cv a
    s.vels x.g 4 x.d wt (old.take (x.part.val * es) ++ ys ++ old.drop (x.part.val * es + es), fl)

/-- The widened type of R192. -/
def wideTy : ETy → ETy
  | .i8 => .i32
  | .n8 => .n32
  | _ => .f32
/-- `vwadd`, `vwmul` (R192). -/
def State.vwide (s : State) (x : VBin) (fi : Int → Int → Int) (ff : Rm → Ex → Ex → Ex × Fl) : Out :=
  let w := x.t.sw
  let a := ((rowEls (s.ctx.row x.a) w).drop (x.part.val * 128)).take 128
  let b := ((rowEls (s.ctx.rsrc w x.b) w).drop (x.part.val * 128)).take 128
  if ETy.isFloat x.t then
    s.vels x.g 4 x.d 32 (mapFl (fun p => encJoin (ff x.rm (flushIn x.ftz (decodeEl p.1 x.t)) (flushIn x.ftz (decodeEl p.2 x.t)))
      .f32 x.rm x.ftz x.sat) (a.zip b))
  else s.vels x.g 4 x.d 32 ((a.zip b).map (fun p => wrapInt (fi (ival x.t p.1) (ival x.t p.2)) 32), 0)
/-- R192. -/
def execVwadd (x : VBin) (s : State) : Out := s.vwide x (· + ·) fAddX
/-- R192. -/
def execVwmul (x : VBin) (s : State) : Out := s.vwide x (· * ·) fMulX

/-- One block of 32 quantised (R39, R193): its scale, codes and flags. -/
def quantBlock (xs : List Ex) (t : ETy) (rm : Rm) (ftz : Bool) : Nat × List Nat × Fl :=
  let (e, f) := chooseScale xs t rm
  if e == 0xFF then (0xFF, xs.map (fun _ => 0), f)
  else
    let (ys, g) := mapFl (fun (x : Ex) => encodeEl (x.scale (127 - (e : Int))) t rm ftz true) xs
    (e, ys, f ||| g)
/-- Consecutive blocks of `k` elements, `n` of them. -/
def blocksOf {α : Type} (k : Nat) : Nat → List α → List (List α)
  | 0, _ => []
  | n + 1, xs => xs.take k :: blocksOf k n (xs.drop k)
/-- R193: codes into a part of the row, scales into a scalar; the row alone enters the latch (R61). -/
def execVquant (x : VQuant) (s : State) : Out :=
  let w := x.t.sw
  let bs := (blocksOf 32 4 ((rowEls (s.ctx.row x.a) 32).map (fun b => decodeEl b .f32))).map (fun b => quantBlock b x.t x.rm x.ftz)
  let codes := (bs.map (fun b => b.2.1)).flatten
  let scales := (bs.map (fun b => b.1)).foldr (fun e a => a * 256 + e) 0
  let fl := bs.foldl (fun a b => a ||| b.2.2) (0 : Fl)
  let old := rowEls (s.ctx.row x.c) w
  let r := rowOf (old.take (x.part.val * 128) ++ codes ++ old.drop (x.part.val * 128 + 128)) w
  let c := s.ctx
  if !c.guard x.g then .next s
  else if c.kills x.g 6 then .next s
  else if c.enabled fl then .next (s.arith x.g .v fl)
  else .next (s.setCtx ((c.resultFl s.now x.g .v 6 (rCode x.d) (rowLatch r) (some r) fl).resultNl s.now x.g .v 6 (sCode x.b)
    (BitVec.ofNat 64 scales)))
/-- R194. -/
def execVdequant (x : VDeq) (s : State) : Out :=
  let w := x.t.sw
  let a := ((rowEls (s.ctx.row x.a) w).drop (x.part.val * 128)).take 128
  let sc := (s.ctx.src x.b).toNat
  let ps := a.zip (List.range 128)
  s.vels x.g 6 x.d 32 (mapFl (fun p =>
    encodeEl (decodeScaled p.1 x.t (bits sc (8 * (p.2 / 32)) 8)) .f32 x.rm x.ftz x.sat) ps)

/-- The least or greatest of a set by R100: whether a signalling NaN was seen, and the best operand so far. -/
def fBest (mx : Bool) (t : ETy) (st : Bool × Option Nat) (b : Nat) : Bool × Option Nat :=
  let x := decodeEl b t
  (st.1 || x.isSig,
   if x.isNan then st.2 else match st.2 with
    | none => some b
    | some a => some (fMinMax mx t false a b).1)
def fBestRes (t : ETy) (st : Bool × Option Nat) : Nat × Fl :=
  if st.1 then (ETy.nanBits t, Fl.nv) else (st.2.getD (ETy.nanBits t), 0)
/-- Inclusive prefixes of a fold. -/
def scanL {α β : Type} (f : β → α → β) : β → List α → List β
  | _, [] => []
  | b, a :: r => f b a :: scanL f (f b a) r
/-- The exact sum of a prefix and one more addend (R48), with the flags so far. -/
def sumStep (st : Option Ex × Fl) (x : Ex) : Option Ex × Fl :=
  let (v, f) := exactSum .rne (match st.1 with | none => [x] | some a => [a, x])
  (some v, st.2 ||| f)
/-- R195. -/
def execVscan (x : VScan) (s : State) : Out :=
  let xs := rowEls (s.ctx.row x.a) 32
  let r : List Nat × Fl :=
    if x.t == .f32 then
      if x.op.val == 0 then
        mapFl (fun st => encJoin (st.1.getD (.zero false), st.2) .f32 .rne false false)
          (scanL sumStep (none, 0) (xs.map (fun b => decodeEl b .f32)))
      else mapFl (fBestRes .f32) (scanL (fBest (x.op.val == 2) .f32) (false, none) xs)
    else if x.op.val == 0 then (scanL (fun a b => (a + b) % 2 ^ 32) 0 xs, 0)
    else match xs with
      | [] => ([], 0)
      | b :: _ => ((scanL (fun a b => if x.op.val == 1 then min a b else max a b) (ival x.t b) (xs.map (ival x.t))).map
          (fun v => wrapInt v 32), 0)
  s.vels x.g 6 x.d 32 r
/-- R196. -/
def redRes (t : ETy) (op : Nat) (xs : List Nat) : Word × Fl :=
  if ETy.isFloat t then
    let (v, f) :=
      if op == 0 then encJoin (exactSum .rne (xs.map (fun b => decodeEl b t))) t .rne false false
      else fBestRes t (xs.foldl (fBest (op == 2) t) (false, none))
    (BitVec.ofNat 64 v, f)
  else
    let vs := xs.map (ival t)
    let v := match op with
      | 0 => vs.foldl (· + ·) 0
      | 1 => vs.foldl min (vs.headD 0)
      | _ => vs.foldl max (vs.headD 0)
    (BitVec.ofInt 64 v, 0)
/-- R196. -/
def execVred (x : VRed) (s : State) : Out :=
  let (v, fl) := redRes x.t x.op.val (rowEls (s.ctx.row x.a) x.t.sw)
  s.finish x.g .v 6 (sCode x.d) v none fl

/-- R197. -/
def execVperm (x : VPerm) (s : State) : Out :=
  let a := (s.ctx.row x.a).toNat
  let ls := (rowEls (s.ctx.rsrc 32 x.b) 32).map (fun i =>
    let j := i % 128
    if bit i 7 then (match x.c with | none => 0 | some r => bits (s.ctx.row r).toNat (32 * j) 32) else bits a (32 * j) 32)
  s.vels x.g 3 x.d 32 (ls, 0)
/-- R198. -/
def execVrot (x : VRowS) (s : State) : Out :=
  let w := x.t.sw
  let E := 4096 / w
  let n := (s.ctx.src x.b).toNat % 2 ^ 32 % E
  let a := (s.ctx.row x.a).toNat
  s.vels x.g 3 x.d w ((List.range E).map (fun e => bits a (w * ((e + E - n) % E)) w), 0)
/-- The source of an element under a pattern of R199: whether it is b, and which element. -/
def shufSrc (pat E e : Nat) : Bool × Nat :=
  match pat with
  | 0 => (e % 2 == 1, e / 2)
  | 1 => (e % 2 == 1, E / 2 + e / 2)
  | 2 => (E / 2 ≤ e, 2 * (e % (E / 2)))
  | 3 => (E / 2 ≤ e, 2 * (e % (E / 2)) + 1)
  | _ => (false, E - 1 - e)
/-- R199. -/
def execVshuf (x : VShuf) (s : State) : Out :=
  let w := x.t.sw
  let E := 4096 / w
  let a := (s.ctx.row x.a).toNat
  let b := (match x.b with | some r => s.ctx.row r | none => 0).toNat
  s.vels x.g 3 x.d w ((List.range E).map (fun e =>
    let (ib, j) := shufSrc x.pat.val E e
    bits (if ib then b else a) (w * j) w), 0)

/- Row loads and stores (R200 to R206). -/
/-- The checks of R201 on the bytes `(offset, length)` accessed; the range check counts them alone. -/
def Ctx.rowFault (c : Ctx) (sp : Space) (addr unit : Nat) (wr : Bool) (rs : List (Nat × Nat)) : Option TrapClass :=
  if addr % unit != 0 then some .align
  else if sp == .jb || (sp == .wb && wr) then some .buffer
  else if rs.any (fun r => Space.size sp < r.1 + r.2 || c.hidden sp r.1 r.2) then some .buffer
  else none
/-- A row load: its checks at issue, its elements in the port cycle (R201 to R206). The record of a failed check names the base address,
of an indexed load too (DESIGN CHOICE, log entry 95). -/
def State.rowLoad (s : State) (g : Guard) (sp : Space) (d : Fin 128) (addr unit lat ports w : Nat) (es : List (Nat × Nat × Nat))
    (pi : Option (Nat × Word)) : Out :=
  let c := s.ctx
  if !c.guard g then .next s
  else match c.rowFault sp addr unit false ((es.filter (fun e => e.2.1 != 0)).map (fun e => (e.1, e.2.1))) with
    | some cls => .next (s.precise g .v cls addr)
    | none =>
      if c.kills g lat then .next s
      else
        let s := s.port s.cur (s.now + ports)
        let q := c.queue s.now .v ((s.core s.cur).syllable .v) sp (.row w es)
        let f : Flight := { fin := s.now + lat, born := s.now, code := rCode d, slot := .v, val := 0, row := some 0, sq := g.sq, pid := c.nextPort }
        let b := match pi with | some (code, v) => piFlight s.now .v true code v c.nextPort | none => []
        .next (s.setCtx { q with flight := q.flight ++ f :: b })
/-- A row store: its checks at issue, its bytes in the port cycle. -/
def State.rowStore (s : State) (g : Guard) (sp : Space) (addr unit ports : Nat) (ps : List Piece) (pi : Option (Nat × Word)) : Out :=
  let c := s.ctx
  if !c.guard g then .next s
  else match c.rowFault sp addr unit true (ps.map (fun p => (p.off, p.n))) with
    | some cls => .next (s.precise g .v cls addr)
    | none =>
      let s := s.port s.cur (s.now + ports)
      let q := c.queue s.now .v ((s.core s.cur).syllable .v) sp (.store false ps)
      .next (s.setCtx (match pi with | some (code, v) => q.result s.now g .v 1 code v | none => q))

def State.vaddr (s : State) (x : VMem) : Nat := accAddr (s.ctx.src x.a) x.off x.pi
/-- The base register that a post-increment updates, and its new value (R201). -/
def State.vpi (s : State) (x : VMem) : Option (Nat × Word) := if x.pi then some (srcCode x.a, offAddr (s.ctx.src x.a) x.off) else none
/-- R200, R201. -/
def execVld (x : VMem) (s : State) : Out := s.rowLoad x.g x.sp x.d (s.vaddr x) 64 4 1 4096 [(s.vaddr x, 512, 0)] (s.vpi x)
/-- R200, R201. -/
def execVst (x : VMem) (s : State) : Out :=
  s.rowStore x.g x.sp (s.vaddr x) 64 1 [wholePiece (s.vaddr x) 512 (s.ctx.row x.d).toNat] (s.vpi x)
/-- The offsets of a column's elements (R202). -/
def colOffs (a k w : Nat) : List Nat := (List.range (4096 / w)).map (fun e => a + e * 2 ^ k)
/-- R202; latency 3 + E/32, port for E/32 ck. -/
def execVldt (x : VMem) (s : State) : Out :=
  let w := x.t.sw
  s.rowLoad x.g x.sp x.d (s.vaddr x) (w / 8) (3 + 4096 / w / 32) (4096 / w / 32) w
    ((colOffs (s.vaddr x) x.acc.val w).map (fun o => (o, w / 8, 0))) (s.vpi x)
/-- R202. -/
def execVstt (x : VMem) (s : State) : Out :=
  let w := x.t.sw
  s.rowStore x.g x.sp (s.vaddr x) (w / 8) (4096 / w / 32)
    (((colOffs (s.vaddr x) x.acc.val w).zip (rowEls (s.ctx.row x.d) w)).map (fun p => wholePiece p.1 (w / 8) p.2)) (s.vpi x)
/-- The elements a mask row enables (R203): the row has code 0xC0 + m. -/
def Ctx.maskEls (c : Ctx) (m : Nat) (w : Nat) : List Bool := (rowEls (c.rows.toArray.getD (64 + m) 0) w).map (· != 0)
/-- R203. -/
def execVldm (x : VMem) (s : State) : Out :=
  let w := x.t.sw
  let a := s.vaddr x
  let en := s.ctx.maskEls x.acc.val w
  s.rowLoad x.g x.sp x.d a 64 4 1 w ((en.zip (List.range en.length)).map (fun p =>
    if p.1 then (a + p.2 * w / 8, (w + 7) / 8, p.2 * w % 8) else (0, 0, 0))) (s.vpi x)
/-- R203: only the enabled elements' bits. -/
def execVstm (x : VMem) (s : State) : Out :=
  let w := x.t.sw
  let a := s.vaddr x
  let en := s.ctx.maskEls x.acc.val w
  s.rowStore x.g x.sp a 64 1 (((en.zip (rowEls (s.ctx.row x.d) w)).zip (List.range en.length)).filterMap (fun p =>
    if p.1.1 then some { off := a + p.2 * w / 8, n := (w + 7) / 8, val := p.1.2 * 2 ^ (p.2 * w % 8), mask := (2 ^ w - 1) * 2 ^ (p.2 * w % 8) }
    else none)) (s.vpi x)

end Sys2Proof.Machine
end

