-- ==== Sys2Proof/Machine/VFun.lean ====
section
/-! DEFINITION. The special functions with their references, the lookup tables, the soft maximum, and branching by lists
(09_vector_functions.md, R208 to R231). -/

namespace Sys2Proof.Machine

/-- T64 of R212: RoundRne(2^(j/64) * 2^23), computed from its definition. -/
def t64 : List Nat :=
  [0x800000, 0x8164D2, 0x82CD87, 0x843A29, 0x85AAC3, 0x871F62, 0x88980F, 0x8A14D5,
   0x8B95C2, 0x8D1ADF, 0x8EA43A, 0x9031DC, 0x91C3D3, 0x935A2B, 0x94F4F0, 0x96942D,
   0x9837F0, 0x99E046, 0x9B8D3A, 0x9D3EDA, 0x9EF532, 0xA0B051, 0xA27043, 0xA43516,
   0xA5FED7, 0xA7CD94, 0xA9A15B, 0xAB7A3A, 0xAD583F, 0xAF3B79, 0xB123F6, 0xB311C4] ++
  [0xB504F3, 0xB6FD92, 0xB8FBAF, 0xBAFF5B, 0xBD08A4, 0xBF179A, 0xC12C4D, 0xC346CD,
   0xC5672A, 0xC78D75, 0xC9B9BE, 0xCBEC15, 0xCE248C, 0xD06334, 0xD2A81E, 0xD4F35B,
   0xD744FD, 0xD99D16, 0xDBFBB8, 0xDE60F5, 0xE0CCDF, 0xE33F89, 0xE5B907, 0xE8396A,
   0xEAC0C7, 0xED4F30, 0xEFE4BA, 0xF28177, 0xF5257D, 0xF7D0DF, 0xFA83B3, 0xFD3E0C]
/-- L64 of R212: RoundRne(log2(1 + j/64), f32), as encodings, computed from its definition. -/
def l64 : List Nat :=
  [0x00000000, 0x3CB73CB4, 0x3D35D69C, 0x3D8759C5, 0x3DB31FB8, 0x3DDE4212, 0x3E0462C4, 0x3E19574F,
   0x3E2E00D2, 0x3E42615F, 0x3E567AF1, 0x3E6A4F72, 0x3E7DE0B6, 0x3E88983F, 0x3E92203D, 0x3E9B8926,
   0x3EA4D3C2, 0x3EAE00D2, 0x3EB7110E, 0x3EC0052B, 0x3EC8DDD4, 0x3ED19BB0, 0x3EDA3F60, 0x3EE2C97D,
   0x3EEB3A9F, 0x3EF39355, 0x3EFBD42B, 0x3F01FED4, 0x3F060828, 0x3F0A0650, 0x3F0DF989, 0x3F11E20F] ++
  [0x3F15C01A, 0x3F1993E3, 0x3F1D5DA0, 0x3F211D84, 0x3F24D3C2, 0x3F28808C, 0x3F2C2411, 0x3F2FBE80,
   0x3F335004, 0x3F36D8CB, 0x3F3A58FF, 0x3F3DD0C8, 0x3F41404F, 0x3F44A7BA, 0x3F480731, 0x3F4B5ED7,
   0x3F4EAED0, 0x3F51F740, 0x3F553848, 0x3F587209, 0x3F5BA4A4, 0x3F5ED039, 0x3F61F4E5, 0x3F6512C7,
   0x3F6829FB, 0x3F6B3A9F, 0x3F6E44CD, 0x3F7148A1, 0x3F744636, 0x3F773DA4, 0x3F7A2F04, 0x3F7D1A71]

def Q.mul (p q : Q) : Q := { n := p.n * q.n, d := p.d * q.d, e := p.e + q.e }
/-- The floor of a real. -/
def Q.floor (q0 : Q) : Int :=
  let q := q0.rootless
  q.n * pow2 q.e / (q.d * pow2 (-q.e) : Nat)
/-- An integer, or a fraction of 2^k, as a real. -/
def Q.int (n : Int) (e : Int := 0) : Q := { n := n, e := e }
/-- An FP32 constant (R212). -/
def Q.f32 (b : Nat) : Q := (decodeEl b .f32).real
/-- A real as an exact value; zero is +0. -/
def Ex.ofQ (q : Q) : Ex := if q.n == 0 then .zero false else .fin q

/-- Exp2Ref of R213. -/
def exp2Ref (x : Q) : Ex :=
  if x.n == 0 then .fin (Q.int 1)
  else
    let i := x.floor
    let fx := Q.add x (Q.int (-i))
    let j := (Q.mul fx (Q.int 64)).floor
    let r := Q.add fx (Q.int (-j) (-6))
    let p := Q.add (Q.int 1) (Q.add (Q.mul (Q.f32 0x3F317218) r)
      (Q.add (Q.mul (Q.f32 0x3E75FDF0) (Q.mul r r)) (Q.mul (Q.f32 0x3D635847) (Q.mul r (Q.mul r r)))))
    .fin (Q.mul (Q.int (t64.getD j.toNat 0) (i - 23)) p)
/-- Exp2Ref of a value with infinities (R215, R216). -/
def exp2Ex : Ex → Ex
  | .inf n => if n then .zero false else .inf false
  | .zero _ => .fin (Q.int 1)
  | .fin q => exp2Ref q
  | .nan s => .nan s
/-- Log2Ref of R214. -/
def log2Ref (x : Q) : Ex :=
  let e := x.log2
  let m : Q := { x with e := x.e - e }
  let j := (Q.mul (Q.add m (Q.int (-1))) (Q.int 64)).floor
  let c := Q.int (64 + j) (-6)
  let z := Q.div (Q.add m { c with n := -c.n }) c
  let z := if z.n == 0 then Q.int 0 else z
  let t := Q.add (Q.f32 0x3FB8AA3B) (Q.mul z (Q.add (Q.f32 0xBF38AA3B) (Q.mul z (Q.add (Q.f32 0x3EF6384F) (Q.mul z (Q.f32 0xBEB8AA3B))))))
  Ex.ofQ (Q.add (Q.int e) (Q.add (Q.f32 (l64.getD j.toNat 0)) (Q.mul z t)))
/-- The constant L of R212. -/
def cL : Q := Q.f32 0x3FB8AA3B
/-- `y` and `u` of R215: RoundRne(v * L) and RoundRne(Exp2Ref(y)), with no flag. -/
def expStep (v : Ex) : Ex := (roundRne (exp2Ex (roundRne (exactMul v (.fin cL)).1 .f32).1) .f32).1
/-- `u + k` for u = 2^y. -/
def addOne (u : Ex) (neg : Bool) : Q := Q.add (Q.int 1) (if neg then u.negate.real else u.real)
/-- TanhRef of R215. -/
def tanhRef (q : Q) : Ex :=
  if q.log2 < -12 then .fin q
  else
    let u := expStep (Ex.fin { q with n := -2 * q.n.natAbs })
    let v := Q.div (addOne u true) (addOne u false)
    Ex.ofQ (if q.n < 0 then { v with n := -v.n } else v)
/-- SigmRef of R215. -/
def sigmRef (x : Ex) : Ex :=
  match expStep x.negate with
  | .inf _ => .zero false
  | u => Ex.ofQ (Q.div (Q.int 1) (addOne u false))

/-- The functions with their special cases (R213 to R216). -/
def fnExp2 : Ex → Ex × Fl
  | .nan s => (.nan false, if s then Fl.nv else 0)
  | x => (exp2Ex x, 0)
def fnLog2 : Ex → Ex × Fl
  | .nan s => (.nan false, if s then Fl.nv else 0)
  | .zero _ => (.inf true, Fl.dz)
  | .inf n => if n then (.nan false, Fl.nv) else (.inf false, 0)
  | .fin q => if q.n < 0 then (.nan false, Fl.nv) else (log2Ref q, 0)
def fnRcp : Ex → Ex × Fl
  | .nan s => (.nan false, if s then Fl.nv else 0)
  | .zero n => (.inf n, Fl.dz)
  | .inf n => (.zero n, 0)
  | .fin q => (.fin (Q.div (Q.int 1) q), 0)
def fnRsqrt : Ex → Ex × Fl
  | .nan s => (.nan false, if s then Fl.nv else 0)
  | .zero n => (.inf n, Fl.dz)
  | .inf n => if n then (.nan false, Fl.nv) else (.zero false, 0)
  | .fin q => if q.n < 0 then (.nan false, Fl.nv) else (.fin (Q.div (Q.int 1) q).sqrt, 0)
def fnTanh : Ex → Ex × Fl
  | .nan s => (.nan false, if s then Fl.nv else 0)
  | .zero n => (.zero n, 0)
  | .inf n => (.fin (Q.int (if n then -1 else 1)), 0)
  | .fin q => (tanhRef q, 0)
def fnSigm : Ex → Ex × Fl
  | .nan s => (.nan false, if s then Fl.nv else 0)
  | .inf n => if n then (.zero false, 0) else (.fin (Q.int 1), 0)
  | x => (sigmRef x, 0)

/-- R211: NX is never raised. -/
def sfuEl (f : Ex → Ex × Fl) (rm : Rm) (ftz sat : Bool) (b : Nat) : Nat × Fl :=
  let (v, fl) := encJoin (f (flushIn ftz (decodeEl b .f32))) .f32 rm ftz sat
  (v, fl &&& ~~~Fl.nx)
def sfuRes (f : Ex → Ex × Fl) (x : VFn) (c : Ctx) : List Nat × Fl :=
  mapFl (sfuEl f x.rm x.ftz x.sat) (rowEls (c.rsrc 32 x.a) 32)
def State.vfn (s : State) (x : VFn) (f : Ex → Ex × Fl) : Out := s.vels x.g 8 x.d 32 (sfuRes f x s.ctx)
/-- R210 to R213, R216; latency 8 (R208). -/
def execVexp2 (x : VFn) (s : State) : Out := s.vfn x fnExp2
/-- R214. -/
def execVlog2 (x : VFn) (s : State) : Out := s.vfn x fnLog2
/-- R215. -/
def execVrcp (x : VFn) (s : State) : Out := s.vfn x fnRcp
/-- R215. -/
def execVrsqrt (x : VFn) (s : State) : Out := s.vfn x fnRsqrt
/-- R215. -/
def execVtanh (x : VFn) (s : State) : Out := s.vfn x fnTanh
/-- R215. -/
def execVsigm (x : VFn) (s : State) : Out := s.vfn x fnSigm

/-- TAB[ACT] (R218, R219). -/
def Ctx.tabGet (c : Ctx) (i : Nat) : Nat := (c.tab.toArray.getD ((if c.act then 256 else 0) + i % 256) 0).toNat
/-- R219; latency 4. -/
def execVtbl (x : VUna) (s : State) : Out :=
  let c := s.ctx
  if x.t == .n8 then s.vels x.g 4 x.d 8 ((rowEls (c.row x.a) 8).map (fun i => c.tabGet i % 256), 0)
  else s.vels x.g 4 x.d 32 ((rowEls (c.row x.a) 32).map (fun i => c.tabGet i), 0)
/-- R220: the inactive bank, written within 2 ck. -/
def execVtbld (x : VTbld) (s : State) : Out :=
  let c := s.ctx
  if !c.guard x.g then .next s
  else
    let base := (if c.act then 0 else 256) + x.part.val * 128
    let ls := rowEls (c.row x.a) 32
    let tab := (ls.zip (List.range 128)).foldl (fun (t : Vector (BitVec 32) 512) p => t.setIfInBounds (base + p.2) (BitVec.ofNat 32 p.1)) c.tab
    .next (s.setCtx { c with tab, tabDue := s.now + 2 })
/-- R221. -/
def execVtbsw (g : Guard) (s : State) : Out :=
  if s.ctx.guard g then .next (s.setCtx { s.ctx with act := !s.ctx.act }) else .next s

/-- SMSTAT bits INF, NAN, AM (R223). -/
def smInf : BitVec 3 := 4
def smNan : BitVec 3 := 2
def smAm : BitVec 3 := 1
/-- A result with SMSTAT bits, set in the issue cycle; a squashable syllable carries them until it lands (R108, R223). -/
def Ctx.resultSm (c : Ctx) (now : Nat) (g : Guard) (lat code : Nat) (v : Word) (r : Option Row) (latch : Bool) (sm : BitVec 3)
    (am : Option (Fin 128)) : Ctx :=
  let f : Flight := { fin := now + lat, born := now, code, slot := .v, val := v, row := r, latch, sq := g.sq,
                      sm := if g.sq then sm else 0, am := if g.sq then am else none }
  let c' := c.fly g lat f
  if g.sq then c' else { c'.orSm sm am with raisedSm := c.raisedSm ||| sm, raisedAm := am }
/-- The enabled positions of a mask (R224): lane non-zero in the row with code 0xC0 + m. -/
def Ctx.enables (c : Ctx) (mask : Option (Fin 64)) : List Bool :=
  match mask with
  | none => List.replicate 128 true
  | some m => (rowEls (c.rows.toArray.getD (64 + m.val) 0) 32).map (· != 0)
/-- A result rounded with RNE; under ftz a subnormal one is +0, whatever its sign (R224). -/
def smRound (x : Ex) (ftz : Bool) : Nat × Fl :=
  let (b, f) := encodeEl x .f32 .rne ftz false
  (if ftz && b == 0x80000000 && !x.isZero then 0 else b, f)
/-- The larger by R100, any NaN winning (R225). -/
def maxNan (r x : Ex) : Ex := if r.isNan || x.isNan then .nan false else if totalLt r x then x else r
/-- The fold of R225: running value, NAN and INF met. -/
def smaxFold (ftz : Bool) (r : Ex) (xs : List (Bool × Ex)) : Ex × BitVec 3 :=
  xs.foldl (fun (a : Ex × BitVec 3) p =>
    if !p.1 || p.2 == .inf true then a
    else
      let x := flushIn ftz p.2
      (maxNan a.1 x, a.2 ||| (if x.isNan then smNan else 0) ||| (if x == .inf false then smInf else 0))) (r, 0)
/-- R225; latency 6. DESIGN CHOICE: with ftz a subnormal running value that no position replaces is flushed like any result (log entry
87). -/
def execVsmax (x : VFold) (s : State) : Out :=
  let c := s.ctx
  let els := (rowEls (c.row x.a) 32).map (fun b => decodeEl b .f32)
  let (r, sm) := smaxFold x.ftz (decodeEl (c.src x.b).toNat .f32) ((c.enables x.mask).zip els)
  let sm := if r.isNan then sm ||| smNan else sm
  if !c.guard x.g then .next s
  else .next (s.setCtx (c.resultSm s.now x.g 6 (sCode x.d) (BitVec.ofNat 64 (smRound (if r.isNan then .nan false else r) x.ftz).1) none true sm none))

/-- One weight of R226, with NAN. -/
def expWeight (ftz : Bool) (m : Ex) (en : Bool) (x0 : Ex) : Ex × BitVec 3 :=
  let x := flushIn ftz x0
  if !en || x == .inf true then (.zero false, 0)
  else if x.isNan || m.isNan then (.nan false, smNan)
  else if x == .inf false && m == .inf false then (.fin (Q.int 1), 0)
  else
    let t := (roundRne (exactSum .rne [x, m.negate]).1 .f32).1
    let p := expStep t
    (if ftz && (match p with | .fin q => decide (q.log2 < -126) | _ => false) then .zero false else p, 0)
/-- R226: weights in place at latency 8, in no latch; the sum at latency 10. DESIGN CHOICE: a NaN incoming sum sets no NAN, and R108 kills
each of the two results by its own latency (log entry 87). -/
def execVsexp (x : VSexp) (s : State) : Out :=
  let c := s.ctx
  let m := decodeEl (c.src x.b).toNat .f32
  let ws := ((c.enables x.mask).zip (rowEls (c.row x.d) 32)).map (fun p => expWeight x.ftz m p.1 (decodeEl p.2 .f32))
  let sm := ws.foldl (fun a w => a ||| w.2) 0
  let sum := (exactSum .rne (decodeEl (c.src x.c).toNat .f32 :: ws.map Prod.fst)).1
  let r := rowOf (ws.map (fun w => (encodeEl w.1 .f32 .rne false false).1)) 32
  if !c.guard x.g then .next s
  else
    let c1 := c.resultSm s.now x.g 8 (rCode x.d) (rowLatch r) (some r) false 0 none
    .next (s.setCtx (c1.resultSm s.now x.g 10 (sCode x.a) (BitVec.ofNat 64 (smRound sum x.ftz).1) none true sm none))
/-- R227; latency 8. -/
def execVsdiv (x : VSdiv) (s : State) : Out :=
  let c := s.ctx
  let l := decodeEl (c.src x.b).toNat .f32
  let (r, sm, am) : Row × BitVec 3 × Option (Fin 128) :=
    if l.isNan then (bcast 0x7FC00000 32, smNan, none)
    else if l.isZero then (0, smAm, some x.d)
    else (rowOf ((rowEls (c.row x.a) 32).map (fun b => (smRound (fDivX .rne (flushIn x.ftz (decodeEl b .f32)) l).1 x.ftz).1)) 32, 0, none)
  if !c.guard x.g then .next s
  else .next (s.setCtx (c.resultSm s.now x.g 8 (rCode x.d) (rowLatch r) (some r) true sm am))
/-- The pair of R228 and its flags. -/
def mstatRes (x : VFold) (c : Ctx) : Nat × Fl :=
  let els := ((c.enables x.mask).zip (rowEls (c.row x.a) 32)).filterMap (fun p =>
    if p.1 then some (flushIn x.ftz (decodeEl p.2 .f32)) else none)
  let b := (c.src x.b).toNat
  let sq := els.map (fun e => exactMul e e)
  let (sv, f1) := exactSum .rne (decodeEl b .f32 :: els)
  let (qv, f2) := exactSum .rne (decodeEl (b / 2 ^ 32) .f32 :: sq.map Prod.fst)
  let (sb, f3) := smRound sv x.ftz
  let (qb, f4) := smRound qv x.ftz
  (qb * 2 ^ 32 + sb, sq.foldl (fun a p => a ||| p.2) (f1 ||| f2 ||| f3 ||| f4))
/-- R228; latency 6. -/
def execVmstat (x : VFold) (s : State) : Out :=
  let (v, fl) := mstatRes x s.ctx
  s.finish x.g .v 6 (sCode x.d) (BitVec.ofNat 64 v) none fl

/-- R229: indices sorted stably by key, and the counts; the counts alone enter the latch (R61). -/
def execVpart (x : VPart) (s : State) : Out :=
  let c := s.ctx
  let els := (rowEls (c.row x.a) 32).zip (List.range 128)
  let keyOf := fun v => if x.key.val == 0 then (if v == 0 then 0 else 1) else v % 4
  let ls := (List.range 4).map (fun k => (els.filter (fun p => keyOf p.1 == k)).map Prod.snd)
  let r := rowOf ls.flatten 32
  let n := ls.foldr (fun l a => a * 256 + l.length) 0
  if !c.guard x.g then .next s
  else
    let c1 := c.fly x.g 4 { fin := s.now + 4, born := s.now, code := rCode x.d, slot := .v, val := rowLatch r, row := some r, sq := x.g.sq, latch := false }
    .next (s.setCtx (c1.result s.now x.g .v 4 (sCode x.b) (BitVec.ofNat 64 n)))

/-- The elements of R230 that are accessed: the offset of each e < n. -/
def gsOffs (c : Ctx) (x : VGs) : List Nat :=
  ((rowEls (c.row x.b) 32).take (min ((c.src x.c).toNat % 2 ^ 32) 128)).map (fun i => (c.src x.a).toNat + i * (x.t.sw / 8))
/-- R230, R231; latency 7, port for 4 ck. -/
def execVgath (x : VGs) (s : State) : Out :=
  s.rowLoad x.g x.sp x.d (s.ctx.src x.a).toNat (x.t.sw / 8) 7 4 x.t.sw ((gsOffs s.ctx x).map (fun o => (o, x.t.sw / 8, 0))) none
/-- R230: in ascending element order. -/
def execVscat (x : VGs) (s : State) : Out :=
  s.rowStore x.g x.sp (s.ctx.src x.a).toNat (x.t.sw / 8) 4
    (((gsOffs s.ctx x).zip (rowEls (s.ctx.row x.d) x.t.sw)).map (fun p => wholePiece p.1 (x.t.sw / 8) p.2)) none

end Sys2Proof.Machine
end

