-- ==== Sys2Proof/Machine/Chain.lean ====
section
/-! DEFINITION. The attention chain (11_chain.md, R260 to R285): push checks and records, the block step, its time and
counters, commit and completion, the image of `chsave` and `chrest`. -/

namespace Sys2Proof.Machine

/-- The rows of a strided AB region lie in the data area of one bank each, with the format of row 0 (R251, R270). -/
def Ctx.rowsOk (c : Ctx) (a pitch rows len : Nat) : Bool := (List.range rows).all (fun r => c.rowIn .ab a (a + r * pitch) len)

/-- A pair of the third row of R234. -/
def realPair (a b : ETy) : Bool := meTy a && meTy b && a != .lg6 && b != .lg6
/-- R270: Q and K both LG6, or a pair of the third row other than two unscaled integer types. -/
def qkOk (q : ETy) (qbs : Bool) (k : ETy) (kbs : Bool) : Bool :=
  (q == .lg6 && k == .lg6) || (realPair q k && !(unscaledInt q qbs && unscaledInt k kbs))
/-- R270: types of V. -/
def vOk (t : ETy) : Bool := meTy t && t != .lg6

def f32Inf (neg : Bool) : Nat := if neg then 0xFF800000 else 0x7F800000
def one32 : Nat := 0x3F800000
def finite32 (b : Nat) : Bool := bits b 23 8 != 0xFF

/- Push. -/
/-- A chain command while a chain is bound (R261). -/
def Ctx.chBound (c : Ctx) : Chk Unit := need c.chRec.bound .illegal

/-- Checks of `chbind` (R269): the Q region and its format. -/
def Ctx.chkBind (c : Ctx) (x : Ecmd) : Chk (List Rng × List Rng) := do
  let a := c.opA x
  let b := c.opB x
  let w := c.opC x
  let mode := x.mf 11 2
  let qo := bits a 0 24
  let nq := bits a 32 8 + 1
  let d := bits a 40 8 + 1
  let pq := bits a 48 16
  let oo := bits b 0 20
  let po := bits b 24 8
  let sp : Space := if x.m 8 then .wb else .ab
  let f := c.fmtAt sp qo
  let len := elBytes f.ty d
  let span := (nq - 1) * pq * 64 + len
  let olen := d * ETy.bits x.t / 8
  let oend := oo + (nq - 1) * po * 64 + olen
  need (!c.chRec.bound) .illegal
  need (bits a 24 8 == 0 && nq ≤ 128 && d ≤ 128 && bits b 20 4 == 0) .illegal
  need (if mode == 0 || mode == 3 then w == 0 else if mode == 1 then w < 2 ^ 32 else w < 2 ^ 64) .illegal
  need (finite32 (bits b 32 32)) .illegal
  need ((!inBuf sp qo || len ≤ pq * 64) && olen ≤ po * 64) .illegal
  need (!inBuf sp qo || meTy f.ty) .illegal
  need (qo % 64 == 0) .align qo
  need (oo % 64 == 0) .align oo
  need (inBuf sp qo && c.ringOk sp qo span && c.rowIn sp qo qo span) .buffer qo
  need (oend ≤ Space.size .cb) .buffer oo
  .ok (c.allRngs sp qo span, [{ buf := .cb, lo := oo, hi := oend }])
/-- R269. The output rows are written by `chfin`, which names them in its own push. -/
def execChbind (x : Ecmd) (s : State) : Out :=
  let c := s.ctx
  let a := c.opA x
  let f := c.fmtAt (if x.m 8 then .wb else .ab) (bits a 0 24)
  s.command x.g (c.pushView.chkBind x) (fun (rs, _) =>
    let s := s.push { c.mkCmd x .ce (.chbind x) with reads := rs, arrs := 3 }
    let c := s.ctx
    s.setCtx { (c.setRec false { c.saRec with valid := false }).setRec true { c.vaRec with valid := false } with
      chRec := { bound := true, mode := x.mf 11 2, qty := f.ty, qbs := f.bs, d := bits a 40 8 + 1, kpos := 0 },
      chOut := some (bits (c.opB x) 0 20, bits (c.opB x) 24 8, bits a 32 8 + 1, x.t) })

/-- The base position of a block and KPOS after it (R263). -/
def blockBase (kpos w : Nat) : Nat := if bit w 8 then bits w 32 32 else kpos
def blockNk (w : Nat) : Nat := bits w 0 8 + 1
/-- Checks of the block word (R263, R270). -/
def Ctx.chkBlockWord (c : Ctx) (w : Nat) : Chk Unit := do
  need (blockNk w ≤ 128 && bits w 9 23 == 0 && (bit w 8 || bits w 32 32 == 0)) .illegal
  need (blockBase c.chRec.kpos w + blockNk w ≤ 2 ^ 32) .illegal
/-- The push record after a block (R261). -/
def State.advanceKpos (s : State) (w : Nat) : State :=
  let c := s.ctx
  s.setCtx { c with chRec := { c.chRec with kpos := (blockBase c.chRec.kpos w + blockNk w) % 2 ^ 32 } }

/-- Checks of `chkv` (R270); a later row of another TYPE or BS takes BUFFER (DESIGN CHOICE, log entry 100). -/
def Ctx.chkKv (c : Ctx) (x : Ecmd) : Chk (List Rng) := do
  let a := c.opA x
  let b := c.opB x
  let w := c.opC x
  let nk := blockNk w
  let (ko, pk) := (bits a 0 24, bits a 24 16 * 64)
  let (vo, pv) := (bits b 0 24, bits b 24 16 * 64)
  let fk := c.fmtAt .ab ko
  let fv := c.fmtAt .ab vo
  let kl := elBytes fk.ty c.chRec.d
  let vl := elBytes fv.ty c.chRec.d
  c.chBound
  need (bits a 40 24 == 0 && bits b 40 24 == 0) .illegal
  c.chkBlockWord w
  need ((!inBuf .ab ko || kl ≤ pk) && (!inBuf .ab vo || vl ≤ pv)) .illegal
  need ((!inBuf .ab ko || qkOk c.chRec.qty c.chRec.qbs fk.ty fk.bs) && (!inBuf .ab vo || vOk fv.ty)) .illegal
  need (ko % 64 == 0) .align ko
  need (vo % 64 == 0) .align vo
  let ks := (nk - 1) * pk + kl
  let vs := (nk - 1) * pv + vl
  need (ko < Space.size .ab && c.ringOk .ab ko ks && c.rowsOk ko pk nk kl) .buffer ko
  need (vo < Space.size .ab && c.ringOk .ab vo vs && c.rowsOk vo pv nk vl) .buffer vo
  .ok (c.allRngs .ab ko ks ++ c.allRngs .ab vo vs)
/-- R270. -/
def execChkv (x : Ecmd) (s : State) : Out :=
  let c := s.ctx
  s.command x.g (c.pushView.chkKv x) (fun rs => (s.push { c.mkCmd x .ce (.chkv x) with reads := rs }).advanceKpos (c.opC x))

/-- Bytes of a row whose block scales follow its data (R252, R276). -/
def rowBytes (t : ETy) (bs : Bool) (d : Nat) : Nat := elBytes t d + (if bs then ceilDiv d 32 else 0)
def tyBs (w lo : Nat) : ETy × Bool := (tyOf (bits w lo 4), bit w (lo + 4))
/-- Checks of `chlink` (R276). -/
def Ctx.chkLink (c : Ctx) (x : Ecmd) : Chk (List Rng) := do
  let a := c.opA x
  let b := c.opB x
  let w := c.opC x
  let nk := blockNk w
  let (vo, pk, pv) := (bits b 0 24, bits b 24 16 * 64, bits b 40 16 * 64)
  c.chBound
  need (a < 256 && bits b 56 8 == 0) .illegal
  c.chkBlockWord w
  match (c.lbRec.toList.getD a none) with
  | none => do
    need (vo % 64 == 0) .align vo
    .error (.buffer, a)
  | some (bw, rw) =>
    let (kt, kbs) := tyBs bw.toNat 8
    let (vt, vbs) := tyBs bw.toNat 16
    let kl := rowBytes kt kbs c.chRec.d
    let vl := rowBytes vt vbs c.chRec.d
    need (kl ≤ pk && vl ≤ pv) .illegal
    need (bits bw.toNat 8 4 < 12 && bits bw.toNat 16 4 < 12 && qkOk c.chRec.qty c.chRec.qbs kt kbs && vOk vt) .illegal
    need (vo % 64 == 0) .align vo
    need ((nk - 1) * pk + kl ≤ regLen rw && vo + (nk - 1) * pv + vl ≤ regLen rw) .buffer (regOff rw)
    .ok [{ buf := .ab, lo := regOff rw, hi := regOff rw + regLen rw }]
/-- R276. -/
def execChlink (x : Ecmd) (s : State) : Out :=
  let c := s.ctx
  s.command x.g (c.chkLink x) (fun rs => (s.push { c.mkCmd x .ce (.chlink x) with reads := rs }).advanceKpos (c.opC x))

/-- Checks of `chmask` (R278). -/
def Ctx.chkMask (c : Ctx) (x : Ecmd) : Chk Unit := do
  let a := c.opA x
  c.chBound
  need (c.chRec.mode == 3) .illegal
  need (a % 64 == 0) .align a
  need (c.pushView.runIn .ab a 2048) .buffer a
/-- R278. -/
def execChmask (x : Ecmd) (s : State) : Out :=
  let c := s.ctx
  let a := c.opA x
  s.command x.g (c.chkMask x) (fun _ => s.push { c.mkCmd x .ce (.chmask x) with reads := c.pushView.ranges .ab a 2048 })

/-- The record after a command that ends the chain (R261). -/
def State.unbindRec (s : State) : State := s.setCtx { s.ctx with chRec := {}, chOut := none }
/-- The output rows of the bound chain, as its `chbind` or `chrest` names them. -/
def Ctx.outRange (c : Ctx) : List Rng :=
  match c.chOut with
  | none => []
  | some (oo, po, nq, t) => [{ buf := .cb, lo := oo, hi := oo + (nq - 1) * po * 64 + c.chRec.d * ETy.bits t / 8 }]
/-- R279. -/
def execChfin (x : Ecmd) (s : State) : Out :=
  let c := s.ctx
  s.command x.g c.chBound (fun _ => (s.push { c.mkCmd x .ce (.chfin x) with writes := c.outRange }).unbindRec)
/-- R280. -/
def execChdrop (x : Ecmd) (s : State) : Out :=
  let c := s.ctx
  s.command x.g c.chBound (fun _ => (s.push (c.mkCmd x .ce (.chdrop x))).unbindRec)
/-- Bytes of a chain image (R281). -/
def imageLen : Nat := 106496
/-- Checks of `chsave` and `chrest` (R281): the buffer, and the ranges of the image. -/
def Ctx.chkImage (c : Ctx) (x : Ecmd) (bound : Bool) : Chk (Space × List Rng) := do
  let a := c.opA x
  let sp : Space := if x.m 1 then .ab else .cb
  need (c.chRec.bound == bound) .illegal
  need (a % 64 == 0) .align a
  need (c.runIn sp a imageLen) .buffer a
  .ok (sp, c.ranges sp a imageLen)
/-- R281. -/
def execChsave (x : Ecmd) (s : State) : Out :=
  let c := s.ctx
  s.command x.g (c.pushView.chkImage x true) (fun (_, rs) =>
    let s := s.push { c.mkCmd x .ce (.chsave x) with writes := rs }
    if x.m 0 then s.unbindRec else s)
/-- R281. The push record takes mode, Q type, D and KPOS from the image as it stands at the push (DEDUCED, log entry 32). -/
def execChrest (x : Ecmd) (s : State) : Out :=
  let c := s.ctx
  let a := c.opA x
  s.command x.g (c.pushView.chkImage x false) (fun (sp, rs) =>
    let v := s.portView s.cur
    let rd (o n : Nat) : Nat := leNat (v.ringRead s.cur sp a (a + o) n)
    let q := rd 0 8
    let s := s.push { c.mkCmd x .ce (.chrest x) with reads := rs, arrs := 3 }
    let c := s.ctx
    s.setCtx { (c.setRec false { c.saRec with valid := false }).setRec true { c.vaRec with valid := false } with
      chRec := { bound := true, mode := bits (rd 0x18 8) 0 2, qty := tyOf (bits q 0 4), qbs := bit q 4, d := bits q 16 8 + 1,
                 kpos := bits (rd 0x20 8) 0 32 },
      chOut := some (bits (rd 8 8) 0 20, bits (rd 8 8) 24 8, bits q 8 8 + 1, tyOf (bits (rd 0x18 8) 8 4)) })
/-- R283. -/
def execChstat (x : ChStat) (s : State) : Out :=
  let c := s.ctx
  s.command x.g c.chBound (fun _ => s.push { eng := .ce, ins := .chstat x, tok := x.tok })

/- The block step (R271). -/
/-- FP32 rounding with the flush of R269. -/
def rf (ftz : Bool) (x : Ex × Fl) (fl : Fl) : Ex × Fl :=
  let (r, f) := roundRne x.1 .f32
  (flushIn ftz r, fl ||| x.2 ||| f)
def d32 (b : Nat) : Ex := decodeEl b .f32
def e32 (x : Ex) : Nat := (encodeEl x .f32 .rne false false).1
/-- A sum as R49: groups of `g` terms in ascending order. -/
def sumGroups (ftz : Bool) (g : Nat) (acc : Ex) (terms : List (Ex × Fl)) (fl : Fl) : Ex × Fl :=
  (groupsOf g terms).foldl (fun (a : Ex × Fl) ts => accF ftz a.1 ts a.2) (acc, fl)
/-- `RoundRne(Exp2Ref(RoundRne(RoundRne(x - m) * L)))` with its flags. -/
def expOf (ftz : Bool) (x m : Ex) (fl : Fl) : Ex × Fl :=
  let (t, fl) := rf ftz (exactSum .rne [x, m.negate]) fl
  let (y, fl) := rf ftz (exactMul t (.fin cL)) fl
  rf ftz (exp2Ex y, 0) fl
/-- The `k` highest digits of the non-adjacent form of a significand, and how many were kept (R271). -/
def topDigits (n k : Nat) : Int × Nat :=
  let h := bits n 1 40
  let p := n + h
  (List.range 48).reverse.foldl (fun (a : Int × Nat) i =>
    let d : Int := if bit p i && !bit h i then 1 else if bit h i && !bit p i then -1 else 0
    if d == 0 || a.2 == k then a else (a.1 + d * 2 ^ i, a.2 + 1)) (0, 0)
/-- ph of a weight p and its pips. -/
def truncP (p : Ex) (k : Nat) : Ex × Nat :=
  let b := e32 p
  let ex := bits b 23 8
  let n := bits b 0 23 + (if ex == 0 then 0 else 2 ^ 23)
  let (v, c) := topDigits n k
  (Ex.dy v ((max ex 1 : Nat) - 150), c)

/-- A position is visible (R264). -/
def Chain.visible (ch : Chain) (i j base : Nat) : Bool :=
  let qp := bits ch.pword.toNat 0 32 + i
  let kp := base + j
  i < ch.nq && (match ch.mode with
    | 0 => true
    | 1 => kp ≤ qp
    | 2 => qp < kp + (bits ch.pword.toNat 32 24 + 1) && kp ≤ qp + bits ch.pword.toNat 56 8
    | _ => bit (ch.bmap.getD i 0) j)

/-- A block's rows: K and V elements with scales, and their types. -/
structure Block where
  base : Nat
  kt : ETy
  k : List Els
  vt : ETy
  v : List Els

/-- One query row's step: the row's new m, l, RS, NM, O, the pips of its weights, flags and status (bit 0 NAN, bit 1 INF). -/
structure RowRes where
  nm : Bool
  m : Nat
  l : Nat
  rs : Nat
  o : List Nat
  pp : List Nat
  fl : Fl
  nan : Bool
  inf : Bool

def isVis (vis : Bool) (sc : Ex) : Bool := vis && sc != .inf true
/-- R271 for one row `i`. -/
def Chain.rowStep (ch : Chain) (gs gv : Nat) (b : Block) (i : Nat) : RowRes :=
  let q := ch.q.getD i []
  let nk := b.k.length
  let m0 := d32 (ch.m.getD i 0)
  let o0 := ch.o.getD i []
  if ch.nm.getD i false then
    { nm := true, m := ch.m.getD i 0, l := ch.l.getD i 0, rs := ch.rs.getD i 0, o := o0, pp := List.replicate nk 0, fl := 0, nan := false, inf := false }
  else
    let sigma := d32 (bits ch.oword.toNat 32 32)
    let sc := b.k.map (fun kr =>
      let ts := (q.zip kr).map (fun p => cellMul (ch.qty == .lg6) ch.ftz ch.qty p.1 b.kt p.2)
      let (acc, fl) := sumGroups ch.ftz gs (.zero false) ts 0
      rf ch.ftz (exactMul sigma acc) fl)
    let fl0 := sc.foldl (fun f x => f ||| x.2) (0 : Fl)
    let vs := (sc.zip (List.range nk)).map (fun p => (p.1.1, ch.visible i p.2 b.base))
    if vs.any (fun p => p.2 && p.1.isNan) then
      let nn := ETy.nanBits .f32
      { nm := true, m := nn, l := nn, rs := nn, o := List.replicate ch.d nn ++ o0.drop ch.d, pp := List.replicate nk 0, fl := fl0, nan := true,
        inf := vs.any (fun p => p.2 && p.1 == .inf false) }
    else
      let vs := vs.map (fun p => (p.1, isVis p.2 p.1))
      let mb := vs.foldl (fun a p => if p.2 && (match a.cmp p.1 with | .lt => true | _ => false) then p.1 else a) (.inf true)
      let up := match m0.cmp mb with | .lt => true | _ => false
      let mn := if up then mb else m0
      let (r, fl1) := if up then expOf ch.ftz m0 mn fl0 else (.fin (Q.int 1), fl0)
      let ws : List ((Ex × Nat) × Fl) := vs.map (fun p =>
        if !p.2 then ((Ex.zero false, 0), (0 : Fl))
        else if p.1 == .inf false then ((Ex.fin (Q.int 1), 1), 0)
        else let (e, f) := expOf ch.ftz p.1 mn 0; (truncP e ch.ppips, f))
      let fl2 := ws.foldl (fun f w => f ||| w.2) fl1
      let ph : List Ex := ws.map (fun w => w.1.1)
      let (lr, f3) := exactMul (d32 (ch.l.getD i 0)) r
      let (sm, f4) := exactSum .rne (lr :: ph)
      let (l, fl3) := rf ch.ftz (sm, f3 ||| f4) fl2
      let os := (List.range ch.d).map (fun n =>
        let (a0, f5) := exactMul (d32 (o0.getD n 0)) r
        let ts := (ph.zip b.v).map (fun (p : Ex × Els) =>
          let e : Nat × Nat := p.2.getD n (0, 127)
          exactMul p.1 (flushIn ch.ftz (decodeScaled e.1 b.vt e.2)))
        sumGroups ch.ftz gv a0 ts f5)
      { nm := false, m := if up then e32 mn else ch.m.getD i 0, l := e32 l, rs := e32 r,
        o := os.map (fun x => e32 x.1) ++ o0.drop ch.d, pp := ws.map (fun w => w.1.2),
        fl := os.foldl (fun f x => f ||| x.2) fl3, nan := false, inf := vs.any (fun p => p.2 && p.1 == .inf false) }

/-- A block's effect (R271): the chain after it, the rows' results. KPOS goes on from 0 after 2^32 - 1 (DESIGN CHOICE, log entry 101). -/
def Chain.step (ch : Chain) (gs gv : Nat) (b : Block) : Chain × List RowRes :=
  let rs := (List.range ch.nq).map (ch.rowStep gs gv b)
  let put {α : Type} (xs : List α) (f : RowRes → α) : List α := rs.map f ++ xs.drop ch.nq
  ({ ch with nm := put ch.nm RowRes.nm, m := put ch.m RowRes.m, l := put ch.l RowRes.l, rs := put ch.rs RowRes.rs,
             o := put ch.o RowRes.o, kpos := (b.base + b.k.length) % 2 ^ 32 }, rs)

/-- The groups' steps in an array over the rows of a block: times, pips and zero-skips (R240, R274). -/
abbrev Steps := List (List (Nat × Nat × Bool))
/-- T of R241 for the rows of a block, which no read delays: the chain's rows come first at the port (R242). -/
def stepsTime (clk : Nat → Nat) (rows : Steps) : Nat :=
  ((rows.foldl (fun (h : List (List Nat)) ts => ((stepEnds clk h 0 (ts.map Prod.fst)).map Prod.snd :: h).take 8) []).headD []).foldl max 0
/-- A committed block's counts in an array, and whether a counter would have passed its limit (R244, R275). -/
def Arr.runSteps (a : Arr) (clk : Nat → Nat) (rows : Steps) : Arr × Bool :=
  let (a, past, _) := rows.foldl (fun (q : Arr × Bool × List (List Nat)) ts =>
    let be := stepEnds clk q.2.2 0 (ts.map Prod.fst)
    let (a, o) := q.1.add (rowCounts q.2.2 ts be) 1 0
    (a, q.2.1 || o, (be.map Prod.snd :: q.2.2).take 8)) (a, false, [])
  let (a, o) := a.add [] 0 (stepsTime clk rows)
  (a, past || o)
/-- A discarded block's cycles up to cycle `cut` of its steps (R275). -/
def Arr.loseSteps (a : Arr) (clk : Nat → Nat) (cut : Nat) (rows : Steps) : Arr × Bool :=
  let (a, o1, t) := a.discard clk [] cut (rows.map (fun r => (0, r)))
  let (a, o2) := a.add [] 0 t
  (a, o1 || o2)
/-- VA's groups for one key: pip counts of the weights of the query rows (R274). -/
def vaTimes (gv : Nat) (pp : List Nat) : List (Nat × Nat × Bool) :=
  (groupsOf gv pp).map (fun g => (max 1 (g.foldl max 0), g.foldl (· + ·) 0, g.all (· == 0)))

/-- Elements of a row of packed bytes; block scales follow the data where the row carries its own (R252, R276). -/
def rowEl (t : ETy) (bs : Bool) (d : Nat) (b : List Byte) : Els :=
  (List.range d).map (fun i => (elAt t b i, if bs then (b.getD (elBytes t d + i / 32) 0).toNat else 127))

/-- An uncorrectable error in a block's reads (R273): in SA or in VA, its offset, and the key index at which it is met. -/
structure ReadErr where
  va : Bool
  off : Nat
  j : Nat
/-- The error that a block meets first: SA reads its cells and the K rows in turn, then VA its accumulators and the V rows. -/
def firstErr (sa va : Bool) (ks vs : List (Option Nat)) : Option ReadErr :=
  let hit (v : Bool) (os : List (Option Nat)) : Option ReadErr :=
    (os.zip (List.range os.length)).findSome? (fun p => p.1.map (fun o => { va := v, off := o, j := p.2 }))
  if sa then some { va := false, off := 0, j := 0 }
  else match hit false ks with
    | some e => some e
    | none => if va then some { va := true, off := 0, j := 0 } else hit true vs
/-- The rows of a block command, and the error that it meets (R273, R276, R332); `none` without the link buffer. -/
def State.blockOf (s : State) (c : CoreId) (m : Cmd) (ch : Chain) : Option (Block × Option ReadErr) :=
  let x := s.ctxOf c
  let w := m.c.toNat
  let nk := blockNk w
  let base := blockBase ch.kpos w
  let b := m.b.toNat
  let first (ks vs : List (Option Nat)) : Option ReadErr := firstErr (s.cellBad c false) (s.cellBad c true) ks vs
  match m.ins with
  | .chlink _ =>
    match x.lbufs.toList.getD (m.a.toNat % 16) none with
    | none => none
    | some lb =>
      let (kt, kbs) := tyBs lb.bind.toNat 8
      let (vt, vbs) := tyBs lb.bind.toNat 16
      let ko (j : Nat) := regOff lb.region + j * (bits b 24 16 * 64)
      let vo (j : Nat) := regOff lb.region + bits b 0 24 + j * (bits b 40 16 * 64)
      let kl := rowBytes kt kbs ch.d
      let vl := rowBytes vt vbs ch.d
      some ({ base, kt, vt,
              k := (List.range nk).map (fun j => rowEl kt kbs ch.d (s.bufLoad c .ab (ko j) kl)),
              v := (List.range nk).map (fun j => rowEl vt vbs ch.d (s.bufLoad c .ab (vo j) vl)) },
            first ((List.range nk).map (fun j => s.rowEcc c .ab [(ko j, kl)])) ((List.range nk).map (fun j => s.rowEcc c .ab [(vo j, vl)])))
  | _ =>
    let a := m.a.toNat
    let ka := bits a 0 24
    let va := bits b 0 24
    let ko (j : Nat) := ka + j * (bits a 24 16 * 64)
    let vo (j : Nat) := va + j * (bits b 24 16 * 64)
    let kt := (x.fmtAt .ab ka).ty
    let vt := (x.fmtAt .ab va).ty
    some ({ base, kt, vt,
            k := (List.range nk).map (fun j => s.abRow c ka (ko j) ch.d),
            v := (List.range nk).map (fun j => s.abRow c va (vo j) ch.d) },
          first ((List.range nk).map (fun j => s.runEcc c .ab ka (ko j) (elBytes kt ch.d)))
            ((List.range nk).map (fun j => s.runEcc c .ab va (vo j) (elBytes vt ch.d))))

/-- A block at work: the chain after it, its rows' results, its steps in SA and VA, and where they begin and end (R274). -/
structure BlockRun where
  ch : Chain
  rs : List RowRes
  ks : Steps
  vs : Steps
  sab : Nat
  sae : Nat
  vab : Nat
  vae : Nat
  /-- The cycle in which the first VA step begins. -/
  vbeg : Nat
  /-- The error that it meets: its steps end before the row of that key. -/
  err : Option ReadErr
/-- The VA steps have begun by cycle `t` (R273). -/
def BlockRun.begun (b : BlockRun) (t : Nat) : Bool := decide (b.vbeg ≤ t) && (match b.err with | some e => e.va | none => true)
/-- The cycle in which the block's error is met. -/
def BlockRun.met (b : BlockRun) : Nat := match b.err with | some e => if e.va then b.vae else b.sae | none => 0
/-- A started block on a chain whose latest blocks ended as `ends` says. -/
def State.runBlock (s : State) (c : CoreId) (ch : Chain) (m : Cmd) : Option BlockRun :=
  let x := s.ctxOf c
  match s.blockOf c m ch with
  | none => none
  | some (b, err) =>
    let (ch2, rs) := ch.step x.sa.G x.va.G b
    let sa0 : Arr := { x.sa with sh := { kc := ch.d } }
    let upTo (va : Bool) (n : Nat) : Nat := match err with | some e => if e.va == va then e.j else if va then 0 else n | none => n
    let ks := (b.k.take (upTo false b.k.length)).map (stepTimes sa0 b.kt)
    let vs := (List.range (upTo true b.k.length)).map (fun j => vaTimes x.va.G (rs.map (fun w => w.pp.getD j 0)))
    let sab := max (m.start + 16) (max (ch.ends.headD (0, 0)).1 (ch.ends.getD 2 (0, 0)).2)
    let sae := sab + stepsTime (s.stepClk c sab) ks
    let vab := max (sae + 12) (ch.ends.headD (0, 0)).2
    let vae := vab + stepsTime (s.stepClk c vab) vs
    some { ch := { (if err.isSome then ch else ch2) with ends := ((sae, vae) :: ch.ends).take 3 }, rs, ks, vs, sab, sae, vab, vae,
           vbeg := vab + s.stepClk c vab 0, err }
/-- The blocks that have started, in push order, each on the chain that the blocks before it leave. -/
def State.runBlocks (s : State) (c : CoreId) : List (Cmd × BlockRun) :=
  let x := s.ctxOf c
  match x.chain with
  | none => []
  | some ch =>
    ((x.cmds.filter (fun m => isBlock m.ins && m.started && !m.done && !m.faulted && m.fail.isNone)).foldl
      (fun (a : List (Cmd × BlockRun) × Chain) m =>
        match s.runBlock c a.2 m with
        | some r => (a.1 ++ [(m, r)], r.ch)
        | none => a) ([], ch)).1
/-- A held link buffer waits, full, for its block again (R277). -/
def Ctx.unholdLinks (x : Ctx) : Ctx :=
  { x with lbufs := x.lbufs.map (fun (b : Option LinkBuf) => b.map (fun (b : LinkBuf) => if b.st == 2 then { b with st := 1 } else b)) }
/-- Started blocks are discarded: their cycles count, and they wait to start again (R273, R275). -/
def State.loseBlocks (s : State) (c : CoreId) : State :=
  (s.runBlocks c).foldl (fun (s : State) p =>
    let x := s.ctxOf c
    let (sa, o1) := x.sa.loseSteps (s.stepClk c p.2.sab) (s.now - p.2.sab) p.2.ks
    let (va, o2) := x.va.loseSteps (s.stepClk c p.2.vab) (s.now - p.2.vab) p.2.vs
    (s.setCtxOf c { x with sa, va }).putCmd c
      { p.1 with started := false, res := p.1.res ||| BitVec.ofNat 64 (b2n (o1 || o2) * 2 ^ 37) }) (s.setCtxOf c (s.ctxOf c).unholdLinks)
/-- What the chain's rows take of AB's port in this cycle, before XE (R242, R274). -/
def State.cePort (s : State) (c : CoreId) : State :=
  let share (beg : Nat) (rows : Steps) (n : Nat) : List (Space × Bool × Nat) :=
    if beg ≤ s.now && s.now < beg + rows.length then [(.ab, false, n)] else []
  let need := (s.runBlocks c).flatMap (fun p =>
    let d := p.2.ch.d
    let x := s.ctxOf c
    let (kt, vt) := match p.1.ins with
      | .chkv _ => ((x.fmtAt .ab (bits p.1.a.toNat 0 24)).ty, (x.fmtAt .ab (bits p.1.b.toNat 0 24)).ty)
      | _ => match x.lbufs.toList.getD (p.1.a.toNat % 16) none with
        | some lb => ((tyBs lb.bind.toNat 8).1, (tyBs lb.bind.toNat 16).1)
        | none => (.i8, .i8)
    share p.2.sab p.2.ks (elBytes kt d) ++ share p.2.vab p.2.vs (elBytes vt d))
  (s.takePort c need).getD s

/- Completion. -/
/-- Status bits 35:32 of a result word (R266). -/
def chFlags (f : Fl) : Nat := bits (flWord f) 0 4
/-- A chain command completes with its word: CHSTAT takes the status and the read-only fields (R266, R267); a command other than a block
sets EFF with its effect (R413). -/
def State.completeCe (s : State) (c : CoreId) (m : Cmd) (word : Nat) : State :=
  let x := s.ctxOf c
  let w1c := bits x.chstat.toNat 0 9 ||| bits word 32 4 ||| bits word 37 4 * 32
  let ro := match x.chain with | some ch => 2 ^ 11 + ch.mode * 2 ^ 9 + ch.kpos * 2 ^ 32 | none => 0
  let s := (s.setCtxOf c { x with chstat := BitVec.ofNat 64 (w1c + ro) }).setPips c m
  s.complete c { m with eff := m.eff || !(isBlock m.ins || bit word 41) } (BitVec.ofNat 64 word)
/-- The chain ends and the arrays are released (R261). -/
def State.dropChain (s : State) (c : CoreId) : State := s.setCtxOf c { s.ctxOf c with chain := none, chHold := false }

/-- The Q cells from a region, row `i` at pitch (R269). -/
def State.qCells (s : State) (c : CoreId) (m : Cmd) (x : Ecmd) : List (List Cell) :=
  let a := m.a.toNat
  let sp : Space := if x.m 8 then .wb else .ab
  let f := (s.ctxOf c).fmtAt sp (bits a 0 24)
  (List.range (bits a 32 8 + 1)).map (fun i =>
    let o := bits a 0 24 + i * (bits a 48 16 * 64)
    let bs := s.ringRead c sp (bits a 0 24) o (elBytes f.ty (bits a 40 8 + 1))
    (List.range (bits a 40 8 + 1)).map (fun j =>
      { enc := elAt f.ty bs j, e8 := s.scaleAt c sp ((s.ctxOf c).wrapOff sp (bits a 0 24) (o + j * f.ty.sw / 8)) }))
/-- The query tile in the SA cells: each query row a column (R249, R260, R269). -/
def Chain.cells (ch : Chain) : List (List Cell) := (List.range ch.d).map (fun k => ch.q.map (fun r => r.getD k { enc := 0 }))
/-- A chain is bound, its queries in the SA cells. -/
def Ctx.bound (x : Ctx) (ch : Chain) : Ctx := { x with chain := some ch, sa := { x.sa with cells := ch.cells } }
/-- R260, after `chbind`. -/
def State.bindChain (s : State) (c : CoreId) (m : Cmd) (x : Ecmd) : State :=
  let a := m.a.toNat
  let f := (s.ctxOf c).fmtAt (if x.m 8 then .wb else .ab) (bits a 0 24)
  let ch : Chain :=
    { qty := f.ty, qbs := f.bs, nq := bits a 32 8 + 1, d := bits a 40 8 + 1, oword := m.b, pword := m.c, mode := x.mf 11 2,
      ftz := x.m 10, sat := x.m 9, ppips := x.mf 6 2 + 1, oty := x.t, nm := List.replicate 128 false,
      m := List.replicate 128 (f32Inf true), l := List.replicate 128 0, rs := List.replicate 128 one32, bmap := List.replicate 128 0,
      q := s.qCells c m x, o := List.replicate 128 (List.replicate 128 0) }
  s.setCtxOf c ((s.ctxOf c).bound ch)

/-- Pack elements of a width into bytes (R24). -/
def packBits (w : Nat) (xs : List Nat) : List Byte := leBytes (xs.foldr (fun x a => a * 2 ^ w + x % 2 ^ w) 0) ((xs.length * w + 7) / 8)
def f32s (xs : List Nat) : List Byte := (xs.map (fun x => leBytes x 4)).flatten
def nmNat (xs : List Bool) : Nat := (xs.zip (List.range xs.length)).foldl (fun a p => a + b2n p.1 * 2 ^ p.2) 0
/-- R282. -/
def Chain.image (ch : Chain) : List Byte :=
  padTo 0x28 (leBytes (tyCode ch.qty + b2n ch.qbs * 16 + (ch.nq - 1) * 256 + (ch.d - 1) * 65536) 8 ++ leBytes ch.oword.toNat 8 ++
    leBytes ch.pword.toNat 8 ++ leBytes (ch.mode + b2n ch.ftz * 4 + b2n ch.sat * 8 + (ch.ppips - 1) * 16 + tyCode ch.oty * 256) 8 ++
    leBytes ch.kpos 8) ++
  padTo 0x10 [] ++ leBytes 1 8 ++ padTo 0x10 [] ++ leBytes (nmNat ch.nm) 16 ++ padTo 0x20 [] ++ f32s ch.m ++ f32s ch.l ++ f32s ch.rs ++
  (ch.bmap.map (fun r => leBytes r 16)).flatten ++
  padTo 0x200 ((ch.q.map (fun r => padTo 4 ((List.range 4).map (fun k =>
    if ch.qbs then (match r[32 * k]? with | some cl => BitVec.ofNat 8 cl.e8 | none => 0) else 0)))).flatten) ++
  padTo 0xF80 [] ++
  padTo 0x8000 ((ch.q.map (fun r => padTo 256 (packBits ch.qty.sw (r.map Cell.enc)))).flatten) ++
  padTo 0x10000 ((ch.o.map f32s).flatten)
where
  tyCode (t : ETy) : Nat := [ETy.f32, .f16, .bf16, .f8a, .f8b, .lg6, .i32, .n32, .i8, .n8, .i4, .n4].findIdx (· == t)

def getF32s (bs : List Byte) (o : Nat) : List Nat := (List.range 128).map (fun i => leNat ((bs.drop (o + 4 * i)).take 4))
/-- A chain from an image whose header keeps R282; `none` for one that does not. -/
def Chain.ofImage (bs : List Byte) : Option Chain :=
  let w (o : Nat) : Nat := leNat ((bs.drop o).take 8)
  let qd := w 0
  let ow := w 8
  let pw := w 0x10
  let pr := w 0x18
  let mode := bits pr 0 2
  let qt := tyOf (bits qd 0 4)
  let nq := bits qd 8 8 + 1
  let d := bits qd 16 8 + 1
  let ok := bits qd 5 3 == 0 && bits qd 24 40 == 0 && nq ≤ 128 && d ≤ 128 && bits qd 0 4 < 12 && meTy qt && (!bit qd 4 || ETy.canScale qt) &&
    bits ow 20 4 == 0 && bits ow 0 6 == 0 && finite32 (bits ow 32 32) && bits pr 6 2 == 0 && bits pr 12 52 == 0 && bits pr 8 4 < 3 &&
    d * ETy.bits (tyOf (bits pr 8 4)) / 8 ≤ bits ow 24 8 * 64 &&
    bits ow 0 20 + (nq - 1) * bits ow 24 8 * 64 + d * ETy.bits (tyOf (bits pr 8 4)) / 8 ≤ Space.size .cb &&
    (if mode == 0 || mode == 3 then pw == 0 else mode == 2 || pw < 2 ^ 32) && bits (w 0x20) 32 32 == 0 &&
    w 0x28 == 0 && w 0x30 == 0 && w 0x38 == 1 && w 0x40 == 0 && w 0x48 == 0 &&
    leNat ((bs.drop 0x60).take 0x20) == 0 && leNat ((bs.drop 0x1080).take 0xF80) == 0
  if !ok then none
  else
    let nm := leNat ((bs.drop 0x50).take 16)
    some { qty := qt, qbs := bit qd 4, nq, d, oword := BitVec.ofNat 64 ow, pword := BitVec.ofNat 64 pw, mode, ftz := bit pr 2, sat := bit pr 3,
           ppips := bits pr 4 2 + 1, oty := tyOf (bits pr 8 4), kpos := bits (w 0x20) 0 32, nm := (List.range 128).map (bit nm),
           m := getF32s bs 0x80, l := getF32s bs 0x280, rs := getF32s bs 0x480,
           bmap := (List.range 128).map (fun i => leNat ((bs.drop (0x680 + 16 * i)).take 16)),
           q := (List.range nq).map (fun i =>
             let r := (bs.drop (0x2000 + 256 * i)).take 256
             (List.range d).map (fun j =>
               { enc := elAt qt r j, e8 := if bit qd 4 then (bs.getD (0xE80 + 4 * i + j / 32) 0).toNat else 127 })),
           o := (List.range 128).map (fun i => getF32s bs (0xA000 + 512 * i)) }

/-- `chfin`'s elements of row `i`, flags, and whether the row has l = 0 (R279). -/
def Chain.finRow (ch : Chain) (raw : Bool) (i : Nat) : List Nat × Fl × Bool :=
  let l := d32 (ch.l.getD i 0)
  let os := (ch.o.getD i []).take ch.d
  if ch.nm.getD i false then (os.map (fun _ => ETy.nanBits ch.oty), 0, false)
  else if l.isZero then (os.map (fun _ => 0), 0, true)
  else
    let rs := os.map (fun o => encJoin (if raw then (d32 o, 0) else fDivX .rne (d32 o) l) ch.oty .rne ch.ftz ch.sat)
    (rs.map Prod.fst, rs.foldl (fun f r => f ||| r.2) 0, false)

/-- The all-masked mask (R260). -/
def Chain.masked (ch : Chain) : Nat :=
  (List.range ch.nq).foldl (fun a i => a + b2n (ch.m.getD i 0 == f32Inf true && !ch.nm.getD i false) * 2 ^ i) 0

/-- U of R269. -/
def qUnits (t : ETy) (d : Nat) : Nat := ceilDiv (elBytes t d) 64
/-- The first own-buffer accesses that stand before a command's events have taken place (R172, R204). -/
def State.portBefore (s : State) (c : CoreId) (m : Cmd) : State :=
  ((s.ctxOf c).portQ.filter (fun o => o.at_ ≤ m.born + 2)).foldl (fun (s : State) o => s.portAct c o) s
/-- Cycles in which `chrest` loads the queries of its image (R281). -/
def State.restUnits (s : State) (c : CoreId) (m : Cmd) (e : Ecmd) : Nat :=
  let q := leNat ((s.portBefore c m).ringRead c (if e.m 1 then .ab else .cb) m.a.toNat m.a.toNat 8)
  ceilDiv ((bits q 8 8 + 1) * qUnits (tyOf (bits q 0 4)) (bits q 16 8 + 1)) 8
/-- What a chain command other than a block moves through the engine ports: the first cycle after its start, a share for each cycle, and
the cycles that follow (R242, R269, R278, R279, R281). -/
def State.ceShares (s : State) (c : CoreId) (m : Cmd) : Nat × List (Space × Bool × Nat) × Nat :=
  let x := s.ctxOf c
  let img (e : Ecmd) : Space := if e.m 1 then .ab else .cb
  match m.ins with
  | .chbind e =>
    let a := m.a.toNat
    let sp : Space := if e.m 8 then .wb else .ab
    (12, portCut sp false ((bits a 32 8 + 1) * qUnits (x.fmtAt sp (bits a 0 24)).ty (bits a 40 8 + 1) * 64) 512, 0)
  | .chrest e => (16, portCut (img e) false imageLen 1024, s.restUnits c m e)
  | .chmask _ => (4, if x.chain.isSome then portCut .ab false 2048 1024 else [], 0)
  | .chfin _ => (16, (match x.chain with | some ch => List.replicate ch.nq (.cb, true, ch.d * ETy.bits ch.oty / 8) | none => []), 0)
  | .chsave e => (16, if x.chain.isSome then portCut (img e) true imageLen 1024 else [], 0)
  | _ => (0, [], 0)
/-- A chain command's next use of an engine port, and whether it has had them all (R242). -/
def State.ceMove (s : State) (c : CoreId) (m : Cmd) : State :=
  let (d, cs, tail) := s.ceShares c m
  s.nextShare c m d tail cs
def State.ceMoved (s : State) (c : CoreId) (m : Cmd) : Bool := (s.ceShares c m).2.1.length ≤ m.asks
/-- The function's partition has failed (R316). -/
def State.partDown (s : State) (c : CoreId) : Bool := (s.func (s.ctxOf c).fn.val).down
/-- The start of a chain command (R262, R269 to R281): its earliest completion. A `chlink` waits for its buffer's next fill, unless no
chain is bound (R261, R277); where the partition has failed the fill cannot come: PEER (R277). -/
def State.startCe (s : State) (c : CoreId) (m0 : Cmd) : State :=
  let m := { m0 with asks := 0 }
  let x := s.ctxOf c
  let hold (s : State) : State :=
    let y := s.ctxOf c
    let void (a : Arr) : Arr := { a with sh := { a.sh with valid := false } }
    s.setCtxOf c { y with chHold := true, sa := void y.sa, va := void y.va }
  match m.ins with
  | .chbind e =>
    let a := m.a.toNat
    let f := x.fmtAt (if e.m 8 then .wb else .ab) (bits a 0 24)
    hold (s.startCmd c m (s.now + 12 + ceilDiv ((bits a 32 8 + 1) * qUnits f.ty (bits a 40 8 + 1)) 8))
  | .chrest e =>
    hold (s.startCmd c m (s.now + 120 + s.restUnits c m e))
  | .chkv _ => s.startCmd c m s.now
  | .chlink _ =>
    match x.chain, x.lbufs.toList.getD (m.a.toNat % 16) none with
    | some _, some lb =>
      if lb.st == 0 && s.partDown c then s.putCmd c { m with started := true, start := s.now, fail := some (.peer, m.a.toNat, 0) }
      else if lb.st != 1 then s
      else (s.setCtxOf c { x with lbufs := x.lbufs.setIfInBounds (m.a.toNat % 16) (some { lb with st := 2 }) }).startCmd c m s.now
    | _, _ => s.startCmd c m s.now
  | .chmask _ => s.startCmd c m (s.now + 6)
  | .chfin _ => s.startCmd c m (match x.chain with | some ch => s.now + 16 + ch.nq | none => s.now)
  | .chsave _ => s.startCmd c m (match x.chain with | some _ => s.now + 120 | none => s.now)
  | .chdrop _ => s.startCmd c m (s.now + 4)
  | .chstat _ => s.startCmd c m (s.now + 8)
  | _ => s

/-- NB (R266). -/
def nbWord : Nat := 2 ^ 41
/-- A link buffer returns to FI after a commit (R277, R331). -/
def State.linkBack (s : State) (c : CoreId) (n : Nat) : State :=
  let x := s.ctxOf c
  match x.lbufs.toList.getD n none with
  | some lb => s.setCtxOf c { x with lbufs := x.lbufs.setIfInBounds n (some { lb with st := 0, fill := 0 }) }
  | none => s

/-- The VA steps of a started block had begun by cycle `t` (R273). -/
def State.vaBegun (s : State) (c : CoreId) (m : Cmd) (t : Nat) : Bool :=
  match (s.ctxOf c).chain with
  | none => true
  | some ch => match s.runBlock c ch m with
    | none => true
    | some r => r.begun t
/-- A chain command meets a fault (R273, R285): its block and later ones that have started are discarded, their cycles counted (R275). -/
def State.ceFail (s : State) (c : CoreId) (m : Cmd) (cls : TrapClass) (addr j : Nat) : State :=
  let s := s.loseBlocks c
  s.putCmd c { ((s.ctxOf c).cmd? m.seq.toNat).getD m with started := true, fail := some (cls, addr, j) }
/-- R273: the event CHAIN_BLOCK_COMMIT for the oldest block; VA has added its last key. Once the core is stopped, only a block whose VA
steps had begun goes on. -/
def execChainBlockCommit (r : CmdRef) (s : State) : Out :=
  match s.cmd? r with
  | some m =>
    let x := s.ctxOf r.core
    let first := (x.earlier m).all (fun e => e.eng != .ce || e.aside)
    if !m.started || m.faulted || m.fail.isSome || !first || !isBlock m.ins then .next s
    else match x.chain with
      | none => .next (s.completeCe r.core m nbWord)
      | some ch =>
        match s.runBlock r.core ch m with
        | none => .next (s.ceFail r.core m .buffer m.a.toNat 0)
        | some b =>
          let late := match (s.core r.core).stop with | some st => !(b.begun st.since) | none => false
          match b.err with
          | some e => if late || s.now < b.met then .next s else .next (s.ceFail r.core m .ecc e.off e.j)
          | none =>
          if late || s.now < b.vae + 8 then .next s
          else
            let (sa, o1) := x.sa.runSteps (s.stepClk r.core b.sab) b.ks
            let (va, o2) := x.va.runSteps (s.stepClk r.core b.vab) b.vs
            let psat := o1 || o2 || bit m.res.toNat 37
            let fl := b.rs.foldl (fun f w => f ||| w.fl) (0 : Fl)
            let word := b.ks.length + chFlags fl * 2 ^ 32 + b2n psat * 2 ^ 37 + b2n (b.rs.any RowRes.inf) * 2 ^ 38 + b2n (b.rs.any RowRes.nan) * 2 ^ 39
            let s := s.setCtxOf r.core { x with chain := some b.ch, sa, va }
            let s := match m.ins with | .chlink _ => s.linkBack r.core (m.a.toNat % 16) | _ => s
            .next (s.completeCe r.core m word)
  | none => .next s

/-- A row result of a bundle issued after cycle `born` lands in this very cycle on row `i`: it is the later write (R62, R178). -/
def Ctx.rowLater (x : Ctx) (now born : Nat) (i : Fin 128) : Bool :=
  x.rowsIn.1 == now && x.rowsIn.2.any (fun p => p.1 == 0x80 + i.val && decide (born < p.2))
/-- R266: the event CHAIN_COMMAND_COMPLETE for the commands other than blocks. -/
def execChainCommandComplete (r : CmdRef) (s : State) : Out :=
  match s.cmd? r with
  | some m =>
    let x := s.ctxOf r.core
    if !m.started || m.faulted || m.fail.isSome || s.now < m.due || !(s.ceMoved r.core m) then .next s
    else match m.ins with
      | .chbind e =>
        let a := m.a.toNat
        let sp : Space := if e.m 8 then .wb else .ab
        let f := x.fmtAt sp (bits a 0 24)
        match (List.range (bits a 32 8 + 1)).findSome? (fun i =>
          s.runEcc r.core sp (bits a 0 24) (bits a 0 24 + i * (bits a 48 16 * 64)) (elBytes f.ty (bits a 40 8 + 1))) with
        | some o => .next (s.ceFail r.core m .ecc o 0)
        | none => .next ((((s.bindChain r.core m e).cellClean r.core false).cellClean r.core true).completeCe r.core m (bits a 32 8 + 1))
      | .chrest e =>
        let sp : Space := if e.m 1 then .ab else .cb
        if (s.rawEcc r.core sp m.a.toNat m.a.toNat imageLen).isSome then .next (s.ceFail r.core m .ecc m.a.toNat 0)
        else match Chain.ofImage (s.ringRead r.core sp m.a.toNat m.a.toNat imageLen) with
          | none => .next (s.ceFail r.core m .illegal m.a.toNat 0)
          | some ch =>
            .next ((((s.setCtxOf r.core (x.bound ch)).cellClean r.core false).cellClean r.core true).completeCe r.core m imageLen)
      | .chmask _ =>
        match x.chain with
        | none => .next (s.completeCe r.core m nbWord)
        | some ch =>
          if (s.rawEcc r.core .ab m.a.toNat m.a.toNat 2048).isSome then .next (s.ceFail r.core m .ecc m.a.toNat 0)
          else
            let bs := s.ringRead r.core .ab m.a.toNat m.a.toNat 2048
            let bm := (List.range 128).map (fun i => leNat ((bs.drop (16 * i)).take 16))
            .next ((s.setCtxOf r.core { x with chain := some { ch with bmap := bm } }).completeCe r.core m 128)
      | .chfin e =>
        match x.chain with
        | none => .next ((s.dropChain r.core).completeCe r.core m nbWord)
        | some ch =>
          if s.cellBad r.core true then .next (s.ceFail r.core m .ecc 0 0) else
          let rows := (List.range ch.nq).map (fun i => (i, ch.finRow (e.m 0) i))
          let s := rows.foldl (fun s p =>
            s.bufStore r.core .cb (bits ch.oword.toNat 0 20 + p.1 * (bits ch.oword.toNat 24 8 * 64)) (packBits (ETy.bits ch.oty) p.2.1)) s
          let fl := rows.foldl (fun f p => f ||| p.2.2.1) (0 : Fl)
          let am := rows.any (fun p => p.2.2.2)
          .next ((s.dropChain r.core).completeCe r.core m (ch.nq + chFlags fl * 2 ^ 32 + b2n am * 2 ^ 40))
      | .chsave e =>
        match x.chain with
        | none => .next ((if e.m 0 then s.dropChain r.core else s).completeCe r.core m nbWord)
        | some ch =>
          if s.cellBad r.core false || s.cellBad r.core true then .next (s.ceFail r.core m .ecc 0 0) else
          let s := s.ringStore r.core (if e.m 1 then .ab else .cb) m.a.toNat m.a.toNat ch.image
          .next ((if e.m 0 then s.dropChain r.core else s).completeCe r.core m imageLen)
      | .chdrop _ =>
        .next ((s.dropChain r.core).completeCe r.core m (if x.chain.isSome then 0 else nbWord))
      | .chstat e =>
        match x.chain with
        | none => .next (s.completeCe r.core m nbWord)
        | some ch =>
          let row (f : Nat → Nat) : Row := rowOf ((List.range 128).map f) 32
          let lim (d : Nat) (xs : List Nat) (i : Nat) : Nat := if i < ch.nq then xs.getD i 0 else d
          let put (x : Ctx) (i : Fin 128) (v : Row) : Ctx := if x.rowLater s.now m.born i then x else { x with rows := x.rows.set i.val v }
          let x1 := put (put x e.ta (row (lim (f32Inf true) ch.m))) e.tb (row (lim 0 ch.l))
          let mk (i : Nat) : Nat :=
            if i < 4 then bits ch.masked (32 * i) 32 else if i < 8 then bits (nmNat ch.nm % 2 ^ ch.nq) (32 * (i - 4)) 32 else 0
          let x2 := match e.tc with
            | none => x1
            | some t => put x1 t (if e.sel.val == 1 then row (lim one32 ch.rs) else row mk)
          .next ((s.setCtxOf r.core x2).completeCe r.core m (if e.sel.val == 0 then 2 else 3))
      | _ => .next s
  | none => .next s

end Sys2Proof.Machine
end

