-- ==== Sys2Proof/Machine/Xfer.lean ====
section
/-! DEFINITION. The transfer engine (12_transfer.md, R286 to R310): push checks, copies by destination unit, transfer lists,
maps, publish, multicast windows, pool extents. -/

namespace Sys2Proof.Machine

/-- The commands that move bytes, as a command or as an entry of a list (R298). -/
inductive XK where
  | copy | get | put | fill | trans | mcast
  deriving DecidableEq, Repr

/-- A move: its kind, its modifiers and operand values. -/
structure XOp where
  k : XK
  x : Ecmd
  a : Nat
  b : Nat
  c : Nat

def Ecmd.oc4 (x : Ecmd) : Nat := x.mf 9 4
/- Modifiers of R293. -/
def mB32 (x : Ecmd) : Bool := x.m 8
def mSh (x : Ecmd) : Bool := x.m 7
def mTr (x : Ecmd) : Bool := x.m 6
def mRm (x : Ecmd) : Rm := rmOf (x.mf 4 2)
def mFtz (x : Ecmd) : Bool := x.m 3
def mSat (x : Ecmd) : Bool := x.m 2

/-- A local word (R289). -/
structure LocW where
  sp : Nat
  off : Nat
  pitch : Nat
def LocW.of (w : Nat) : LocW := { sp := bits w 0 3, off := bits w 8 24, pitch := bits w 32 32 }
def LocW.space (l : LocW) : Space := if l.sp == 1 then .wb else if l.sp == 2 then .ab else .cb

/-- A side's format: type, block scale, rounding, flush, saturation (R290), by the bank of its row `r`. -/
def Ctx.rowFmt (c : Ctx) (x : Ecmd) (l : LocW) (r : Nat) : Fmt :=
  if l.sp == 3 then { ty := x.t, bs := false, rm := mRm x, ftz := mFtz x, sat := mSat x, soff := 0 }
  else c.fmtAt l.space (c.wrapOff l.space l.off (l.off + r * l.pitch))
/-- The TYPE and BS of a side are those of row 0's bank (R290). -/
def Ctx.sideFmt (c : Ctx) (x : Ecmd) (l : LocW) : Fmt := c.rowFmt x l 0
def globFmt (x : Ecmd) : Fmt := { ty := x.t, bs := mB32 x, rm := mRm x, ftz := mFtz x, sat := mSat x, soff := 0 }

/-- Bytes of a row of `n` elements and, for a global side with b32, its scale bytes. -/
def rowLen (f : Fmt) (n : Nat) (glob : Bool) : Nat := n * f.ty.sw / 8 + (if glob && f.bs then n / 32 else 0)

/-- The shadow form of a range for the scoreboard: it meets only ranges of the same pair's shadow half (R302). -/
def shadowRng (lo hi : Nat) : Rng := { buf := .ab, lo := lo + 2 ^ 24, hi := hi + 2 ^ 24 }
/-- The scoreboard's ranges of a local side (R289): the interval, and the scale bytes of the blocks that it touches. -/
def Ctx.sideRngs (c : Ctx) (l : LocW) (n : Nat) (sh : Bool) : List Rng :=
  let rs := c.allRngs l.space l.off n
  if sh then rs.map (fun r => shadowRng r.lo r.hi) else rs

/-- The word checks of a local side. -/
def locIll (l : LocW) (w : Nat) : Bool := bits w 3 5 == 0 && (1 ≤ l.sp && l.sp ≤ 4)
/-- The buffer checks of a local side: JB, the rows' banks, rings, hidden bytes (R129, R290, R301, R302). -/
def Ctx.locBuf (c : Ctx) (l : LocW) (rows len n : Nat) : Bool :=
  l.sp != 4 && (if l.sp == 3 then l.off + n ≤ Space.size .cb
    else l.off < Space.size l.space && c.ringOk l.space l.off n &&
      (List.range rows).all (fun r => c.rowIn l.space l.off (l.off + r * l.pitch) len))
/-- A shadow destination lies at bank 2k's offsets of a mapped pair (R302). -/
def Ctx.shOk (c : Ctx) (l : LocW) (n : Nat) : Bool :=
  l.sp == 2 && c.xmaps.toList.any (fun m => bits m.toNat 0 3 == 2 && bits m.toNat 8 24 ≤ l.off && l.off + n ≤ bits m.toNat 8 24 + bankSize)

/-- Rows and elements of a count word (R289). -/
def cntH (w : Nat) : Nat := bits w 24 12 + 1
def cntN (w : Nat) : Nat := bits w 0 24
def cntGP (w : Nat) : Nat := bits w 36 28
def elSize (t : ETy) : Nat := max 1 (t.sw / 8)

/-- Reads and writes of a checked move, for the scoreboard. -/
abbrev RW := List Rng × List Rng

/-- Checks of `xcopy`, `xget` and `xput` (R43, R289, R290, R294, R295). -/
def Ctx.chkCopy (c : Ctx) (o : XOp) : Chk RW := do
  let n := cntN o.c
  let h := cntH o.c
  let gp := cntGP o.c
  let ls := LocW.of o.a
  let ld := LocW.of o.b
  let glob := o.k != .copy
  let ld := if o.k == .get then LocW.of o.b else ld
  let srcL := o.k != .get
  let dstL := o.k != .put
  let fs := if srcL then c.sideFmt o.x ls else globFmt o.x
  let fd := if dstL then c.sideFmt o.x ld else globFmt o.x
  let sl := rowLen fs n (!srcL)
  let dl := rowLen fd n (!dstL)
  let span (pitch len : Nat) : Nat := (h - 1) * pitch + len
  let at_ (l : LocW) : Bool := 3 ≤ l.sp || inBuf l.space l.off
  need (n != 0 && (glob || gp == 0)) .illegal
  need ((!srcL || locIll ls o.a) && (!dstL || locIll ld o.b)) .illegal
  need (o.k == .put || (o.x.mf 2 4 == 0 || ld.sp == 3)) .illegal
  need (!mB32 o.x || (glob && n % 32 == 0 && (if srcL then ls.sp else ld.sp) != 3)) .illegal
  need (((srcL && !at_ ls) || n * fs.ty.sw % 8 == 0) && ((dstL && !at_ ld) || n * fd.ty.sw % 8 == 0)) .illegal
  need (h == 1 || ((if srcL then !at_ ls || sl ≤ ls.pitch else sl ≤ gp) && (if dstL then !at_ ld || dl ≤ ld.pitch else dl ≤ gp))) .illegal
  need (!(mSh o.x && dstL) || c.shOk ld (span ld.pitch dl)) .illegal
  need (!glob || ((if o.k == .get then o.a else o.b) % elSize o.x.t == 0 && gp % elSize o.x.t == 0))
    .align (if o.k == .get then o.a else o.b)
  need (!srcL || (ls.off % 64 == 0 && ls.pitch % 64 == 0)) .align ls.off
  need (!dstL || (ld.off % 64 == 0 && ld.pitch % 64 == 0)) .align ld.off
  need (!srcL || c.locBuf ls h sl (span ls.pitch sl)) .buffer ls.off
  need (!dstL || (c.locBuf ld h dl (span ld.pitch dl) && (!fd.bs || n % 32 == 0))) .buffer ld.off
  let rs := if srcL then c.sideRngs ls (span ls.pitch sl) false else []
  let ws := if dstL then c.sideRngs ld (span ld.pitch dl) (mSh o.x) else []
  need (o.k != .copy || mSh o.x || !(ls.sp == ld.sp && meetsAny (c.ranges ls.space ls.off (span ls.pitch sl)) (c.ranges ld.space ld.off (span ld.pitch dl))))
    .buffer ld.off
  .ok (rs, ws)
/-- Checks of `xtrans` (R296). -/
def Ctx.chkTrans (c : Ctx) (o : XOp) : Chk RW := do
  let ls := LocW.of o.a
  let ld := LocW.of o.b
  let h := bits o.c 0 8 + 1
  let n := bits o.c 8 8 + 1
  let w := o.x.t.sw / 8
  let sspan := (h - 1) * ls.pitch + n * w
  let dspan := (n - 1) * ld.pitch + h * w
  need (bits o.c 16 48 == 0 && locIll ls o.a && locIll ld o.b && o.x.t.sw != 4) .illegal
  need ((h == 1 || n * w ≤ ls.pitch) && (n == 1 || h * w ≤ ld.pitch)) .illegal
  need (!mSh o.x || c.shOk ld dspan) .illegal
  need (ls.off % 64 == 0 && ls.pitch % 64 == 0) .align ls.off
  need (ld.off % 64 == 0 && ld.pitch % 64 == 0) .align ld.off
  need (ls.sp != 4 && c.runIn ls.space ls.off sspan) .buffer ls.off
  need (ld.sp != 4 && c.runIn ld.space ld.off dspan) .buffer ld.off
  need (mSh o.x || !(ls.sp == ld.sp && meetsAny (c.ranges ls.space ls.off sspan) (c.ranges ld.space ld.off dspan))) .buffer ld.off
  .ok (c.sideRngs ls sspan false, c.sideRngs ld dspan (mSh o.x))
/-- Checks of `xfill` (R297). -/
def Ctx.chkFill (c : Ctx) (o : XOp) : Chk RW := do
  let ld := LocW.of o.a
  need (locIll ld o.a && ld.pitch == 0 && o.c % 64 == 0 && 64 ≤ o.c && o.c ≤ 0x180000) .illegal
  need (!mSh o.x || c.shOk ld o.c) .illegal
  need (ld.off % 64 == 0) .align ld.off
  need (ld.sp != 4 && c.runIn ld.space ld.off o.c) .buffer ld.off
  .ok ([], c.sideRngs ld o.c (mSh o.x))
/-- Checks of `xmcast` (R306). -/
def State.chkMcast (s : State) (cr : CoreId) (c : Ctx) (o : XOp) : Chk RW := do
  let ls := LocW.of o.a
  let mask := bits o.b 0 8
  let bf := bits o.b 8 2
  let off := bits o.b 16 24
  need (locIll ls o.a && ls.pitch == 0 && bits o.b 10 6 == 0 && bits o.b 40 24 == 0 && mask != 0 && bf != 3 &&
    o.c % 64 == 0 && 64 ≤ o.c && o.c ≤ 0x180000) .illegal
  need (!mSh o.x || (off % bankSize + o.c ≤ bankSize && off / bankSize % 2 == 0)) .illegal
  need (ls.off % 64 == 0) .align ls.off
  need (off % 64 == 0) .align off
  need (ls.sp != 4 && c.runIn ls.space ls.off o.c) .buffer ls.off
  need (off + o.c ≤ Space.size (bufOf bf)) .buffer off
  need ((List.range 8).all (fun i => !bit mask i || s.hasCore c.fn.val (cluOf cr * 8 + i))) .access off
  .ok (c.sideRngs ls o.c false, [])

/-- All checks of a move (R294). -/
def State.chkMove (s : State) (cr : CoreId) (c : Ctx) (o : XOp) : Chk RW :=
  match o.k with
  | .copy => c.chkCopy o | .get => c.chkCopy o | .put => c.chkCopy o
  | .fill => c.chkFill o | .trans => c.chkTrans o | .mcast => s.chkMcast cr c o

/-- The push of a move. -/
def State.pushMove (s : State) (k : XK) (x : Ecmd) (i : Instr) : Out :=
  let c := s.ctx
  let o : XOp := { k, x, a := c.opA x, b := c.opB x, c := c.opC x }
  s.command x.g (s.chkMove s.cur c.pushView o) (fun (rs, ws) =>
    s.push { c.mkCmd x .xe i with reads := rs, writes := ws, gcls := if k == .get || k == .put then some (Ecmd.oc4 x) else none })
/-- R295. -/
def execXcopy (x : Ecmd) (s : State) : Out := s.pushMove .copy x (.xcopy x)
/-- R295. -/
def execXget (x : Ecmd) (s : State) : Out := s.pushMove .get x (.xget x)
/-- R295. -/
def execXput (x : Ecmd) (s : State) : Out := s.pushMove .put x (.xput x)
/-- R297. -/
def execXfill (x : Ecmd) (s : State) : Out := s.pushMove .fill x (.xfill x)
/-- R296. -/
def execXtrans (x : Ecmd) (s : State) : Out := s.pushMove .trans x (.xtrans x)
/-- R306. -/
def execXmcast (x : Ecmd) (s : State) : Out := s.pushMove .mcast x (.xmcast x)

/-- An envelope word (R298): its buffer, its offset, its length. -/
def envSp (w : Nat) : Space := if bits w 0 3 == 1 then .wb else if bits w 0 3 == 2 then .ab else .cb
/-- Its byte ranges, modulo the ring that it starts in (R11, R301). -/
def Ctx.envRngs (c : Ctx) (w : Nat) : List Rng := c.ranges (envSp w) (bits w 8 24) (bits w 32 32)
/-- An envelope fits its ring and its buffer. -/
def Ctx.envIn (c : Ctx) (w : Nat) : Bool :=
  c.ringIn (envSp w) (bits w 8 24) (bits w 32 32) && (c.envRngs w).all (fun r => r.hi ≤ Space.size (envSp w))
def envOk (w : Nat) : Bool := bits w 3 5 == 0 && 1 ≤ bits w 0 3 && bits w 0 3 ≤ 4
/-- Checks of `xlist` (R298): its envelopes. -/
def Ctx.chkList (c : Ctx) (x : Ecmd) : Chk (List Rng) := do
  let a := c.opA x
  let b := c.opB x
  let w := c.opC x
  need (envOk b && (w == 0 || envOk w)) .illegal
  need (a % 64 == 0) .align a
  need (bits b 8 24 % 64 == 0) .align (bits b 8 24)
  need (bits w 8 24 % 64 == 0) .align (bits w 8 24)
  need (bits b 0 3 != 4 && c.envIn b) .buffer (bits b 8 24)
  need (w == 0 || (bits w 0 3 != 4 && c.envIn w)) .buffer (bits w 8 24)
  .ok (c.envRngs b ++ (if w == 0 then [] else c.envRngs w))
/-- R298. -/
def execXlist (x : Ecmd) (s : State) : Out :=
  let c := s.ctx
  s.command x.g (c.pushView.chkList x) (fun es => s.push { c.mkCmd x .xe (.xlist x) with reads := es, writes := es, gcls := some (Ecmd.oc4 x) })

/- Maps and publish (R299 to R303). -/
def mapRng (w : Nat) : List Rng :=
  match bits w 0 3 with
  | 1 => [{ buf := .ab, lo := bits w 8 24, hi := bits w 8 24 + bits w 32 24 }]
  | 2 => [{ buf := .ab, lo := bits w 8 24, hi := bits w 8 24 + 0x30000 }, shadowRng (bits w 8 24) (bits w 8 24 + bankSize)]
  | _ => []
/-- What a map slot holds of an operand word (R299). -/
def slotWord (a : Nat) : Nat := bits a 0 3 + bits a 8 24 * 2 ^ 8 + bits a 32 24 * 2 ^ 32
/-- Checks of a map word (R300). -/
def Ctx.chkMap (c : Ctx) (a : Nat) : Chk Unit := do
  let mt := bits a 0 3
  let start := bits a 8 24
  let size := bits a 32 24
  let others := ((c.xmRec.toList.zip (List.range 8)).filter (fun p => p.2 != bits a 4 3)).flatMap (fun p => (mapRng p.1.toNat).take 1)
  need (mt < 3 && !bit a 3 && !bit a 7 && bits a 56 8 == 0) .illegal
  need (match mt with
    | 0 => start == 0 && size == 0
    | 1 => start % 64 == 0 && size % 64 == 0 && 128 ≤ size && size ≤ 0x180000 && start + size ≤ 0x180000
    | _ => start % 0x30000 == 0 && start / 0x30000 < 8 && size == 0x18000) .illegal
  need (!meetsAny ((mapRng (slotWord a)).take 1) others) .illegal
/-- R300. -/
def execXmap (x : Ecmd) (s : State) : Out :=
  let c := s.ctx
  let a := c.opA x
  let slot := bits a 4 3
  let new := slotWord a
  let old := (c.xmRec.toList.getD slot 0).toNat
  s.command x.g (c.chkMap a) (fun _ =>
    let s := s.push { c.mkCmd x .xe (.xmap x) with writes := mapRng old ++ mapRng new }
    s.setCtx { s.ctx with xmRec := s.ctx.xmRec.setIfInBounds slot (BitVec.ofNat 64 new) })
/-- Checks of `xpub` (R303). -/
def Ctx.chkPub (c : Ctx) (x : Ecmd) : Chk Unit :=
  need (c.opA x < 8 && c.xmRec.toList.any (fun m => bits m.toNat 0 3 == 2 && bits m.toNat 8 24 == c.opA x * 0x30000)) .illegal
/-- R303. -/
def execXpub (x : Ecmd) (s : State) : Out :=
  let c := s.ctx
  let lo := c.opA x * 0x30000
  s.command x.g (c.chkPub x) (fun _ =>
    s.push { c.mkCmd x .xe (.xpub x) with writes := [{ buf := .ab, lo, hi := lo + bankSize }, shadowRng lo (lo + bankSize)] })

/-- Memory with the `n` bytes at `a` and at `b` exchanged, for `a + n ≤ b` (R303). -/
def Memory.swap (m : Memory) (a b n : Nat) : Memory :=
  let inA (c : Host.Cell) : Bool := a ≤ c.1 && c.1 < a + n
  let inB (c : Host.Cell) : Bool := b ≤ c.1 && c.1 < b + n
  m.filter (fun c => c.1 < a) ++ (m.filter inB).map (fun c => (c.1 - b + a, c.2)) ++
    m.filter (fun c => a + n ≤ c.1 && c.1 < b) ++ (m.filter inA).map (fun c => (c.1 - a + b, c.2)) ++ m.filter (fun c => b + n ≤ c.1)
/-- The halves of the pair at `lo` of a core's AB are exchanged, with their marks (R303). -/
def State.swapHalves (s : State) (c : CoreId) (lo : Nat) : State :=
  let a := bufKey c .ab lo
  let mv (w : Nat) : Nat := if a ≤ w && w < a + bankSize then w + bankSize else if a + bankSize ≤ w && w < a + 2 * bankSize then w - bankSize else w
  { s with mem := s.mem.swap a (a + bankSize) bankSize, ecc := s.ecc.map mv }
/-- The context on a core leaves it: a visible half that stands in the odd bank of its pair is there again (R303, R463; log
entry 126). -/
def State.unswap (s : State) (c : CoreId) : State :=
  (s.ctxOf c).xmaps.toList.foldl (fun (s : State) w => if bits w.toNat 0 4 == 10 then s.swapHalves c (bits w.toNat 8 24) else s) s
/-- R303: the event PUBLISH_SWAP, 2 ck after the release. -/
def execPublishSwap (r : CmdRef) (s : State) : Out :=
  match s.cmd? r with
  | some m =>
    match m.ins with
    | .xpub _ =>
      if !m.started || m.eff || s.now < m.start + 2 then .next s
      else
        let lo := m.a.toNat * 0x30000
        let s := s.swapHalves r.core lo
        let x := s.ctxOf r.core
        let flip (w : Word) : Word := if bits w.toNat 0 3 == 2 && bits w.toNat 8 24 == lo then w ^^^ 8#64 else w
        let s := s.setCtxOf r.core { x with xmaps := x.xmaps.map flip }
        .next (s.putCmd r.core { m with eff := true, due := s.now + 2 })
    | _ => .next s
  | none => .next s

/- Pool extents (R307). -/
/-- Checks of `xext` (R307). -/
def State.chkExt (s : State) (x : Ecmd) : Chk Unit := do
  let a := s.ctx.opA x
  let n := bits (s.ctx.opB x) 0 32
  need ((bits a 0 2 == 1 || bits a 0 2 == 2) && bits a 2 6 == 0 && bits a 11 5 == 0 && bits a 35 29 == 0) .illegal
  need (1 ≤ n && n ≤ 524288 && bits a 16 19 + n ≤ 524288) .illegal
  need (bit (s.func s.ctx.fn.val).pool.toNat (bits a 8 3)) .access
/-- The push of `xext`: its two rows have one encoding, and OP in the operand word chooses. -/
def State.xext (s : State) (x : Ecmd) : Out :=
  s.command x.g (s.chkExt x) (fun _ => s.push (s.ctx.mkCmd x .xe (if bits (s.ctx.opA x) 0 2 == 1 then .xextAdd x else .xextRelease x)))
/-- R307. -/
def execXextAdd (x : Ecmd) (s : State) : Out := s.xext x
/-- R307. -/
def execXextRelease (x : Ecmd) (s : State) : Out := s.xext x

/- Moves at work. -/
/-- The move a command is running: its own, or a list's current entry (R298). -/
def Cmd.move (m : Cmd) : Option XOp :=
  match m.ins with
  | .xcopy x => some { k := .copy, x, a := m.a.toNat, b := m.b.toNat, c := m.c.toNat }
  | .xget x => some { k := .get, x, a := m.a.toNat, b := m.b.toNat, c := m.c.toNat }
  | .xput x => some { k := .put, x, a := m.a.toNat, b := m.b.toNat, c := m.c.toNat }
  | .xfill x => some { k := .fill, x, a := m.a.toNat, b := m.b.toNat, c := m.c.toNat }
  | .xtrans x => some { k := .trans, x, a := m.a.toNat, b := m.b.toNat, c := m.c.toNat }
  | .xmcast x => some { k := .mcast, x, a := m.a.toNat, b := m.b.toNat, c := m.c.toNat }
  | .xlist _ =>
    match m.ext with
    | [_, _, w, a, b, c] =>
      match decodeE w with
      | .ok (.xcopy x) => some { k := .copy, x, a, b, c }
      | .ok (.xget x) => some { k := .get, x, a, b, c }
      | .ok (.xput x) => some { k := .put, x, a, b, c }
      | .ok (.xfill x) => some { k := .fill, x, a, b, c }
      | .ok (.xtrans x) => some { k := .trans, x, a, b, c }
      | .ok (.xmcast x) => some { k := .mcast, x, a, b, c }
      | _ => none
    | _ => none
  | _ => none

/-- Units of the destination of a move. -/
def XOp.rows (o : XOp) : Nat :=
  match o.k with | .fill => 1 | .mcast => 1 | .trans => bits o.c 8 8 + 1 | _ => cntH o.c
/-- The global address of row `r`. -/
def XOp.gAddr (o : XOp) (r : Nat) : Nat := (if o.k == .get then o.a else o.b) + r * cntGP o.c
/-- The global pieces of a move, rows ascending: address and bytes. -/
def XOp.gParts (o : XOp) : List (Nat × Nat) :=
  (List.range o.rows).flatMap (fun r => chunks (o.gAddr r) (rowLen (globFmt o.x) (cntN o.c) true))
/-- Destination bytes of a local row. -/
def Ctx.dstLen (c : Ctx) (o : XOp) : Nat :=
  match o.k with
  | .fill => o.c
  | .mcast => o.c
  | .trans => (bits o.c 0 8 + 1) * (o.x.t.sw / 8)
  | _ => rowLen (c.sideFmt o.x (LocW.of o.b)) (cntN o.c) false
/-- Units of a whole move. -/
def Ctx.units (c : Ctx) (o : XOp) : Nat :=
  if o.k == .put then o.gParts.length else o.rows * ceilDiv (c.dstLen o) 64

/-- Elements of a local row from `e0` to `e1`: encodings with scales, or the offset of an uncorrectable error. -/
def State.locEls (s : State) (cr : CoreId) (l : LocW) (f : Fmt) (r e0 e1 : Nat) : Except Nat Els :=
  let c := s.ctxOf cr
  let row := l.off + r * l.pitch
  let b0 := e0 * f.ty.sw / 8
  let n := (e1 * f.ty.sw + 7) / 8 - b0
  match s.runEcc cr l.space l.off (row + b0) n with
  | some o => .error o
  | none =>
    let bs := s.ringRead cr l.space l.off (row + b0) n
    .ok ((List.range (e1 - e0)).map (fun i =>
      (elAt f.ty bs (i + (e0 * f.ty.sw % 8) / f.ty.sw),
       if f.bs then s.scaleAt cr l.space (c.wrapOff l.space l.off (row + (e0 + i) * f.ty.sw / 8)) else 127)))

/-- The granules of row `r` of `xget`'s source that hold bytes `[lo, hi)` of the row, by index. -/
def XOp.granules (o : XOp) (r lo hi : Nat) : List Nat :=
  let len := rowLen (globFmt o.x) (cntN o.c) true
  let before := (List.range r).foldl (fun n q => n + (chunks (o.gAddr q) len).length) 0
  let base := o.gAddr r / 64
  (List.range ((o.gAddr r + hi + 63) / 64 - (o.gAddr r + lo) / 64)).map (fun i => before + ((o.gAddr r + lo) / 64 - base) + i)
/-- Bytes `[lo, hi)` of a source row of `xget` from its arrived granules; `none` while one is missing. -/
def XOp.gBytes (o : XOp) (m : Cmd) (r lo hi : Nat) : Option (Except Staged (List Byte) × Nat) :=
  let gs := o.granules r lo hi
  let got := gs.map (fun g => m.staged.find? (fun st => st.idx == g))
  if got.any Option.isNone then
    -- a failed granule below the first missing one decides
    match (got.takeWhile Option.isSome).filterMap id |>.find? (fun st => st.fail.isSome) with
    | some st => some (.error st, st.time)
    | none => none
  else
    let sts := got.filterMap id
    match sts.find? (fun st => st.fail.isSome) with
    | some st => some (.error st, st.time)
    | none =>
      let all := (sts.map Staged.data).flatten
      let first := max (o.gAddr r) ((o.gAddr r + lo) / 64 * 64)
      some (.ok ((all.drop (o.gAddr r + lo - first)).take (hi - lo)), sts.foldl (fun t st => max t st.time) 0)

/-- A row's elements converted (R32, R39, R43, R290), where the types differ. -/
def convRow (fs fd : Fmt) (xs : Els) : Els × Fl :=
  let val (x : Nat × Nat) : Ex := decodeScaled x.1 fs.ty x.2
  let force := !ETy.isInt fs.ty && ETy.isInt fd.ty
  if fs.ty == fd.ty && fs.bs == fd.bs then (xs, 0)
  else if !fd.bs then
    let one (x : Nat × Nat) : Nat × Fl :=
      let (b, f) := encodeEl (val x) fd.ty fd.rm fd.ftz (fd.sat || force)
      (b, if force && (f &&& Fl.sv) != 0 then (f &&& ~~~Fl.sv) ||| Fl.nv else f)
    let (ys, fl) := mapFl one xs
    (ys.map (fun y => (y, 127)), fl)
  else
    (groupsOf 32 xs).foldl (fun (a : Els × Fl) g =>
      let (e8, ys, fl) := quantBlock (g.map val) fd.ty fd.rm fd.ftz
      let fl := if force && (fl &&& Fl.sv) != 0 then (fl &&& ~~~Fl.sv) ||| Fl.nv else fl
      (a.1 ++ ys.map (fun y => (y, e8)), a.2 ||| fl)) ([], 0)

/-- What a unit of the destination holds: elements with scales, flags, the cycle the bytes are there; or a failure. -/
inductive UnitRes where
  | wait
  | fail (cls : TrapClass) (addr : Nat)
  | bytes (bs : List Byte) (fl : Fl) (t : Nat)
  | els (xs : Els) (fl : Fl) (t : Nat)

/-- Destination elements `[e0, e1)` of row `r` of a copy. -/
def State.copyEls (s : State) (cr : CoreId) (m : Cmd) (o : XOp) (fs fd : Fmt) (r e0 e1 : Nat) : UnitRes :=
  let conv := !(fs.ty == fd.ty && fs.bs == fd.bs)
  if o.k == .get then
    let n := cntN o.c
    let lo := e0 * fs.ty.sw / 8
    let hi := (e1 * fs.ty.sw + 7) / 8
    match o.gBytes m r lo hi with
    | none => .wait
    | some (.error st, _) => .fail (st.fail.getD .ecc) st.addr
    | some (.ok bs, t) =>
      let sc : Option (Except Staged (List Byte) × Nat) :=
        if fs.bs then o.gBytes m r (n * fs.ty.sw / 8 + e0 / 32) (n * fs.ty.sw / 8 + (e1 + 31) / 32) else some (.ok [], 0)
      match sc with
      | none => .wait
      | some (.error st, _) => .fail (st.fail.getD .ecc) st.addr
      | some (.ok ss, t2) =>
        let xs := (List.range (e1 - e0)).map (fun i =>
          (elAt fs.ty bs (i + (e0 * fs.ty.sw % 8) / fs.ty.sw), if fs.bs then (ss.getD ((e0 + i) / 32 - e0 / 32) 0).toNat else 127))
        let (ys, fl) := convRow fs fd xs
        .els ys fl (max t t2 + (if conv then 6 else 0))
  else
    match s.locEls cr (LocW.of o.a) fs r e0 e1 with
    | .error off => .fail .ecc off
    | .ok xs => let (ys, fl) := convRow fs fd xs; .els ys fl m.start

/-- Bytes of elements packed at width `w`. -/
def packEnc (w : Nat) (xs : Els) : List Byte := packBits w (xs.map Prod.fst)

/-- Unit `u` of a move with a local destination: row, byte within the row, bytes, and the unit's contents. -/
def State.localUnit (s : State) (cr : CoreId) (m : Cmd) (o : XOp) (u : Nat) : Nat × Nat × Nat × UnitRes :=
  let c := s.ctxOf cr
  let len := c.dstLen o
  let upr := ceilDiv len 64
  let r := u / upr
  let b := u % upr * 64
  let n := min 64 (len - b)
  match o.k with
  | .fill => (r, b, n, .bytes ((List.range n).map (fun i => BitVec.ofNat 8 (bits o.b (8 * ((b + i) % 8)) 8))) 0 m.start)
  | .mcast => (r, b, n, .wait)
  | .trans =>
    let l := LocW.of o.a
    let w := o.x.t.sw / 8
    let at_ (i : Nat) : Nat := l.off + (b / w + i) * l.pitch + r * w
    match (List.range (n / w)).findSome? (fun i => s.rawEcc cr l.space l.off (at_ i) w) with
    | some off => (r, b, n, .fail .ecc off)
    | none => (r, b, n, .bytes ((List.range (n / w)).flatMap (fun i => s.ringRead cr l.space l.off (at_ i) w)) 0 m.start)
  | _ =>
    let fs := if o.k == .get then globFmt o.x else c.rowFmt o.x (LocW.of o.a) r
    let fd := c.rowFmt o.x (LocW.of o.b) r
    let e0 := b * 8 / fd.ty.sw
    let e1 := min (cntN o.c) ((b + 64) * 8 / fd.ty.sw)
    (r, b, n, s.copyEls cr m o fs fd r e0 e1)

/-- A unit is written to its local destination, with the scales of a block-scaled bank (R286). -/
def State.putUnit (s : State) (cr : CoreId) (o : XOp) (r b : Nat) (res : UnitRes) : State :=
  let c := s.ctxOf cr
  let l := LocW.of (if o.k == .fill then o.a else o.b)
  let off := c.wrapOff l.space l.off (l.off + r * l.pitch + b)
  let sh := if mSh o.x then bankSize else 0
  match res with
  | .bytes bs _ _ => s.bufStore cr l.space (off + sh) bs
  | .els xs _ _ =>
    let fd := c.rowFmt o.x l r
    let s := s.bufStore cr l.space (off + sh) (packEnc fd.ty.sw xs)
    if l.sp != 3 && fd.bs then
      let base := off / bankSize * bankSize
      (List.range (ceilDiv xs.length 32)).foldl (fun s k =>
        let so := base + sh + fd.soff * 256 + (off - base + k * 4 * fd.ty.sw) / (4 * fd.ty.sw)
        s.bufStore cr l.space so [BitVec.ofNat 8 (xs.getD (32 * k) (0, 127)).2]) s
    else s
  | _ => s

/-- Bytes `[lo, hi)` of a global row of `xput`, whose scales follow its data, with the flags of their elements; or a failure. -/
def State.putPart (s : State) (cr : CoreId) (m : Cmd) (o : XOp) (r lo hi : Nat) : UnitRes :=
  let fs := (s.ctxOf cr).rowFmt o.x (LocW.of o.a) r
  let fd := globFmt o.x
  let n := cntN o.c
  let dl := n * fd.ty.sw / 8
  let g := if fd.bs then 32 else 1
  let e0 := lo * 8 / fd.ty.sw / g * g
  let e1 := min n (ceilDiv (ceilDiv (min hi dl * 8) fd.ty.sw) g * g)
  let data : UnitRes := if dl ≤ lo then .bytes [] 0 m.start else
    match s.copyEls cr m o fs fd r e0 e1 with
    | .els xs fl t => .bytes (((packEnc fd.ty.sw xs).drop (lo - e0 * fd.ty.sw / 8)).take (min hi dl - lo)) fl t
    | x => x
  if !fd.bs || hi ≤ dl then data
  else match data, s.copyEls cr m o fs fd r (32 * (lo - dl)) (min n (32 * (hi - dl))) with
    | .bytes bs f1 t, .els xs f2 _ =>
      .bytes (bs ++ (List.range (hi - max lo dl)).map (fun k => BitVec.ofNat 8 (xs.getD (32 * k) (0, 127)).2)) (f1 ||| f2) t
    | .bytes .., x => x
    | x, _ => x

/-- What an XE access may not reach (R291). -/
def State.xePol (cr : CoreId) (fn : Nat) (wr : Bool) (s : State) (pa n : Nat) : Option TrapClass :=
  let k := paKind pa
  let o := paOff pa
  let own := paNode pa == s.nodeId
  if k == 2 then
    let t := bits o 25 7
    if bits o 23 2 == 3 || (own && t == cr.val) || (own && (s.ctxOf (Fin.ofNat 128 t)).hidden (bufOf (bits o 23 2)) (bits o 0 23) n) then some .buffer else none
  else if k == 3 then some .buffer
  else if k == 4 then (if wr then none else some .buffer)
  else if k == 5 && own then s.ctlCheck fn o n (if wr then .wr else .rd)
  else none

/-- The progress number within the running move (R286, R308). -/
def Cmd.unit (m : Cmd) : Nat := match m.ins with | .xlist _ => m.prog % 2 ^ 32 | _ => m.prog

/-- The global pieces that a command asks for, how it reaches them, and whether with tr: those of its move (R292), else, of a list, its
header or its next entry (R298). -/
def Cmd.parts (m : Cmd) : List (Nat × Nat) × AccK × Bool :=
  match m.move, m.ins with
  | some o, _ => (if o.k == .get || o.k == .put then o.gParts else [], if o.k == .put then .wr else .rd, mTr o.x)
  | none, .xlist _ =>
    let i := m.prog / 2 ^ 32 % 2 ^ 16
    (match m.ext with
     | [] => chunks m.a.toNat 8
     | [h] => if bits h 0 32 ≤ i then [] else chunks (m.a.toNat + 8 + 32 * i) 32
     | _ => [], .rd, false)
  | none, _ => ([], .rd, false)
/-- A list has run its last entry. -/
def Cmd.listEnd (m : Cmd) : Bool :=
  match m.ins, m.ext with
  | .xlist _, [h] => decide (bits h 0 32 ≤ m.prog / 2 ^ 32 % 2 ^ 16)
  | .xlist _, _ => false
  | _, _ => true
/-- The class of a command's running global side (R171, R298). -/
def Cmd.runCls (m : Cmd) : Option Nat :=
  match m.move with
  | some o => if o.k == .get || o.k == .put then some (Ecmd.oc4 o.x) else none
  | none => m.gcls
/-- Every request of a command has been issued (R286): it has gone out, and its space has begun (R292). One that has met a fault issues
no more. -/
def State.allIssued (s : State) (cr : CoreId) (m : Cmd) : Bool :=
  m.faulted || m.fail.isSome ||
  (m.listEnd && m.parts.1.length ≤ m.asks && m.late.isEmpty &&
    s.tracks.all (fun r => r.core != cr || r.src != .cmd m.seq.toNat || r.served.isSome || r.head))
/-- The first request of a move that goes on from its progress (R308). -/
def Ctx.firstAsk (c : Ctx) (m : Cmd) (o : XOp) : Nat :=
  match o.k with
  | .put => m.unit
  | .get =>
    let upr := ceilDiv (c.dstLen o) 64
    let e0 := m.unit % upr * 64 * 8 / (c.sideFmt o.x (LocW.of o.b)).ty.sw
    let lo := e0 * (globFmt o.x).ty.sw / 8
    ((o.granules (m.unit / upr) lo (lo + 1)).headD 0)
  | _ => 0
/-- A command turns to its next requests, from number `n` on. -/
def Cmd.turn (m : Cmd) (now n : Nat) : Cmd := { m with t0 := now, first := n, asks := n, late := [], asked := [], pages := [], staged := [] }
/-- The requests of a running command (R286, R292): number `g` is ready 4 + g/8 ck after the start, and once its page is translated
(R138); at most 8 go out in a cycle, at most 512 are in flight, and none before the last of every earlier command has been issued, or
while the command's global side is held (R171). The bytes of a unit that `xput` writes come through their port first (R242). -/
def State.xeAsk (s : State) (cr : CoreId) (m : Cmd) : State :=
  let (ps, k, tr) := m.parts
  let hi := if s.now < m.t0 + 4 then m.asks else max m.asks (min ps.length (m.first + 8 * (s.now - m.t0 - 3)))
  let m1 := { m with late := m.late ++ (List.range (hi - m.asks)).map (· + m.asks), asks := hi }
  if m1.late.isEmpty then s
  else
    let c := s.ctxOf cr
    let others := (c.cmds.filter (fun e => e.eng == .xe && !e.done)).flatMap Cmd.asked
    let sent := (others.filter (fun p => p.2 == s.now)).length
    let opened := !(c.gHeld m) && (c.earlier m).all (fun e => e.eng != .xe || e.aside || s.allIssued cr e)
    let src (len : Nat) : List (Space × Bool × Nat) := match m.move with
      | some o => if o.k == .put then [((LocW.of o.a).space, false, len * (c.sideFmt o.x (LocW.of o.a)).ty.sw / o.x.t.sw)] else []
      | none => []
    let start : State × Cmd × Nat := (s, { m1 with late := [] }, 0)
    let (s, m2, _) := m1.late.foldl (fun (a : State × Cmd × Nat) g =>
      let (s, e, n) := a
      let wait (s : State) : State × Cmd × Nat := (s, { e with late := e.late ++ [g] }, n)
      let (va, len) := ps.getD g (0, 0)
      if !opened || 8 ≤ sent + n || 512 ≤ others.length + n then wait s
      else
        let (s, ok) := s.pageFor cr m.seq va
        if !ok then wait s
        else match s.takePort cr (src len) with
          | none => wait s
          | some s => (s.sendPart cr m.seq g va len k tr, { e with asked := e.asked ++ [(g, s.now)] }, n + 1)) start
    match (s.ctxOf cr).cmds.find? (fun e => e.seq == m.seq) with
    | some e => s.putCmd cr { e with late := m2.late, asks := m2.asks, asked := m2.asked }
    | none => s
/-- The first cycle at which a move's last unit may commit, for the moves of fixed time (R295 to R297, R306). -/
def Ctx.moveTime (c : Ctx) (o : XOp) : Nat :=
  match o.k with
  | .copy =>
    let fs := c.sideFmt o.x (LocW.of o.a)
    let fd := c.sideFmt o.x (LocW.of o.b)
    8 + ceilDiv (cntH o.c * rowLen fs (cntN o.c) false) 512 + (if fs.ty == fd.ty && fs.bs == fd.bs then 0 else 6)
  | .trans => 8 + ceilDiv ((bits o.c 0 8 + 1) * (bits o.c 8 8 + 1) * o.x.t.sw) 2048
  | .fill => 4 + ceilDiv o.c (if (LocW.of o.a).sp == 1 then 512 else 1024)
  | _ => 4
/-- The start of an XE command (R286, R300, R303, R307). -/
def State.startXe (s : State) (cr : CoreId) (m : Cmd) : State :=
  let c := s.ctxOf cr
  match m.ins with
  | .xmap _ =>
    let a := m.a.toNat
    let w := BitVec.ofNat 64 (bits a 0 3 + bits a 8 24 * 2 ^ 8 + bits a 32 24 * 2 ^ 32)
    let s := s.setCtxOf cr { c with xmaps := c.xmaps.setIfInBounds (bits a 4 3) w }
    s.startCmd cr { m with eff := true } (s.now + 4)
  | .xpub _ => s.startCmd cr m (s.now + 4)
  | _ =>
    -- what a list asks for comes before the requests of any later command (R286)
    let behind := m.gcls.isSome && (c.earlier m).any (fun e => e.eng == .xe && !e.listEnd)
    if behind then s
    else match m.move with
      | some o => s.startCmd cr (m.turn s.now (c.firstAsk m o)) (s.now + c.moveTime o)
      | none => s.startCmd cr ({ m with ext := [] }.turn s.now 0) (s.now + 4)

/-- An XE command meets a fault (R308). -/
def State.xeFail (s : State) (cr : CoreId) (m : Cmd) (cls : TrapClass) (addr : Nat) : State := s.putCmd cr { m with fail := some (cls, addr, addr) }

/-- What orders an entry's global side behind earlier accesses of its own class, and behind the requests of earlier commands
(R171, R286, R298). -/
def State.entryHeld (s : State) (cr : CoreId) (m : Cmd) (o : XOp) : Bool :=
  let c := s.ctxOf cr
  (o.k == .get || o.k == .put) &&
    (c.gacc.any (fun g => g.cls == Ecmd.oc4 o.x && g.born ≤ m.born) ||
     (c.earlier m).any (fun e => e.eng == .xe && !e.aside && (!(s.allIssued cr e) || sameCls e.gcls (some (Ecmd.oc4 o.x)) || sameCls e.runCls (some (Ecmd.oc4 o.x)))))
/-- The entry that a list's next bytes hold, checked as XE reaches it (R298). -/
def State.beginEntry (s : State) (cr : CoreId) (m : Cmd) (h : Nat) (bs : List Byte) : State :=
  let at_ := m.a.toNat + 8 + 32 * (m.prog / 2 ^ 32 % 2 ^ 16)
  let d (k : Nat) : Nat := leNat ((bs.drop (8 * k)).take 8)
  let m1 := { m with ext := [h, 0, d 0, d 1, d 2, d 3] }
  match (if bits (d 0) 0 32 == 0 && bits (d 0) 59 5 == 0 then m1.move else none) with
  | none => s.xeFail cr m .illegal at_
  | some o =>
    let c := s.ctxOf cr
    let envs := c.envRngs m.b.toNat ++ (if m.c == 0 then [] else c.envRngs m.c.toNat)
    let inside (r : Rng) : Bool := envs.any (fun e => e.buf == r.buf && e.lo ≤ r.lo % 2 ^ 24 && r.hi % 2 ^ 24 ≤ e.hi)
    match s.chkMove cr c o with
    | .error (cls, ad) => s.xeFail cr m cls ad
    | .ok (rs, ws) =>
      if !(rs.all inside && ws.all inside) then s.xeFail cr m .buffer at_
      else if s.entryHeld cr m o then s
      else s.putCmd cr { m1.turn s.now (c.firstAsk m1 o) with due := s.now + c.moveTime o }
/-- The requests of a list's header or entry have been answered (R298): `ans` carries the bytes from another node. -/
def State.fetchEntry (s : State) (cr : CoreId) (m : Cmd) (ans : Answer) : State :=
  let i := m.prog / 2 ^ 32 % 2 ^ 16
  let pol := State.xePol cr (s.ctxOf cr).fn.val false
  let (va, n) := if m.ext.isEmpty then (m.a.toNat, 8) else (m.a.toNat + 8 + 32 * i, 32)
  match s.gReadVa cr va n ans pol with
  | (s, .error (cls, ad)) => s.xeFail cr m cls ad
  | (s, .ok bs) =>
    match m.ext with
    | [] =>
      if bits (leNat bs) 32 32 != 0 || 65535 < bits (leNat bs) 0 32 then s.xeFail cr m .illegal m.a.toNat
      else s.putCmd cr ({ m with ext := [leNat bs] }.turn s.now 0)
    | h :: _ => s.beginEntry cr m h bs

/-- The row of a piece of a move, with the number and the count of the row's pieces. -/
def XOp.rowOf (o : XOp) (idx : Nat) : Nat × Nat × Nat :=
  (List.range o.rows).foldl (fun (p : Nat × Nat × Nat) r =>
    let n := (chunks (o.gAddr r) (rowLen (globFmt o.x) (cntN o.c) true)).length
    if p.2.1 ≤ idx then (r, p.2.1 + n, n) else p) (0, 0, 0) |> fun p => (p.1, p.2.1 - p.2.2, p.2.2)
/-- A granule of a move reaches XE, or a global unit is written, or sent to its window (R286, R291, R292). -/
def State.xeArrive (s : State) (cr : CoreId) (m : Cmd) (o : XOp) (idx : Nat) (ans : Answer) : State :=
  let fn := (s.ctxOf cr).fn.val
  match o.gParts[idx]? with
  | none => s
  | some (va, n) =>
    let pkt : PktId := .cmd cr m.seq.toNat idx
    if m.staged.any (fun g => g.idx == idx) || !(m.asked.any (fun p => p.1 == idx)) || !(s.onWay pkt) || !(Answer.legal ans) then s
    else
      let put (s : State) (g : Staged) : State :=
        ((s.dropTrack cr (.cmd m.seq.toNat) idx).dropPkt pkt).putCmd cr { m with staged := m.staged ++ [g], asked := m.asked.filter (fun p => p.1 != idx) }
      let bad (s : State) (cls : TrapClass) (ad : Nat) : State := put s { idx, data := [], fail := some cls, addr := ad, time := s.now }
      if o.k == .get then
        match s.gReadVa cr va n ans (State.xePol cr fn false) with
        | (s, .ok bs) => put s { idx, data := bs, time := s.now }
        | (s, .error (cls, ad)) => bad s cls ad
      else
        let (row, _, _) := o.rowOf idx
        let lo := va - o.gAddr row
        match s.putPart cr m o row lo (lo + n) with
        | .bytes data fl _ =>
          match s.xlate cr va n .wr with
          | (s, .error cls) => bad s cls va
          | (s, .ok pa) =>
            match State.xePol cr fn true s pa n with
            | some cls => bad s cls va
            | none =>
              if paKind pa == 4 && paNode pa == s.nodeId then
                put (s.winSend cr (.cmd m.seq.toNat) idx pa data (mSh o.x) s.now) { idx, data := [], addr := va, here := false, time := s.now, fl }
              else match s.gWrite pa data ans with
                | .ok s => put s { idx, data := [], addr := va, time := s.now, fl }
                | .error cls => bad s cls va
        | .fail cls ad => bad s cls ad
        | _ => s

/-- R286: the event XE_GRANULE_ARRIVE. A list with no entry reads its header or its next entry. -/
def execXeGranuleArrive (a : CmdAns) (s : State) : Out :=
  match s.cmd? { core := a.core, seq := a.seq } with
  | some m =>
    let c := s.ctxOf a.core
    if !m.started || m.faulted || m.fail.isSome then .next s
    else match m.ins, m.move with
      | .xlist _, none =>
        -- a core that is stopped fetches no entry (R309)
        let ps := m.parts.1
        if ps.isEmpty || m.asked.length < ps.length || !(Answer.legal a.ans) || (s.core a.core).stop.isSome ||
           !((List.range ps.length).all (fun i => s.trackReady a.core (.cmd a.seq) i)) then .next s
        else .next (((List.range ps.length).foldl (fun (s : State) i => s.dropTrack a.core (.cmd a.seq) i) s).fetchEntry a.core m a.ans)
      | _, some o =>
        if o.k == .mcast then
          if a.idx < c.units o && m.t0 + 4 + a.idx ≤ s.now && !(m.staged.any (fun g => g.idx == a.idx)) then
            let b := 64 * a.idx
            let l := LocW.of o.a
            let off := bits o.b 16 24 + b
            match s.rawEcc a.core l.space l.off (l.off + b) 64, s.takePort a.core [(l.space, false, 64)] with
            | some e, _ => .next (s.putCmd a.core { m with staged := m.staged ++ [{ idx := a.idx, data := [], fail := some .ecc, addr := e, time := s.now }] })
            | none, none => .next s
            | none, some s =>
              let pa := 4 * 2 ^ 40 + bits o.b 0 8 * 2 ^ 32 + cluOf a.core * 2 ^ 26 + bits o.b 8 2 * 2 ^ 24 + off
              let s := s.winSend a.core (.cmd m.seq.toNat) a.idx pa (s.ringRead a.core l.space l.off (l.off + b) 64) (mSh o.x) s.now
              .next (s.putCmd a.core { m with staged := m.staged ++ [{ idx := a.idx, data := [], addr := off, here := false, time := s.now }] })
          else .next s
        else if (o.k == .get || o.k == .put) && s.trackReady a.core (.cmd a.seq) a.idx &&
            (s.trackOf a.core (.cmd a.seq) a.idx |>.all (fun r => r.due.isNone)) then
          .next (s.xeArrive a.core m o a.idx a.ans)
        else .next s
      | _, none => .next s
  | none => .next s

/-- R142: the event TRACK_DATA_ARRIVE: an owned space's data arrive D ck after it began. -/
def execTrackDataArrive (i : Nat) (s : State) : Out :=
  match s.tracks[i]? with
  | some r =>
    match r.due, r.src with
    | some t, .cmd q =>
      if s.now < t then .next s
      else match s.cmd? { core := r.core, seq := q } with
        | some m => match m.move with
          | some o => .next (if m.faulted || m.fail.isSome then s else s.xeArrive r.core m o r.idx (.ok []))
          | none => .next s
        | none => .next { s with tracks := s.tracks.eraseIdx i }
    | d, .gone _ => .next (if r.served.isSome && d.all (· ≤ s.now) then { s with tracks := s.tracks.eraseIdx i } else s)
    | _, _ => .next s
  | none => .next s

/-- The running move has committed its last unit: the next entry of a list, or the wait for completion. -/
def Cmd.moveDone (m : Cmd) (now : Nat) : Cmd :=
  match m.ins with
  | .xlist _ => { { m with prog := (m.prog / 2 ^ 32 + 1) * 2 ^ 32, ext := m.ext.take 1 }.turn now 0 with due := m.due }
  | _ => m

/-- The units that commit with the next one (R286): of a block-scaled global destination, whose scale bytes follow the row's data, all
those of the row; else that unit alone. -/
def XOp.together (o : XOp) (u : Nat) : List Nat :=
  if o.k == .put && (globFmt o.x).bs then
    let (_, first, n) := o.rowOf u
    (List.range n).filterMap (fun i => if u ≤ first + i then some (first + i) else none)
  else [u]
/-- What a unit's commit moves through the engine ports (R242). -/
def Ctx.unitPort (c : Ctx) (o : XOp) (n : Nat) : List (Space × Bool × Nat) :=
  let fs := c.sideFmt o.x (LocW.of o.a)
  let fd := c.sideFmt o.x (LocW.of o.b)
  match o.k with
  | .fill => [((LocW.of o.a).space, true, n)]
  | .trans => [((LocW.of o.a).space, false, n), ((LocW.of o.b).space, true, n)]
  | .copy => [((LocW.of o.a).space, false, n * fs.ty.sw / fd.ty.sw), ((LocW.of o.b).space, true, n)]
  | _ => [((LocW.of o.b).space, true, n)]
/-- R286: the event XE_UNIT_COMMIT, of the next destination unit; the own-buffer accesses before the command go first (R172). -/
def execXeUnitCommit (r : CmdRef) (s : State) : Out :=
  match s.cmd? r with
  | some m =>
    let c := s.ctxOf r.core
    if !m.started || m.faulted || m.fail.isSome || c.portAhead m then .next s
    else match m.move with
      | none => .next s
      | some o =>
        let total := c.units o
        let u := m.unit
        if total ≤ u then .next s
        else
          -- `t` is the cycle in which the units were written, landed or acknowledged: the command ends 4 ck after the last
          let adv (s : State) (m : Cmd) (k t : Nat) (fl : Fl) : State :=
            let m1 := { m with prog := m.prog + k, due := max m.due (t + 4), res := m.res ||| BitVec.ofNat 64 (flWord fl * 2 ^ 32) }
            s.putCmd r.core (if u + k == total then m1.moveDone s.now else m1)
          if o.k == .put || o.k == .mcast then
            let us := o.together u
            let gs := us.map (fun i => m.staged.find? (fun g => g.idx == i))
            match (gs.takeWhile Option.isSome).filterMap id |>.find? (fun g => g.fail.isSome) with
            | some g => .next (s.xeFail r.core m (g.fail.getD .ecc) g.addr)
            | none =>
              if !(gs.all (fun g => match g with | some g => g.here | none => false)) then .next s
              else .next (adv s m us.length (gs.foldl (fun t g => max t (match g with | some g => g.time | none => 0)) 0)
                (gs.foldl (fun f g => f ||| (match g with | some g => g.fl | none => 0)) 0))
          else if u + 1 == total && s.now + 4 < m.due then .next s
          else
            let (row, b, n, res) := s.localUnit r.core m o u
            let done (t : Nat) (fl : Fl) : Out :=
              if s.now < t then .next s
              else match s.takePort r.core (c.unitPort o n) with
                | none => .next s
                | some s => .next (adv (s.putUnit r.core o row b res) m 1 s.now fl)
            match res with
            | .wait => .next s
            | .fail cls ad => .next (s.xeFail r.core m cls ad)
            | .bytes _ fl t => done t fl
            | .els _ fl t => done t fl
  | none => .next s

/-- An XE command completes: XSTAT takes its flags and retries (R288). -/
def State.completeXe (s : State) (c : CoreId) (m : Cmd) (word : Nat) : State :=
  let x := s.ctxOf c
  let st := x.xstat.toNat
  let rt := min (2 ^ 32 - 1) (bits st 16 32 + m.retry)
  let s := s.setCtxOf c { x with xstat := BitVec.ofNat 64 ((bits st 0 5 ||| bits word 32 5) + rt * 2 ^ 16) }
  s.complete c m (BitVec.ofNat 64 (word + m.retry * 2 ^ 40))
/-- COUNT (R287). -/
def Cmd.xeCount (m : Cmd) : Nat :=
  match m.ins with
  | .xlist _ => m.prog / 2 ^ 32
  | .xpub _ => 1
  | .xmap _ => 1
  | .xfill _ => m.c.toNat
  | .xmcast _ => m.c.toNat
  | .xtrans _ => (bits m.c.toNat 0 8 + 1) * (bits m.c.toNat 8 8 + 1)
  | _ => bits (cntH m.c.toNat * cntN m.c.toNat) 0 32
/-- R287: the event XE_COMMAND_COMPLETE. -/
def execXeCommandComplete (r : CmdRef) (s : State) : Out :=
  match s.cmd? r with
  | some m =>
    let c := s.ctxOf r.core
    let flags := bits m.res.toNat 32 5 * 2 ^ 32
    if !m.started || m.faulted || m.fail.isSome || s.now < m.due then .next s
    else match m.ins with
      | .xmap _ => .next (s.completeXe r.core m 1)
      | .xpub _ => if m.eff then .next (s.completeXe r.core m 1) else .next s
      | .xlist _ => if m.listEnd then .next (s.completeXe r.core m (m.xeCount + flags)) else .next s
      | _ => match m.move with
        | some o => if c.units o ≤ m.unit then .next (s.completeXe r.core m (m.xeCount + flags)) else .next s
        | none => .next s
  | none => .next s

end Sys2Proof.Machine
end

