-- ==== Sys2Proof/Machine/Fabric.lean ====
section
/-! DEFINITION. The torus fabric (13_fabric.md, R311 to R337): the FI commands, requests that arrive at this node, the
reply table, inbound queues, link receive buffers, trimming, fibres and time-outs. -/

namespace Sys2Proof.Machine

/- Push (R317 to R330). -/
/-- The modifiers of an FI command (R317). -/
def fiSub (x : Ecmd) : Nat := x.mf 0 4
def fiQ (x : Ecmd) : Nat := x.mf 4 3
def fiDw (x : Ecmd) : Bool := x.m 8

/-- Checks of `rld` and `rst` (R318, R321): the remote address, the local word, the length. -/
def Ctx.chkRemote (c : Ctx) (va lw len : Nat) : Chk (List Rng) := do
  let l := LocW.of lw
  need (locIll l lw && l.pitch == 0 && len % 64 == 0 && 64 ≤ len && len ≤ 4096) .illegal
  need (va % 64 == 0) .align va
  need (l.off % 64 == 0) .align l.off
  need (l.sp == 2) .buffer l.off
  need (c.runIn .ab l.off len) .buffer l.off
  .ok (c.ranges .ab l.off len)
/-- R321. -/
def execRld (x : Ecmd) (s : State) : Out :=
  let c := s.ctx
  s.command x.g (c.pushView.chkRemote (c.opA x) (c.opB x) (c.opC x)) (fun ws =>
    s.push { c.mkCmd x .fi (.rld x) with writes := ws, gcls := some (Ecmd.oc4 x) })
/-- R321. -/
def execRst (x : Ecmd) (s : State) : Out :=
  let c := s.ctx
  s.command x.g (c.pushView.chkRemote (c.opB x) (c.opA x) (c.opC x)) (fun rs =>
    s.push { c.mkCmd x .fi (.rst x) with reads := rs, gcls := some (Ecmd.oc4 x) })

/-- Checks of a remote atomic (R323). -/
def Ctx.chkRatom (c : Ctx) (x : Ecmd) : Chk Unit := need (c.opA x % accW x.t (fiDw x) == 0) .align (c.opA x)
/-- R323: the push of a remote atomic. -/
def State.ratom (s : State) (x : Ecmd) (i : Instr) : Out :=
  let c := s.ctx
  s.command x.g (c.chkRatom x) (fun _ =>
    s.push { c.mkCmd x .fi i with gcls := some (Ecmd.oc4 x) })
/-- R323. -/
def execRatomAdd (x : Ecmd) (s : State) : Out := s.ratom x (.ratomAdd x)
/-- R323. -/
def execRatomAnd (x : Ecmd) (s : State) : Out := s.ratom x (.ratomAnd x)
/-- R323. -/
def execRatomOr (x : Ecmd) (s : State) : Out := s.ratom x (.ratomOr x)
/-- R323. -/
def execRatomXor (x : Ecmd) (s : State) : Out := s.ratom x (.ratomXor x)
/-- R323. -/
def execRatomMin (x : Ecmd) (s : State) : Out := s.ratom x (.ratomMin x)
/-- R323. -/
def execRatomMax (x : Ecmd) (s : State) : Out := s.ratom x (.ratomMax x)
/-- R323. -/
def execRatomMinn (x : Ecmd) (s : State) : Out := s.ratom x (.ratomMinn x)
/-- R323. -/
def execRatomMaxn (x : Ecmd) (s : State) : Out := s.ratom x (.ratomMaxn x)
/-- R323. -/
def execRatomXchg (x : Ecmd) (s : State) : Out := s.ratom x (.ratomXchg x)
/-- R323. -/
def execRatomCas (x : Ecmd) (s : State) : Out := s.ratom x (.ratomCas x)
/-- R323. -/
def execRatomFadd (x : Ecmd) (s : State) : Out := s.ratom x (.ratomFadd x)
/-- R323. -/
def execRatomFmax (x : Ecmd) (s : State) : Out := s.ratom x (.ratomFmax x)
/-- Operation and payload of a remote atomic. -/
def ratomOf : Instr → Option (AOp × Ecmd)
  | .ratomAdd x => some (.add, x) | .ratomAnd x => some (.and, x) | .ratomOr x => some (.or, x)
  | .ratomXor x => some (.xor, x) | .ratomMin x => some (.min, x) | .ratomMax x => some (.max, x)
  | .ratomMinn x => some (.minn, x) | .ratomMaxn x => some (.maxn, x) | .ratomXchg x => some (.xchg, x)
  | .ratomCas x => some (.cas, x) | .ratomFadd x => some (.fadd, x) | .ratomFmax x => some (.fmax, x)
  | _ => none

/-- The header of a block is well formed (R326). -/
def blkOk (h : Nat) : Bool := bits h 0 3 != 0 && bits h 3 13 == 0 && bits h 25 6 == 0 && bits h 32 32 == 0
/-- Checks of `renq` (R325, R326): the block's size. -/
def State.chkRenq (s : State) (x : Ecmd) : Chk Nat := do
  let a := s.ctx.opA x
  let off := s.ctx.opB x
  let hdr := leNat ((s.portView s.cur).bufLoad s.cur .jb off 8)
  let fits := off % 8 == 0 && 0x8000 ≤ off && off + 8 ≤ Space.size .jb
  let size := 8 + 32 * bits hdr 0 3
  need (bits a 19 1 == 0 && bits a 22 42 == 0 && !(bits a 0 12 == s.nodeId && bits a 12 7 == s.cur.val)) .illegal
  need (!fits || blkOk hdr) .illegal
  need (fits && off + size ≤ Space.size .jb) .buffer off
  need (s.reachable s.ctx.fn.val (bits a 0 12)) .peer (bits a 0 12)
  .ok size
/-- R325, R326: the block is read through the reserved port, as the accesses issued before it leave it. -/
def execRenq (x : Ecmd) (s : State) : Out :=
  let c := s.ctx
  let off := c.opB x
  s.command x.g (s.chkRenq x) (fun size =>
    let v := s.portView s.cur
    let bad := (eccHit v.ecc (bufKey s.cur .jb off) size).map (fun _ => (TrapClass.ecc, off, 0))
    let s := s.push { c.mkCmd x .fi (.renq x) with pay := v.bufLoad s.cur .jb off size, fail := bad }
    s.port s.cur (s.now + ceilDiv size 64))

/-- Checks of a remote flag operation (R328). -/
def State.chkRflag (s : State) (x : Ecmd) : Chk Unit := do
  let a := s.ctx.opA x
  need (bits a 12 4 == 0 && bits a 25 39 == 0) .illegal
  need (s.reachable s.ctx.fn.val (bits a 0 12)) .peer (bits a 0 12)
/-- R328: the push of a remote flag operation; one that names this node sets the set-map bit. -/
def State.rflag (s : State) (x : Ecmd) (i : Instr) : Out :=
  let c := s.ctx
  let a := c.opA x
  s.command x.g (s.chkRflag x) (fun _ =>
    let s := s.push (c.mkCmd x .fi i)
    if bits a 0 12 == s.nodeId then s.setCtx { s.ctx with setmap := s.ctx.setmap ||| (1 : BitVec 512) <<< bits a 16 9 } else s)
/-- R328. -/
def execRflagSet (x : Ecmd) (s : State) : Out := s.rflag x (.rflagSet x)
/-- R328. -/
def execRflagInc (x : Ecmd) (s : State) : Out := s.rflag x (.rflagInc x)
/-- R328. -/
def execRflagClr (x : Ecmd) (s : State) : Out := s.rflag x (.rflagClr x)

/-- Checks of `lbuf.bind` (R330). -/
def Ctx.chkLbind (c : Ctx) (x : Ecmd) : Chk Unit := do
  let a := c.opA x
  let b := c.src x.b
  need (bits a 4 4 == 0 && bits a 13 3 == 0 && bits a 21 11 == 0 && bits a 42 22 == 0) .illegal
  need (bits b.toNat 0 8 == 0 && bits b.toNat 56 8 == 0 && regLen b % 64 == 0 && 64 ≤ regLen b && regLen b ≤ 0x40000) .illegal
  need ((c.lbRec.toList.getD (bits a 0 4) none).isNone) .illegal
  need (regOff b % 64 == 0) .align (regOff b)
  need (regOff b + regLen b ≤ Space.size .ab && !(c.pushView.hidden .ab (regOff b) (regLen b))) .buffer (regOff b)
/-- R330. -/
def execLbufBind (x : Ecmd) (s : State) : Out :=
  let c := s.ctx
  let a := c.opA x
  let b := c.src x.b
  let num := bits a 0 4
  s.command x.g (c.chkLbind x) (fun _ =>
    let s := s.push { c.mkCmd x .fi (.lbufBind x) with writes := [{ buf := .ab, lo := regOff b, hi := regOff b + regLen b }] }
    s.setCtx { s.ctx with lbRec := s.ctx.lbRec.setIfInBounds num (some (BitVec.ofNat 64 a, b)) })
/-- Checks of `lbuf.release` (R330): the region word of the binding. -/
def Ctx.chkLrel (c : Ctx) (x : Ecmd) : Chk Word :=
  match c.lbRec.toList.getD (bits (c.opA x) 0 4) none with
  | some (_, rw) => if c.opA x < 16 then .ok rw else .error (.illegal, 0)
  | none => .error (.illegal, 0)
/-- R330. -/
def execLbufRelease (x : Ecmd) (s : State) : Out :=
  let c := s.ctx
  s.command x.g (c.chkLrel x) (fun rw =>
    let s := s.push { c.mkCmd x .fi (.lbufRelease x) with writes := [{ buf := .ab, lo := regOff rw, hi := regOff rw + regLen rw }] }
    s.setCtx { s.ctx with lbRec := s.ctx.lbRec.setIfInBounds (bits (c.opA x) 0 4) none })

/- FISTAT (R320). -/
def Ctx.addRsnd (c : Ctx) : Ctx := { c with fistat := setBits c.fistat 32 16 (min 0xFFFF (bits c.fistat.toNat 32 16 + 1)) }
def Ctx.addRefu (c : Ctx) : Ctx := { c with fistat := setBits c.fistat 16 16 (min 0xFFFF (bits c.fistat.toNat 16 16 + 1)) }
/-- R320: the event FISTAT_READ, a read into a scalar destination. -/
def execFistatRead (r : RegR) (s : State) : Out :=
  let c := s.ctxOf r.core
  let f : Flight := { fin := s.now + 1, code := sCode r.d, slot := .e, val := c.fistat, born := s.now }
  .next (s.setCtxOf r.core { c with fistat := 0, flight := c.flight ++ [f] })

/- What a target does (R322, R323, R328, R331). -/
/-- Core and buffer number of a link-buffer address (R329). -/
def lbCore (pa : Nat) : CoreId := Fin.ofNat 128 (bits (paOff pa) 25 7)
def lbNum (pa : Nat) : Nat := bits (paOff pa) 20 5
/-- Another context of the core, saved, holds a number (R332). -/
def State.savedHolds (s : State) (c : CoreId) (num : Nat) : Bool :=
  s.saved.any (fun v => v.core == c && (v.ctx.lbufs.toList.getD num none).isSome)
/-- Every unit of the buffer has come. -/
def LinkBuf.filled (b : LinkBuf) : Bool := b.fill == 2 ^ (regLen b.region / 64) - 1
/-- A 64-byte unit at a link buffer (R331): written, refused, or ACCESS beyond the buffer or without one. -/
def State.linkUnit (s : State) (pa : Nat) (bs : List Byte) : State × RespK :=
  let cr := lbCore pa
  let num := lbNum pa
  let o := bits (paOff pa) 0 18
  let x := s.ctxOf cr
  match x.lbufs.toList.getD num none with
  | none => (s, if num < 16 && s.savedHolds cr num then .refused else .ans (.fail .access))
  | some b =>
    if regLen b.region < o + bs.length then (s, .ans (.fail .access))
    else if b.st != 0 then (s, .refused)
    else
      let s := s.bufStore cr .ab (regOff b.region + o) bs
      let b := { b with fill := b.fill ||| 2 ^ (o / 64) }
      let b := if b.filled then { b with st := 1 } else b
      let x := s.ctxOf cr
      let s := s.setCtxOf cr { x with lbufs := x.lbufs.setIfInBounds num (some b) }
      let f := bits b.bind.toNat 32 9
      let s := if b.filled && bit b.bind.toNat 41 && s.flagOk x.fn.val f then
          s.setFlag f (incClamp (s.flag f) 1).1 { s.setterOf cr 5 with lq := some x.lq.val }
        else s
      (s, .ans (.ok []))

/-- What a remote access may not reach (R322, R323). -/
def State.fiPol (s : State) (r : FiReq) (n : Nat) : Option TrapClass :=
  let k := paKind r.addr
  let o := paOff r.addr
  let own := r.node == s.nodeId && bits o 25 7 == r.core
  let acc : AccK := match r.op with | .read _ => .rd | .write _ => .wr | _ => .at
  if k == 2 then
    let b := bits o 23 2
    if b == 3 || own || (acc == .at && b == 0) || (s.ctxOf (Fin.ofNat 128 (bits o 25 7))).hidden (bufOf b) (bits o 0 23) n then some .buffer
    else none
  else if acc == .at then (if k ≤ 1 then none else some .buffer)
  else if k == 3 || k == 4 then (if acc == .wr then none else some .buffer)
  else if k == 5 then s.ctlCheck r.fn o n acc
  else none

/-- The requester's name. -/
def reqName (r : FiReq) : FiName := { node := r.node, core := r.core, seq := r.seq }
def State.reply? (s : State) (n : FiName) : Option Word := (s.replies.find? (fun e => e.nm == n)).map (fun e => e.old)

/-- A once-only operation (R324): a repeated request finds the old value, a full table refuses. -/
def State.onceOnly (s : State) (r : FiReq) (f : Unit → State × RespK) : State × RespK :=
  match s.reply? (reqName r) with
  | some w => (s, .ans (.ok (leBytes w.toNat 8)))
  | none =>
    if 1024 ≤ s.replies.length then (s, .refused)
    else match f () with
      | (s, .ans (.ok bs)) => ({ s with replies := s.replies ++ [{ nm := (reqName r), old := BitVec.ofNat 64 (leNat bs), fn := r.fn }] }, .ans (.ok bs))
      | x => x

/-- A read-modify-write of a location of this node (R155, R323). -/
def State.fiAtom (s : State) (pa op : Nat) (t : ETy) (dw : Bool) (b c : Word) : State × RespK :=
  let w := accW t dw
  let aop : AOp := [AOp.add, .and, .or, .xor, .min, .max, .minn, .maxn, .xchg, .cas, .fadd, .fmax].getD op .add
  match s.gRead pa w (.ok []) with
  | .error cls => (s, .ans (.fail cls))
  | .ok bs =>
    let old := leNat bs
    (s.store (paKey pa) (leBytes (aop.apply w old b.toNat c.toNat) w), .ans (.ok (leBytes (accExt t dw old).toNat 8)))
/-- A flag operation at this node's flag unit (R116, R328): set, inc or clr. -/
def State.fiFlag (s : State) (r : FiReq) (op f : Nat) (v : Word) : State × RespK :=
  if !s.flagOk r.fn f then (s, .ans (.fail .access))
  else
    let old := s.flag f
    let (new, cl) := match op with | 0 => (v.setWidth 32, false) | 1 => incClamp old v | _ => (0, false)
    let by_ : Setter := { ctx := r.ctx, node := r.node, core := r.core, eng := r.eng, conf := r.conf, lq := some r.lq }
    (s.setFlag f new by_, .ans (.ok (leBytes (old.toNat + (if cl then 2 ^ 32 else 0)) 8)))

/-- A window write of a 64-byte unit over the foreign lane: it lands in every target or in none (R305). -/
def State.fiWindow (s : State) (pa : Nat) (bs : List Byte) : State × RespK :=
  let o := paOff pa
  let u : WinUnit := { core := 0, src := .acc 0, clu := bits o 26 4, mask := bits o 32 8, buf := bufOf (bits o 24 2),
                       off := bits o 0 23 / 64 * 64, data := winData (bits o 0 23 % 64) bs }
  let (s, ok) := s.winLand u
  (s, .ans (if ok then .ok [] else .fail .buffer))

/-- A request performs at this node by the KIND of its address (R322). -/
def State.fiPerform (s : State) (r : FiReq) : State × RespK :=
  match r.op with
  | .flag op f v => if op == 1 then s.onceOnly r (fun _ => s.fiFlag r op f v) else s.fiFlag r op f v
  | .atom op t dw b c =>
    match s.physFault r.fn r.addr (accW t dw), s.fiPol r (accW t dw) with
    | some cls, _ => (s, .ans (.fail cls))
    | none, some cls => (s, .ans (.fail cls))
    | none, none => s.onceOnly r (fun _ => s.fiAtom r.addr op t dw b c)
  | .read n =>
    match s.physFault r.fn r.addr n, s.fiPol r n with
    | some cls, _ => (s, .ans (.fail cls))
    | none, some cls => (s, .ans (.fail cls))
    | none, none =>
      if paKind r.addr == 5 then (s, .ans (.ok (s.ctlRead (paOff r.addr) n (r.node != s.nodeId))))
      else match s.gRead r.addr n (.ok []) with
        | .ok bs => (s, .ans (.ok bs))
        | .error cls => (s, .ans (.fail cls))
  | .write bs =>
    match s.physFault r.fn r.addr bs.length, s.fiPol r bs.length with
    | some cls, _ => (s, .ans (.fail cls))
    | none, some cls => (s, .ans (.fail cls))
    | none, none =>
      if paKind r.addr == 3 then s.linkUnit r.addr bs
      else if paKind r.addr == 4 then s.fiWindow r.addr bs
      else match s.gWrite r.addr bs (.ok []) with
        | .ok s => (s, .ans (.ok []))
        | .error cls => (s, .ans (.fail cls))

/- The sender's side. -/
/-- Units of an FI command's request: 64-byte units of `rld` and `rst`, else one. -/
def Cmd.fiUnits (m : Cmd) : Nat := match m.ins with | .rld _ => m.c.toNat / 64 | .rst _ => m.c.toNat / 64 | _ => 1
/-- Operation codes of `ratom` and `rflag` (R317). -/
def AOp.num : AOp → Nat
  | .add => 0 | .and => 1 | .or => 2 | .xor => 3 | .min => 4 | .max => 5 | .minn => 6 | .maxn => 7 | .xchg => 8 | .cas => 9
  | .fadd => 10 | .fmax => 11
def rflagOf : Instr → Option (Nat × Ecmd)
  | .rflagSet x => some (0, x) | .rflagInc x => some (1, x) | .rflagClr x => some (2, x) | _ => none
/-- The request packet of a started FI command; its physical addresses stand in `ext`. -/
def State.fiReq (s : State) (cr : CoreId) (m : Cmd) (idx : Nat) : Option FiReq :=
  let x := s.ctxOf cr
  let base : FiReq := { node := s.nodeId, core := cr.val, seq := m.seq.toNat, idx, fn := x.fn.val, lq := x.lq.val, ctx := x.ctxid,
                        conf := x.conf, addr := m.ext.getD idx 0, op := .read 64 }
  if !m.started || m.faulted || m.fail.isSome || !m.late.isEmpty || m.fiUnits ≤ idx then none
  else match m.ins with
    | .rld _ => some base
    | .rst _ => some { base with op := .write ((m.pay.drop (64 * idx)).take 64) }
    | i => match ratomOf i, rflagOf i with
      | some (op, e), _ => some { base with op := .atom op.num e.t (fiDw e) m.b m.c }
      | none, some (op, e) =>
        some { base with eng := fiQ e, addr := bits m.a.toNat 0 12 * 2 ^ 45, op := .flag op (bits m.a.toNat 16 9) m.b }
      | none, none => none

/-- The units' physical addresses, or the first fault (R318). -/
def State.fiXlate (s : State) (cr : CoreId) (va k n : Nat) (acc : AccK) : State × Except (TrapClass × Nat) (List Nat) :=
  (List.range k).foldl (fun (a : State × Except (TrapClass × Nat) (List Nat)) i =>
    match a.2 with
    | .error e => (a.1, .error e)
    | .ok ps =>
      let (s, r) := a.1.xlate cr (va + 64 * i) n acc
      match r with
      | .ok pa => (s, .ok (ps ++ [pa]))
      | .error cls => (s, .error (cls, va + 64 * i))) (s, .ok [])
/-- The next free value of an engine status word. -/
def State.freeEsw (s : State) : State × Nat := ({ s with free := s.free + 1 }, (Config.eswFi s.free).toNat)
/-- An FI command meets a fault at run time (R318, R335, R337). -/
def State.fiFail (s : State) (cr : CoreId) (m : Cmd) (cls : TrapClass) (addr : Nat) (unk : Bool) : State :=
  let (s, w) := s.freeEsw
  let esw := match m.ins with | .rst _ => bits w 0 63 + b2n unk * 2 ^ 63 | _ => w
  s.putCmd cr { m with fail := some (cls, addr, esw) }

/-- Units of an `rst` may have performed at the target (R335): one is answered or performed, or is on its way to another node in a packet
that has not been trimmed; the unit `idx` that failed with a class of its target has not. -/
def State.mayHavePerformed (s : State) (cr : CoreId) (m : Cmd) (idx : Nat) (cls : TrapClass) : Bool :=
  let nm : FiName := { node := s.nodeId, core := cr.val, seq := m.seq.toNat }
  !m.staged.isEmpty ||
  s.held.any (fun h => h.whom == nm && (match h.k with | .ans (.ok _) => true | _ => false)) ||
  ((match s.pkt? (.cmd cr m.seq.toNat idx) with | some q => q.phase == .sent || q.phase == .refused | none => true) &&
    (List.range m.fiUnits).any (fun i => paNode (m.ext.getD i 0) != s.nodeId && (i != idx || cls == .peer || cls == .timeout)))

/-- Where a command's remote units lie: address, bytes of one, and the access. -/
def Cmd.fiSpan (m : Cmd) : Option (Nat × Nat × AccK) :=
  match m.ins with
  | .rld _ => some (m.a.toNat, 64, .rd)
  | .rst _ => some (m.b.toNat, 64, .wr)
  | i => (ratomOf i).map (fun p => (m.a.toNat, accW p.2.t (fiDw p.2), .at))
/-- The request of a started `rld`, `rst` or `ratom` leaves once its pages are translated (R138, R321, R323); until then `late` marks it.
Its units in this node's HBM wait for borrowed spaces (R143, R322). -/
def State.fiLeave (s : State) (cr : CoreId) (m : Cmd) (va n : Nat) (k : AccK) : State :=
  let x := s.ctxOf cr
  let m1 := { m with late := [], t0 := s.now }
  let (s, ok) := s.pagesFor cr m.seq ((List.range m.fiUnits).map (fun i => (va + 64 * i, n)))
  if !ok then s
  else match s.fiXlate cr va m.fiUnits n k with
    | (s, .error (cls, ad)) => s.fiFail cr m1 cls ad false
    | (s, .ok ps) =>
      let borrow (s : State) : State := (List.range m.fiUnits).foldl (fun (s : State) i => s.sendPart cr m.seq i (va + 64 * i) n k false) s
      match m.ins with
      | .rst _ =>
        let off := (LocW.of m.a.toNat).off
        match (List.range m.fiUnits).find? (fun i => (eccHit s.ecc (bufKey cr .ab (x.wrapOff .ab off (off + 64 * i))) 64).isSome) with
        | some i => s.fiFail cr m1 .ecc (off + 64 * i) false
        | none => borrow (s.putCmd cr { m1 with ext := ps, pay := s.ringRead cr .ab off off m.c.toNat })
      | _ => borrow (s.putCmd cr { m1 with ext := ps })
/-- The start of an FI command: its request leaves (R321, R323), after the own-buffer accesses before it (R172), or a binding changes
(R330, R332). -/
def State.startFi (s : State) (cr : CoreId) (m : Cmd) : State :=
  let x := s.ctxOf cr
  let go (s : State) (m : Cmd) : State := s.startCmd cr { m with staged := [], t0 := s.now } s.now
  let fail (s : State) (cls : TrapClass) (addr : Nat) : State :=
    s.fiFail cr { m with started := true, start := s.now, staged := [] } cls addr false
  let num := bits m.a.toNat 0 4
  match m.ins with
  | .renq _ =>
    match m.fail with
    | some _ => s.putCmd cr { m with started := true, start := s.now }
    | none => go s m
  | .lbufBind _ =>
    if s.savedHolds cr num then fail s .buffer num
    else
      let s := s.setCtxOf cr { x with lbufs := x.lbufs.setIfInBounds num (some { bind := m.a, region := m.b }) }
      s.startCmd cr { m with eff := true } (s.now + 4)
  | .lbufRelease _ =>
    let s := s.setCtxOf cr { x with lbufs := x.lbufs.setIfInBounds num none }
    s.startCmd cr { m with eff := true } (s.now + 4)
  | _ =>
    match m.fiSpan with
    | none => go s m
    | some (va, n, k) =>
      let m1 := { m with started := true, start := s.now, due := s.now, t0 := s.now, staged := [], late := [0], pages := [] }
      if x.portAhead m1 then s.putCmd cr m1 else (s.putCmd cr m1).fiLeave cr m1 va n k

/-- The command that sends a request of this node, and that this is its request, whose space has come (R143). -/
def State.ownReq (s : State) (r : FiReq) : Bool :=
  let cr : CoreId := Fin.ofNat 128 r.core
  match s.cmd? { core := cr, seq := r.seq } with
  | none => false
  | some m => s.fiReq cr m r.idx == some r && paNode r.addr == s.nodeId && s.onWay (.cmd cr r.seq r.idx) &&
      s.trackReady cr (.cmd r.seq) r.idx &&
      !(m.staged.any (fun g => g.idx == r.idx)) && !(s.held.any (fun h => h.whom == (reqName r) && h.idx == r.idx))
/-- A request arrives from another node, or from an FI command of this one; its response leaves (R314, R322). -/
def State.fiArrive (s : State) (r : FiReq) : State :=
  if r.node == s.nodeId && !s.ownReq r then s
  else
    let s := if r.node == s.nodeId then s.dropTrack (Fin.ofNat 128 r.core) (.cmd r.seq) r.idx else s
    let (s, k) := s.fiPerform r
    { s with held := s.held.filter (fun h => !(h.whom == (reqName r) && h.idx == r.idx)) ++ [{ whom := (reqName r), idx := r.idx, k }] }
def reqIsLink (r : FiReq) : Bool := paKind r.addr == 3 && (match r.op with | .write _ => true | _ => false)
/-- R322: the event FI_REQUEST_ARRIVE. -/
def execFiRequestArrive (r : FiReq) (s : State) : Out := if reqIsLink r then .next s else .next (s.fiArrive r)
/-- R331: the event LINK_UNIT_ARRIVE. -/
def execLinkUnitArrive (r : FiReq) (s : State) : Out := if reqIsLink r then .next (s.fiArrive r) else .next s

/-- The result word of `rld`, `rst`, `renq`, `lbuf` (R319). -/
def Cmd.fiWord (m : Cmd) (count : Nat) : Word := BitVec.ofNat 64 (count + min 255 m.retry * 2 ^ 32)
/-- The unit `idx` of a command has its answer (R321, R323, R327, R328): bytes are written, and the last answer completes
the command. -/
def State.fiAnswer (s : State) (cr : CoreId) (m : Cmd) (idx : Nat) (ans : Answer) : State :=
  let stage (m : Cmd) : Cmd := { m with staged := m.staged ++ [{ idx, data := [], time := s.now }] }
  let fin (s : State) (m : Cmd) : State :=
    if m.staged.length == m.fiUnits then s.complete cr m (m.fiWord m.c.toNat) else s.putCmd cr m
  match ans with
  | .fail cls =>
    let ad := match m.ins with | .rst _ => m.b.toNat + 64 * idx | .renq _ => bits m.a.toNat 0 19 | _ => m.a.toNat + 64 * idx
    s.fiFail cr m cls ad (s.mayHavePerformed cr m idx cls)
  | .ok bs =>
    match m.ins with
    | .rld _ =>
      let l := LocW.of m.b.toNat
      let o := (s.ctxOf cr).wrapOff .ab l.off (l.off + 64 * idx)
      fin (s.bufStore cr .ab o ((bs ++ List.replicate 64 0).take 64)) (stage m)
    | .rst _ => fin s (stage m)
    | .renq _ => s.complete cr { m with eff := true } (m.fiWord (bits (leNat (m.pay.take 8)) 0 3))
    | _ => s.complete cr m (BitVec.ofNat 64 (leNat (bs.take 8)))
/-- A refusal reaches the sender: the packet waits for a ready notice, and REFU counts (R320, R324, R327, R331). -/
def State.fiRefused (s : State) (cr : CoreId) (seq idx : Nat) : State :=
  let s := s.setPkt { id := .cmd cr seq idx, phase := .refused, n := match s.pkt? (.cmd cr seq idx) with | some q => q.n | none => 0 }
  s.setCtxOf cr (s.ctxOf cr).addRefu
/-- Where a command's unit is answered from: another node, or this one. -/
def State.fiAway (s : State) (m : Cmd) (idx : Nat) : Bool :=
  match m.ins with
  | .renq _ => bits m.a.toNat 0 12 != s.nodeId
  | i => match rflagOf i with
    | some _ => bits m.a.toNat 0 12 != s.nodeId
    | none => paNode (m.ext.getD idx 0) != s.nodeId
def isLbuf : Instr → Bool
  | .lbufBind _ => true
  | .lbufRelease _ => true
  | _ => false
/-- R321: an answer or refusal for a command, or the acknowledgement of a response. What this node itself answers is the
response it holds. -/
def State.fiResponse (s : State) (x : FiAns) : Out :=
  match x with
  | .ack n i => if n.node == s.nodeId then .next s else .next { s.dropPkt (.resp n i) with held := s.held.filter (fun h => !(h.whom == n && h.idx == i)) }
  | .refused r i =>
    match s.cmd? r with
    | some m => if m.eng == .fi && m.started && m.fail.isNone && m.late.isEmpty && s.fiAway m i && s.onWay (.cmd r.core r.seq i) then .next (s.fiRefused r.core r.seq i) else .next s
    | none => .next s
  | .cmd a =>
    match s.cmd? { core := a.core, seq := a.seq } with
    | some m =>
      if m.eng != .fi || !m.started || m.faulted || m.fail.isSome || !m.late.isEmpty || !(Answer.legal a.ans) || !s.onWay (.cmd a.core a.seq a.idx) ||
         m.staged.any (fun g => g.idx == a.idx) || m.fiUnits ≤ a.idx then .next s
      else if isLbuf m.ins then (if s.now < m.due then .next s else .next (s.complete a.core m (m.fiWord 1)))
      else if s.fiAway m a.idx then
        .next ((s.dropPkt (.cmd a.core a.seq a.idx)).fiAnswer a.core m a.idx a.ans)
      else
        let nm : FiName := { node := s.nodeId, core := a.core.val, seq := a.seq }
        match s.held.find? (fun h => h.whom == nm && h.idx == a.idx) with
        | none => .next s
        | some h =>
          let s := { s with held := s.held.filter (fun h => !(h.whom == nm && h.idx == a.idx)) }
          match h.k with
          | .refused => .next (s.fiRefused a.core a.seq a.idx)
          | .ans r => .next ((s.dropPkt (.cmd a.core a.seq a.idx)).fiAnswer a.core m a.idx r)
    | none => .next s

/-- R324: the event REPLY_RELEASE; a sender of this node releases once its command has completed. -/
def execReplyRelease (n : FiName) (s : State) : Out :=
  if n.node == s.nodeId && (s.cmd? { core := Fin.ofNat 128 n.core, seq := n.seq }).isSome then .next s
  else .next { s with replies := s.replies.filter (fun e => e.nm != n) }

/- Trimming and resends (R333), ready notices (R331), time-outs (R316). -/
/-- The commands of FI that send requests (R317). -/
def isFabric : Instr → Bool
  | .rld _ => true
  | .rst _ => true
  | .renq _ => true
  | i => (ratomOf i).isSome || (rflagOf i).isSome
/-- The bytes that a command's request `i` names, and how: a row of an `mstrr`, a piece of a transfer (R252, R286). -/
def State.partSpan (s : State) (c : CoreId) (m : Cmd) (i : Nat) : Nat × Nat × AccK :=
  match m.ins with
  | .mstrr x => let ps := s.rowParts c m x i; ((ps.headD (0, 0)).1, (ps.map Prod.snd).foldl (· + ·) 0, .rd)
  | _ => let (ps, k, _) := m.parts; ((ps.getD i (0, 0)).1, (ps.getD i (0, 0)).2, k)
/-- A request of a command goes to another node. -/
def State.partAway (s : State) (c : CoreId) (m : Cmd) (i : Nat) : Bool :=
  if m.eng == .fi then s.fiAway m i
  else let (va, n, k) := s.partSpan c m i; !(s.allOwn c va n k)
/-- The requests of a command that have no answer yet and wait for another node, or have been refused (R316). -/
def State.farParts (s : State) (c : CoreId) (m : Cmd) : List Nat :=
  if !m.started || m.faulted || m.fail.isSome then []
  else match m.eng with
    | .fi => if !isFabric m.ins || !m.late.isEmpty then [] else (List.range m.fiUnits).filter (fun i =>
        !(m.staged.any (fun g => g.idx == i)) && (s.fiAway m i || !(s.onWay (.cmd c m.seq.toNat i))))
    | _ => (m.asked.map Prod.fst).filter (s.partAway c m)
/-- Whether an access or a command of this node waits for an answer from another node. -/
def State.waitsOn (s : State) : PktId → Bool
  | .acc c id => (s.ctxOf c).gacc.any (fun g => g.id == id && paNode g.pa != s.nodeId)
  | .cmd c q i =>
    match s.cmd? { core := c, seq := q } with
    | some m => if isBulk m.ins then !(s.farParts c m).isEmpty else (s.farParts c m).contains i
    | none => false
  | .resp n _ => s.held.any (fun h => h.whom == n && n.node != s.nodeId)
  | .block sl q i => s.sends.any (fun b => b.pkt.slot == sl && b.rcv == q && i == b.j * (s.slots[sl]).k + b.k)
/-- A packet with payload flits: one that writes, or a response with data (R333). -/
def State.hasPayload (s : State) : PktId → Bool
  | .acc c id => (s.ctxOf c).gacc.any (fun g => g.id == id && (match g.ins with | .stg _ => true | _ => false))
  | .cmd c q _ =>
    match s.cmd? { core := c, seq := q } with
    | some m => (match m.ins with | .rst _ => true | .renq _ => true | _ => (match m.move with | some o => o.k == .put | none => false))
    | none => false
  | .resp n _ => s.held.any (fun h => h.whom == n && (match h.k with | .ans (.ok bs) => !bs.isEmpty | _ => false))
  | .block .. => true
/-- R333: the event PACKET_TRIM; the packet has no effect at its target until it is sent again. One of whose units the target has answered
has been delivered. -/
def execPacketTrim (p : PktId) (s : State) : Out :=
  let away := match p with
    | .cmd c q i => (match s.cmd? { core := c, seq := q } with
      | some m => if isBulk m.ins then (List.range m.fiUnits).any (s.fiAway m) && !(m.staged.any (fun g => s.fiAway m g.idx)) else s.partAway c m i
      | none => false)
    | _ => true
  if s.waitsOn p && away && s.hasPayload p && s.onWay p then
    .next (s.setPkt { id := p, phase := .trimmed, n := match s.pkt? p with | some q => q.n | none => 0 })
  else .next s
/-- Cycles of a microsecond. -/
def usCk : Nat := 3000
/-- R333: the event RESEND_REQUEST: the resend waits 1 µs, doubled with each resend up to 64 µs. -/
def execResendRequest (p : PktId) (s : State) : Out :=
  match s.pkt? p with
  | some q => if q.phase == .trimmed then .next (s.setPkt { q with phase := .backoff, at_ := s.now + usCk * 2 ^ min 6 q.n }) else .next s
  | none => .next s
/-- R333: the event RESEND_BACKOFF_EXPIRY: the whole packet is sent again, a block of a collective onto its link (R358); RSND counts. -/
def execResendBackoffExpiry (p : PktId) (s : State) : Out :=
  match s.pkt? p with
  | some q =>
    if q.phase == .backoff && q.at_ ≤ s.now then
      let s := s.setPkt { q with phase := .sent, n := q.n + 1 }
      match p with
      | .acc c _ => .next (s.setCtxOf c (s.ctxOf c).addRsnd)
      | .cmd c k _ =>
        let x := (s.ctxOf c).addRsnd
        .next (s.setCtxOf c { x with cmds := x.cmds.map (fun m =>
          if m.seq.toNat == k && !m.done && m.eng == .fi then { m with retry := min 255 (m.retry + 1) } else m) })
      | .resp _ _ => .next s
      | .block sl rcv ix =>
        let again := s.sends.filter (fun b => b.pkt.slot == sl && b.rcv == rcv && ix == b.j * (s.slots[sl]).k + b.k)
        let s : State := { s with sent := s.sent ++ again.map (fun b => CMsg.block b.pkt) }
        match (s.slots[sl]).owner with
        | none => .next s
        | some (c, id) =>
          if (s.ctxOf c).ctxid == id then .next (s.setCtxOf c (s.ctxOf c).addRsnd)
          else .next { s with saved := s.saved.map (fun (v : Saved) => if v.core == c && v.ctx.ctxid == id then { v with ctx := v.ctx.addRsnd } else v) }
    else .next s
  | none => .next s

/-- The places of an engine's inbound queue are all taken (R327). -/
def State.inqFull (s : State) (c : CoreId) (e : Eng) : Bool := 4 ≤ ((s.core c).inq.filter (fun b => b.eng == e)).length
/-- A retry of a request to this node would be refused again. -/
def State.stillFull (s : State) (m : Cmd) (idx : Nat) : Bool :=
  match m.ins with
  | .renq _ => s.inqFull (Fin.ofNat 128 (bits m.a.toNat 12 7)) (Eng.ofCode (bits m.a.toNat 20 2 + 1))
  | .rst _ =>
    let pa := m.ext.getD idx 0
    (match (s.ctxOf (lbCore pa)).lbufs.toList.getD (lbNum pa) none with
     | some b => b.st != 0
     | none => lbNum pa < 16 && s.savedHolds (lbCore pa) (lbNum pa))
  | _ => 1024 ≤ s.replies.length
/-- R331: the event READY_NOTICE: the refused sender tries again. -/
def execReadyNotice (p : PktId) (s : State) : Out :=
  match s.pkt? p, p with
  | some q, .cmd c k i =>
    match s.cmd? { core := c, seq := k } with
    | some m =>
      let waits (j : Nat) : Bool := !(m.staged.any (fun g => g.idx == j)) && !s.fiAway m j && s.stillFull m j
      let full := if isBulk m.ins then (List.range m.fiUnits).any waits else waits i
      if q.phase == .refused && !full then .next (s.setPkt { q with phase := .sent }) else .next s
    | none => .next (s.dropPkt p)
  | _, _ => .next s

/-- An outstanding request fails (R316): reported through the name of what issued it. -/
def State.failReq (s : State) (p : PktId) (cls : TrapClass) : State :=
  let s := s.dropPkt p
  match p with
  | .acc c id =>
    let x := s.ctxOf c
    match x.gacc.find? (fun g => g.id == id) with
    | none => s
    | some g =>
      match g.ins with
      | .stg _ => s.setCtxOf c ((x.dropAcc id).recordStore g cls)
      | _ => s.setCtxOf c ((x.dropAcc id).markTok g cls)
  | .cmd c q i =>
    match s.cmd? { core := c, seq := q } with
    | none => s
    | some m =>
      if m.eng == .fi then s.fiFail c m cls (match m.ins with | .rst _ => m.b.toNat | _ => m.a.toNat) (s.mayHavePerformed c m i cls)
      else
        let (va, _, _) := s.partSpan c m i
        match m.ins, m.move with
        | .xlist _, none => s.xeFail c m cls va
        | _, _ => s.putCmd c { m with staged := m.staged ++ [{ idx := i, data := [], fail := some cls, addr := va, time := s.now }],
                                      asked := m.asked.filter (fun p => p.1 != i) }
  | .resp _ _ => s
  | .block .. => s
/-- The cycle a request left. -/
def State.sentAt (s : State) : PktId → Nat
  | .cmd c q i => match s.cmd? { core := c, seq := q } with
    | some m => (match m.asked.find? (fun p => p.1 == i) with | some p => p.2 | none => m.t0)
    | none => s.now
  | .acc c id => match (s.ctxOf c).gacc.find? (fun g => g.id == id) with | some g => g.born | none => s.now
  | .resp _ _ => s.now
  | .block .. => s.now
/-- R316: the event FABRIC_TIMEOUT of a request that has left for FTMO. -/
def execFabricTimeout (p : PktId) (s : State) : Out :=
  let request := match p with | .acc .. => true | .cmd .. => true | _ => false
  if request && s.waitsOn p && s.sentAt p + 30 * s.ftmo ≤ s.now then .next (s.failReq p .timeout) else .next s

/- Links (R315). -/
/-- R315: the event FLIT_CRC_FAIL: the link sends the flit again; delay alone. -/
def execFlitCrcFail (_ : Fin 12) (s : State) : Out := .next s
/-- R315: the event FIBRE_FAIL: a spare is switched in while there is one, else the direction keeps its other fibres. -/
def execFibreFail (d : Fin 12) (s : State) : Out :=
  if s.fibres[d] == 0 then .next s
  else if 0 < s.spares then
    .next { s with spares := s.spares - 1, fibres := s.fibres.set d (s.fibres[d] - 1), swaps := s.swaps.set d (s.swaps[d] + 1) }
  else .next { s with fibres := s.fibres.set d (s.fibres[d] - 1) }
/-- R315: the event SPARE_SWITCH_DONE. -/
def execSpareSwitchDone (d : Fin 12) (s : State) : Out :=
  if s.swaps[d] == 0 then .next s
  else .next { s with swaps := s.swaps.set d (s.swaps[d] - 1), fibres := s.fibres.set d (s.fibres[d] + 1) }

/- Inbound queues (R327). -/
/-- R327: the event RENQ_ARRIVE: ACCESS when the sender's function does not own the core, a refusal when the queue is full,
else the block is accepted. -/
def execRenqArrive (r : RenqReq) (s : State) : Out :=
  let nm : FiName := { node := r.node, core := r.core, seq := r.seq }
  let e := Eng.ofCode (r.eng.val + 1)
  let cr : CoreId := Fin.ofNat 128 r.core
  let own := match s.cmd? { core := cr, seq := r.seq } with
    | some m => (match m.ins with | .renq _ => true | _ => false) && m.started && m.inb.isNone && m.fail.isNone && m.pay == r.data &&
        bits m.a.toNat 0 12 == s.nodeId && bits m.a.toNat 12 7 == r.tgt.val && bits m.a.toNat 20 2 == r.eng.val &&
        (s.ctxOf cr).fn.val == r.fn && s.onWay (.cmd cr r.seq 0) && !(s.held.any (fun h => h.whom == nm))
    | none => false
  if r.node == s.nodeId && !own then .next s
  else
    let answer (s : State) (k : RespK) : Out := .next { s with held := s.held.filter (fun h => h.whom != nm) ++ [{ whom := nm, idx := 0, k }] }
    if !s.hasCore r.fn r.tgt.val then answer s (.ans (.fail .access))
    else if s.inqFull r.tgt e then answer s .refused
    else
      let k := s.core r.tgt
      let b : Inb := { node := r.node, core := r.core, seq := r.seq, fn := r.fn, eng := e, data := r.data }
      answer (s.setCore r.tgt { k with inq := k.inq ++ [b] }) (.ans (.ok []))

/-- R327: the event INBOX_DEQUEUE, at a bundle boundary: the engine's first block becomes the context's next command. -/
def execInboxDequeue (c : CoreId) (e : Fin 4) (s : State) : Out :=
  let k := s.core c
  let x := k.ctx
  let eng := Eng.ofCode (e.val + 1)
  match k.inq.find? (fun b => b.eng == eng) with
  | none => .next s
  | some b =>
    if !k.busy || k.stop.isSome || x.issuing || x.ended.isSome || x.fn.val != b.fn || !bit x.inbox.toNat 0 || 32 ≤ x.inFlight then .next s
    else
      let every : List Rng := [Space.wb, .ab, .cb, .jb].map (fun sp => { buf := sp, lo := 0, hi := 2 ^ 25 })
      let m : Cmd := { seq := x.nextSeq, pc := x.pc, eng, ins := idleIns, reads := every, writes := every, born := s.now, pay := b.data, inb := some b }
      let s := s.setCore c { k with ctx := { x with cmds := x.cmds ++ [m], nextSeq := x.nextSeq + 1 }, inq := k.inq.erase b }
      let s := s.journal c m
      .next { s with mem := s.mem.write (bufKey c .jb (0x2000 + m.seq.toNat % 32 * 256)) (m.pay.take 256) }

/-- The push of a command that a block's entry may hold, by engine (R326); `none` for any other. -/
def entryPush (e : Eng) (i : Instr) : Option (State → Out) :=
  let q := Eng.code e
  match e, i with
  | .me, .mld x => some (execMld x) | .me, .mldsp x => some (execMldsp x) | .me, .mstr x => some (execMstr x)
  | .me, .mstrr x => some (execMstrr x) | .me, .mzero x => some (execMzero x) | .me, .mdrain x => some (execMdrain x)
  | .me, .mcfg x => some (execMcfg x) | .me, .mpip x => some (execMpip x) | .me, .mabort x => some (execMabort x)
  | .ce, .chbind x => some (execChbind x) | .ce, .chkv x => some (execChkv x) | .ce, .chlink x => some (execChlink x)
  | .ce, .chmask x => some (execChmask x) | .ce, .chfin x => some (execChfin x) | .ce, .chsave x => some (execChsave x)
  | .ce, .chrest x => some (execChrest x) | .ce, .chstat x => some (execChstat x) | .ce, .chdrop x => some (execChdrop x)
  | .xe, .xcopy x => some (execXcopy x) | .xe, .xget x => some (execXget x) | .xe, .xput x => some (execXput x)
  | .xe, .xfill x => some (execXfill x) | .xe, .xtrans x => some (execXtrans x) | .xe, .xpub x => some (execXpub x)
  | .xe, .xmap x => some (execXmap x) | .xe, .xmcast x => some (execXmcast x)
  | .fi, .rld x => some (execRld x) | .fi, .rst x => some (execRst x)
  | .fi, .rflagSet x => some (execRflagSet x) | .fi, .rflagInc x => some (execRflagInc x) | .fi, .rflagClr x => some (execRflagClr x)
  | _, .fset x => if x.q.val == q then some (execFset x) else none
  | _, .finc x => if x.q.val == q then some (execFinc x) else none
  | _, .fclr x => if x.q.val == q then some (execFclr x) else none
  | .fi, i => (ratomOf i).map (fun _ => fun s => match ratomOf i with | some (_, x) => s.ratom x i | none => .next s)
  | _, _ => none
/-- The command of an entry: the bits 58:32 of its first dword, the flag number of a flag operation, and its operands as
registers 1 to 3 where they are not zero; of `chstat`, whose operands are no sources, the row codes themselves (R298, R326; log entry
82). -/
def entryIns (w a b c : Nat) : Option Instr :=
  let flagOp := 0x041 ≤ bits w 49 10 && bits w 49 10 ≤ 0x043
  if bits w 59 5 != 0 || (if flagOp then bits w 9 23 != 0 else bits w 0 32 != 0) then none
  else
    let rows := bits w 49 10 == 0x127
    let code (v k : Nat) : Nat := if rows then v else if v == 0 then 0 else k
    if rows && (256 ≤ a || 256 ≤ b || 256 ≤ c) then none else
    match decodeE (w + code a 1 * 2 ^ 16 + code b 2 * 2 ^ 8 + code c 3) with
    | .ok i => some i
    | .error _ => none

/-- An inbound block reaches its next entry (R327): the entry is checked as a push would check it, and starts once nothing holds it: the
arrays (R10), earlier accesses of its class (R171). `start` is what its engine does at a start. -/
def State.nextEntry (s : State) (cr : CoreId) (m : Cmd) (b : Inb) (start : State → Cmd → State) : State :=
  let d (k : Nat) : Nat := leNat ((b.data.drop (8 + 32 * m.ix + 8 * k)).take 8)
  let m := { m with started := true, start := s.now }
  let bad (cls : TrapClass) (addr : Nat) : State := s.putCmd cr { m with fail := some (cls, addr, 0) }
  match entryIns (d 0) (d 1) (d 2) (d 3) with
  | none => bad .illegal 0
  | some i =>
    match entryPush m.eng i with
    | none => bad .illegal 0
    | some f =>
      let x := s.ctxOf cr
      let t := { s with cur := cr }.setCtxOf cr { x with
        s := ((x.s.set 1 (BitVec.ofNat 64 (d 1))).set 2 (BitVec.ofNat 64 (d 2))).set 3 (BitVec.ofNat 64 (d 3))
        cmds := x.cmds.filter (fun e => e.seq != m.seq), kpos := none, trapvec := 0 }
      match f t with
      | .next t =>
        let k := t.core cr
        if k.traps != (s.core cr).traps then
          (match k.stop with
           | some { rcd := some r, .. } => bad r.cls r.addr.toNat
           | _ => bad .illegal 0)
        else
          let y := k.ctx
          let n := y.cmds.getLastD m
          let s := s.setCtxOf cr { y with s := x.s, cmds := x.cmds, kpos := x.kpos, trapvec := x.trapvec, nextSeq := x.nextSeq, toks := x.toks }
          let n := { n with seq := m.seq, pc := m.pc, syl := m.syl, inb := m.inb, ix := m.ix, eng := m.eng, aside := false,
                            reads := m.reads, writes := m.writes, born := m.born, started := false, start := s.now }
          let s := s.putCmd cr n
          if (s.ctxOf cr).mayStart n then start s n else s
      | _ => bad .illegal 0

/- Pool extents (R145, R307). -/
/-- An access that has been issued and has not performed reaches an address that `p` picks. -/
def State.inUse (s : State) (p : Nat → Bool) : Bool :=
  (List.range 128).any (fun n =>
    let c : CoreId := Fin.ofNat 128 n
    let x := s.ctxOf c
    let hits (va n : Nat) (k : AccK) : Bool := (chunks va n).any (fun ch => match (s.xlate c ch.1 ch.2 k).2 with | .ok pa => p pa | .error _ => false)
    x.gacc.any (fun g => p g.pa) ||
    x.cmds.any (fun m => !m.done && m.started && (
      m.asked.any (fun a => let (va, n, k) := s.partSpan c m a.1; hits va n k) ||
      (m.eng == .fi && (List.range m.fiUnits).any (fun i => !(m.staged.any (fun g => g.idx == i)) && (match m.ext[i]? with | some pa => p pa | none => false))))))
/-- The addresses of an extent. -/
def Extent.holds (e : Extent) (pa : Nat) : Bool :=
  paKind pa == 0x10 + e.win && e.start * 2 ^ 21 ≤ paOff pa && paOff pa < (e.start + e.count) * 2 ^ 21
/-- An extent leaves the pool. -/
def State.dropExtent (s : State) (e : Extent) : State :=
  { s with exts := s.exts.filter (fun x => !(x.win == e.win && e.start ≤ x.start && x.start + x.count ≤ e.start + e.count)) }
/-- The extent that an `xext` names (R307). -/
def Cmd.extent (m : Cmd) (fn : Nat) : Extent :=
  { win := bits m.a.toNat 8 3, start := bits m.a.toNat 16 19, count := bits m.b.toNat 0 32, fn }
/-- Firmware's answer to an `xext` completes it with OUT (R307); a release waits until the accesses to the extent have performed
(R145). -/
def State.extentAnswer (s : State) (c : CoreId) (m : Cmd) (out : Nat) : State :=
  let n := bits m.b.toNat 0 32
  let e := m.extent (s.ctxOf c).fn.val
  let word := (if out == 0 then n else 0) + out * 2 ^ 37
  if !m.started then s
  else match m.ins with
    | .xextAdd _ => { s with exts := if out == 0 then s.exts ++ [e] else s.exts }.completeXe c { m with eff := true } word
    | .xextRelease _ =>
      if out == 0 && s.inUse e.holds then s
      else (if out == 0 then s.dropExtent e else s).completeXe c { m with eff := true } word
    | _ => s
/-- Firmware completes an extent change whose context is gone (R462). -/
def State.orphanAnswer (s : State) (e : FwExt) (out : Nat) : State :=
  if out == 0 && !e.add && s.inUse e.ext.holds then s
  else
    let s := { s with fwExts := s.fwExts.filter (fun x => x != e) }
    if out != 0 then s else if e.add then { s with exts := s.exts ++ [e.ext] } else s.dropExtent e.ext
/-- R307: the event FIRMWARE_EXTENT_ANSWER, for a command of a running or saved context (R309), or one that a reset discarded (R462). -/
def execFirmwareExtentAnswer (r : CmdRef) (out : Fin 4) (s : State) : Out :=
  match s.fwExts.find? (fun e => e.core == r.core && e.seq == r.seq) with
  | some e => .next (s.orphanAnswer e out.val)
  | none => .next (s.onCmd r (fun t m => t.extentAnswer r.core m out.val))

end Sys2Proof.Machine
end

