-- ==== Sys2Proof/Machine/Coded.lean ====
section
/-! DEFINITION. Coded multicast (14_coded.md, R338 to R365): the coded commands, held blocks and decode buffers, gathering
and shuffling, forks, decode misses, and the router's side information. -/

namespace Sys2Proof.Machine

/- Slots. -/
/-- Slot `i` of the node: 8·FN plus the number in the function's partition (R338). -/
def State.slot (s : State) (i : Nat) : CSlot := s.slots[i % 128]'(Nat.mod_lt _ (by decide))
def State.setSlot (s : State) (i : Nat) (x : CSlot) : State := { s with slots := s.slots.setIfInBounds (i % 128) x }
/-- The slot that a command of the context on a core names. -/
def State.cmSlot (s : State) (cr : CoreId) (m : Cmd) : Nat := 8 * (s.ctxOf cr).fn.val + bits m.a.toNat 0 3
/-- B (R344), S and C (R347). -/
def blockB (z : Nat) : Nat := 128 * 2 ^ z
def areaS (p k r : Nat) : Nat := 4096 * ceilDiv (2 * p * k * r) 32768
def CSlot.area (x : CSlot) : Nat := areaS x.p x.k x.r
/-- Destination blocks of a rank: P·K, or P·r·K (R351, R352). -/
def CSlot.total (x : CSlot) : Nat := x.p * x.r * x.k
/-- The key of a byte of the decode buffer. -/
def CSlot.decKey (x : CSlot) (o : Nat) : Nat :=
  match x.dec with | some (clu, off, _) => key 1 (clu * 2 ^ 23 + off + o) | none => key 1 o
/-- Copy places (R347). -/
def CSlot.places (x : CSlot) : Nat := match x.dec with | some (_, _, len) => (len - x.area) / blockB x.z | none => 0
def CSlot.placeKey (x : CSlot) (i : Nat) : Nat := x.decKey (x.area + i * blockB x.z)
/-- Bit `i` of the state area: bits 0 to P·K·r-1 are the delivered map, the next P·K·r the acknowledged map (log entry 33). -/
def State.mapBit (s : State) (x : CSlot) (i : Nat) : Bool := bit (s.mem.get (x.decKey (i / 8))).toNat (i % 8)
def State.setMap (s : State) (x : CSlot) (i : Nat) : State :=
  let a := x.decKey (i / 8)
  { s with mem := s.mem.put a (s.mem.get a ||| (1 : Byte) <<< (i % 8)) }
/-- A counter of R361 rises by `n`, saturating. -/
def CSlot.count (x : CSlot) (i n : Nat) : CSlot :=
  { x with cnt := x.cnt.setIfInBounds i (BitVec.ofNat 64 (min (2 ^ 64 - 1) ((x.cnt.toList.getD i 0).toNat + n))) }
/-- The open slot that a context owns. -/
def State.mySlot (s : State) (cr : CoreId) (i : Nat) : Option CSlot :=
  let x := s.slot i
  if x.owner == some (cr, (s.ctxOf cr).ctxid) then some x else none

/- Push (R342). -/
def Ctx.cmOpen (c : Ctx) (w : Nat) : Chk CmRec :=
  match c.cmRec.toList.getD (w % 8) none with
  | some r => if w < 8 then .ok r else .error (.illegal, 0)
  | none => .error (.illegal, 0)
def State.setCmRec (s : State) (i : Nat) (r : Option CmRec) : State := s.setCtx { s.ctx with cmRec := s.ctx.cmRec.setIfInBounds (i % 8) r }
def Ctx.cmCmd (c : Ctx) (x : Ecmd) (i : Instr) (cls : Bool) : Cmd := { c.mkCmd x .fi i with gcls := if cls then some (Ecmd.oc4 x) else none }
/-- Checks of `cmset` (R344): the push record of the slot. -/
def Ctx.chkCmset (c : Ctx) (x : Ecmd) : Chk CmRec := do
  let a := c.opA x
  let b := c.opB x
  let w := c.opC x
  let p := bits a 8 6 + 1
  let k := bits w 8 16
  let r := bits w 28 2 + 1
  need (bits a 3 5 == 0 && bits a 14 2 == 0 && bits a 22 10 == 0 && bits a 48 16 == 0 && 2 ≤ p && bits a 16 6 < p) .illegal
  need (bits w 0 3 ≤ 5 && bits w 3 5 == 0 && 1 ≤ k && bits w 24 4 ≤ 1 && bits w 30 34 == 0 && r ≤ p && p * k * r ≤ 2 ^ 20) .illegal
  need ((c.cmRec.toList.getD (bits a 0 3) none).isNone) .illegal
  need (b % 64 == 0) .align b
  .ok { p, k, r, z := bits w 0 3 }
/-- R344. -/
def execCmset (x : Ecmd) (s : State) : Out :=
  let c := s.ctx
  s.command x.g (c.chkCmset x) (fun r => (s.push (c.cmCmd x (.cmset x) true)).setCmRec (bits (c.opA x) 0 3) (some r))
/-- R346. -/
def execCmsetClose (x : Ecmd) (s : State) : Out :=
  let c := s.ctx
  s.command x.g (c.cmOpen (c.opA x)) (fun _ => (s.push (c.cmCmd x (.cmsetClose x) false)).setCmRec (c.opA x) none)
/-- Checks of `cmheld` (R349). -/
def Ctx.chkHeld (c : Ctx) (x : Ecmd) : Chk Unit := do
  let n := bits (c.opC x) 0 32
  let r ← c.cmOpen (c.opA x)
  need (r.dec.isSome && 1 ≤ n && n ≤ 4096) .illegal
  need (c.opB x % 64 == 0) .align (c.opB x)
/-- R349. -/
def execCmheld (x : Ecmd) (s : State) : Out :=
  let c := s.ctx
  s.command x.g (c.chkHeld x) (fun _ => s.push (c.cmCmd x (.cmheld x) true))
/-- Checks of `cmheld.clr` (R349). -/
def Ctx.chkHeldClr (c : Ctx) (x : Ecmd) : Chk Unit := do
  let r ← c.cmOpen (c.opA x)
  need r.dec.isSome .illegal
/-- R349. -/
def execCmheldClr (x : Ecmd) (s : State) : Out :=
  let c := s.ctx
  s.command x.g (c.chkHeldClr x) (fun _ => s.push (c.cmCmd x (.cmheldClr x) false))
/-- A slice range lies in the function's granted cache ranges, each page in one of them (R347, R451). -/
def State.cacheOk (s : State) (fn clu off len : Nat) : Bool :=
  (List.range (ceilDiv len 4096)).all (fun i => (s.func fn).cache.toList.any (fun w =>
    let g := w.toNat
    let lo := bits g 12 11 * 4096
    bit g 0 && bits g 4 4 == clu && lo ≤ off + 4096 * i && off + 4096 * (i + 1) ≤ lo + bits g 32 24))
/-- Checks of `cmdec` (R347): the push record of the slot with its decode buffer. -/
def State.chkDec (s : State) (x : Ecmd) : Chk CmRec := do
  let c := s.ctx
  let b := c.opB x
  let off := bits b 8 24
  let len := bits b 32 24
  let r ← c.cmOpen (c.opA x)
  need (r.dec.isNone && bits b 4 4 == 0 && bits b 56 8 == 0 && 4096 ≤ len && len ≤ 0x800000 && off + len ≤ 0x800000 &&
    areaS r.p r.k r.r + blockB r.z ≤ len) .illegal
  need (off % 4096 == 0 && len % 4096 == 0) .align off
  need (s.cacheOk c.fn.val (bits b 0 4) off len) .access off
  .ok { r with dec := some len }
/-- R347. -/
def execCmdec (x : Ecmd) (s : State) : Out :=
  let c := s.ctx
  s.command x.g (s.chkDec x) (fun r => (s.push (c.cmCmd x (.cmdec x) false)).setCmRec (c.opA x) (some r))
/-- R347. -/
def execCmdecRel (x : Ecmd) (s : State) : Out :=
  let c := s.ctx
  s.command x.g (c.cmOpen (c.opA x)) (fun r => (s.push (c.cmCmd x (.cmdecRel x) false)).setCmRec (c.opA x) (some { r with dec := none }))
/-- Checks of `cmgath` and `cmshuf` (R351, R352). -/
def Ctx.chkGath (c : Ctx) (x : Ecmd) (one : Bool) : Chk Unit := do
  let r ← c.cmOpen (c.opA x)
  need (r.dec.isSome && (!one || r.r == 1)) .illegal
  need (c.opB x % 64 == 0) .align (c.opB x)
  need (c.opC x % 64 == 0) .align (c.opC x)
/-- Push of `cmgath` and `cmshuf` (R342, R351, R352). -/
def State.pushGath (s : State) (x : Ecmd) (i : Instr) (one : Bool) : Out :=
  let c := s.ctx
  s.command x.g (c.chkGath x one) (fun _ => s.push (c.cmCmd x i true))
/-- R351. -/
def execCmgath (x : Ecmd) (s : State) : Out := s.pushGath x (.cmgath x) true
/-- R352. -/
def execCmshuf (x : Ecmd) (s : State) : Out := s.pushGath x (.cmshuf x) false
/-- Checks of `cmpol` (R360). -/
def Ctx.chkPol (c : Ctx) (x : Ecmd) : Chk CmRec := do
  let a := c.opA x
  need (bits a 3 5 == 0 && bits a 8 2 != 3 && bits a 10 54 == 0) .illegal
  c.cmOpen (bits a 0 3)
/-- R360. -/
def execCmpol (x : Ecmd) (s : State) : Out :=
  let c := s.ctx
  s.command x.g (c.chkPol x) (fun _ => s.push (c.cmCmd x (.cmpol x) false))
/-- Checks of `cmstat` (R361). -/
def Ctx.chkStat (c : Ctx) (x : Ecmd) : Chk Unit := do
  let b := c.opB x
  let _ ← c.cmOpen (c.opA x)
  need (b % 64 == 0) .align b
  need (c.pushView.runIn .ab b 64) .buffer b
/-- R361. -/
def execCmstat (x : Ecmd) (s : State) : Out :=
  let c := s.ctx
  let b := c.opB x
  s.command x.g (c.chkStat x) (fun _ => s.push { c.cmCmd x (.cmstat x) false with writes := [{ buf := .ab, lo := b, hi := b + 64 }] })

/- At work. -/
/-- OUT, and the word of R343. -/
def cmWord (count fall miss out : Nat) : Word :=
  BitVec.ofNat 64 (bits count 0 32 + min 255 fall * 2 ^ 32 + min 255 miss * 2 ^ 40 + out * 2 ^ 48)
/-- The fields a running `cmgath` or `cmshuf` keeps in `ext`: phase (0 before the barrier, 1 sending, 2 repairing, 3 settled with
missing blocks), misses, uncoded requests, and the missing destination indexes. -/
structure CRun where
  phase : Nat := 0
  miss : Nat := 0
  fall : Nat := 0
  gone : List Nat := []
def Cmd.run (m : Cmd) : CRun := { phase := m.ext.getD 0 0, miss := m.ext.getD 1 0, fall := m.ext.getD 2 0, gone := m.ext.drop 3 }
def Cmd.setRun (m : Cmd) (r : CRun) : Cmd := { m with ext := [r.phase, r.miss, r.fall] ++ r.gone }
/-- What a coded command's reads and writes may reach: plain memory (R363). -/
def cmPol (s : State) (pa _n : Nat) : Option TrapClass :=
  if paKind pa < 2 || (0x10 ≤ paKind pa && paKind pa ≤ 0x17) then none else if paNode pa == s.nodeId || paKind pa != 5 then some .access else none
/-- A command of a core's context as it now stands is changed. -/
def State.onSeq (s : State) (cr : CoreId) (q : BitVec 32) (f : Cmd → Cmd) : State :=
  let x := s.ctxOf cr
  s.setCtxOf cr { x with cmds := x.cmds.map (fun m => if m.seq == q && !m.done then f m else m) }
/-- An access of a coded command, number `tag` of its own, may take place: its pages are translated (R138), and in this node's HBM its
requests, which go out then, have had their borrowed spaces (R143). -/
def State.cmReach (s : State) (cr : CoreId) (m : Cmd) (tag va n : Nat) (k : AccK) : State × Bool :=
  let ps := chunks va n
  let (s, ok) := s.pagesFor cr m.seq ps
  let src := WinSrc.cmd m.seq.toNat
  let ix (i : Nat) : Nat := ((s.ctxOf cr).serial * 2 ^ 32 + tag) * 128 + i
  if !ok then (s, false)
  else if !(((s.ctxOf cr).cmds.find? (fun e => e.seq == m.seq && !e.done)).any (fun e => e.asked.any (fun p => p.1 == tag))) then
    let s := (ps.zip (List.range ps.length)).foldl (fun (s : State) p => s.sendPart cr m.seq (ix p.2) p.1.1 p.1.2 k false) s
    (s.onSeq cr m.seq (fun e => { e with asked := e.asked ++ [(tag, s.now)] }), false)
  else if (List.range ps.length).all (fun i => s.trackReady cr src (ix i)) then
    ((List.range ps.length).foldl (fun (s : State) i => s.dropTrack cr src (ix i)) s, true)
  else (s, false)
/-- Numbers of a coded command's accesses: its list or entries, the bytes it reads, its sends, its deliveries. -/
def tagOf (kind n : Nat) : Nat := 4 * n + kind
/-- The access has taken place. -/
def Cmd.served (m : Cmd) (tag : Nat) : Cmd := { m with asked := m.asked.filter (fun p => p.1 != tag) }
/-- A coded command's read of `n` bytes: `none` until it may take place. -/
def State.cmRead (s : State) (cr : CoreId) (m : Cmd) (tag va n : Nat) (ans : Answer) : State × Option (Except (TrapClass × Nat) (List Byte)) :=
  let (s, ok) := s.cmReach cr m tag va n .rd
  if ok then let (s, r) := s.gReadVa cr va n ans cmPol; (s, some r) else (s, none)
/-- A message of a collective leaves the node. -/
def State.tell (s : State) (x : CMsg) : State := { s with sent := s.sent ++ [x] }

/-- A collective's slot closes at this node (R346): entries, copies, decode buffer and held packets go, and the routers are told to
drop what this node declared. -/
def State.closeSlot (s : State) (i : Nat) : State :=
  let x := s.slot i
  { s.setSlot i {} with sends := s.sends.filter (fun b => b.pkt.slot.val != i % 128) }.tell (.withdraw (i % 128) x.rank)
/-- The slots of a context close as it retires (R346). -/
def State.closeSlots (s : State) (cr : CoreId) (id : BitVec 32) : State :=
  (List.range 128).foldl (fun s i => if (s.slot i).owner == some (cr, id) then s.closeSlot i else s) s

/-- A coded command of a slot that is not open ends with OUT = 3 (R339, R343), 4 ck after its start. -/
def Cmd.out (m : Cmd) (out : Nat) : Cmd := { m with res := cmWord 0 0 0 out }
/-- The commands that need a decode buffer (R342). -/
def needsDec : Instr → Bool
  | .cmheld _ => true
  | .cmheldClr _ => true
  | .cmgath _ => true
  | .cmshuf _ => true
  | _ => false
/-- The source rank and block id of destination index `idx` at rank `q` (R351, R352). -/
def CSlot.srcAt (x : CSlot) (shuf : Bool) (q idx : Nat) : Nat × Nat :=
  if shuf then
    let s := idx / (x.r * x.k)
    let j := idx / x.k % x.r
    let k := idx % x.k
    let d := (q + x.p - j % x.p) % x.p
    (s, (s * x.p + d) * x.k + k)
  else (idx / x.k, idx)
/-- The source rank and block id of an own destination index. -/
def CSlot.srcOf (x : CSlot) (shuf : Bool) (idx : Nat) : Nat × Nat := x.srcAt shuf x.rank idx
/-- The destination index at a receiver of its copy `j` of block `k` of source `src` (R351, R352). -/
def CSlot.idxAt (x : CSlot) (src j k : Nat) : Nat := (src * x.r + j) * x.k + k
/-- What names a block on its way from rank `src` to rank `q`. -/
def CSlot.prong (x : CSlot) (shuf : Bool) (fn src q idx : Nat) : Prong :=
  { id := (x.srcAt shuf q idx).2, src, rcv := q, dst := bits (x.list.getD q 0) 0 12, idx, fn }
def isShuf : Instr → Bool
  | .cmshuf _ => true
  | _ => false
/-- The start of a coded command. A command that needs a decode buffer and finds none bound, since its `cmdec` was refused, ends as
one of a slot that is not open (log entry 83). -/
def State.startCoded (s : State) (cr : CoreId) (m : Cmd) : State :=
  let i := s.cmSlot cr m
  let go (s : State) (m : Cmd) (n : Nat) : State := s.startCmd cr m (s.now + n)
  match m.ins with
  | .cmset _ => go s { m with ext := [] } 0
  | ins =>
    match s.mySlot cr i with
    | none => go s { m.out 3 with eff := true } 4
    | some x =>
      if needsDec ins && x.dec.isNone then go s { m.out 3 with eff := true } 4
      else match ins with
      | .cmsetClose _ => go (s.closeSlot i) { m.out 0 with eff := true, ext := 1 :: x.list } 0
      | .cmheld _ => go s m 0
      | .cmheldClr _ => go ((s.setSlot i { x with held := [] }).tell (.withdraw i x.rank)) (m.out 0) 0
      | .cmdec _ =>
        let b := m.b.toNat
        let (clu, off, len) := (bits b 0 4, bits b 8 24, bits b 32 24)
        let used := s.slots.toList.foldl (fun n y => n + (match y.dec with | some (_, _, l) => l | none => 0)) 0
        if 16 * 2 ^ 20 < used + len then go s { m.out 1 with eff := true } 4
        else if s.inDec (clu * 2 ^ 23 + off) len then go s { m.out 2 with eff := true } 4
        else
          let x := { x with dec := some (clu, off, len), held := [] }
          let s := { s with mem := s.mem.write (x.decKey 0) (List.replicate x.area 0) }
          go (s.setSlot i x) { m with res := cmWord len 0 0 0, eff := true } (4 + x.area / 256)
      | .cmdecRel _ => go (s.setSlot i { x with dec := none, held := [] }) { m.out 0 with eff := true } 4
      | .cmpol _ => go s { m with res := cmWord x.policy 0 0 0 } 4
      | .cmstat e =>
        let clr := fiSub e % 2 == 1
        let g : Staged := { idx := 0, data := (x.cnt.toList.map (fun (w : Word) => leBytes w.toNat 8)).flatten }
        let s := if clr then s.setSlot i { x with cnt := Vector.replicate 8 0 } else s
        go s { m with staged := [g], res := cmWord (if clr then 0 else (x.cnt.toList.getD 0 0).toNat) 0 0 0, eff := true } 4
      | _ =>
        let r := m.run
        if r.phase == 0 then go { s with mem := s.mem.write (x.decKey 0) (List.replicate x.area 0) } (m.setRun {}) 0
        else if r.phase == 1 then go s { m with asks := 0 } 0
        else
          -- the replay asks for every missing block uncoded (R359)
          let fn := (s.ctxOf cr).fn.val
          let s := r.gone.foldl (fun (s : State) idx => s.tell (.request i (x.prong (isShuf ins) fn (x.srcOf (isShuf ins) idx).1 x.rank idx))) s
          go (s.setSlot i (x.count 4 r.gone.length)) ({ m with asks := 0 }.setRun { r with phase := 2, fall := r.fall + r.gone.length }) 0
/-- The start of any FI command. -/
def State.startFiAll (s : State) (cr : CoreId) (m : Cmd) : State := if isCoded m.ins then s.startCoded cr m else s.startFi cr m

/-- Another context of this node has claimed a slot: its `cmset` waits for the match (R345). -/
def State.claimed (s : State) (cr : CoreId) (i : Nat) : Bool :=
  let me := (s.ctxOf cr).serial
  let has (y : Ctx) : Bool := y.serial != me && 8 * y.fn.val == i / 8 * 8 && y.cmds.any (fun e => e.started && !e.done && !e.faulted && e.fail.isNone &&
    bits e.a.toNat 0 3 == i % 8 && (match e.ins with | .cmset _ => e.ext.headD 0 == 1 | _ => false))
  s.cores.toList.any (fun k => k.busy && has k.ctx) || s.saved.any (fun v => has v.ctx)
/-- The list entries of a `cmset` (R344) that its bytes hold. -/
def listEntries (bs : List Byte) (p : Nat) : List Nat := (List.range p).map (fun i => leNat ((bs.drop (4 * i)).take 4))
/-- The list of a `cmset` is read piece by piece: its entries with their ranks, and the first fault met (R345). -/
def State.listRead (s : State) (cr : CoreId) (b p : Nat) (ans : Answer) : State × List (Nat × Nat) × Option (TrapClass × Nat) :=
  (chunks b (4 * p)).foldl (fun (q : State × List (Nat × Nat) × Option (TrapClass × Nat)) ch =>
    let sub : Answer := match ans with | .ok bs => .ok (bs.drop (ch.1 - b)) | .fail f => .fail f
    match q.1.gReadVa cr ch.1 ch.2 sub cmPol with
    | (s, .ok bs) => (s, q.2.1 ++ (listEntries bs (ch.2 / 4)).zip ((List.range (ch.2 / 4)).map (· + (ch.1 - b) / 4)), q.2.2)
    | (s, .error e) => (s, q.2.1, if q.2.2.isNone then some e else q.2.2)) (s, [], none)
/-- A `cmset` reads its list and checks it, what can be read of it before what cannot (R345); a slot that is held or claimed on this
node then ends it with OUT = 1. -/
def State.cmsetList (s : State) (cr : CoreId) (m : Cmd) (ans : Answer) : State :=
  let a := m.a.toNat
  let b := m.b.toNat
  let p := bits a 8 6 + 1
  let i := s.cmSlot cr m
  let (s, ok) := s.cmReach cr m (tagOf 0 0) b (4 * p) .rd
  if !ok then s
  else
    let m := m.served (tagOf 0 0)
    let (s, es, bad) := s.listRead cr b p ans
    let nodes := es.map (fun e => bits e.1 0 12)
    let own := bits a 16 6
    if es.any (fun e => bits e.1 19 13 != 0) || !nodes.Nodup ||
       es.any (fun e => e.2 == own && !(bits e.1 0 12 == s.nodeId && bits e.1 12 7 == cr.val)) then s.fiFail cr m .illegal b false
    else if nodes.any (fun n => !s.reachable (s.ctxOf cr).fn.val n) then s.fiFail cr m .peer b false
    else match bad with
      | some (cls, ad) => s.fiFail cr m cls ad false
      | none =>
        if (s.slot i).owner.isSome || s.claimed cr i then s.complete cr { m with eff := true } (cmWord 0 0 0 1)
        else s.putCmd cr { m with ext := 1 :: es.map Prod.fst }
/-- R345: the event CMSET_MATCH, with the outcome that the participants' words have. -/
def execCmsetMatch (r : CmdRef) (out : Fin 3) (s : State) : Out :=
  .next (s.onCmd r (fun s m =>
    match m.ins, m.ext with
    | .cmset _, 1 :: l =>
      if m.fail.isSome || m.faulted || !m.started then s
      else
        let a := m.a.toNat
        let w := m.c.toNat
        let i := s.cmSlot r.core m
        let p := bits a 8 6 + 1
        let o := if (s.slot i).owner.isSome then 1 else out.val
        let s := if o != 0 then s else s.setSlot i
          { owner := some (r.core, (s.ctxOf r.core).ctxid), tag := bits a 32 16, p, k := bits w 8 16, z := bits w 0 3,
            sched := bits w 24 4, r := bits w 28 2 + 1, rank := bits a 16 6, list := l }
        s.complete r.core { m with eff := true } (cmWord (if o == 0 then p else 0) 0 0 o)
    | _, _ => s))

/-- The place a new copy takes (R348): a free one, else that of the least recently used copy, the lowest among equals. -/
def CSlot.takePlace (x : CSlot) : Nat × CSlot :=
  match (List.range x.places).find? (fun i => x.held.all (fun h => h.place != i)) with
  | some i => (i, x)
  | none =>
    let best := x.held.foldl (fun (b : Option Held) h =>
      match b with
      | none => some h
      | some g => if h.used < g.used || (h.used == g.used && h.place < g.place) then some h else some g) none
    match best with
    | some g => (g.place, { x with held := x.held.filter (fun h => h.id != g.id) }.count 6 1)
    | none => (0, x)
/-- Entries of the node's held-block table. -/
def State.heldCount (s : State) : Nat := s.slots.toList.foldl (fun n y => n + y.held.length) 0
/-- A `cmheld` processes its next entry (R349): the entry and its bytes are read, checked, copied and announced; `ext` names the
entries whose announcements the routers have not acknowledged. -/
def State.heldEntry (s : State) (cr : CoreId) (m : Cmd) (x : CSlot) (ans : Answer) : State :=
  let i := s.cmSlot cr m
  let ad := m.b.toNat + 16 * m.prog
  let (t1, t2) := (tagOf 0 m.prog, tagOf 1 m.prog)
  match s.cmRead cr m t1 ad 16 ans with
  | (s, none) => s
  | (s, some (.error (cls, ad))) => s.fiFail cr m cls ad false
  | (s, some (.ok e)) =>
    let id := leNat (e.take 4)
    let va := leNat ((e.drop 8).take 8)
    let sub : Answer := match ans with | .ok bs => .ok (bs.drop 16) | .fail f => .fail f
    match s.cmRead cr m t2 va (blockB x.z) sub with
    | (s, none) => s
    | (s, some (.error (cls, ad))) => s.fiFail cr m cls ad false
    | (s, some (.ok bs)) =>
      let m := (m.served t1).served t2
      if leNat ((e.drop 4).take 4) != 0 || va % 64 != 0 then s.fiFail cr m .illegal ad false
      else
        let next (s : State) (x : CSlot) (place : Nat) : State :=
          let x := { x with held := x.held.filter (fun h => h.id != id) ++ [{ id, place, used := s.now }] }
          let s := (s.store (x.placeKey place) bs).setSlot i x
          let s := s.tell (.announce { slot := Fin.ofNat 128 i, id, rank := x.rank, nodes := x.list.map (fun e => bits e 0 12) })
          s.putCmd cr { m with prog := m.prog + 1, res := m.res + 1, ext := m.ext ++ [m.prog] }
        match x.held.find? (fun h => h.id == id) with
        | some h => next s x h.place
        | none =>
          if 65536 ≤ s.heldCount then s.putCmd cr { m with prog := m.prog + 1 }
          else
            let (p, x) := x.takePlace
            next s x p

/- Gathering (R351 to R353). -/
/-- The address of a block of the own source, by its id. -/
def CSlot.ownSrc (x : CSlot) (shuf : Bool) (b id : Nat) : Nat :=
  if shuf then b + (id - x.rank * x.p * x.k) * blockB x.z else b + (id - x.rank * x.k) * blockB x.z
/-- Sends to other ranks (R351, R352). -/
def CSlot.nSends (x : CSlot) : Nat := (x.p - 1) * x.r * x.k
/-- The `n`-th send in the order of the schedule (R351): receiver, its copy `j`, block `k`; a `cmshuf` orders segments of K blocks in
place of blocks (R352). -/
def CSlot.sendAt (x : CSlot) (shuf : Bool) (n : Nat) : Nat × Nat × Nat :=
  let rcv (t : Nat) : Nat := (x.rank + t) % x.p
  if x.sched == 0 then (rcv (n / (x.r * x.k) + 1), n / x.k % x.r, n % x.k)
  else if shuf then (rcv (n / x.k % (x.p - 1) + 1), n / ((x.p - 1) * x.k), n % x.k)
  else (rcv (n % (x.p - 1) + 1), 0, n / (x.p - 1))
/-- The acknowledged-map index of a send: receiver `q`, its copy `j`, block `k`. -/
def CSlot.ackIx (x : CSlot) (q j k : Nat) : Nat := x.total + (q * x.r + j) * x.k + k
/-- Every own send has been acknowledged: those to other ranks (R353). -/
def State.allAcked (s : State) (x : CSlot) : Bool :=
  (List.range x.p).all (fun q => q == x.rank || (List.range (x.r * x.k)).all (fun i => s.mapBit x (x.total + q * x.r * x.k + i)))
def State.delivered (s : State) (x : CSlot) : List Nat := (List.range x.total).filter (fun i => s.mapBit x i)

/-- The first `cmgath` or `cmshuf` of an open slot's owner, on its core or saved, that `p` picks. -/
def State.gathOf (s : State) (i : Nat) (p : Cmd → Bool) : Option CmdRef :=
  match (s.slot i).owner with
  | none => none
  | some (c, id) =>
    let of (x : Ctx) : Option CmdRef :=
      if x.ctxid != id || x.fn.val != i / 8 then none
      else (x.cmds.find? (fun m => !m.done && !m.eff && (isShuf m.ins || isGath m.ins) && bits m.a.toNat 0 3 == i % 8 && p m)).map
        (fun m => { core := c, seq := m.seq.toNat, ctx := x.serial })
    match of (s.ctxOf c) with
    | some r => some r
    | none => s.saved.findSome? (fun v => if v.core == c then of v.ctx else none)
where
  isGath : Instr → Bool
    | .cmgath _ => true
    | _ => false
/-- The running coded command of an open slot. -/
def State.running (s : State) (i : Nat) : Option CmdRef := s.gathOf i (fun m => m.started && !m.faulted && m.fail.isNone)

/-- R353: the event CODED_BARRIER: every participant's command has started; sends begin. -/
def execCodedBarrier (r : CmdRef) (s : State) : Out :=
  .next (s.onCmd r (fun s m =>
    match s.mySlot r.core (s.cmSlot r.core m) with
    | none => s
    | some _ =>
      if !(isShuf m.ins || State.gathOf.isGath m.ins) || !m.started || m.eff || m.run.phase != 0 || m.fail.isSome then s
      else s.putCmd r.core (m.setRun { m.run with phase := 1 })))
/-- The next send of a running `cmgath` or `cmshuf` (R351 to R353): the block is read, and the packet leaves and is held. Bytes of a
source at another node are free values. A block acknowledged or held already is not sent again. -/
def State.codedSend (s : State) (cr : CoreId) (m : Cmd) (x : CSlot) : State :=
  let shuf := isShuf m.ins
  let n := m.asks
  let (q, j, k) := x.sendAt shuf n
  let idx := x.idxAt x.rank j k
  let i := s.cmSlot cr m
  let p := x.prong shuf (s.ctxOf cr).fn.val x.rank q idx
  if m.run.phase == 0 || x.nSends ≤ n || m.fail.isSome then s
  else if s.mapBit x (x.ackIx q j k) || s.sends.any (fun b => b.pkt.slot.val == i && b.rcv == q && b.j == j && b.k == k) then
    s.putCmd cr { m with asks := n + 1 }
  else
    let far := (List.range (blockB x.z)).map (Config.farByte s.free)
    match ({ s with free := s.free + 1 } : State).cmRead cr m (tagOf 2 n) (x.ownSrc shuf m.b.toNat p.id) (blockB x.z) (.ok far) with
    | (s, none) => s
    | (s, some (.error (cls, ad))) => s.fiFail cr m cls ad false
    | (s, some (.ok bs)) =>
      let m := m.served (tagOf 2 n)
      let pkt : CPkt := { slot := Fin.ofNat 128 i, p, codable := x.policy != 2, data := bs }
      let s : State := { s with sends := s.sends ++ [{ rcv := q, j, k, pkt }] }
      (s.tell (.block pkt)).putCmd cr { m with asks := n + 1 }

/-- A block is delivered (R353): discarded when it was before, else written, marked and counted; then its source is told, when it is
another rank. Until the write may take place the block waits in FI. -/
def State.deliver (s : State) (cr : CoreId) (m : Cmd) (x : CSlot) (idx : Nat) (bs : List Byte) : State :=
  let src := (x.srcOf (isShuf m.ins) idx).1
  let ack (s : State) : State :=
    if src == x.rank then s else s.tell (.ack (s.cmSlot cr m) (x.prong (isShuf m.ins) (s.ctxOf cr).fn.val src x.rank idx))
  let at_ := m.c.toNat + idx * blockB x.z
  if s.mapBit x idx then ack s
  else
    let (s, ok) := s.cmReach cr m (tagOf 3 idx) at_ (blockB x.z) .wr
    if !ok then
      s.onSeq cr m.seq (fun e => if e.staged.any (fun g => g.idx == idx) then e else { e with staged := e.staged ++ [{ idx, data := bs }] })
    else
    let m := { (m.served (tagOf 3 idx)).served (tagOf 1 idx) with staged := m.staged.filter (fun g => g.idx != idx) }
    let (s, f) := s.gWriteVa cr at_ bs (.ok []) cmPol
    match f with
    | some (cls, ad) => s.fiFail cr m cls ad false
    | none =>
      let s := s.setMap x idx
      let r := m.run
      ack (s.putCmd cr { m.setRun { r with gone := r.gone.filter (· != idx) } with prog := m.prog + 1, due := s.now })
/-- What `f` does with the first command of a slot that `p` picks. -/
def State.onGath (s : State) (i : Nat) (p : Cmd → Bool) (f : State → CoreId → Cmd → CSlot → State) : State :=
  match s.gathOf i p with
  | none => s
  | some r => s.onCmd r (fun s m => match s.mySlot r.core i with
    | some x => f s r.core m x
    | none => s)
/-- What `f` does with the running command of a slot whose sends have begun. -/
def State.onRun (s : State) (i : Nat) (f : State → CoreId → Cmd → CSlot → State) : State :=
  s.onGath i (fun m => m.started && !m.faulted && m.fail.isNone) (fun s cr m x => if m.run.phase == 0 then s else f s cr m x)
/-- R353: the event CODED_BLOCK_ARRIVE. A block of this node's own is read from its source. -/
def execCodedBlockArrive (b : CBlock) (s : State) : Out :=
  .next (s.onRun b.slot.val (fun s cr m x =>
    let (src, id) := x.srcOf (isShuf m.ins) b.idx
    if x.total ≤ b.idx || src != b.src || !(Answer.legal b.ans) then s
    else if src == x.rank then
      match s.cmRead cr m (tagOf 1 b.idx) (x.ownSrc (isShuf m.ins) m.b.toNat id) (blockB x.z) b.ans with
      | (s, none) => s
      | (s, some (.error (cls, ad))) => s.fiFail cr m cls ad false
      | (s, some (.ok bs)) => s.deliver cr m x b.idx bs
    else match b.ans with
      | .ok bs => s.deliver cr m x b.idx (padTo (blockB x.z) bs)
      | .fail cls => s.fiFail cr m cls (m.c.toNat + b.idx * blockB x.z) false))
/-- R353: the event BLOCK_ACK_ARRIVE at the source, which then holds the packet no more; the map keeps it also while the command stands
faulted or waits for its replay. -/
def execBlockAckArrive (a : CAck) (s : State) : Out :=
  .next (s.onGath a.slot.val (fun m => m.run.phase != 0) (fun s cr m x =>
    let isIt (b : CSend) : Bool := b.pkt.slot == a.slot && b.rcv == a.rcv && b.j == a.j && b.k == a.k
    if !(s.sends.any isIt) then s
    else
      let s := { s with sends := s.sends.filter (fun b => !isIt b) }.dropPkt (.block a.slot a.rcv (a.j * x.k + a.k))
      (s.setMap x (x.ackIx a.rcv a.j a.k)).putCmd cr { m with due := s.now }))
/-- R357: the event FALLBACK_REQUEST at the source, which answers with the packet it holds, uncoded; a resend of the answer is one too
(R358). -/
def execFallbackRequest (a : CAck) (s : State) : Out :=
  let isIt (b : CSend) : Bool := b.pkt.slot == a.slot && b.rcv == a.rcv && b.j == a.j && b.k == a.k
  match s.sends.find? isIt with
  | none => .next s
  | some b =>
    .next (({ s with sends := s.sends.map (fun b => if isIt b then { b with pkt := { b.pkt with answer := true } } else b) } : State).tell
      (.block { b.pkt with answer := true }))

/- Forks (R354 to R358). -/
def xorBytes (a b : List Byte) : List Byte := (a.zip b).map (fun p => p.1 ^^^ p.2)
/-- A decode miss (R357): an uncoded request for policies 0 and 2 and the first three misses, else the block is missing. -/
def State.decodeMiss (s : State) (cr : CoreId) (m : Cmd) (x : CSlot) (p : Prong) : State :=
  let i := s.cmSlot cr m
  let r := { m.run with miss := m.run.miss + 1 }
  let x := x.count 3 1
  if x.policy != 1 && r.miss ≤ 3 then
    ((s.setSlot i (x.count 4 1)).tell (.request i p)).putCmd cr (m.setRun { r with fall := r.fall + 1 })
  else (s.setSlot i x).putCmd cr (m.setRun { r with gone := r.gone.filter (· != p.idx) ++ [p.idx] })
/-- R356: the event FORK_COPY_ARRIVE. The copies of the other prongs are read once all are held; one with an uncorrectable error leaves
the table at that read (R348). -/
def execForkCopyArrive (f : ForkPkt) (s : State) : Out :=
  .next (s.onRun f.slot.val (fun s cr m x =>
    match f.prongs[f.own]? with
    | none => s
    | some p =>
      if p.rcv != x.rank || x.total ≤ p.idx then s
      else if s.mapBit x p.idx then (if f.trimmed then s else s.tell (.ack f.slot.val p))
      else if f.trimmed then
        let r := m.run
        ((s.setSlot f.slot.val ((x.count 4 1).count 5 1)).tell (.request f.slot.val p)).putCmd cr (m.setRun { r with fall := r.fall + 1 })
      else
        let x := x.count 2 1
        let others := (f.prongs.zip (List.range f.prongs.length)).filter (fun q => q.2 != f.own)
        let held := others.map (fun q => x.held.find? (fun h => h.id == q.1.id))
        if held.any Option.isNone then s.decodeMiss cr m x p
        else
          let hs := held.filterMap id
          match hs.find? (fun h => (eccHit s.ecc (x.placeKey h.place) (blockB x.z)).isSome) with
          | some h => s.decodeMiss cr m ({ x with held := x.held.filter (fun g => g.id != h.id) }.count 6 1) p
          | none =>
            let data := hs.foldl (fun d h => xorBytes d (s.mem.read (x.placeKey h.place) (blockB x.z))) (padTo (blockB x.z) f.data)
            let x := { x with held := x.held.map (fun h => if hs.contains h then { h with used := s.now } else h) }
            (s.setSlot f.slot.val x).deliver cr m x p.idx data))
/-- R359: the event CODED_SETTLE. -/
def execCodedSettle (r : CmdRef) (s : State) : Out :=
  .next (s.onCmd r (fun s m =>
    match s.mySlot r.core (s.cmSlot r.core m) with
    | none => s
    | some x =>
      let gone := m.run.gone
      if !(isShuf m.ins || State.gathOf.isGath m.ins) || !m.started || m.run.phase != 1 || m.fail.isSome || m.faulted || gone.isEmpty || !s.allAcked x ||
         (s.delivered x).length + gone.length != x.total then s
      else
        let first := gone.foldl (fun a i => min a i) (2 ^ 32)
        let (src, id) := x.srcOf (isShuf m.ins) first
        s.putCmd r.core { m.setRun { m.run with phase := 3 } with
          fail := some (.decodeMiss, m.c.toNat + first * blockB x.z, id + src * 2 ^ 32 + min 255 gone.length * 2 ^ 40) }))
/-- R363: the event CODED_TIMEOUT: FTMO has passed since the start, and since the last block, acknowledgement or match. -/
def execCodedTimeout (r : CmdRef) (s : State) : Out :=
  .next (s.onCmd r (fun s m =>
    if isCoded m.ins && m.started && !m.faulted && m.fail.isNone && max m.start m.due + 30 * s.ftmo ≤ s.now then
      s.fiFail r.core m .timeout m.a.toNat false
    else s))

/- The router (R312, R350, R354, R355). -/
/-- Ways in a dimension: none, + or -, from position `p` to `q` of a ring of `n`, inside a box of `ext + 1` from `first`. -/
def ringDir (p q n first ext : Nat) : Option Bool :=
  if p == q then none
  else if ext + 1 < n then some ((p + n - first) % n < (q + n - first) % n)
  else some ((q + n - p) % n ≤ (p + n - q) % n)
/-- The output a packet takes at node `a` toward node `b` (R312): 0 to 5 for +x, -x, +y, -y, +z, -z, 6 for delivery. -/
def State.outDir (s : State) (fn a b : Nat) : Nat :=
  let (nx, ny, nz) := s.dims
  let box := (s.func fn).pbox.toNat
  match ringDir (bits a 0 4) (bits b 0 4) nx (bits box 0 4) (bits box 16 4),
        ringDir (bits a 4 4) (bits b 4 4) ny (bits box 4 4) (bits box 20 4),
        ringDir (bits a 8 4) (bits b 8 4) nz (bits box 8 4) (bits box 24 4) with
  | some u, _, _ => if u then 0 else 1
  | none, some u, _ => if u then 2 else 3
  | none, none, some u => if u then 4 else 5
  | none, none, none => 6
/-- The node beyond an output. -/
def State.beyond (s : State) (a d : Nat) : Nat :=
  let (nx, ny, nz) := s.dims
  let (x, y, z) := (bits a 0 4, bits a 4 4, bits a 8 4)
  let up (p n : Nat) : Nat := (p + 1) % n
  let down (p n : Nat) : Nat := (p + n - 1) % n
  match d with
  | 0 => z * 256 + y * 16 + up x nx
  | 1 => z * 256 + y * 16 + down x nx
  | 2 => z * 256 + up y ny * 16 + x
  | 3 => z * 256 + down y ny * 16 + x
  | 4 => up z nz * 256 + y * 16 + x
  | 5 => down z nz * 256 + y * 16 + x
  | _ => a
/-- The nodes of a dimension-order route, both ends among them (R312). -/
def State.route (s : State) (fn a b : Nat) : Nat → List Nat
  | 0 => [a]
  | n + 1 => if a == b then [a] else a :: s.route fn (s.beyond a (s.outDir fn a b)) b n
/-- The output link of this node that a packet takes, 6 for delivery (R312). -/
def State.outOf (s : State) (p : CPkt) : Nat := s.outDir p.p.fn s.nodeId p.p.dst
/-- The conditions of R354 on packets queued for one output link. -/
def State.codable (s : State) (ps : List CPkt) : Bool :=
  let outs := ps.map s.outOf
  let nextOuts := ps.map (fun p => s.outDir p.p.fn (s.beyond s.nodeId (s.outDir p.p.fn s.nodeId p.p.dst)) p.p.dst)
  let ix := ps.zip (List.range ps.length)
  ps.all (fun p => p.codable && !p.trimmed && !p.copy && !p.answer && ps.all (fun q => q.slot == p.slot && q.data.length == p.data.length)) &&
    outs.all (fun o => o != 6 && outs.headD 6 == o) && nextOuts.Nodup &&
    ix.all (fun a => ix.all (fun b => a.2 == b.2 || s.sideInfo.contains (b.1.slot.val, b.1.p.id, a.1.p.rcv)))
/-- The packets that the coder joins (R354): the oldest codable one of the queue, then in queue order each with which the conditions
still hold, up to three. -/
def State.pickFork (s : State) (q : List CPkt) : List CPkt :=
  match q.dropWhile (fun p => !(s.codable [p])) with
  | [] => []
  | p :: r => r.foldl (fun ps x => if ps.length < 3 && s.codable (ps ++ [x]) then ps ++ [x] else ps) [p]
/-- A fork packet of packets (R355): their prongs, and the exclusive-or of their payloads. -/
def forkOf (ps : List CPkt) : Option ForkPkt :=
  match ps with
  | [] => none
  | p :: r => some { slot := p.slot, prongs := ps.map CPkt.p, data := r.foldl (fun d x => xorBytes d x.data) p.data }
/-- R354, R355: the event ROUTER_FORK for the packets queued for the output link `o` of this node, oldest first. -/
def execRouterFork (o : Fin 6) (q : List CPkt) (s : State) : Out :=
  let ps := s.pickFork (q.filter (fun p => s.outOf p == o.val))
  match forkOf ps with
  | none => .next s
  | some f =>
    if ps.length < 2 then .next s
    else
      let i := f.slot.val
      let x := s.slot i
      .next ((if x.owner.isSome then s.setSlot i ((x.count 0 1).count 1 (ps.length - 1)) else s).tell (.fork f))
/-- R355, R358: the event FORK_SPLIT at the next router: the copies for other nodes go on, trimmed ones as trimmed headers; the copy for
this node arrives. -/
def execForkSplit (f : ForkPkt) (s : State) : Out :=
  let ix := (List.range f.prongs.length).filterMap (fun i => (f.prongs[i]?).map (fun p => (i, p)))
  let s := (ix.filter (fun p => p.2.dst != s.nodeId)).foldl (fun (s : State) p => s.tell (.fork { f with own := p.1 })) s
  match ix.find? (fun p => p.2.dst == s.nodeId) with
  | some p => execForkCopyArrive { f with own := p.1 } s
  | none => .next s
/-- The routers that store an announcement (R350). -/
def State.stores (s : State) (a : Ann) : Bool :=
  let q := a.nodes.getD a.rank 0
  q != s.nodeId && a.nodes.any (fun n => (s.route (a.slot.val / 8) n q 48).contains s.nodeId)
/-- R350: the event ANNOUNCE_STORE, at a router of the announcement's routes. -/
def execAnnounceStore (a : Ann) (s : State) : Out :=
  let i := a.slot.val
  let e := (i, a.id, a.rank)
  let x := s.slot i
  if !s.stores a then .next s
  else if s.sideInfo.contains e then .next (s.tell (.taken i a.rank))
  else if 4096 ≤ (s.sideInfo.filter (fun y => y.1 == i)).length then
    .next ((if x.owner.isSome then s.setSlot i (x.count 7 1) else s).tell (.taken i a.rank))
  else .next ({ s with sideInfo := s.sideInfo ++ [e] }.tell (.taken i a.rank))
/-- R346, R349, R350: the event ANNOUNCEMENT_WITHDRAW of a rank's declarations. -/
def execAnnouncementWithdraw (slot : Fin 128) (rank : Nat) (s : State) : Out :=
  .next ({ s with sideInfo := s.sideInfo.filter (fun y => !(y.1 == slot.val && y.2.2 == rank)) }.tell (.taken slot.val rank))

/-- An answer for a coded command: the bytes of its list or of its next entry, or the routers' acknowledgement, which for a `cmheld` is
that of the entry named (R345, R346, R349) and counts also while the command stands faulted. -/
def State.codedAnswer (s : State) (cr : CoreId) (m : Cmd) (idx : Nat) (ans : Answer) : State :=
  let i := s.cmSlot cr m
  let heldAck := (match m.ins with | .cmheld _ => m.ext.contains idx | _ => false)
  if !(Answer.legal ans) then s
  else if heldAck && (!m.started || m.faulted || m.fail.isSome) then s.putCmd cr { m with ext := m.ext.filter (· != idx) }
  else if !m.started || m.faulted || m.fail.isSome then s
  else if m.eff then
    (if s.now < m.due then s
     else (m.staged.foldl (fun (s : State) g => s.bufStore cr .ab ((s.ctxOf cr).wrapOff .ab m.b.toNat m.b.toNat) g.data) s).complete cr m m.res)
  else match m.ins with
    | .cmset _ => if m.ext.isEmpty then s.cmsetList cr m ans else s
    | .cmsetClose _ => s
    | .cmheldClr _ => s.complete cr { m with eff := true } m.res
    | .cmheld _ =>
      match s.mySlot cr i with
      | none => s
      | some x =>
        if m.ext.contains idx then
          let m := { m with ext := m.ext.filter (· != idx), due := s.now }
          if bits m.c.toNat 0 32 ≤ m.prog && m.ext.isEmpty then s.complete cr m (cmWord m.res.toNat 0 0 0) else s.putCmd cr m
        else if bits m.c.toNat 0 32 ≤ m.prog then (if m.ext.isEmpty then s.complete cr m (cmWord m.res.toNat 0 0 0) else s)
        else if idx == m.prog then s.heldEntry cr m x ans
        else s
    | .cmpol _ =>
      if s.now < m.due then s
      else match s.mySlot cr i with
        | some x => (s.setSlot i { x with policy := bits m.a.toNat 8 2 }).complete cr { m with eff := true } m.res
        | none => s
    | _ =>
      match s.mySlot cr i with
      | none => s
      | some x =>
        if m.run.phase == 0 || (s.delivered x).length != x.total || !s.allAcked x then s
        else s.complete cr m (cmWord x.total m.run.fall m.run.miss 0)
/-- R321: the event FI_RESPONSE_ARRIVE. -/
def execFiResponseArrive (x : FiAns) (s : State) : Out :=
  match x with
  | .cmd a =>
    let r : CmdRef := { core := a.core, seq := a.seq, ctx := a.ctx }
    match s.cmd? r with
    | some m => if isCoded m.ins then .next (s.codedAnswer a.core m a.idx a.ans) else s.fiResponse x
    | none => .next (s.onCmd r (fun s m => if isCoded m.ins then s.codedAnswer a.core m a.idx a.ans else s))
  | _ => s.fiResponse x

end Sys2Proof.Machine
end

