-- ==== Sys2Proof/Machine/Crypto.lean ====
section
/-! DEFINITION. The published algorithms that the spec names for images, reports and sealed contexts: SHA-512 and HKDF,
AES-256-GCM, and ECDSA over P-521 (R421, R455, R457, R458). The spec gives their names; their definitions are those of
FIPS 180-4, RFC 5869, FIPS 197, SP 800-38D, FIPS 186-4 and SEC 1 (log entry 34). -/

namespace Sys2Proof.Machine

/-- Big-endian value of bytes. -/
def beNat (bs : List Byte) : Nat := bs.foldl (fun a (b : Byte) => a * 256 + b.toNat) 0
/-- The `n` bytes of a value, highest first. -/
def beBytes (v n : Nat) : List Byte := (leBytes v n).reverse

/- SHA-512. -/
/-- Round constants. -/
def shaK : List (BitVec 64) :=
  [0x428A2F98D728AE22, 0x7137449123EF65CD, 0xB5C0FBCFEC4D3B2F, 0xE9B5DBA58189DBBC, 0x3956C25BF348B538, 0x59F111F1B605D019, 0x923F82A4AF194F9B, 0xAB1C5ED5DA6D8118] ++
  [0xD807AA98A3030242, 0x12835B0145706FBE, 0x243185BE4EE4B28C, 0x550C7DC3D5FFB4E2, 0x72BE5D74F27B896F, 0x80DEB1FE3B1696B1, 0x9BDC06A725C71235, 0xC19BF174CF692694] ++
  [0xE49B69C19EF14AD2, 0xEFBE4786384F25E3, 0x0FC19DC68B8CD5B5, 0x240CA1CC77AC9C65, 0x2DE92C6F592B0275, 0x4A7484AA6EA6E483, 0x5CB0A9DCBD41FBD4, 0x76F988DA831153B5] ++
  [0x983E5152EE66DFAB, 0xA831C66D2DB43210, 0xB00327C898FB213F, 0xBF597FC7BEEF0EE4, 0xC6E00BF33DA88FC2, 0xD5A79147930AA725, 0x06CA6351E003826F, 0x142929670A0E6E70] ++
  [0x27B70A8546D22FFC, 0x2E1B21385C26C926, 0x4D2C6DFC5AC42AED, 0x53380D139D95B3DF, 0x650A73548BAF63DE, 0x766A0ABB3C77B2A8, 0x81C2C92E47EDAEE6, 0x92722C851482353B] ++
  [0xA2BFE8A14CF10364, 0xA81A664BBC423001, 0xC24B8B70D0F89791, 0xC76C51A30654BE30, 0xD192E819D6EF5218, 0xD69906245565A910, 0xF40E35855771202A, 0x106AA07032BBD1B8] ++
  [0x19A4C116B8D2D0C8, 0x1E376C085141AB53, 0x2748774CDF8EEB99, 0x34B0BCB5E19B48A8, 0x391C0CB3C5C95A63, 0x4ED8AA4AE3418ACB, 0x5B9CCA4F7763E373, 0x682E6FF3D6B2B8A3] ++
  [0x748F82EE5DEFB2FC, 0x78A5636F43172F60, 0x84C87814A1F0AB72, 0x8CC702081A6439EC, 0x90BEFFFA23631E28, 0xA4506CEBDE82BDE9, 0xBEF9A3F7B2C67915, 0xC67178F2E372532B] ++
  [0xCA273ECEEA26619C, 0xD186B8C721C0C207, 0xEADA7DD6CDE0EB1E, 0xF57D4F7FEE6ED178, 0x06F067AA72176FBA, 0x0A637DC5A2C898A6, 0x113F9804BEF90DAE, 0x1B710B35131C471B] ++
  [0x28DB77F523047D84, 0x32CAAB7B40C72493, 0x3C9EBE0A15C9BEBC, 0x431D67C49C100D4C, 0x4CC5D4BECB3E42B6, 0x597F299CFC657E2A, 0x5FCB6FAB3AD6FAEC, 0x6C44198C4A475817]
/-- Initial hash value. -/
def shaH : List (BitVec 64) :=
  [0x6A09E667F3BCC908, 0xBB67AE8584CAA73B, 0x3C6EF372FE94F82B, 0xA54FF53A5F1D36F1, 0x510E527FADE682D1, 0x9B05688C2B3E6C1F, 0x1F83D9ABFB41BD6B, 0x5BE0CD19137E2179]
def shaS (a b c : Nat) (x : BitVec 64) : BitVec 64 := x.rotateRight a ^^^ x.rotateRight b ^^^ x.rotateRight c
def shaT (a b c : Nat) (x : BitVec 64) : BitVec 64 := x.rotateRight a ^^^ x.rotateRight b ^^^ (x >>> c)
/-- The message schedule of a block of 16 words. -/
def shaW (blk : List (BitVec 64)) : List (BitVec 64) :=
  (List.range 64).foldl (fun w t =>
    w ++ [shaT 19 61 6 (w.getD (t + 14) 0) + w.getD (t + 9) 0 + shaT 1 8 7 (w.getD (t + 1) 0) + w.getD t 0]) blk
/-- One block. -/
def shaBlock (h blk : List (BitVec 64)) : List (BitVec 64) :=
  let r := ((shaW blk).zip shaK).foldl (fun (v : List (BitVec 64)) wk =>
    match v with
    | [a, b, c, d, e, f, g, hh] =>
      let t1 := hh + shaS 14 18 41 e + ((e &&& f) ^^^ (~~~e &&& g)) + wk.2 + wk.1
      let t2 := shaS 28 34 39 a + ((a &&& b) ^^^ (a &&& c) ^^^ (b &&& c))
      [t1 + t2, a, b, c, d + t1, e, f, g]
    | _ => v) h
  (h.zip r).map (fun p => p.1 + p.2)
/-- SHA-512 of a message of bytes. -/
def sha512 (m : List Byte) : List Byte :=
  let z := (239 - m.length % 128) % 128
  let p := m ++ [0x80#8] ++ List.replicate z 0 ++ beBytes (8 * m.length) 16
  let blks := (List.range (p.length / 128)).map (fun i =>
    (List.range 16).map (fun j => BitVec.ofNat 64 (beNat ((p.drop (128 * i + 8 * j)).take 8))))
  ((blks.foldl shaBlock shaH).map (fun (w : BitVec 64) => beBytes w.toNat 8)).flatten
/-- HMAC with SHA-512. -/
def hmac512 (k m : List Byte) : List Byte :=
  let k := if 128 < k.length then sha512 k else k
  let k := k ++ List.replicate (128 - k.length) 0
  sha512 (k.map (fun b => b ^^^ 0x5C#8) ++ sha512 (k.map (fun b => b ^^^ 0x36#8) ++ m))
/-- HKDF with SHA-512, to 32 bytes. -/
def hkdf32 (salt ikm info : List Byte) : List Byte := (hmac512 (hmac512 salt ikm) (info ++ [1#8])).take 32

/- AES-256. -/
def xtime (a : Byte) : Byte := (a <<< 1) ^^^ (if a.getLsbD 7 then 0x1B#8 else 0#8)
def gmul (a b : Byte) : Byte :=
  ((List.range 8).foldl (fun (p : Byte × Byte) i => (if b.getLsbD i then p.1 ^^^ p.2 else p.1, xtime p.2)) (0#8, a)).1
/-- The S-box: the inverse `a^254`, then the affine map. -/
def sbox (a : Byte) : Byte :=
  let a2 := gmul a a
  let a4 := gmul a2 a2
  let a8 := gmul a4 a4
  let a16 := gmul a8 a8
  let a32 := gmul a16 a16
  let a64 := gmul a32 a32
  let a128 := gmul a64 a64
  let i := gmul a128 (gmul a64 (gmul a32 (gmul a16 (gmul a8 (gmul a4 a2)))))
  i ^^^ i.rotateLeft 1 ^^^ i.rotateLeft 2 ^^^ i.rotateLeft 3 ^^^ i.rotateLeft 4 ^^^ 0x63#8
def xorB (a b : List Byte) : List Byte := (a.zip b).map (fun p => p.1 ^^^ p.2)
/-- The 60 words of the key schedule. -/
def aesKeys (key : List Byte) : List (List Byte) :=
  let w0 := (List.range 8).map (fun i => (key.drop (4 * i)).take 4)
  (List.range 52).foldl (fun w k =>
    let i := k + 8
    let t := w.getD (i - 1) []
    let t := if i % 8 == 0 then xorB ((t.rotateLeft 1).map sbox) [(List.range (i / 8 - 1)).foldl (fun r _ => xtime r) 1#8, 0, 0, 0]
      else if i % 8 == 4 then t.map sbox else t
    w ++ [xorB (w.getD (i - 8) []) t]) w0
def mixCol (c : List Byte) : List Byte :=
  match c with
  | [a, b, c, d] =>
    [gmul a 2 ^^^ gmul b 3 ^^^ c ^^^ d, a ^^^ gmul b 2 ^^^ gmul c 3 ^^^ d, a ^^^ b ^^^ gmul c 2 ^^^ gmul d 3, gmul a 3 ^^^ b ^^^ c ^^^ gmul d 2]
  | _ => c
/-- One block of 16 bytes under a key of 32. -/
def aes256 (key blk : List Byte) : List Byte :=
  let w := aesKeys key
  let rk (r : Nat) : List Byte := ((w.drop (4 * r)).take 4).flatten
  let sub (s : List Byte) : List Byte := (List.range 16).map (fun i => sbox (s.getD ((i + 4 * (i % 4)) % 16) 0))
  let mix (s : List Byte) : List Byte := ((List.range 4).map (fun c => mixCol ((s.drop (4 * c)).take 4))).flatten
  let s := (List.range 13).foldl (fun s r => xorB (mix (sub s)) (rk (r + 1))) (xorB blk (rk 0))
  xorB (sub s) (rk 14)

/- GCM with a 12-byte IV. -/
/-- The product of GHASH; bit 127 is the coefficient of 1. -/
def ghMul (x y : Nat) : Nat :=
  ((List.range 128).foldl (fun (p : Nat × Nat) i =>
    (if x.testBit (127 - i) then p.1 ^^^ p.2 else p.1, if p.2 % 2 == 1 then (p.2 / 2) ^^^ (0xE1 * 2 ^ 120) else p.2 / 2)) (0, y)).1
/-- Blocks of 16 bytes, the last filled with zeros. -/
def blocks16 (bs : List Byte) : List (List Byte) :=
  (List.range ((bs.length + 15) / 16)).map (fun i => let b := (bs.drop (16 * i)).take 16; b ++ List.replicate (16 - b.length) 0)
/-- GHASH of the ciphertext with no additional data. -/
def ghash (h : Nat) (ct : List Byte) : Nat :=
  let y := (blocks16 ct).foldl (fun y b => ghMul (y ^^^ beNat b) h) 0
  ghMul (y ^^^ (8 * ct.length)) h
/-- The key stream XORed over bytes: encryption and decryption alike. -/
def gcmCrypt (key iv bs : List Byte) : List Byte :=
  ((List.range ((bs.length + 15) / 16)).map (fun i => xorB ((bs.drop (16 * i)).take 16) (aes256 key (iv ++ beBytes (i + 2) 4)))).flatten
/-- The 16-byte tag of a ciphertext. -/
def gcmTag (key iv ct : List Byte) : List Byte :=
  xorB (beBytes (ghash (beNat (aes256 key (List.replicate 16 0))) ct) 16) (aes256 key (iv ++ beBytes 1 4))

/- P-521. -/
def p521 : Nat := 2 ^ 521 - 1
def p521n : Nat :=
  2 ^ 521 - 2 ^ 260 + 0xA51868783BF2F966B7FCC0148F709A5D03BB5C9B8899C47AEBB6FB71E91386409
def p521b : Nat :=
  0x51953EB9618E1C9A1F929A21A0B68540EEA2DA725B99B315F3B8B489918EF109E156193951EC7E937B1652C0BD3BB1BF073573DF883D2C34F1EF451FD46B503F00
def p521x : Nat :=
  0xC6858E06B70404E9CD9E3ECB662395B4429C648139053FB521F828AF606B4D3DBAA14B5E77EFE75928FE1DC127A2FFA8DE3348B3C1856A429BF97E7E31C2E5BD66
def p521y : Nat :=
  0x11839296A789A3BC0045C8A5FB42C7D1BD998F54449579B446817AFBD17273E662C97EE72995EF42640C550B9013FAD0761353C7086A272C24088BE94769FD16650
/-- `b^e mod m`, `e` below `2^n`. -/
def powMod (b e m : Nat) : Nat → Nat
  | 0 => 1 % m
  | n + 1 => if e == 0 then 1 % m else let h := powMod (b * b % m) (e / 2) m n; if e % 2 == 1 then b * h % m else h
/-- The inverse modulo a prime of 521 bits. -/
def invMod (a m : Nat) : Nat := powMod a (m - 2) m 521
/-- Addition on the curve; `none` is the point at infinity. -/
def ecAdd (p q : Option (Nat × Nat)) : Option (Nat × Nat) :=
  match p, q with
  | none, q => q
  | p, none => p
  | some (x1, y1), some (x2, y2) =>
    let m := p521
    if x1 == x2 && (y1 + y2) % m == 0 then none
    else
      let l := if x1 == x2 then (3 * x1 * x1 + m - 3) % m * invMod (2 * y1 % m) m % m
        else (y2 + m - y1) % m * invMod ((x2 + m - x1) % m) m % m
      let x := (l * l + 2 * m - x1 - x2) % m
      some (x, (l * ((x1 + m - x) % m) + m - y1) % m)
def ecMul (k : Nat) (p : Option (Nat × Nat)) : Nat → Option (Nat × Nat)
  | 0 => none
  | n + 1 => let r := ecMul (k / 2) (ecAdd p p) n; if k % 2 == 1 then ecAdd p r else r
/-- A SEC1 uncompressed point on the curve (R458). -/
def sec1 (key : List Byte) : Option (Nat × Nat) :=
  let x := beNat ((key.drop 1).take 66)
  let y := beNat ((key.drop 67).take 66)
  if key.length == 133 && key.headD 0 == 4 && x < p521 && y < p521 && (y * y + 3 * x) % p521 == (x * x * x + p521b) % p521 then some (x, y)
  else none
def sec1Of (p : Option (Nat × Nat)) : List Byte :=
  match p with | some (x, y) => [4#8] ++ beBytes x 66 ++ beBytes y 66 | none => List.replicate 133 0
/-- An ECDSA signature of 132 bytes over a SHA-512 digest verifies under a public key. -/
def ecdsaOk (key digest sig : List Byte) : Bool :=
  let r := beNat (sig.take 66)
  let s := beNat ((sig.drop 66).take 66)
  match sec1 key with
  | none => false
  | some q =>
    if sig.length != 132 || r == 0 || s == 0 || p521n ≤ r || p521n ≤ s then false
    else
      let w := invMod s p521n
      let e := beNat digest
      match ecAdd (ecMul (e * w % p521n) (some (p521x, p521y)) 521) (ecMul (r * w % p521n) (some q) 521) with
      | none => false
      | some (x, _) => x % p521n == r
/-- An ECDSA signature of a SHA-512 digest by a private key, with a nonce: r then s, 66 bytes each, big-endian. -/
def ecdsaSign (d k : Nat) (digest : List Byte) : List Byte :=
  let r := match ecMul (k % p521n) (some (p521x, p521y)) 521 with | some (x, _) => x % p521n | none => 0
  beBytes r 66 ++ beBytes (invMod (k % p521n) p521n * ((beNat digest + r * d) % p521n) % p521n) 66
/-- The public key of a private one, and the shared secret of ECDH, big-endian. -/
def ecPub (d : Nat) : List Byte := sec1Of (ecMul (d % p521n) (some (p521x, p521y)) 521)
def ecdh (d : Nat) (key : List Byte) : List Byte :=
  match sec1 key with
  | none => []
  | some q => match ecMul (d % p521n) (some q) 521 with | some (x, _) => beBytes x 66 | none => []

end Sys2Proof.Machine
end

