-- ==== Sys2Proof/Machine/Image.lean ====
section
/-! DEFINITION. Control registers as they read (R424, R432), the context image (R417 to R419), its loading (R427), and the
dump (R428, R442). -/

namespace Sys2Proof.Machine

/- Registers. -/
/-- CTXID (R371). -/
def Ctx.ctxidWord (x : Ctx) : Nat := x.ctxid.toNat + x.lq.val * 2 ^ 32 + x.fn.val * 2 ^ 38 + x.pri.val * 2 ^ 42
/-- FUNC (R424). -/
def State.funcWord (s : State) (fn : Nat) : Nat :=
  let w := (s.func fn).flags.toNat
  fn + bits w 0 9 * 2 ^ 16 + bits w 16 10 * 2 ^ 25
/-- PIPCNT (R245). -/
def Ctx.pipWord (x : Ctx) : Nat := x.pipcnt + b2n (x.sa.sat || x.va.sat) * 2 ^ 63
/-- A control register as it reads for a context of a core; `none` for a number that names none. -/
def State.regRead (s : State) (k : Core) (x : Ctx) (n : Nat) : Option Word :=
  match n with
  | 0x000 => some x.status | 0x001 => some x.trapvec | 0x002 => some x.trapinfo | 0x003 => some (BitVec.ofNat 64 x.ctxidWord)
  | 0x004 => some (BitVec.ofNat 64 (s.funcWord x.fn.val)) | 0x005 => some x.fpstatNow | 0x006 => some x.sp | 0x007 => some x.ttb
  | 0x008 => some (loopst x.loops) | 0x009 => some x.flgext | 0x00A => some x.inbox | 0x00B => some (if x.act then 1 else 0)
  | 0x00C => some x.smstatNow | 0x00D => some (x.smamNow false) | 0x00E => some (x.smamNow true) | 0x00F => some x.mstat
  | 0x010 => some (BitVec.ofNat 64 x.pipWord) | 0x011 => some x.chstat | 0x012 => some x.xstat | 0x013 => some x.fistat
  | 0x014 => some x.dumpstat | 0x015 => some (BitVec.ofNat 64 s.rtc)
  | 0x088 => some k.bphit | 0x090 => some k.trctl | 0x091 => some k.trbase | 0x092 => some k.trptr
  | 0x0A0 => some x.cyc | 0x0A1 => some x.nrg
  | n =>
    if 0x020 ≤ n && n < 0x030 then some ((x.wfmt.toList.getD (n - 0x020) 0).setWidth 64)
    else if 0x030 ≤ n && n < 0x040 then some ((x.afmt.toList.getD (n - 0x030) 0).setWidth 64)
    else if 0x040 ≤ n && n < 0x048 then x.xmaps[n - 0x040]?
    else if 0x080 ≤ n && n < 0x084 then k.bpc[n - 0x080]?
    else if 0x084 ≤ n && n < 0x088 then k.bpv[n - 0x084]?
    else none

/- Sections of an image (R417, R418). -/
def wordBytes (w : Word) : List Byte := leBytes w.toNat 8
/-- The live regions; all of WB, AB and CB count as three. -/
def Ctx.regions (x : Ctx) : List Rng :=
  if x.liveBuf then [Space.wb, .ab, .cb].map (fun sp => { buf := sp, lo := 0, hi := Space.size sp }) else x.liveR
def spCode : Space → Nat
  | .g => 0 | .wb => 1 | .ab => 2 | .cb => 3 | .jb => 4
/-- A region's descriptor: space, offset, length (log entry 35). -/
def Rng.desc (r : Rng) : List Byte := leBytes (spCode r.buf) 4 ++ leBytes r.lo 4 ++ leBytes (r.hi - r.lo) 4 ++ leBytes 0 4
/-- A main-file register as a save keeps it (R125). -/
def Ctx.keptS (x : Ctx) (full : Bool) (i : Nat) : Word := if full || x.liveS.getLsbD i then x.s.toList.getD i 0 else 0
/-- Section 0 (R418); `full` for a dump, which ignores `live`. -/
def State.seqSection (s : State) (k : Core) (x : Ctx) (full : Bool) : List Byte :=
  padTo 0x200 (((List.range 63).map (fun i => wordBytes (x.keptS full (i + 1)))).flatten) ++
  (x.o.toList.map wordBytes).flatten ++ (x.lx.toList.map wordBytes).flatten ++
  leBytes (predByte x) 8 ++ wordBytes x.sp ++ loopBytes x.loops ++ leBytes (loopst x.loops).toNat 8 ++
  xferBytes x.xfer ++ leBytes x.liveS.toNat 8 ++ leBytes x.liveT.toNat 8 ++ leBytes 0 8 ++
  padTo 0x80 ((x.regions.map Rng.desc).flatten) ++ leBytes x.setmap.toNat 64 ++
  ((List.range 0x40).map (fun n => wordBytes ((s.regRead k x n).getD 0))).flatten ++
  (x.xmaps.toList.map wordBytes).flatten ++
  (x.joins.toList.map (fun (j : JoinCtr) =>
    leBytes (j.pend + j.ok * 2 ^ 10 + j.flt * 2 ^ 20 + j.kill * 2 ^ 30 + j.first.toNat * 2 ^ 96) 16)).flatten ++ leBytes 0 256
/-- What section 1 does not hold of a result: no latch, squashable, landed, flags (log entry 30). -/
def extraBits (f : Flight) : Nat :=
  b2n (!f.latch) + b2n f.sq * 2 + b2n f.landed * 4 + f.flags.toNat * 8 + f.sm.toNat * 512 +
    (match f.am with | some r => 2 ^ 12 + r.val * 2 ^ 13 | none => 0) + b2n f.row.isSome * 2 ^ 20
def ofExtra (e : Nat) : Flight :=
  { fin := 0, code := 0, slot := .a, val := 0, row := if bit e 20 then some 0 else none,
    latch := !bit e 0, sq := bit e 1, landed := bit e 2, flags := BitVec.ofNat 6 (bits e 3 6),
    sm := BitVec.ofNat 3 (bits e 9 3), am := if bit e 12 then some (Fin.ofNat 128 (bits e 13 7)) else none }
/-- Section 2 (R417): 128 bytes of pending and faulted tokens, the wait and the `join` counters, then a record for each failure
not yet taken, then what section 1 does not hold of each result (log entry 35). -/
def Ctx.waitSection (x : Ctx) (t0 : Nat) : List Byte :=
  let tokBits (ts : List Tok) : Nat := ts.foldl (fun a (t : Tok) => a ||| 2 ^ t.val) 0
  let w := match x.wait with
    | none => leBytes 0 80
    | some w =>
      padTo 32 ((w.conds.map wordBytes).flatten) ++ leBytes (w.deadline - t0) 8 ++
        leBytes (w.conds.length + b2n w.all * 8 + b2n w.tt * 16 + 32 + sCode w.d * 2 ^ 8 + w.seq.toNat * 2 ^ 32) 8 ++
        wordBytes w.pc ++ wordBytes w.syl ++ leBytes (t0 - w.start) 8 ++ leBytes 0 8
  let j := (List.range 16).map (fun i => match x.joinTok.find? (fun p => p.1 == i) with
    | some (_, t, st) => BitVec.ofNat 8 (t.val + b2n st * 64 + 128)
    | none => 0)
  padTo 128 (leBytes (tokBits x.toks) 8 ++ leBytes (tokBits ((x.pend.filter (fun p => p.tok != 0)).map Pend.tok)) 8 ++ w ++ j ++
    leBytes x.pend.length 8 ++ leBytes (b2n x.popsLoops + b2n (x.endOnly || x.ended.isSome) * 2) 8) ++
  (x.pend.map (fun (p : Pend) =>
    leBytes (TrapClass.code p.cls + Slot.num p.slot * 2 ^ 8 + p.tok.val * 2 ^ 16 + p.oc * 2 ^ 24 + b2n p.store * 2 ^ 31) 8 ++
      wordBytes p.pc ++ leBytes p.seq 8 ++ leBytes p.addr 8 ++ wordBytes p.syl ++ leBytes (p.due - t0) 8 ++ leBytes 0 16)).flatten ++
  ((frameOrder x.flight).map (fun f => leBytes (extraBits f) 8)).flatten
/-- A tile's 4 KiB. -/
def Ctx.tile (x : Ctx) (t : Nat) : List Byte :=
  ((List.range 8).map (fun r => leBytes (x.rows.toList.getD (8 * t + r) 0).toNat 512)).flatten
/-- Banks 0 and 1 (R218). -/
def Ctx.tables (x : Ctx) : List Byte := (x.tab.toList.map (fun (e : BitVec 32) => leBytes e.toNat 4)).flatten
/-- Pages of JB that an image holds (R419). -/
def Ctx.pages (x : Ctx) : BitVec 64 := x.jbPages ||| 0xFF
def pageList (m : BitVec 64) : List Nat := (List.range 64).filter (fun i => m.getLsbD i)
def State.jbSection (s : State) (c : CoreId) (m : BitVec 64) : List Byte :=
  leBytes m.toNat 8 ++ ((pageList m).map (fun p => s.bufLoad c .jb (4096 * p) 4096)).flatten
def etyCode (t : ETy) : Nat := [ETy.f32, .f16, .bf16, .f8a, .f8b, .lg6, .i32, .n32, .i8, .n8, .i4, .n4].findIdx (· == t)
/-- Sections 7 and 8: the cells, the configuration, the counter record (R442); an image also holds the shape. -/
def Arr.section (a : Arr) (seq : Nat) (shape : Bool) : List Byte :=
  ((List.range 128).map (fun i => padTo 512 (((a.cells.getD i []).map (fun (c : Cell) =>
    leBytes (bits c.enc 0 16 + bits c.e8 0 8 * 2 ^ 16 + bits c.idx 0 4 * 2 ^ 24) 4)).flatten))).flatten ++
  padTo 64 (leBytes (a.gw + b2n a.ftz * 4 + b2n a.pw * 8) 8 ++
    (if shape then leBytes (b2n a.sh.valid + b2n a.sh.bs * 2 + etyCode a.sh.ty * 2 ^ 4 + a.sh.pat * 2 ^ 8 + a.sh.kc * 2 ^ 16 + a.sh.n * 2 ^ 32) 8 else [])) ++
  a.record seq
/-- Section 10 (R417). -/
def State.linkSection (s : State) (c : CoreId) (x : Ctx) : List Byte :=
  (x.lbufs.toList.map (fun (b : Option LinkBuf) => match b with
    | none => []
    | some b =>
      let units := regLen b.region / 64
      padTo 64 (wordBytes b.bind ++ wordBytes b.region ++ leBytes (bits b.st 0 2) 8) ++
        leBytes b.fill ((units + 511) / 512 * 64) ++ s.bufLoad c .ab (regOff b.region) (regLen b.region))).flatten
/-- The sections of an image, 0 to 10; an empty one is absent. -/
def State.imageSections (s : State) (c : CoreId) (x : Ctx) (t0 : Nat) : List (List Byte) :=
  [s.seqSection (s.core c) x false, flightArea x.flight t0, x.waitSection t0,
   (((List.range 16).filter (fun t => x.liveT.getLsbD t)).map x.tile).flatten, x.tables, s.jbSection c x.pages,
   (x.regions.map (fun r => Rng.desc r ++ s.bufLoad c r.buf r.lo (r.hi - r.lo))).flatten,
   x.sa.section 0 true, x.va.section 0 true, (match x.chain with | some ch => ch.image | none => []), s.linkSection c x]

/- Sealing (R421). -/
/-- The sealing key of a function. -/
def State.sealKey (s : State) (fn : Nat) : List Byte :=
  match s.seals.toList.getD fn none with | some k => k | none => leBytes (Config.noSeal fn).toNat 32
/-- Sealed bytes with their IV and tag. -/
def State.sealBytes (s : State) (fn : Nat) (bs : List Byte) : List Byte × List Byte × List Byte :=
  let iv := leBytes (Config.iv s.free).toNat 12
  let ct := gcmCrypt (s.sealKey fn) iv bs
  (ct, iv, gcmTag (s.sealKey fn) iv ct)

/-- The directory's offsets and lengths for sections laid one after another from byte 256. -/
def directory (secs : List (List Byte)) : List Byte :=
  ((secs.foldl (fun (a : List (List Byte) × Nat) sec =>
    (a.1 ++ [if sec.isEmpty then leBytes 0 8 else leBytes a.2 4 ++ leBytes sec.length 4], a.2 + sec.length)) ([], 256)).1).flatten
/-- The total length of an image. -/
def State.imageLen (s : State) (c : CoreId) (x : Ctx) (t0 : Nat) : Nat := 256 + ((s.imageSections c x t0).map List.length).foldl (· + ·) 0
/-- The context image (R417), sealed for a confidential context. -/
def State.image (s : State) (c : CoreId) (x : Ctx) (t0 : Nat) : List Byte :=
  let secs := s.imageSections c x t0
  let body := secs.flatten
  let (ct, iv, tag) := if x.conf then s.sealBytes x.fn.val body else (body, List.replicate 12 0, List.replicate 16 0)
  leBytes (1 + b2n x.conf * 2 ^ 32 + x.fn.val * 2 ^ 36) 8 ++ leBytes x.ctxidWord 8 ++ leBytes (256 + body.length) 8 ++ wordBytes x.pc ++
    directory secs ++ padTo 72 [] ++ iv ++ tag ++ padTo 36 [] ++ ct

/- What a save keeps (R125). -/
/-- State that is not live reads zero. -/
def Ctx.dropDead (x : Ctx) : Ctx :=
  { x with s := Vector.ofFn (fun i => if x.liveS.getLsbD i.val then x.s[i] else 0)
           rows := Vector.ofFn (fun i => if x.liveT.getLsbD (i.val / 8) then x.rows[i] else 0) }
/-- The bytes of JB and of live regions, by their keys on the core. -/
def State.keptCells (s : State) (c : CoreId) (x : Ctx) : Memory :=
  let inR (a : Nat) (r : Rng) : Bool := bufKey c r.buf r.lo ≤ a && a < bufKey c r.buf r.hi
  let links : List Rng := x.lbufs.toList.filterMap (fun (b : Option LinkBuf) => b.map (fun b =>
    ({ buf := .ab, lo := regOff b.region, hi := regOff b.region + regLen b.region } : Rng)))
  let jb : List Rng := (pageList x.pages).map (fun p => { buf := .jb, lo := 4096 * p, hi := 4096 * p + 4096 })
  s.mem.filter (fun m => (x.regions ++ links ++ jb).any (inR m.1))
/-- The key range of a core's four buffers. -/
def inBufs (c : CoreId) (a : Nat) : Bool := bufKey c .wb 0 ≤ a && a < bufKey c .wb 0 + 2 ^ 25
/-- A context's buffers come back: its kept bytes, and zero elsewhere (R125, R419). -/
def State.restoreCells (s : State) (c : CoreId) (cells : Memory) : State :=
  let lo := bufKey c .wb 0
  { s with mem := s.mem.filter (fun m => m.1 < lo) ++ cells.filter (fun m => inBufs c m.1) ++ s.mem.filter (fun m => lo + 2 ^ 25 ≤ m.1)
           ecc := s.ecc.filter (fun w => !(inBufs c w)) }

/- Loading an image (R427). -/
def sub (bs : List Byte) (o n : Nat) : List Byte := (bs.drop o).take n
def rdOf (bs : List Byte) (o n : Nat) : Nat := leNat (sub bs o n)
/-- Section `k`: its bytes. -/
def secOf (img : List Byte) (k : Nat) : List Byte := sub img (rdOf img (32 + 8 * k) 4) (rdOf img (36 + 8 * k) 4)
/-- The directory is consistent: sections of their fixed lengths, inside the image, one after another. -/
def dirOk (img : List Byte) : Bool :=
  let total := rdOf img 16 8
  let lens := (List.range 11).map (fun k => (rdOf img (32 + 8 * k) 4, rdOf img (36 + 8 * k) 4))
  let len (k : Nat) : Nat := (lens.getD k (0, 0)).2
  (lens.foldl (fun (a : Bool × Nat) p => if p.2 == 0 then a else (a.1 && p.1 == a.2, a.2 + p.2)) (true, 256)) == (true, total) &&
    len 0 == 2048 && len 1 == 14656 && 128 ≤ len 2 && len 2 % 8 == 0 && len 3 % 4096 == 0 && len 4 == 2048 && 8 ≤ len 5 &&
    len 7 == 66688 && len 8 == 66688 && (len 9 == 0 || len 9 == imageLen)
/-- The regions of section 6 with their bytes. -/
def parseRegions (bs : List Byte) : Nat → List (Rng × List Byte)
  | 0 => []
  | n + 1 =>
    if bs.length < 16 then [] else
    let sp : Space := match rdOf bs 0 4 with | 1 => .wb | 2 => .ab | _ => .cb
    let lo := rdOf bs 4 4
    let len := rdOf bs 8 4
    ({ buf := sp, lo, hi := lo + len }, sub bs 16 len) :: parseRegions (bs.drop (16 + len)) n
/-- The bindings of section 10 with their bytes. -/
def parseLinks (bs : List Byte) : Nat → List (LinkBuf × List Byte)
  | 0 => []
  | n + 1 =>
    if bs.length < 64 then [] else
    let bind := BitVec.ofNat 64 (rdOf bs 0 8)
    let region : Word := BitVec.ofNat 64 (rdOf bs 8 8)
    let fl := (regLen region / 64 + 511) / 512 * 64
    ({ bind, region, st := rdOf bs 16 8 % 4, fill := rdOf bs 64 fl }, sub bs (64 + fl) (regLen region)) ::
      parseLinks (bs.drop (64 + fl + regLen region)) n
/-- An array from its section. -/
def parseArr (bs : List Byte) : Arr :=
  let cfg := rdOf bs 65536 8
  let sh := rdOf bs 65544 8
  let r := 65600
  let shape : Shape := { valid := bit sh 0, bs := bit sh 1, ty := tyOf (bits sh 4 4), pat := bits sh 8 4, kc := bits sh 16 16, n := bits sh 32 16 }
  { sh := shape
    cells := (List.range shape.kc).map (fun i => (List.range shape.n).map (fun j =>
      let w := rdOf bs (4 * (128 * i + j)) 4
      { enc := bits w 0 16, e8 := bits w 16 8, idx := bits w 24 4 }))
    gw := bits cfg 0 2, ftz := bit cfg 2, pw := bit cfg 3
    pips := rdOf bs r 8, rows := rdOf bs (r + 8) 8, cycles := rdOf bs (r + 16) 8, sat := rdOf bs (r + 40) 8 == 1
    grp := (List.range 16).map (fun g =>
      let o := r + 64 + 64 * g
      { pips := rdOf bs o 8, steps := rdOf bs (o + 8) 8, busy := rdOf bs (o + 16) 8, wait := rdOf bs (o + 24) 8, zskip := rdOf bs (o + 32) 8 }) }
/-- The state an image gives a context, but for CTXID, TTB, FUNC, RTC, STATUS.CONF and the sequence numbering (R427); its
results land from cycle `t0` on. -/
def Ctx.loadImage (x : Ctx) (img : List Byte) (t0 : Nat) : Ctx :=
  let q := secOf img 0
  let w2 := secOf img 2
  let np := rdOf w2 112 8
  let ex := (List.range ((w2.length - 128 - 64 * np) / 8)).map (fun i => ofExtra (rdOf w2 (128 + 64 * np + 8 * i) 8))
  let tl := secOf img 3
  let tb := secOf img 4
  let rg := parseRegions (secOf img 6) 8
  let lk := parseLinks (secOf img 10) 16
  let reg (n : Nat) : Word := BitVec.ofNat 64 (rdOf q (0x3C0 + 8 * n) 8)
  let liveT : BitVec 16 := BitVec.ofNat 16 (rdOf q 0x2F0 8)
  let tiles := (List.range 16).filter (fun t => liveT.getLsbD t)
  let rowOfTile (i : Nat) : Row :=
    if liveT.getLsbD (i / 8) then BitVec.ofNat 4096 (rdOf tl (4096 * (tiles.findIdx (· == i / 8)) + 512 * (i % 8)) 512) else 0
  let allBuf := rg.map Prod.fst == [Space.wb, .ab, .cb].map (fun sp => { buf := sp, lo := 0, hi := Space.size sp })
  let pb := rdOf q 0x260 8
  let sa := parseArr (secOf img 7)
  let va := parseArr (secOf img 8)
  let chain := Chain.ofImage (secOf img 9)
  let lbOf (n : Nat) : Option LinkBuf := (lk.find? (fun b => bits b.1.bind.toNat 0 4 == n)).map Prod.fst
  let wt := rdOf w2 56 8
  { x with
    s := Vector.ofFn (fun i => if i.val == 0 then 0 else BitVec.ofNat 64 (rdOf q (8 * (i.val - 1)) 8))
    o := Vector.ofFn (fun i => BitVec.ofNat 64 (rdOf q (0x200 + 8 * i.val) 8))
    lx := Vector.ofFn (fun i => BitVec.ofNat 64 (rdOf q (0x240 + 8 * i.val) 8))
    p := Vector.ofFn (fun i => i != 0 && bit pb i.val)
    rows := Vector.ofFn (fun i => rowOfTile i.val)
    flight := parseFlights (rdOf (secOf img 1)) 0 t0 ex
    pc := BitVec.ofNat 64 (rdOf img 24 8), issuing := false, kpos := none
    xfer := parseXfer (rdOf q) 0x2D8 (bit (rdOf w2 120 8) 0), endOnly := bit (rdOf w2 120 8) 1, ended := none
    loops := parseLoops (rdOf q) 0x270 (bits (rdOf q 0x2D0 8) 32 3)
    sp := BitVec.ofNat 64 (rdOf q 0x268 8), fpstat := reg 5, flgext := reg 9, setmap := BitVec.ofNat 512 (rdOf q 0x380 64)
    liveS := BitVec.ofNat 64 (rdOf q 0x2E8 8), liveT, liveBuf := allBuf, liveR := if allBuf then [] else rg.map Prod.fst
    wfmt := Vector.ofFn (fun i => (reg (0x20 + i.val)).setWidth 32), afmt := Vector.ofFn (fun i => (reg (0x30 + i.val)).setWidth 32)
    tab := Vector.ofFn (fun i => BitVec.ofNat 32 (rdOf tb (4 * i.val) 4)), act := (reg 0x0B).getLsbD 0, tabDue := t0
    smstat := reg 0x0C, smam0 := reg 0x0D, smam1 := reg 0x0E, mstat := reg 0x0F, pipcnt := bits (reg 0x10).toNat 0 48, chstat := reg 0x11
    xstat := reg 0x12, fistat := reg 0x13, dumpstat := reg 0x14, inbox := reg 0x0A
    status := (reg 0 &&& ~~~10#64) ||| (x.status &&& 10#64), trapvec := reg 1, trapinfo := reg 2
    xmaps := Vector.ofFn (fun i => BitVec.ofNat 64 (rdOf q (0x5C0 + 8 * i.val) 8))
    xmRec := Vector.ofFn (fun i => BitVec.ofNat 64 (rdOf q (0x5C0 + 8 * i.val) 8))
    joins := Vector.ofFn (fun i =>
      let j := rdOf q (0x600 + 16 * i.val) 16
      { pend := bits j 0 10, ok := bits j 10 10, flt := bits j 20 10, kill := bits j 30 10, first := BitVec.ofNat 32 (bits j 96 32) })
    toks := ((List.range 64).filter (fun i => bit (rdOf w2 0 8) i)).map (Fin.ofNat 64)
    joinTok := (List.range 16).filterMap (fun i =>
      let b := rdOf w2 (96 + i) 1
      if bit b 7 then some (i, Fin.ofNat 64 (b % 64), bit b 6) else none)
    wait := if bit wt 5 then some { conds := (List.range (bits wt 0 3)).map (fun i => BitVec.ofNat 64 (rdOf w2 (16 + 8 * i) 8)),
                                    all := bit wt 3, tt := bit wt 4, deadline := t0 + rdOf w2 48 8,
                                    d := if bits wt 8 8 < 0x40 then .s (Fin.ofNat 64 (bits wt 8 8)) else .o (Fin.ofNat 8 (bits wt 8 8)),
                                    pc := BitVec.ofNat 64 (rdOf w2 64 8), seq := BitVec.ofNat 32 (bits wt 32 32),
                                    syl := BitVec.ofNat 64 (rdOf w2 72 8), start := t0 - rdOf w2 80 8 } else none
    pend := (List.range np).map (fun i =>
      let o := 128 + 64 * i
      let h := rdOf w2 o 8
      { cls := TrapClass.list.getD (bits h 0 8 - 1) .illegal, pc := BitVec.ofNat 64 (rdOf w2 (o + 8) 8), slot := Slot.ofNum (bits h 8 2),
        seq := rdOf w2 (o + 16) 8, addr := rdOf w2 (o + 24) 8, tok := Fin.ofNat 64 (bits h 16 6), oc := bits h 24 4, store := bit h 31,
        due := t0 + rdOf w2 (o + 40) 8, syl := BitVec.ofNat 64 (rdOf w2 (o + 32) 8) })
    jbPages := BitVec.ofNat 64 (rdOf (secOf img 5) 0 8)
    sa, va, saRec := sa.sh, vaRec := va.sh, chain
    chRec := (match chain with | some ch => { bound := true, mode := ch.mode, qty := ch.qty, qbs := ch.qbs, d := ch.d, kpos := ch.kpos } | none => {})
    chOut := chain.map (fun ch => (bits ch.oword.toNat 0 20, bits ch.oword.toNat 24 8, ch.nq, ch.oty))
    chHold := chain.isSome
    lbufs := Vector.ofFn (fun i => lbOf i.val), lbRec := Vector.ofFn (fun i => (lbOf i.val).map (fun b => (b.bind, b.region))) }
/-- The checks of the header (R427). -/
def Ctx.headerOk (c : Ctx) (h : List Byte) : Bool :=
  rdOf h 0 4 == 1 && bits (rdOf h 0 8) 36 4 == c.fn.val && bit (rdOf h 0 8) 32 == c.conf && dirOk h
/-- A saved context from its image: what the part itself keeps up to date while it is saved stays, the push records, its wait, its
tokens with the values that have come, its joins (R415; log entry 46). -/
def Ctx.reload (x : Ctx) (img : List Byte) (t0 : Nat) : Ctx :=
  let y := x.loadImage img t0
  let came := y.toks.filter (fun t => !x.toks.contains t)
  { y with
    s := Vector.ofFn (fun i => if came.any (fun t => t.val == i.val) then x.s[i] else y.s[i])
    flight := y.flight ++ x.flight.drop y.flight.length
    xmRec := x.xmRec, saRec := x.saRec, vaRec := x.vaRec, chRec := x.chRec, chOut := x.chOut, chHold := x.chHold, lbRec := x.lbRec
    wait := x.wait, pend := x.pend, toks := x.toks, joinTok := x.joinTok, joins := x.joins }
/-- The buffers an image gives a core: JB pages, live regions, link-buffer regions; zero elsewhere. -/
def State.loadBufs (s : State) (c : CoreId) (img : List Byte) : State :=
  let jb := secOf img 5
  let m : BitVec 64 := BitVec.ofNat 64 (rdOf jb 0 8)
  let ps := pageList m
  let s := s.restoreCells c []
  let s := (ps.zip (List.range ps.length)).foldl (fun (s : State) p => s.store (bufKey c .jb (4096 * p.1)) (sub jb (8 + 4096 * p.2) 4096)) s
  let s := (parseRegions (secOf img 6) 8).foldl (fun (s : State) r => s.store (bufKey c r.1.buf r.1.lo) r.2) s
  (parseLinks (secOf img 10) 16).foldl (fun (s : State) b => s.store (bufKey c .ab (regOff b.1.region)) b.2) s

/- The dump (R442). -/
def dumpSec (n : Nat) (bs : List Byte) : List Byte := leBytes (n + bs.length * 2 ^ 32) 16 ++ bs
/-- The last trace records of the core, oldest first. -/
def State.traceTail (s : State) (k : Core) : List Byte :=
  match k.ring with
  | none => []
  | some (base, cap) =>
    let next := bits k.trptr.toNat 0 32
    let t := min (min 64 next) cap
    ((List.range t).map (fun i => s.load (base + 64 * ((next - t + i) % cap)) 64)).flatten
/-- Everything after the dump header. -/
def State.dumpBody (s : State) (c : CoreId) (x : Ctx) (t0 : Nat) : List Byte :=
  let k := s.core c
  let high := x.jbPages &&& ~~~0xFF#64
  dumpSec 1 (s.seqSection k x true) ++ dumpSec 2 (flightArea x.flight t0) ++ dumpSec 3 (padTo 128 (x.waitSection t0)) ++
  dumpSec 4 (s.bufLoad c .jb 0 16384) ++ dumpSec 5 (s.bufLoad c .jb 0x4000 16384) ++
  dumpSec 6 (((List.range 256).map (fun n => wordBytes ((s.regRead k x n).getD 0))).flatten) ++
  dumpSec 7 (((List.range 16).map x.tile).flatten) ++ dumpSec 8 x.tables ++
  dumpSec 9 (x.sa.section 0 false) ++ dumpSec 10 (x.va.section 0 false) ++
  (match x.chain with | some ch => dumpSec 11 ch.image | none => []) ++ dumpSec 12 (s.jbSection c high) ++ dumpSec 13 (s.traceTail k)

end Sys2Proof.Machine
end

