-- ==== Sys2Proof/Machine/Tasks.lean ====
section
/-! DEFINITION. Launch, contexts, nests, spawn and join, end-counter trees, egress queues, priorities (15_tasks.md, R366 to
R399). -/

namespace Sys2Proof.Machine

/- Accesses of the node by a function's translation (R369, R372). -/
def State.fnRoot (s : State) (fn : Nat) : Nat := bits (s.func fn).root.toNat 12 45 * 2 ^ 12
/-- The physical address of a function's address. -/
def State.fnPa (s : State) (fn va n : Nat) (k : AccK) (conf : Bool) : Except TrapClass Nat :=
  if 2 ^ 57 ≤ va then .error .page
  else match s.walk (s.fnRoot fn) fn 0 va with
    | none => .error .page
    | some e =>
      if !leafOk e conf k then .error .access
      else
        let pa := e.pa + va % e.size
        match s.physFault fn pa n with
        | some cls => .error cls
        | none => if plainKind (paKind pa) then .ok pa else .error .buffer
/-- Bytes read; those of another node are free values. -/
def State.fnRead (s : State) (fn va n : Nat) (conf : Bool) : Except TrapClass (List Byte) :=
  (chunks va n).foldl (fun (a : Except TrapClass (List Byte)) ch =>
    match a with
    | .error e => .error e
    | .ok got => match s.fnPa fn ch.1 ch.2 .rd conf with
      | .error e => .error e
      | .ok pa => match s.gRead pa ch.2 (.ok ((List.range ch.2).map (fun i => Config.farByte s.free (got.length + i)))) with
        | .error e => .error e
        | .ok bs => .ok (got ++ bs)) (.ok [])
/-- Bytes written, or nothing. -/
def State.fnWrite (s : State) (fn va : Nat) (bs : List Byte) (conf : Bool) : State :=
  let cs := chunks va bs.length
  if cs.any (fun ch => match s.fnPa fn ch.1 ch.2 .wr conf with | .error _ => true | .ok _ => false) then s
  else cs.foldl (fun (s : State) ch => match s.fnPa fn ch.1 ch.2 .wr conf with
    | .ok pa => (match s.gWrite pa ((bs.drop (ch.1 - va)).take ch.2) (.ok []) with | .ok s => s | .error _ => s)
    | .error _ => s) s

/- Records (R368, R381). -/
/-- The fields of a launch record. -/
structure LRec where
  entry : Nat
  ctl : Nat
  cores : BitVec 128
  nest : Nat
  args : List Word
  rpt : Nat
  done : Nat
  waitc : Word
  rest : Nat
def LRec.of (bs : List Byte) : LRec :=
  { entry := rdOf bs 0 8, ctl := rdOf bs 8 8, cores := BitVec.ofNat 128 (rdOf bs 16 16), nest := rdOf bs 32 8,
    args := (List.range 4).map (fun i => BitVec.ofNat 64 (rdOf bs (40 + 8 * i) 8)), rpt := rdOf bs 72 8, done := rdOf bs 80 8,
    waitc := BitVec.ofNat 64 (rdOf bs 88 8), rest := rdOf bs 96 32 }
def LRec.isNest (r : LRec) : Bool := bit r.ctl 0
def LRec.prio (r : LRec) : Nat := bits r.ctl 4 3
def LRec.wen (r : LRec) : Bool := bit r.ctl 7
def LRec.fn (r : LRec) : Nat := bits r.ctl 8 4
def LRec.dflag (r : LRec) : Nat := bits r.done 0 9
def LRec.den (r : LRec) : Bool := bit r.done 15
def LRec.spoff (r : LRec) : Nat := bits r.done 32 15
/-- A condition word of kind 0 (R119). -/
def flagCond (w : Word) : Bool := condOk w && condKind w == 0
/-- The rules of ERR 1 but for WAITC (R369). -/
def LRec.shapeOk (r : LRec) : Bool :=
  bits r.ctl 1 3 == 0 && bits r.ctl 12 52 == 0 && bits r.done 9 6 == 0 && bits r.done 16 16 == 0 && bits r.done 47 17 == 0 && r.rest == 0 &&
  (if r.isNest then r.entry == 0 else r.entry % 32 == 0 && r.entry < 2 ^ 57 && r.nest == 0) &&
  (r.spoff == 0 || 0x1000 ≤ r.spoff) && r.rpt % 16 == 0
def LRec.waitOk (r : LRec) : Bool := if r.wen then flagCond r.waitc else r.waitc == 0
/-- A loop-nest record that keeps R381: its entry and levels. -/
def nestOf (bs : List Byte) : Option (Word × List (Nat × Nat)) :=
  let e := rdOf bs 0 8
  let n := rdOf bs 8 8
  let ls := (List.range 6).map (fun i => (rdOf bs (16 + 8 * i) 4, rdOf bs (20 + 8 * i) 4))
  let used := ls.take n
  if e % 32 == 0 && e < 2 ^ 57 && 1 ≤ n && n ≤ 6 && used.all (fun l => 1 ≤ l.2 && l.2 ≤ l.1) && (ls.drop n).all (fun l => l == (0, 0)) &&
     used.foldl (fun t l => t * ceilDiv l.1 l.2) 1 < 2 ^ 32 then some (BitVec.ofNat 64 e, used) else none

/- Contexts. -/
/-- The contexts of the node: on cores and saved. -/
def State.living (s : State) : List Ctx := (s.cores.toList.filter (fun k => k.busy)).map Core.ctx ++ s.saved.map Saved.ctx
/-- The least number that names no living context (R371; the choice is the model's, log entry 36). -/
def State.newId (s : State) : BitVec 32 :=
  let used := s.living.map (fun x => x.ctxid.toNat)
  BitVec.ofNat 32 (((List.range (used.length + 1)).find? (fun i => !used.contains (i + 1))).getD 0 + 1)
/-- The page of an address is confidential (R421). -/
def State.confPage (s : State) (fn va : Nat) : Bool :=
  match s.walk (s.fnRoot fn) fn 0 va with | some e => e.cf | none => false
/-- The admitted image that holds a physical address (R457). -/
def State.imageAt (s : State) (fn pa : Nat) : Option Image :=
  s.images.find? (fun i => i.fn == fn && i.ranges.any (fun r => r.1 ≤ pa && pa < r.1 + r.2))
def State.imageOf (s : State) (fn va : Nat) : Option Image :=
  match s.walk (s.fnRoot fn) fn 0 va with | some e => s.imageAt fn (e.pa + va % e.size) | none => none
/-- An image gains a user; with the first one its bundles are fixed (R176). -/
def State.useImage (s : State) (id serial : Nat) : State :=
  { s with images := s.images.map (fun (i : Image) =>
      if i.id != id then i
      else
        let i := if i.users.isEmpty then { i with code := s.mem.filter (fun m => i.ranges.any (fun r => paKey r.1 ≤ m.1 && m.1 < paKey r.1 + r.2)) } else i
        { i with users := i.users ++ [serial] }) }
def State.dropUser (s : State) (serial : Nat) : State :=
  { s with images := s.images.map (fun (i : Image) => { i with users := i.users.filter (· != serial) }) }
/-- A new context (R370): ready on its core, its number the last one given. -/
def State.create (s : State) (c : CoreId) (x : Ctx) (entry : Word) (cores : BitVec 128) (spoff : Nat) (args : List Word) : State :=
  let fn := x.fn.val
  let n := s.serials + 1
  let set (r : Vector Word 64) (i : Nat) (v : Word) : Vector Word 64 := r.setIfInBounds i v
  let r := (List.range 4).foldl (fun r i => set r (i + 1) (args.getD i 0)) x.s
  let r := set r 6 (BitVec.ofNat 64 (popcount cores.toNat 128))
  let x := { x with
    s := r, pc := entry, serial := n, ctxid := s.newId, spri := x.pri.val, sp := BitVec.ofNat 64 (8 * (if spoff == 0 then 0x1000 else spoff))
    ttb := BitVec.ofNat 64 (s.fnRoot fn + fn * 2 ^ 8), status := if s.confPage fn entry.toNat then 2 else 0 }
  let s := { s with saved := s.saved ++ [({ ctx := x, core := c, since := s.now, fresh := true, t0 := s.now } : Saved)], serials := n }
  match s.imageOf fn entry.toNat with
  | some i => s.useImage i.id n
  | none => s
def coreList (m : BitVec 128) : List CoreId := (List.range 128).filterMap (fun i => if m.getLsbD i then some (Fin.ofNat 128 i) else none)
/-- What a record fixes for every context it makes. -/
def LRec.base (r : LRec) (lq : Nat) (parent : Option (Nat × Nat)) : Ctx :=
  { fn := Fin.ofNat 16 r.fn, lq := Fin.ofNat 64 lq, pri := Fin.ofNat 8 r.prio, rpt := r.rpt, den := r.den, dflag := r.dflag, parent }
/-- The contexts of a MODE 0 record. -/
def State.createAll (s : State) (r : LRec) (lq : Nat) (parent : Option (Nat × Nat)) : State :=
  (coreList r.cores).foldl (fun (s : State) c =>
    let below := popcount (r.cores.toNat % 2 ^ c.val) 128
    let b := r.base lq parent
    s.create c { b with s := b.s.set 5 (BitVec.ofNat 64 below), index := below } (BitVec.ofNat 64 r.entry) r.cores r.spoff r.args) s

/- Nests (R382, R383). -/
/-- Chunk counts, and the chunk indexes of λ, outermost first. -/
def Nest.counts (n : Nest) : List Nat := n.levels.map (fun l => ceilDiv l.1 l.2)
def chunkIx (cs : List Nat) (lam : Nat) : List Nat :=
  ((cs.foldr (fun c (a : List Nat × Nat) => ((a.2 % c) :: a.1, a.2 / c)) ([], lam))).1
/-- The range a grant takes, and the nest after it. -/
def Nest.split (n : Nest) : Option (Nat × Nat × Nest) :=
  if n.ctxs.isEmpty then some (0, n.total, n)
  else
    let best := n.ctxs.foldl (fun (b : Option NestCtx) c =>
      match b with
      | none => some c
      | some d => if d.fin - d.cur < c.fin - c.cur then some c else some d) none
    match best with
    | none => none
    | some v =>
      if v.fin - v.cur == 0 then none
      else
        let m := v.cur + (v.fin - v.cur) / 2
        some (m, v.fin, { n with ctxs := n.ctxs.map (fun (c : NestCtx) => if c.serial == v.serial then { c with fin := m } else c) })
/-- A grant to a core (R383). -/
def State.grant (s : State) (id : Fin 16) (c : CoreId) : State :=
  match s.nests[id] with
  | none => s
  | some n =>
    match n.split with
    | none => s
    | some (lo, hi, n) =>
      let ix := chunkIx n.counts lo
      let b : Ctx := { fn := Fin.ofNat 16 n.fn, lq := Fin.ofNat 64 n.lq, pri := Fin.ofNat 8 n.prio, nestOf := some id.val }
      let r := (ix.zip n.levels).zip (List.range 6) |>.foldl (fun (r : Vector Word 64) p => r.setIfInBounds (48 + p.2) (BitVec.ofNat 64 (p.1.1 * p.1.2.2))) b.s
      let r := (r.set 54 (BitVec.ofNat 64 hi)).set 55 (BitVec.ofNat 64 (id.val + lo * 2 ^ 32))
      let serial := s.serials + 1
      let n := { n with ctxs := n.ctxs ++ [{ serial, cur := lo + 1, fin := hi }], since := s.now, aged := false }
      { s with nests := s.nests.set id (some n) }.create c { b with s := r } n.entry n.cores n.spoff n.args
/-- The nest still has chunks to grant. -/
def Nest.open_ (n : Nest) : Bool := n.ctxs.isEmpty || n.ctxs.any (fun c => c.cur < c.fin)
/-- A nest starts at the walker, if a slot is free: one grant for each free core of its set. -/
def State.startNest (s : State) (n : Nest) : Option State :=
  match (List.range 16).find? (fun i => (s.nests.toList.getD i none).isNone) with
  | none => none
  | some i =>
    let id := Fin.ofNat 16 i
    let s := { s with nests := s.nests.set id (some { n with since := s.now }) }
    some ((coreList n.cores).foldl (fun (s : State) c => if (s.core c).busy then s else s.grant id c) s)
def LRec.toNest (r : LRec) (e : Word) (ls : List (Nat × Nat)) (lq : Nat) (parent : Option (Nat × Nat)) : Nest :=
  { entry := e, levels := ls, total := ls.foldl (fun t l => t * ceilDiv l.1 l.2) 1, cores := r.cores, fn := r.fn, lq, prio := r.prio,
    args := r.args, rpt := r.rpt, den := r.den, dflag := r.dflag, spoff := r.spoff, parent }

/- Launch (R369, R476). -/
/-- The ERR code of a record, 0 for none. -/
def State.recErr (s : State) (q : Nat) (r : LRec) : Nat :=
  let qc := (s.lq q).qctl.toNat
  let fn := bits qc 0 4
  if !(r.shapeOk && r.waitOk) then 1
  else if r.fn != fn then 2
  else if bits qc 4 3 < r.prio then 3
  else if r.cores == 0 || (r.cores &&& ~~~(s.func fn).cores) != 0 then 4
  else if r.isNest && (r.nest % 64 != 0 || (match s.fnRead fn r.nest 64 false with | .ok bs => (nestOf bs).isNone | .error _ => true)) then 5
  else if r.den && !(s.flagOk fn r.dflag) then 6
  else 0
/-- The head record of a queue that has one. -/
def State.headRec (s : State) (q : Nat) : Option LRec :=
  let x := s.lq q
  if x.head.toNat < x.tail.toNat then some (LRec.of (s.mem.read (key 5 (q * 0x4000 + 128 * (x.head.toNat % 64))) 128)) else none
/-- The head record is takeable (R476); a nest record waits for a slot of the walker (R383). -/
def State.takeable (s : State) (q : Nat) : Option LRec :=
  match s.headRec q with
  | none => none
  | some r =>
    let full := r.isNest && s.nests.toList.all Option.isSome && s.recErr q r == 0
    if bit (s.lq q).qctl.toNat 7 && !full && (!r.wen || !(flagCond r.waitc) || s.cond 0 r.waitc) then some r else none
/-- The cycle a queue's head record arrived. -/
def LQueue.arrived (x : LQueue) : Nat := match x.arr.find? (fun p => x.head.toNat < p.1) with | some p => p.2 | none => 0
def State.lend (s : State) (q : Nat) : Nat := s.lent.toList.getD q 0
/-- The queue whose head is taken next (R476). -/
def State.nextQueue (s : State) : Option (Nat × LRec) :=
  let best := (List.range 64).foldl (fun (b : Option (Nat × Nat × Nat × LRec)) q =>
    match s.takeable q with
    | none => b
    | some r =>
      let p := max r.prio (s.lend q)
      let t := (s.lq q).arrived
      match b with
      | some (bp, bt, _, _) => if bp < p || (bp == p && t < bt) then some (p, t, q, r) else b
      | none => some (p, t, q, r)) none
  best.map (fun b => b.2.2)
/-- A report (R369, R372). -/
def reportBytes (exit : BitVec 32) (status err : Nat) (id : BitVec 32) : List Byte :=
  leBytes exit.toNat 4 ++ leBytes status 1 ++ leBytes err 1 ++ leBytes 0 2 ++ leBytes id.toNat 4 ++ leBytes 0 4
/-- R476: the event LAUNCH_TAKE, every 8 ck. -/
def execLaunchTake (s : State) : Out :=
  if s.now % 8 != 0 then .next s
  else match s.nextQueue with
    | none => .next s
    | some (q, r) =>
      let x := s.lq q
      let fn := bits x.qctl.toNat 0 4
      let err := s.recErr q r
      let step (s : State) : State :=
        let x := s.lq q
        s.setLq q { x with head := x.head + 1, arr := x.arr.filter (fun p => x.head.toNat + 1 < p.1) }
      if err != 0 then
        let s := s.setLq q { x with qctl := setBits x.qctl 8 8 err }
        let s := if r.rpt != 0 && r.rpt % 16 == 0 then s.fnWrite fn r.rpt (reportBytes 0 3 err 0) false else s
        .next (step s)
      else if r.isNest then
        match (match s.fnRead fn r.nest 64 false with | .ok bs => nestOf bs | .error _ => none) with
        | none => .next s
        | some (e, ls) => match s.startNest (r.toNest e ls q none) with
          | some t => .next (step { t with free := t.free + 1 })
          | none => .next s
      else .next (step (s.createAll r q none))

/- The end of contexts (R372, R385, R387). -/
/-- A child's retirement counts at its parent, if that lives. -/
def State.countChild (s : State) (parent : Option (Nat × Nat)) (status : Nat) (id : BitVec 32) : State :=
  match parent with
  | none => s
  | some (p, j) =>
    let up (x : Ctx) : Ctx :=
      if x.serial != p then x
      else
        let c := x.joins.toList.getD j {}
        let sat (n : Nat) : Nat := min 1023 (n + 1)
        let c := { c with
          pend := c.pend - 1
          ok := if status == 0 then sat c.ok else c.ok
          flt := if status == 1 then sat c.flt else c.flt
          kill := if 2 ≤ status then sat c.kill else c.kill
          first := if status != 0 && c.first == BitVec.allOnes 32 then id else c.first }
        { x with joins := x.joins.setIfInBounds j c }
    { s with cores := s.cores.map (fun (k : Core) => if k.busy then { k with ctx := up k.ctx } else k)
             saved := s.saved.map (fun (v : Saved) => { v with ctx := up v.ctx }) }
/-- The setter that a retirement or a tree is (R439). -/
def nodeSetter (s : State) (x : Ctx) (c : CoreId) : Setter :=
  { ctx := x.ctxid, node := s.nodeId, core := c.val, eng := 5, conf := x.conf, lq := some x.lq.val }
def State.incFlag (s : State) (f : Nat) (by_ : Setter) : State := s.setFlag f (incClamp (s.flag f) 1).1 by_
/-- The energy of a context that leaves stays in its function's count (R460). -/
def State.spendNrg (s : State) (x : Ctx) : State :=
  s.setFunc x.fn.val { s.func x.fn.val with nrg := (s.func x.fn.val).nrg + x.nrg.toNat }
/-- The steps of a retirement but for the core (R372): report, DEN increment, join update, CHK, slots, image. -/
def State.retireSteps (s : State) (c : CoreId) (x : Ctx) (exit : BitVec 32) (status : Nat) : State :=
  let s := match x.nestOf with
    | some id =>
      let up (n : Nest) : Nest := { n with
        exit := n.exit ||| exit, status := max n.status status
        first := if status != 0 && n.first == BitVec.allOnes 32 then x.ctxid else n.first
        ctxs := n.ctxs.map (fun (e : NestCtx) => if e.serial == x.serial then { e with living := false } else e) }
      { s with nests := s.nests.setIfInBounds id ((s.nests.toList.getD id none).map up) }
    | none =>
      let s := if x.rpt != 0 then s.fnWrite x.fn.val (x.rpt + 16 * x.index) (reportBytes exit status 0 x.ctxid) x.conf else s
      let s := if x.den then s.incFlag x.dflag (nodeSetter s x c) else s
      s.countChild x.parent status x.ctxid
  let s := { s with eqs := s.eqs.map (fun (e : EgQueue) => if bits e.ctl.toNat 8 32 == x.ctxid.toNat then { e with ctl := setBits e.ctl 8 32 0 } else e) }
  ((s.spendNrg x).closeSlots c x.ctxid).dropUser x.serial
/-- The core is free (R372, R415). -/
def State.freeCore (s : State) (c : CoreId) : State :=
  let k := s.core c
  (s.unswap c).setCore c { k with ctx := {}, busy := false, ibuf := [], stop := none, xlat := none, lastFn := some k.ctx.fn.val }
/-- The context on a core retires. -/
def State.retire (s : State) (c : CoreId) (exit : BitVec 32) (status : Nat) (code : Nat) : State :=
  let k := s.core c
  let s := s.traceRec c 5 0 k.ctx.pc k.ctx.lastSeq (BitVec.ofNat 64 code) 0
  let s := (s.retireSteps c k.ctx exit status).freeCore c
  if k.ctx.status.getLsbD 3 then s.setCore c { s.core c with preOut := some code } else s
/-- R372: the event CONTEXT_RETIRE, once the `end` has completed and the breakpoint hits before it have been taken. -/
def execContextRetire (c : CoreId) (s : State) : Out :=
  let k := s.core c
  let x := k.ctx
  match x.ended with
  | none => .next s
  | some e =>
    let joinToks := x.joinTok.map (fun (j : Nat × Tok × Bool) => j.2.1)
    if !k.busy || x.issuing || k.stop.isSome || x.cmds.any (fun m => !m.done) || x.toks.any (fun t => !joinToks.contains t) || !x.gacc.isEmpty ||
       !x.tokDue.isEmpty || !x.portQ.isEmpty || x.trapDue.isSome || x.pend.any (fun p => p.cls != .childFault) || !x.engFaults.isEmpty ||
       (!x.hits.isEmpty && !x.ih) then .next s
    else .next (s.retire c e 0 1)
/-- R385: the event NEST_COMPLETE. -/
def execNestComplete (id : Fin 16) (s : State) : Out :=
  match s.nests[id] with
  | none => .next s
  | some n =>
    if n.open_ || n.ctxs.any NestCtx.living then .next s
    else
      let s := { s with nests := s.nests.set id none }
      let s := if n.rpt != 0 then s.fnWrite n.fn n.rpt (reportBytes n.exit n.status 0 0) false else s
      let s := if n.den then s.incFlag n.dflag { node := s.nodeId, eng := 5, lq := some n.lq } else s
      .next (s.countChild n.parent n.status n.first)

/- Nest claims, joins (R384, R388). -/
/-- R384: the claim is decided at issue; the token is written within 40 ck. -/
def execNest (x : Ecmd) (s : State) : Out :=
  let c := s.ctx
  if !c.guard x.g then .next s
  else match c.nestOf with
    | none => .next (s.precise x.g .e .illegal 0)
    | some id =>
      match s.nests.toList.getD id none with
      | none => .next (s.precise x.g .e .illegal 0)
      | some n =>
        let me := n.ctxs.find? (fun e => e.serial == c.serial)
        let (v, n) := match me with
          | some e =>
            if e.cur < e.fin then
              (BitVec.ofNat 64 e.cur, { n with ctxs := n.ctxs.map (fun (f : NestCtx) => if f.serial == c.serial then { f with cur := f.cur + 1 } else f) })
            else (0x8000000000000000#64, n)
          | none => (0x8000000000000000#64, n)
        let s := { s with nests := s.nests.setIfInBounds id (some n) }
        .next (s.setCtx { c.tokenPend x.tok with tokDue := c.tokDue ++ [(s.now + 8, x.tok, v)] })
/-- R388. -/
def execJoin (x : Ecmd) (s : State) : Out :=
  let c := s.ctx
  let a := c.opA x
  if !c.guard x.g then .next s
  else if 16 ≤ a || c.joinTok.any (fun j => j.1 == a) then .next (s.precise x.g .e .illegal 0)
  else .next (s.setCtx { c.tokenPend x.tok with joinTok := c.joinTok ++ [(a, x.tok, x.m 0)] })
/-- The join status word (R387). -/
def JoinCtr.word (j : JoinCtr) : Word := BitVec.ofNat 64 (j.ok + j.flt * 2 ^ 10 + j.kill * 2 ^ 20 + j.first.toNat * 2 ^ 32)
/-- A context's pending `join` on a counter ends when PEND is zero (R388). -/
def Ctx.joinEnd (x : Ctx) (j : Nat) : Ctx :=
  match x.joinTok.find? (fun p => p.1 == j) with
  | none => x
  | some (_, t, strict) =>
    let c := x.joins.toList.getD j {}
    if c.pend != 0 then x
    else
      let x := { x with joins := x.joins.setIfInBounds j {}, joinTok := x.joinTok.filter (fun p => p.1 != j) }
      if strict && 0 < c.flt + c.kill then
        { x with toks := x.toks.filter (· != t)
                 pend := x.pend ++ [{ cls := .childFault, pc := 0, slot := .e, seq := x.lastSeq.toNat, addr := 0, tok := t, syl := c.word }] }
      else x.tokenWrite t c.word
/-- R388: the event JOIN_READY, for the contexts of a core, running and saved. -/
def execJoinReady (c : CoreId) (j : Fin 16) (s : State) : Out :=
  let k := s.core c
  let s := if k.busy then s.setCtxOf c (k.ctx.joinEnd j.val) else s
  .next { s with saved := s.saved.map (fun (v : Saved) =>
    if v.core != c then v
    else
      let x := v.ctx.joinEnd j.val
      -- its next bundle names no join token that is still pending
      let wakes := match v.phase with | .join ts => ts.all (fun t => !(x.joinTok.any (fun j => j.2.1 == t))) | _ => false
      { v with ctx := x, phase := if wakes then .ready else v.phase, since := if wakes then s.now else v.since }) }

/- Task commands (R378 to R380, R386, R391 to R394). -/
/-- A task command's entry; it keeps the number of the next global access, to wait for the earlier ones (R380). -/
def State.pushTask (s : State) (x : Ecmd) (i : Instr) (pay : List Byte) (bad : Option (TrapClass × Nat × Nat)) : State :=
  s.push { s.ctx.mkCmd x .fi i with ext := [s.ctx.nextAcc], pay, fail := bad }
/-- Checks of `spawn` (R386). -/
def State.chkSpawn (s : State) (x : Ecmd) : Chk Unit := do
  let c := s.ctx
  let off := c.opA x
  let fits := off % 64 == 0 && 0x8000 ≤ off && off + 128 ≤ Space.size .jb
  let r := LRec.of ((s.portView s.cur).bufLoad s.cur .jb off 128)
  let fn := c.fn.val
  need (bits (c.opB x) 5 59 == 0) .illegal
  need (!fits || (r.shapeOk && !r.wen && r.waitc == 0 && r.cores != 0)) .illegal
  need (off % 64 == 0) .align off
  need fits .buffer off
  need (r.fn == fn && r.prio ≤ bits (s.lq c.lq.val).qctl.toNat 4 3 && (r.cores &&& ~~~(s.func fn).cores) == 0 &&
    (!r.den || s.flagOk fn r.dflag)) .access
/-- R386: the record is read through the reserved port. -/
def execSpawn (x : Ecmd) (s : State) : Out :=
  let off := s.ctx.opA x
  s.command x.g (s.chkSpawn x) (fun _ =>
    let v := s.portView s.cur
    let bad := (eccHit v.ecc (bufKey s.cur .jb off) 128).map (fun _ => (TrapClass.ecc, off, 0))
    (s.pushTask x (.spawn x) (v.bufLoad s.cur .jb off 128) bad).port s.cur (s.now + 2))
def ecChk (s : State) (c : Ctx) (a b : Nat) (init : Bool) : Chk Unit := do
  need (1 ≤ b && b ≤ 65535) .illegal
  need (if init then bits a 4 4 == 0 && bits a 15 1 == 0 && bits a 26 38 == 0 else a < 16) .illegal
  need (bit (s.func c.fn.val).trees.toNat (a % 16)) .access
  need (!init || (s.hasCore c.fn.val (bits a 8 7) && (!bit a 25 || s.flagOk c.fn.val (bits a 16 9)))) .access
/-- R391. -/
def execEcinit (x : Ecmd) (s : State) : Out :=
  s.command x.g (ecChk s s.ctx (s.ctx.opA x) (s.ctx.opB x) true) (fun _ => s.pushTask x (.ecinit x) [] none)
/-- R391. -/
def execEcdone (x : Ecmd) (s : State) : Out :=
  s.command x.g (ecChk s s.ctx (s.ctx.opA x) (s.ctx.opB x) false) (fun _ => s.pushTask x (.ecdone x) [] none)
/-- The queue a context may use (R393). -/
def State.eqUsable (s : State) (fn a : Nat) : Bool := bits (s.eq a).ctl.toNat 40 4 == fn && bit (s.eq a).ctl.toNat 0
/-- Checks of `egput` (R393). -/
def State.chkEgput (s : State) (x : Ecmd) : Chk Unit := do
  let a := s.ctx.opA x
  let off := s.ctx.opB x
  need (a < 32) .illegal
  need (off % 16 == 0) .align off
  need (0x8000 ≤ off && off + 48 ≤ Space.size .jb) .buffer off
  need (s.eqUsable s.ctx.fn.val a) .access
/-- R393: the payload is read through the reserved port. -/
def execEgput (x : Ecmd) (s : State) : Out :=
  let off := s.ctx.opB x
  s.command x.g (s.chkEgput x) (fun _ =>
    let v := s.portView s.cur
    let bad := (eccHit v.ecc (bufKey s.cur .jb off) 48).map (fun _ => (TrapClass.ecc, off, 0))
    (s.pushTask x (.egput x) (v.bufLoad s.cur .jb off 48) bad).port s.cur (s.now + 1))
/-- R394. -/
def State.egChk (s : State) (x : Ecmd) : Chk Unit := do
  need (s.ctx.opA x < 32) .illegal
  need (s.eqUsable s.ctx.fn.val (s.ctx.opA x)) .access
/-- R394. -/
def execEgrel (x : Ecmd) (s : State) : Out := s.command x.g (s.egChk x) (fun _ => s.pushTask x (.egrel x) [] none)
/-- R394. -/
def execEgdrop (x : Ecmd) (s : State) : Out := s.command x.g (s.egChk x) (fun _ => s.pushTask x (.egdrop x) [] none)

/-- A tree's count of a core changes (R390). -/
def State.raise (s : State) (t : Nat) (c k : Nat) (m : Cmd) (lq : Nat) : State :=
  let tr := s.trees.toList.getD t {}
  let idle := tr.c.toList.all (· == 0)
  let tr := if idle then { tr with flag := bits m.a.toNat 16 9, fen := bit m.a.toNat 25, lq } else tr
  { s with trees := s.trees.setIfInBounds t { tr with c := tr.c.setIfInBounds c (tr.c.toList.getD c 0 + k) } }
def State.lower (s : State) (t : Nat) (c k : Nat) (by_ : Setter) : State :=
  let tr := s.trees.toList.getD t {}
  let tr := { tr with c := tr.c.setIfInBounds c (tr.c.toList.getD c 0 - k) }
  let s := { s with trees := s.trees.setIfInBounds t tr }
  if tr.c.toList.all (· == 0) && tr.fen then s.incFlag tr.flag { by_ with lq := some tr.lq } else s
def treeC (s : State) (t c : Nat) : Nat := (s.trees.toList.getD t {}).c.toList.getD c 0

/-- The release rule (R380); `ecinit` does not release. -/
def Ctx.released (x : Ctx) (m : Cmd) : Bool :=
  match m.ins with
  | .ecinit _ => true
  | _ => (x.earlier m).isEmpty && x.gacc.all (fun g => m.ext.headD 0 ≤ g.id) && x.portQ.all (fun p => decide (m.born + 2 < p.at_))
def isTask : Instr → Bool
  | .spawn _ => true
  | .ecinit _ => true
  | .ecdone _ => true
  | .egput _ => true
  | .egrel _ => true
  | .egdrop _ => true
  | _ => false
/-- A record's slot of an egress queue. -/
def eqSlotKey (q seq : Nat) : Nat := key 5 (0x100000 + q * 0x8000 + 64 * (seq % 256))
/-- A started task command can perform now. -/
def State.taskReady (s : State) (c : CoreId) (m : Cmd) : Bool :=
  let x := s.ctxOf c
  m.started && !m.faulted && m.fail.isNone && x.released m &&
  (match m.ins with
   | .egput _ => let q := s.eq m.a.toNat; decide (q.put.toNat - q.head.toNat < 256)
   | .spawn _ => !((LRec.of m.pay).isNest && s.nests.toList.all Option.isSome)
   | i => isTask i)
/-- A task command performs and completes, or meets its run-time fault (R386, R391, R394). Of the nest-record read R386 and R399 name
PAGE, ACCESS and ECC alone: another class, of the record's kind or node, is ACCESS. -/
def State.taskPerform (s : State) (c : CoreId) (m : Cmd) : State :=
  let x := s.ctxOf c
  let a := m.a.toNat
  let b := m.b.toNat
  let fail (cls : TrapClass) (addr : Nat) : State := s.fiFail c m cls addr false
  let done (s : State) (v : Nat) : State := s.complete c { m with eff := true } (BitVec.ofNat 64 v)
  match m.ins with
  | .spawn _ =>
    let r := LRec.of m.pay
    let j := b % 16
    let jen := bit b 4
    let n := if r.isNest then 1 else popcount r.cores.toNat 128
    let parent := if jen then some (x.serial, j) else none
    let ctr := x.joins.toList.getD j {}
    if jen && 1023 < ctr.pend + n then fail .illegal 0
    else
      let s1 := if jen then s.setCtxOf c { x with joins := x.joins.setIfInBounds j { ctr with pend := ctr.pend + n } } else s
      if !r.isNest then done (s1.createAll r x.lq.val parent) n
      else
        match s.fnRead x.fn.val r.nest 64 x.conf with
        | .error cls => fail (if cls == .page || cls == .ecc then cls else .access) r.nest
        | .ok bs =>
          match (if r.nest % 64 == 0 then nestOf bs else none) with
          | none => fail .illegal r.nest
          | some (e, ls) => match s1.startNest (r.toNest e ls x.lq.val parent) with
            | some t => done { t with free := t.free + 1 } n
            | none => s
  | .ecinit _ =>
    let t := a % 16
    let k := bits a 8 7
    if 2 ^ 32 ≤ treeC s t k + b then fail .illegal 0
    else let s := s.raise t k b m x.lq.val; done s (treeC s t k)
  | .ecdone _ =>
    let t := a % 16
    if treeC s t c.val < b then fail .illegal 0
    else let s := s.lower t c.val b (nodeSetter s x c); done s (treeC s t c.val)
  | .egput _ =>
    let q := s.eq a
    let bs := leBytes q.put.toNat 8 ++ leBytes x.ctxid.toNat 4 ++ leBytes 0 4 ++ padTo 48 m.pay
    let s := s.store (eqSlotKey a q.put.toNat) bs
    let s := s.setEq a { q with put := q.put + 1, rel := if bit q.ctl.toNat 1 then q.rel else q.put + 1 }
    done s q.put.toNat
  | .egrel _ => eg s x a b false done fail
  | .egdrop _ => eg s x a b true done fail
  | _ => s
where
  eg (s : State) (x : Ctx) (a b : Nat) (drop : Bool) (done : State → Nat → State) (fail : TrapClass → Nat → State) : State :=
    let q := s.eq a
    if bits q.ctl.toNat 8 32 != x.ctxid.toNat then fail .access 0
    else if q.put.toNat ≤ b then fail .illegal 0
    else if b < q.rel.toNat then done s 0
    else
      let n := b + 1 - q.rel.toNat
      let s := if drop then (List.range n).foldl (fun (s : State) i =>
          let k := eqSlotKey a (q.rel.toNat + i)
          let d := (s.mem.get (k + 15)) ||| 0x80#8
          s.store (k + 15) (d :: List.replicate 48 0)) s else s
      done (s.setEq a { q with rel := BitVec.ofNat 64 (b + 1) }) n
/-- R380: the event RELEASE_PERFORM. -/
def execReleasePerform (r : CmdRef) (s : State) : Out :=
  match s.cmd? r with
  | some m => .next (if s.taskReady r.core m then s.taskPerform r.core m else s)
  | none => .next s
/-- R393: the event EGPUT_TIMEOUT. -/
def execEgputTimeout (r : CmdRef) (s : State) : Out :=
  match s.cmd? r with
  | some m =>
    match m.ins with
    | .egput _ =>
      if m.started && !m.faulted && m.fail.isNone && (s.ctxOf r.core).released m && !(s.taskReady r.core m) && m.t0 + 30 * s.ftmo ≤ s.now then
        .next (s.fiFail r.core m .timeout m.a.toNat false)
      else .next s
    | _ => .next s
  | none => .next s

/- Scheduling (R374 to R376). -/
/-- A context's effective priority (R374). -/
def Ctx.prioNow (x : Ctx) (lent : Nat) (aged : Bool) : Nat := max (max x.spri lent) (if aged then 8 else 0)
/-- The work a core could take: effective priority, ready time, and which. -/
structure Work where
  prio : Nat
  since : Nat
  ref : ReadyRef
  deriving DecidableEq, Repr
/-- Eligible ready work of a core (R374). -/
def State.works (s : State) (c : CoreId) : List Work :=
  ((s.saved.zip (List.range s.saved.length)).filterMap (fun p =>
    if p.1.core == c && p.1.phase == .ready then
      some { prio := p.1.ctx.prioNow (s.lend p.1.ctx.lq.val) p.1.aged, since := p.1.since, ref := .ctx p.2 } else none)) ++
  ((s.nests.toList.zip (List.range 16)).filterMap (fun p => match p.1 with
    | some n =>
      if n.open_ && n.cores.getLsbD c.val then
        some { prio := max (max n.prio (s.lend n.lq)) (if n.aged then 8 else 0), since := n.since, ref := .nest (Fin.ofNat 16 p.2) } else none
    | none => none))
/-- The work of highest effective priority, ready longest among equals. -/
def State.bestWork (s : State) (c : CoreId) : Option Work :=
  (s.works c).foldl (fun (b : Option Work) w =>
    match b with
    | none => some w
    | some v => if v.prio < w.prio || (v.prio == w.prio && w.since < v.since) then some w else some v) none

/-- The loader sets a map slot as `xmap` would (R74, R300); a descriptor that R300 does not allow sets nothing (log entry 88). -/
def Ctx.loadMap (x : Ctx) (n : Nat) (w : Word) : Ctx :=
  let a := (setBits w 4 3 n).toNat
  match x.chkMap a with
  | .error _ => x
  | .ok _ =>
    let v : Word := BitVec.ofNat 64 (slotWord a)
    { x with xmaps := x.xmaps.setIfInBounds n v, xmRec := x.xmRec.setIfInBounds n v }
/-- A fresh context finds the core's buffers (R478), its JB zero but for the loader's bytes (R74, R419). -/
def State.placeFresh (s : State) (v : Saved) : State :=
  let c := v.core
  let k := s.core c
  let fn := v.ctx.fn.val
  let jb := bufKey c .jb 0
  let s := if k.lastFn.any (· != fn) then
      { s with mem := s.mem.filter (fun m => !(inBufs c m.1)), ecc := s.ecc.filter (fun w => !(inBufs c w)) }
    else { s with mem := s.mem.filter (fun m => !(jb ≤ m.1 && m.1 < jb + Space.size .jb))
                  ecc := s.ecc.filter (fun w => !(jb ≤ w && w < jb + Space.size .jb)) }
  let s := s.setCore c { k with ctx := v.ctx, busy := true, ibuf := [], stop := none, xlat := none, placed := s.now, holdUntil := s.now + 1 }
  match s.imageOf fn v.ctx.pc.toNat with
  | none => s
  | some i =>
    let s := i.bufs.foldl (fun (s : State) b => s.bufStore c b.1 b.2.1 b.2.2) s
    s.setCtxOf c ((i.maps.zip (List.range 8)).foldl (fun (x : Ctx) p => x.loadMap p.2 p.1) (s.ctxOf c))
/-- A saved context's image, sealed or not, when its bytes are no longer those of the save (R415, R421): the context and the buffers
that they hold, or the class of R427's check that they fail (DESIGN CHOICE, log entry 46). The journal stays the part's own. -/
def State.loadChanged (s : State) (v : Saved) (img : List Byte) : State × Ctx × Option TrapClass :=
  let body := img.drop 256
  let key := s.sealKey v.ctx.fn.val
  if !(v.ctx.headerOk (img.take 256)) then (s, v.ctx, some .illegal)
  else if v.ctx.conf && gcmTag key (sub img 192 12) body != sub img 204 16 then (s, v.ctx, some .access)
  else
    let img := img.take 256 ++ (if v.ctx.conf then gcmCrypt key (sub img 192 12) body else body)
    let jb := bufKey v.core .jb 0
    let s := s.loadBufs v.core img
    ({ s with mem := s.mem.write jb (v.cells.read jb 0x4000) }, v.ctx.reload img v.t0, none)
/-- A context goes onto its core; one that was saved is loaded there. -/
def State.place (s : State) (i : Nat) : State :=
  match s.saved[i]? with
  | none => s
  | some v =>
    let s := { s with saved := s.saved.eraseIdx i }
    if v.fresh then (s.placeFresh v).traceRec v.core 6 0 v.ctx.pc v.ctx.lastSeq 0 0
    else
      let s := s.restoreCells v.core v.cells
      let at_ (o : Nat) : Nat := key 0 (bits (s.func v.ctx.fn.val).imgbase.toNat 12 28 * 4096 + o)
      let bad := v.img.any (fun o => (eccHit s.ecc (at_ o.1) o.2).isSome)
      let img := match v.img with | some o => s.load (at_ o.1) o.2 | none => []
      let (s, x, f) : State × Ctx × Option TrapClass :=
        if bad then (s, v.ctx, some .ecc) else if cellsFrom 0 img == v.bytes then (s, v.ctx, none) else s.loadChanged v img
      let k := s.core v.core
      let rcd : Option TrapRec := f.map (fun cls => { cls, pc := x.pc, seq := x.lastSeq, rpc := x.pc, fatal := true })
      s.setCore v.core { k with ctx := x, busy := true, ibuf := [], stop := some { why := .loading, rcd, since := v.t0 }, xlat := none, placed := s.now }
/-- R374: the event CORE_PLACE. -/
def execCorePlace (c : CoreId) (s : State) : Out :=
  if (s.core c).busy then .next s
  else match s.bestWork c with
    | some { ref := .ctx i, .. } => .next (s.place i)
    | _ => .next s
/-- R383: the event NEST_GRANT: nest work is placed on a free core. -/
def execNestGrant (id : Fin 16) (c : CoreId) (s : State) : Out :=
  if (s.core c).busy then .next s
  else match s.bestWork c with
    | some { ref := .nest i, .. } =>
      if i != id then .next s
      else
        let t := s.grant id c
        .next (if t.saved.length == s.saved.length then s else t.place (t.saved.length - 1))
    | _ => .next s

/-- The flags a wait's conditions name. -/
def waitFlags (ws : List Word) : List Nat := (ws.filter (fun w => condKind w == 0)).map condObj
/-- What blocks launch queues: queue, priority, flag (R375). -/
def State.blockers (s : State) : List (Nat × Nat × Nat) :=
  (List.range 64).flatMap (fun q => match s.headRec q with
    | some r => if bit (s.lq q).qctl.toNat 7 && r.wen && flagCond r.waitc && !(s.cond 0 r.waitc) then [(q, r.prio, condObj r.waitc)] else []
    | none => []) ++
  s.living.flatMap (fun x => match x.wait with
    | some w => (waitFlags w.conds).map (fun f => (x.lq.val, x.pri.val, f))
    | none => [])
/-- One link of lending: the queues' priorities after it. -/
def State.lendStep (s : State) (bs : List (Nat × Nat × Nat)) (l0 : Vector Nat 64) : Vector Nat 64 :=
  bs.foldl (fun (l : Vector Nat 64) b =>
    let st := s.setters.toList.getD b.2.2 {}
    match st.lq with
    | some q => if st.node == s.nodeId then l.setIfInBounds q (max (l.toList.getD q 0) (max b.2.1 (l0.toList.getD b.1 0))) else l
    | none => l) l0
/-- Lending recomputed, through at most 8 links, those of lends from other nodes counted (R375): after `n` links, the lends that took
`n` links to come here join. -/
def State.lending (s : State) : Vector Nat 64 :=
  let bs := s.blockers
  let enter (n : Nat) (l0 : Vector Nat 64) : Vector Nat 64 :=
    (s.lendIn.filter (fun p => p.2.2 == n)).foldl (fun (l : Vector Nat 64) p => l.setIfInBounds p.1 (max (l.toList.getD p.1 0) p.2.1)) l0
  (List.range 8).foldl (fun (l : Vector Nat 64) n => enter (n + 1) (s.lendStep bs l)) (enter 0 (Vector.replicate 64 0))

/-- A pre-emption is asked for: STATUS.PP (R415). -/
def State.askPreempt (s : State) (c : CoreId) : State :=
  let k := s.core c
  if k.busy && k.stop.isNone && k.ctx.ended.isNone then
    s.setCore c { k with ctx := { k.ctx with status := k.ctx.status ||| 8, preHeld := false }, preOut := none }
  else s
/-- At a lap boundary a running context gives way (R374). -/
def State.givesWay (s : State) (c : CoreId) : Bool :=
  let k := s.core c
  match s.bestWork c with
  | none => false
  | some w =>
    let own := k.ctx.prioNow (s.lend k.ctx.lq.val) false
    k.busy && k.stop.isNone && (own < w.prio || (own == w.prio && k.placed + 2048 ≤ s.now) || k.ctx.wait.isSome || k.joinStall)
/-- R374: the event SCHED_LAP_BOUNDARY. -/
def execSchedLapBoundary (s : State) : Out :=
  if s.now % 2048 != 0 then .next s
  else
    let s := match s.limNew with | some (f, a) => { s with ftmo := f, age := a, limNew := none } | none => s
    let s := { s with cores := s.cores.map (fun (k : Core) => { k with ctx := { k.ctx with spri := k.ctx.pri.val } })
                      saved := s.saved.map (fun (v : Saved) => { v with ctx := { v.ctx with spri := v.ctx.pri.val } }) }
    let s := { s with lent := s.lending, lendIn := [] }
    .next ((List.range 128).foldl (fun (s : State) n => if s.givesWay (Fin.ofNat 128 n) then s.askPreempt (Fin.ofNat 128 n) else s) s)
/-- R375: the event LEND_MESSAGE: a queue of this node is lent a priority from another node, over a number of links. -/
def execLendMessage (q : Fin 64) (p : Lend) (s : State) : Out := .next { s with lendIn := s.lendIn ++ [(q.val, p.prio.val, p.links.val)] }
/-- R376: the event AGE_EXPIRY. -/
def execAgeExpiry (w : ReadyRef) (s : State) : Out :=
  match w with
  | .ctx i =>
    match s.saved[i]? with
    | some v => if v.phase == .ready && v.since + 30 * s.age ≤ s.now then .next { s with saved := s.saved.set i { v with aged := true } } else .next s
    | none => .next s
  | .nest i =>
    match s.nests[i] with
    | some n => if n.open_ && n.since + 30 * s.age ≤ s.now then .next { s with nests := s.nests.set i (some { n with aged := true }) } else .next s
    | none => .next s

/-- R396. -/
def execPrio (x : Edst) (s : State) : Out :=
  let c := s.ctx
  let a := (c.src x.a).toNat
  if !c.guard x.g then .next s
  else if 7 < a then .next (s.precise x.g .e .illegal 0)
  else if bits (s.lq c.lq.val).qctl.toNat 4 3 < a then .next (s.precise x.g .e .access 0)
  else .next (s.setCtx { c.result s.now x.g .e 1 (sCode x.d) (BitVec.ofNat 64 c.pri.val) with pri := Fin.ofNat 8 a })
/-- R397. -/
def execYield (x : Edst) (s : State) : Out :=
  let c := s.ctx
  if !c.guard x.g then .next s
  else
    let own := c.prioNow (s.lend c.lq.val) false
    let any := (s.works s.cur).any (fun w => own ≤ w.prio)
    let s := s.setCtx (c.result s.now x.g .e 1 (sCode x.d) (if any then 1 else 0))
    if !any then .next s
    else
      let k := s.core s.cur
      .next (s.setCore s.cur { k with ctx := k.ctx.advance,
                                      stop := some { why := .yield, rcd := none, since := max (s.now + 1) k.holdUntil, at_ := s.now } })

/- Writes of the queues' words (R369, R392). -/
/-- A function's driver, the PF or firmware, or a context of the function. -/
def Who.mayUse (w : Who) (s : State) (fn : Nat) : Bool :=
  match w with
  | .ctx c => (s.core c).busy && (s.ctxOf c).fn.val == fn
  | .vf f => f.val == fn
  | _ => true
/-- R369: the event TAIL_WRITE; queues are open once bring-up has reached step 5 (R456). -/
def execTailWrite (w : CtlW) (s : State) : Out :=
  let q := w.idx % 64
  if s.boot < 5 || !(Who.mayUse w.who s (bits (s.lq q).qctl.toNat 0 4)) then .next s
  else .next ((s.tailWrite q w.v).getD s)
/-- R392: the event EQCTL_WRITE. -/
def execEqctlWrite (w : CtlW) (s : State) : Out :=
  let e := w.idx % 32
  if !(Who.mayUse w.who s (bits (s.eq e).ctl.toNat 40 4)) then .next s
  else .next ((s.eqctlWrite e w.v).getD s)
/-- R392: the event HEAD_WRITE of the host; `off` 0 and a full word are what an aligned 8-byte write is. -/
def execHeadWrite (w : CtlW) (s : State) : Out :=
  let e := w.idx % 32
  let q := s.eq e
  match w.who with
  | .ctx _ => .next s
  | who =>
    if !(Who.mayUse who s (bits q.ctl.toNat 40 4)) then .next s
    else if w.off == 0 && q.head.toNat < w.v.toNat && w.v.toNat ≤ q.rel.toNat then .next (s.setEq e { q with head := w.v, ctl := setBits q.ctl 2 1 0 })
    else .next (s.setEq e { q with ctl := setBits q.ctl 2 1 1 })

end Sys2Proof.Machine
end

