-- ==== Sys2Proof/Machine/System.lean ====
section
/-! DEFINITION. The system instructions (R422 to R430), the writes of control registers (R424, R432 to R437), and the returns
from handlers (R409, R412). -/

namespace Sys2Proof.Machine

/- Writes of control registers (R424). -/
/-- The bits of fields given as first bit and width. -/
def maskOf (fs : List (Nat × Nat)) : Word := fs.foldl (fun m f => m ||| BitVec.ofNat 64 ((2 ^ f.2 - 1) * 2 ^ f.1)) 0
/-- A value sets no bit outside the fields: no reserved bit is set. -/
def only (v : Word) (fs : List (Nat × Nat)) : Bool := v &&& ~~~(maskOf fs) == 0
/-- A format register's rule (R41). -/
def fmtOk (v : Word) : Bool :=
  let n := v.toNat
  let t := tyOf (bits n 0 4)
  let soff := bits n 16 9
  only v [(0, 9), (16, 9)] && bits n 0 4 < 12 &&
    (!bit n 4 || (ETy.canScale t && 1 ≤ soff && soff ≤ (if t.sw == 4 then 361 else 372)))
/-- A breakpoint value fits a kind (R433). -/
def bpvOk (kind : Nat) (v : Word) : Bool :=
  if kind == 1 then bits v.toNat 0 5 == 0 else if kind == 4 then bits v.toNat 48 16 == 0 else true
/-- A breakpoint control's rule (R433); a change of KIND checks the pair again. -/
def bpcOk (old bpv v : Word) : Bool :=
  let k := bits v.toNat 0 3
  only v [(0, 19), (32, 32)] && k < 5 && bits v.toNat 5 3 < 6 && (k == bits old.toNat 0 3 || bpvOk k bpv)
/-- BPC as written by a context of number `id`, or by another writer (R433): SELF. -/
def bpcVal (v : Word) (self : Bool) : Word := setBits v 18 1 (b2n self)
/-- Flags that a write clears leave the results of earlier bundles too (R36, R223). -/
def Ctx.clearOlder (c : Ctx) (now : Nat) (fl : Fl) (sm : BitVec 3) (am : Fin 128 → Bool) : Ctx :=
  let clr (f : Flight) : Flight :=
    { f with flags := f.flags &&& ~~~fl, sm := f.sm &&& ~~~sm, am := match f.am with | some r => if am r then none else some r | none => none }
  { c with flight := c.flight.map (fun (f : Flight) => if f.born < now then clr f else f), frameFl := c.frameFl.map clr }
/-- The bit that a `vsdiv` of the issuing bundle sets in SMAM0 (`hi` false) or SMAM1. -/
def Ctx.raisedRow (c : Ctx) (hi : Bool) : Word := amBit hi c.raisedAm
/-- A `syswr` of register `n` by the context on core `c`; `none` is ILLEGAL. -/
def State.regWrite (s : State) (c : CoreId) (n : Nat) (v : Word) : Option State :=
  let k := s.core c
  let x := k.ctx
  let put (ok : Bool) (y : Ctx) : Option State := if ok then some (s.setCtxOf c y) else none
  match n with
  | 0x000 => put (only v [(0, 5)]) { x with status := (x.status &&& ~~~20#64) ||| (v &&& 20#64) }
  | 0x001 => put (only v [(0, 1), (5, 52)]) { x with trapvec := v }
  | 0x005 =>
    put (only v [(0, 6), (16, 5)])
      { x.clearOlder s.now (v.setWidth 6) 0 (fun _ => false) with
        fpstat := (x.fpstat &&& ~~~v &&& 0x3F#64) ||| (v &&& 0x1F0000#64) ||| x.raised.setWidth 64 }
  | 0x006 => put (only v [(3, 15)]) { x with sp := v }
  | 0x009 => put (only v [(0, 9), (16, 10)] && bits v.toNat 0 9 + bits v.toNat 16 10 ≤ 512) { x with flgext := v }
  | 0x00A => put (only v [(0, 1)]) { x with inbox := v }
  | 0x00C =>
    put (only v [(0, 3)])
      { x.clearOlder s.now 0 (v.setWidth 3) (fun _ => false) with smstat := (x.smstat &&& ~~~v) ||| x.raisedSm.setWidth 64 }
  | 0x00D =>
    some (s.setCtxOf c { x.clearOlder s.now 0 0 (fun r => r.val < 64 && v.getLsbD r.val) with smam0 := (x.smam0 &&& ~~~v) ||| x.raisedRow false })
  | 0x00E =>
    some (s.setCtxOf c { x.clearOlder s.now 0 0 (fun r => 64 ≤ r.val && v.getLsbD (r.val - 64)) with
                         smam1 := (x.smam1 &&& ~~~v) ||| x.raisedRow true })
  | 0x00F => put (only v [(0, 6)]) { x with mstat := x.mstat &&& ~~~v }
  | 0x011 => put (only v [(0, 4), (5, 7), (32, 32)]) { x with chstat := x.chstat &&& ~~~(v &&& 0x1EF#64) }
  | 0x012 => put (only v [(0, 5), (16, 32)]) { x with xstat := x.xstat &&& ~~~(v &&& 0x1F#64) }
  | 0x014 => put (only v [(0, 57), (61, 3)]) { x with dumpstat := x.dumpstat &&& ~~~(v &&& 0xC000000000000000#64) }
  | 0x088 => if only v [(0, 4)] then some (s.setCore c { k with bphit := k.bphit &&& ~~~v }) else none
  | 0x090 =>
    if only v [(0, 4), (8, 1)] then some (s.setCore c { k with trctl := v, trptr := k.trptr &&& 0x0000FFFF00000000#64 }) else none
  | n =>
    if 0x020 ≤ n && n < 0x030 then put (fmtOk v) { x with wfmt := x.wfmt.setIfInBounds (n - 0x020) (v.setWidth 32) }
    else if 0x030 ≤ n && n < 0x040 then put (fmtOk v) { x with afmt := x.afmt.setIfInBounds (n - 0x030) (v.setWidth 32) }
    else if 0x080 ≤ n && n < 0x084 then
      let i := n - 0x080
      if bpcOk (k.bpc.toList.getD i 0) (k.bpv.toList.getD i 0) v then
        some (s.setCore c { k with bpc := k.bpc.setIfInBounds i (bpcVal v (bits v.toNat 32 32 == x.ctxid.toNat)) })
      else none
    else if 0x084 ≤ n && n < 0x088 then
      let i := n - 0x084
      if bpvOk (bits (k.bpc.toList.getD i 0).toNat 0 3) v then some (s.setCore c { k with bpv := k.bpv.setIfInBounds i v }) else none
    else none

/-- A step of a core other than the current one. -/
def State.at (s : State) (c : CoreId) (f : State → State) : State := { f { s with cur := c } with cur := s.cur }
/-- The effect of a `syswr`: the register, or ILLEGAL (R424). -/
def State.sysWrite (s : State) (g : Guard) (n : Nat) (v : Word) : State :=
  match s.regWrite s.cur n v with
  | some t => t
  | none => s.precise g .e .illegal 0
/-- R424: `syswr`. -/
def execSyswr (x : SysWr) (s : State) : Out :=
  if s.ctx.guard x.g then .next (s.sysWrite x.g x.reg.toNat (s.ctx.src x.a)) else .next s

/-- The banks' format register `n` is held by an earlier command that names a range of its bank (R41). -/
def Ctx.fmtHeld (x : Ctx) (n : Nat) : Bool :=
  let sp : Space := if n < 0x030 then .wb else .ab
  let lo := (n % 16) * bankSize
  let bank : List Rng := { buf := sp, lo, hi := lo + bankSize } :: (if sp == .ab then [shadowRng lo (lo + bankSize)] else [])
  x.cmds.any (fun m => !m.done && (meetsAny m.reads bank || meetsAny m.writes bank))
/-- R41: the event FORMAT_REG_WRITE, a held `syswr` to WFMT or AFMT that now applies. -/
def execFormatRegWrite (w : RegW) (s : State) : Out :=
  if (s.core w.core).busy && 0x020 ≤ w.reg && w.reg < 0x040 && !((s.ctxOf w.core).fmtHeld w.reg) then
    .next (s.at w.core (fun t => t.sysWrite {} w.reg w.v))
  else .next s
/-- R438: the event TRCTL_WRITE. -/
def execTrctlWrite (w : RegW) (s : State) : Out :=
  if (s.core w.core).busy && w.reg == 0x090 then .next (s.at w.core (fun t => t.sysWrite {} w.reg w.v)) else .next s
/-- R433: the event BPC_WRITE. -/
def execBpcWrite (w : RegW) (s : State) : Out :=
  if (s.core w.core).busy && 0x080 ≤ w.reg && w.reg < 0x084 then .next (s.at w.core (fun t => t.sysWrite {} w.reg w.v)) else .next s

/-- What `sysrd` reads: values as of stage I1 of its bundle (R424). -/
def State.sysRead (s : State) (n : Nat) : Option Word :=
  let k := s.core s.cur
  match k.ctx.pre, n with
  | some p, 0x005 => some p.fp
  | some p, 0x006 => some p.sp
  | some p, 0x008 => some p.loopst
  | some p, 0x00B => some (if p.act then 1 else 0)
  | some p, 0x00C => some p.sm
  | some p, 0x00D => some p.am0
  | some p, 0x00E => some p.am1
  | _, n => s.regRead k k.ctx n
/-- What a read clears: XSTAT.RTRY (R288), FISTAT (R320). -/
def Ctx.readClears (c : Ctx) (n : Nat) : Ctx :=
  if n == 0x012 then { c with xstat := c.xstat &&& 0x1F#64 } else if n == 0x013 then { c with fistat := 0 } else c
/-- R424: `sysrd`. -/
def execSysrd (x : SysRd) (s : State) : Out :=
  if !s.ctx.guard x.g then .next s
  else match s.sysRead x.reg.toNat with
    | none => .next (s.precise x.g .e .illegal 0)
    | some v => .next (s.setCtx ((s.ctx.result s.now x.g .e 1 (sCode x.d) v).readClears x.reg.toNat))
/-- R288: the event XSTAT_READ, a read into a scalar destination. -/
def execXstatRead (r : RegR) (s : State) : Out :=
  if (s.core r.core).busy then
    let c := s.ctxOf r.core
    .next (s.setCtxOf r.core ((c.result s.now {} .e 1 (sCode r.d) c.xstat).readClears 0x012))
  else .next s

/- Traps that a program asks for (R423). -/
/-- The record of a trap taken after its bundle. -/
def State.ownTrap (s : State) (cls : TrapClass) (imm : BitVec 32) : TrapRec :=
  { cls, slot := .e, pc := s.ctx.pc, seq := s.ctx.lastSeq, addr := imm.setWidth 64, esw := (s.core s.cur).syllable .e }
/-- R423: `trap`. -/
def execTrap (x : Eimm) (s : State) : Out :=
  if s.ctx.guard x.g then .next (s.afterBundle s.cur (s.ownTrap .trap x.imm)) else .next s
/-- R423, R435: `bkpt`; hits of the same boundary join its record. -/
def execBkpt (x : Eimm) (s : State) : Out :=
  let c := s.ctx
  if !c.guard x.g || !c.status.getLsbD 2 then .next s
  else
    let r := s.ownTrap .bkpt x.imm
    if c.hits.isEmpty || c.ih then .next (s.afterBundle s.cur r)
    else .next ((s.setCtx { c with hits := [] }).afterBundle s.cur { r with esw := (s.core s.cur).bphit })
/-- R429: `trace`. -/
def execTrace (x : Trc) (s : State) : Out :=
  let c := s.ctx
  if c.guard x.g then .next (s.traceRec s.cur 1 0 c.pc c.lastSeq (c.src x.a) (c.src x.b &&& 0xFFFF#64)) else .next s
/-- R430: `jrd`. -/
def execJrd (x : Edst) (s : State) : Out :=
  let c := s.ctx
  let off := 8 * bits (c.src x.a).toNat 0 12
  let base := if x.sub then 0x4000 else 0
  if !c.guard x.g then .next s
  else if 0x4000 ≤ off then .next (s.precise x.g .e .buffer (base + off))
  else if c.kills x.g 4 then .next s
  else
    let q := c.queue s.now .e ((s.core s.cur).syllable .e) .jb (.load (base + off) 8 .f32 true)
    .next (s.setCtx (q.fly x.g 4 { fin := s.now + 4, born := s.now, code := sCode x.d, slot := .e, val := 0, sq := x.g.sq, pid := c.nextPort }))

/- Return from a handler, and replay (R409, R412). -/
/-- What is on its way for a command is forgotten, and what this node has answered it; the answer to a `renq` stands, which is not
sent twice (R413). -/
def State.dropCmdReqs (s : State) (c : CoreId) (seq : BitVec 32) : State :=
  let keeps := (s.ctxOf c).cmds.any (fun m => m.seq == seq && (match m.ins with | .renq _ => true | _ => false))
  { s with held := if keeps then s.held else s.held.filter (fun h => h.whom != { node := s.nodeId, core := c.val, seq := seq.toNat })
           tracks := s.tracks.filterMap (fun r => if r.core == c && r.src == .cmd seq.toNat then r.gone else some r)
           winUnits := s.winUnits.filter (fun u => !(u.core == c && u.src == .cmd seq.toNat))
           pkts := s.pkts.filter (fun p => match p.id with | .cmd d q _ => !(d == c && q == seq.toNat) | _ => true) }
/-- A command is pushed again to its engine (R412): its operands, progress, number and place stay. -/
def Cmd.again (m : Cmd) : Cmd :=
  { m with started := false, faulted := false, fail := none, staged := [], hist := [], asks := 0, late := [], asked := [], pages := [] }
/-- Replay of a faulted command (R412). -/
def State.replay (s : State) (c : CoreId) (m : Cmd) : State :=
  let s := s.dropCmdReqs c m.seq
  if m.eff then s.completeCmd c { m with faulted := false, fail := none } m.res else s.putCmd c m.again
/-- The command whose fault a running handler has taken (R405). -/
def Ctx.inHandler (x : Ctx) (m : Cmd) : Bool :=
  x.ih && bits x.trapinfo.toNat 10 3 != 0 && bits x.trapinfo.toNat 32 32 == m.seq.toNat
/-- Replay of the faulted commands whose records are not still to be delivered, nor in the hands of a handler that still runs (R412,
R416, R449). -/
def State.replayFaulted (s : State) (c : CoreId) : State :=
  let x := s.ctxOf c
  (x.cmds.filter (fun m => m.faulted && !m.done && !x.engFaults.contains m.seq && !x.engHeld.contains m.seq && !(x.inHandler m))).foldl (fun (s : State) m => s.replay c m) s
/-- A faulted command is completed without effect, its token 0 (R409). -/
def State.dropCmd (s : State) (c : CoreId) (seq : BitVec 32) : State :=
  match (s.ctxOf c).cmds.find? (fun m => m.seq == seq && !m.done) with
  | none => s
  | some m =>
    let s := (s.dropCmdReqs c seq).completeCmd c { m with faulted := false, fail := none } 0
    let s := if m.eng == .ce then s.setCtxOf c (s.ctxOf c).unholdLinks else s
    if isCoded m.ins then { s with sends := s.sends.filter (fun b => b.pkt.slot.val != s.cmSlot c m) } else s
/-- A precise trap that is fatal when reported (R400). -/
def State.preciseFatal (s : State) (g : Guard) (slot : Slot) (cls : TrapClass) (addr : Nat) : State :=
  let k := s.core s.cur
  if k.ctx.faultKills g then s
  else
    let r : TrapRec := { cls, slot, pc := k.ctx.pc, rpc := k.ctx.pc, seq := k.ctx.lastSeq, addr := BitVec.ofNat 64 addr,
                         esw := k.syllable slot, fatal := true }
    let s := s.takeTrap s.cur r s.now
    let k := s.core s.cur
    s.setCore s.cur { k with traps := k.traps + 1 }
/-- `rte` and `rte.drop` once their hold has ended (R409). -/
def State.rte (s : State) (g : Guard) (drop : Bool) : State :=
  let c := s.ctx
  let rec0 := bufKey s.cur .jb 0x4000
  if !c.ih then s.precise g .e .illegal 0
  else if drop && bits (s.mem.readN rec0 8) 10 3 == 0 then s.precise g .e .illegal 0
  else match eccHit s.ecc rec0 0x3A40 with
    | some w => s.preciseFatal g .e .ecc (w - bufKey s.cur .jb 0)
    | none =>
      let s := if drop then s.dropCmd s.cur (BitVec.ofNat 32 (s.mem.readN (rec0 + 16) 4)) else s
      (s.returnTrap s.cur).replayFaulted s.cur
/-- R409: `rte`. -/
def execRte (g : Guard) (s : State) : Out := if s.ctx.guard g then .next (s.rte g false) else .next s
/-- R409: `rte.drop`. -/
def execRteDrop (g : Guard) (s : State) : Out := if s.ctx.guard g then .next (s.rte g true) else .next s

/- Images and dumps at a program's request (R425 to R428). -/
/-- What `ctxsave`, `ctxrest` and `dump` may reach: HBM, slices and pool; other kinds are BUFFER. -/
def sysPol (_ : State) (pa _n : Nat) : Option TrapClass := if plainKind (paKind pa) then none else some .buffer
/-- Bytes written to a virtual address. -/
def State.sysPut (s : State) (va : Nat) (bs : List Byte) : State × Option (TrapClass × Nat) := s.gWriteVa s.cur va bs (.ok []) sysPol
/-- Bytes read; those of another node are free values. -/
def State.sysGet (s : State) (va n : Nat) : State × Except (TrapClass × Nat) (List Byte) :=
  { s with free := s.free + 1 }.gReadVa s.cur va n (.ok ((List.range n).map (Config.farByte s.free))) sysPol
/-- Writes in order until one meets a fault. -/
def State.sysPuts (s : State) : List (Nat × List Byte) → State × Option (TrapClass × Nat)
  | [] => (s, none)
  | w :: r => match s.sysPut w.1 w.2 with
    | (s, some e) => (s, some e)
    | (s, none) => s.sysPuts r
/-- R426: `ctxsave`. -/
def execCtxsave (x : CtxOp) (s : State) : Out :=
  let c := s.ctx
  let a := (c.src x.a).toNat
  let b := (c.src x.b).toNat
  if !c.guard x.g then .next s
  else if b % 64 != 0 then .next (s.precise x.g .e .illegal 0)
  else if a % 64 != 0 then .next (s.precise x.g .e .align a)
  else
    let t0 := s.now + 1
    let len := s.imageLen s.cur (c.result s.now x.g .e 1 (sCode x.d) 0).advance t0
    let v : Word := BitVec.ofNat 64 (if b < len then len + 2 ^ 63 else len)
    let done (s : State) : State := s.setCtx (s.ctx.result s.now x.g .e 1 (sCode x.d) v)
    if b < len then .next (done s)
    else
      let img := s.image s.cur (c.result s.now x.g .e 1 (sCode x.d) v).advance t0
      let s := if c.conf then { s with free := s.free + 1 } else s
      match s.sysPuts [(a, leBytes 0 8), (a + 8, img.drop 8), (a, img.take 8)] with
      | (s, some (cls, va)) => .next (s.precise x.g .e cls va)
      | (s, none) => .next (done s)
/-- A read fault of the checking pass: precise, and for an uncorrectable error in the image fatal when reported (R400, R427). -/
def State.imageFault (s : State) (g : Guard) (cls : TrapClass) (va : Nat) : State :=
  if cls == .ecc then s.preciseFatal g .e .ecc va else s.precise g .e cls va
/-- The bytes of an image that can be read: pieces of `[va, va+n)`, up to the first fault. -/
def State.sysRun (s : State) (va n : Nat) : State × List Byte × Option (TrapClass × Nat) :=
  (chunks va n).foldl (fun (a : State × List Byte × Option (TrapClass × Nat)) ch =>
    if a.2.2.isSome then a
    else match a.1.sysGet ch.1 ch.2 with
      | (s, .ok bs) => (s, a.2.1 ++ bs, none)
      | (s, .error e) => (s, a.2.1, some e)) (s, [], none)
/-- R427: the loading pass, in the cycle after the checking pass; a fault in it is fatal ECC or fatal PAGE, and is reported. -/
def State.restLoad (s : State) (c : CoreId) : State :=
  match (s.ctxOf c).rest with
  | none => s
  | some r =>
    let s := s.setCtxOf c { s.ctxOf c with rest := none }
    let n := match (s.sysRun r.a 256) with | (_, h, none) => rdOf h 16 8 | _ => 256
    match s.sysRun r.a n with
    | (s, got, some (cls, va)) =>
      let x := s.ctxOf c
      let rcd : TrapRec := { cls := if cls == .ecc then .ecc else .page, slot := .e, pc := r.pc, rpc := r.pc, seq := r.seq, esw := r.syl,
                             addr := BitVec.ofNat 64 va, prog := BitVec.ofNat 64 got.length, fatal := true }
      (s.setCtxOf c { x with trapvec := x.trapvec &&& ~~~1#64 }).takeTrap c rcd s.now
    | (s, img, none) =>
      let x := s.ctxOf c
      let body := img.drop 256
      let img := img.take 256 ++ (if x.conf then gcmCrypt (s.sealKey x.fn.val) (sub img 192 12) body else body)
      let s := s.loadBufs c img
      s.setCtxOf c ((s.ctxOf c).loadImage img s.now)
/-- R427: `ctxrest`: the checking pass; the loading pass is the next cycle's. -/
def execCtxrest (x : CtxOp) (s : State) : Out :=
  let c := s.ctx
  let a := (c.src x.a).toNat
  if !c.guard x.g then .next s
  else if c.ih || c.chain.isSome then .next (s.precise x.g .e .illegal 0)
  else if a % 64 != 0 then .next (s.precise x.g .e .align a)
  else match s.sysGet a 256 with
    | (s, .error (cls, va)) => .next (s.imageFault x.g cls va)
    | (s, .ok h) =>
      if !c.headerOk h then .next (s.precise x.g .e .illegal 0)
      else match s.sysGet (a + 256) (rdOf h 16 8 - 256) with
        | (s, .error (cls, va)) => .next (s.imageFault x.g cls va)
        | (s, .ok ct) =>
          let iv := sub h 192 12
          let key := s.sealKey c.fn.val
          if c.conf && gcmTag key iv ct != sub h 204 16 then .next (s.precise x.g .e .access a)
          else .next (s.setCtx { s.ctx with rest := some { a, pc := c.pc, seq := c.lastSeq, syl := (s.core s.cur).syllable .e } })
/-- The header of a dump (R428). -/
def dumpHeader (need written ctxid : Nat) (trunc sld : Bool) (iv tag : List Byte) : List Byte :=
  leBytes (1 + b2n trunc * 2 ^ 32 + b2n sld * 2 ^ 33) 8 ++ leBytes need 8 ++ leBytes written 8 ++ leBytes ctxid 8 ++
    padTo 12 iv ++ padTo 20 tag
/-- R428: `dump`. -/
def execDump (x : CtxOp) (s : State) : Out :=
  let c := s.ctx
  let a := (c.src x.a).toNat
  let b := (c.src x.b).toNat
  if !c.guard x.g then .next s
  else if b % 64 != 0 || b < 64 then .next (s.precise x.g .e .illegal 0)
  else if a % 64 != 0 then .next (s.precise x.g .e .align a)
  else
    let body := s.dumpBody s.cur c (s.now + 1)
    let (ct, iv, tag) := if c.conf then s.sealBytes c.fn.val body else (body, [], [])
    let s := if c.conf then { s with free := s.free + 1 } else s
    let need := 64 + body.length
    let trunc := decide (b < need)
    let written := min need b
    let base := b2n trunc * 2 ^ 62 + b2n c.conf * 2 ^ 61
    match s.sysPuts [(a + 64, ct.take (b - 64)), (a, dumpHeader need written c.ctxidWord trunc c.conf iv tag)] with
    | (s, none) =>
      .next (s.setCtx { s.ctx.result s.now x.g .e 1 (sCode x.d) (BitVec.ofNat 64 written) with dumpstat := BitVec.ofNat 64 base })
    | (s, some (_, va)) =>
      let got := if va < a + 64 then written - 64 else va - (a + 64)
      .next (s.setCtx { s.ctx.result s.now x.g .e 1 (sCode x.d) (BitVec.ofNat 64 (got + 2 ^ 63)) with
                        dumpstat := BitVec.ofNat 64 (base + 2 ^ 63 + va % 2 ^ 57) })

end Sys2Proof.Machine
end

