-- ==== Sys2Proof/Machine/Save.lean ====
section
/-! DEFINITION. Pre-emption, the saving of contexts and their images, their resumption, the trap queue's disposal of records
(R410 to R416, R449), function-level reset (R420, R447) and invalidation (R139, R446). -/

namespace Sys2Proof.Machine

/- Pre-emption (R415). -/
/-- R415: the event PREEMPT_REQUEST; a core without a context answers code 1. -/
def execPreemptRequest (c : CoreId) (s : State) : Out :=
  let k := s.core c
  if !k.busy then .next (s.setCore c { k with preOut := some 1 })
  else .next (s.setCore c { k with ctx := { k.ctx with status := k.ctx.status ||| 8, preHeld := false }, preOut := none })
/-- A pending pre-emption can be taken: a command boundary, with no fault or hit before it (R415, R416, R436). -/
def Core.givesUp (k : Core) (now : Nat) : Bool :=
  let x := k.ctx
  k.busy && decide (k.holdUntil ≤ now) && x.trapDue.isNone && x.status.getLsbD 3 && !x.preHeld && k.stop.isNone && !x.issuing &&
    x.ended.isNone && x.rest.isNone && x.engFaults.isEmpty && (x.hits.isEmpty || x.ih)
/-- R415: the event PREEMPT_TAKE. -/
def execPreemptTake (c : CoreId) (s : State) : Out :=
  let k := s.core c
  .next (if k.givesUp s.now then s.setCore c { k with ctx := { k.ctx with thaw := none }, stop := some { why := .preempt, rcd := none, since := s.now } } else s)

/- Stopping points (R243, R273, R309, R335, R364). -/
/-- A command that stays outstanding while its context is saved. -/
def staysOut (i : Instr) : Bool :=
  isCoded i || (match i with | .xextAdd _ => true | .xextRelease _ => true | _ => false)
/-- A started command stands at a point at which a save may take it, a transfer that a faulted one of its class holds among them; `since` is the cycle the core stopped. A `spawn` that has been
released completes first (R335, R398). -/
def State.stopsAt (s : State) (c : CoreId) (since : Nat) (m : Cmd) : Bool :=
  let x := s.ctxOf c
  if m.faulted || staysOut m.ins then true
  else if m.fail.isSome || m.eff then false
  else if m.inb.isSome then m.ins == idleIns
  else match m.ins with
    | .mstr _ => true
    | .mstrr _ => true
    | .mdrain _ => true
    | .mabort _ => true
    | .waitQ _ => true
    | .xlist _ => m.move.isNone
    | .xget _ => x.gHeld m && m.asked.isEmpty && m.staged.isEmpty
    | .xput _ => x.gHeld m && m.asked.isEmpty && m.staged.isEmpty
    | .renq _ => !(s.onWay (.cmd c m.seq.toNat 0))
    | i =>
      if isBlock i then !((x.earlier m).all (fun e => e.eng != .ce || e.aside) && s.vaBegun c m since)
      else match i with
        | .spawn _ => !(x.released m)
        | i => isTask i && !(s.taskReady c m)
/-- Steps 2 and 3 of R415 are over. -/
def State.atRest (s : State) (c : CoreId) (since : Nat) : Bool :=
  let x := s.ctxOf c
  x.gacc.isEmpty && x.tokDue.isEmpty && x.portQ.isEmpty && x.cmds.all (fun m => m.done || !m.started || s.stopsAt c since m)
/-- A command returns to the journal: not started, its progress kept. -/
def State.toJournal (s : State) (c : CoreId) (m : Cmd) : State :=
  if m.done || !m.started || m.faulted || staysOut m.ins then s
  else
    let (s, m) := s.stopStream c m
    (s.dropCmdReqs c m.seq).putCmd c m.again
/-- Every command is at rest in the journal: streams stop, and blocks in flight are discarded (R243, R273). -/
def State.restCmds (s : State) (c : CoreId) : State :=
  let s := s.loseBlocks c
  (s.ctxOf c).cmds.foldl (fun (s : State) m => s.toJournal c m) s

/- The function's image area (R415, R451). -/
def State.imgBase (s : State) (fn : Nat) : Nat := key 0 (bits (s.func fn).imgbase.toNat 12 28 * 4096)
/-- The images that the area holds: offset and length. -/
def State.imgList (s : State) (fn : Nat) : List (Nat × Nat) :=
  s.saved.filterMap (fun (v : Saved) => if v.ctx.fn.val == fn then v.img else none) ++
    (s.deadImgs.filter (fun d => d.fn == fn)).map (fun d => (d.off, d.len))
def imgSum (l : List (Nat × Nat)) : Nat := (l.map Prod.snd).foldl (· + ·) 0
/-- The place of an image once the area is packed. -/
def packedOff (l : List (Nat × Nat)) (o : Nat) : Nat := imgSum (l.filter (fun p => p.1 < o))
/-- The images move together; marks of uncorrectable words move with their bytes. -/
def State.packImages (s : State) (fn : Nat) : State :=
  let l := s.imgList fn
  if l.all (fun p => packedOff l p.1 == p.1) then s else
  let base := s.imgBase fn
  let moved := l.map (fun p => (packedOff l p.1, s.load (base + p.1) p.2,
    (s.ecc.filter (fun w => base + p.1 ≤ w && w < base + p.1 + p.2)).map (fun w => w - p.1 + packedOff l p.1)))
  let s := moved.foldl (fun (s : State) m => { s.store (base + m.1) m.2.1 with ecc := clearEcc s.ecc (base + m.1) m.2.1.length false }) s
  { s with ecc := s.ecc ++ (moved.map (fun m => m.2.2)).flatten
           saved := s.saved.map (fun (v : Saved) => if v.ctx.fn.val == fn then { v with img := v.img.map (fun p => (packedOff l p.1, p.2)) } else v)
           deadImgs := s.deadImgs.map (fun (d : DeadImg) => if d.fn == fn then { d with off := packedOff l d.off } else d) }
/-- An image is written to the area; its offset. -/
def State.putImage (s : State) (fn : Nat) (img : List Byte) : State × Nat :=
  let s := s.packImages fn
  let o := imgSum (s.imgList fn)
  (s.store (s.imgBase fn + o) img, o)

/- The trap queue (R410). -/
/-- The place that a record takes. -/
def State.tqPlace (s : State) (fatal : Bool) : Option Nat :=
  (List.range (if fatal then 64 else 60)).find? (fun i => (s.tq.toList.getD i none).isNone)
def State.setTq (s : State) (i : Nat) (r : Option TrapRec) : State := { s with tq := s.tq.setIfInBounds i r }

/-- Results in flight of a stopped context go on from the first bundle, which could issue at cycle `t` (R83). -/
def Ctx.rebase (x : Ctx) (since t : Nat) : Ctx :=
  { x.shift since t with portUse := [], chk := none, chkOk := false, pre := none, thaw := some t, sysAt := 0 }
/-- The core goes on with the context that stands on it, from cycle `t`. -/
def State.goOn (s : State) (c : CoreId) (since t : Nat) : State :=
  let k := s.core c
  s.setCore c { k with ctx := k.ctx.rebase since t, stop := none, holdUntil := max k.holdUntil t }
/-- STATUS.PP clears, and the requester learns a code (R415). -/
def State.answerPre (s : State) (c : CoreId) (code : Nat) : State :=
  let k := s.core c
  if k.ctx.status.getLsbD 3 then
    s.setCore c { k with ctx := { k.ctx with status := k.ctx.status &&& ~~~8#64 }, preOut := some code }
  else s
/-- The context on a core becomes a saved one, its image in the area (R415); `ready` is the cycle from which it counts as ready. -/
def State.saveAs (s : State) (c : CoreId) (phase : Phase) (since ready : Nat) : State :=
  let s := s.answerPre c 0
  let s := ((s.ctxOf c).cmds.filter (fun m => m.faulted && !staysOut m.ins)).foldl (fun (s : State) m => s.dropCmdReqs c m.seq) s
  let k := s.core c
  let x := { k.ctx with portUse := [], chk := none, chkOk := false, pre := none }
  let img := s.image c x since
  let (s, o) := s.putImage x.fn.val img
  let s := if x.conf then { s with free := s.free + 1 } else s
  let v : Saved := { ctx := x.dropDead, core := c, phase, since := ready, cells := s.keptCells c x, t0 := since, img := some (o, img.length), bytes := cellsFrom 0 img }
  let s := s.traceRec c 5 0 x.pc x.lastSeq 0 0
  { s with saved := s.saved ++ [v] }.freeCore c
/-- The area has room for the context's image. -/
def State.hasRoom (s : State) (c : CoreId) (since : Nat) : Bool :=
  let x := s.ctxOf c
  imgSum (s.imgList x.fn.val) + s.imageLen c x since ≤ (s.func x.fn.val).imglen.toNat
/-- What a pre-empted context waits for (R374). -/
def Core.phase (k : Core) : Phase := if k.ctx.wait.isSome then .wait else if k.joinStall then .join k.joinWaits else .ready
/-- The end of a save (R410, R415): pre-empted contexts are saved or go on; reported ones take a place of the trap queue. -/
def State.finishSave (s : State) (c : CoreId) (st : Stop) : State :=
  let k := s.core c
  match st.rcd with
  | none =>
    let s := s.restCmds c
    -- a context that yields is ready from its own cycle (R397)
    if s.hasRoom c st.since then (if st.why == .yield then s.saveAs c .ready st.since st.at_ else s.saveAs c k.phase st.since st.since)
    else (s.answerPre c 3).goOn c st.since (s.now + 1)
  | some r =>
    match s.tqPlace r.fatal with
    | none =>
      let st2 : Stop := { why := if r.fatal then .check else .full, rcd := st.rcd, since := st.since }
      { s.setCore c { k with stop := some st2 } with
        mchecks := if r.fatal && st.why != .check then s.mchecks + 1 else s.mchecks }
    | some i =>
      let s := s.restCmds c
      if !s.hasRoom c st.since then
        let s := if r.fatal then s else s.answerPre c 3
        let k := s.core c
        let r : TrapRec := { r with inpl := true }
        let st : Stop := { why := .inplace, rcd := some r, since := st.since }
        (s.setTq i (some r)).setCore c { k with stop := some st }
      else if !r.fatal then (s.setTq i (some r)).saveAs c (.trapped i) st.since st.since
      else
        let x := s.ctxOf c
        let img := s.image c x st.since
        let (s, o) := s.putImage x.fn.val img
        let s := { s.setTq i (some r) with free := s.free + 1, deadImgs := s.deadImgs ++ [({ fn := x.fn.val, off := o, len := img.length, place := i } : DeadImg)] }
        s.retire c (Config.exitNone s.free) 1 2
/-- R415: the event CONTEXT_SAVED, when the engines are at rest and the accesses have performed. -/
def execContextSaved (c : CoreId) (s : State) : Out :=
  match (s.core c).stop with
  | some st =>
    if st.why != .loading && st.why != .inplace && s.atRest c st.since then .next (s.finishSave c st) else .next s
  | none => .next s

/- Resume (R412, R415). -/
/-- R415: the event CONTEXT_RESUME, once the image is loaded: the journal is replayed and the resume PC issues. -/
def execContextResume (c : CoreId) (s : State) : Out :=
  match (s.core c).stop with
  | some st =>
    if st.why != .loading then .next s
    else
      let s := (s.ctxOf c).cmds.foldl (fun (s : State) m => s.journal c m) (s.goOn c st.since (s.now + 1))
      let s := (s.cellClean c false).cellClean c true
      let x := s.ctxOf c
      let s := s.traceRec c 6 0 x.pc x.lastSeq 0 0
      .next (match st.rcd with | some r => s.takeTrap c r (s.now + 1) | none => s)
  | none => .next s

/- TQCMD (R449). -/
def tqWord (slot cmd : Nat) (err : Bool) : Word := BitVec.ofNat 64 (cmd + slot * 2 ^ 16 + b2n err * 2 ^ 31)
def State.tqRefuse (s : State) (slot cmd : Nat) : State := { s with tqcmd := tqWord slot cmd true }
def State.tqDone (s : State) (slot cmd : Nat) : State := { s.setTq slot none with tqcmd := tqWord slot cmd false }
/-- The saved context of a record's place. -/
def State.trapped? (s : State) (slot : Nat) : Option (Nat × Saved) :=
  ((List.range s.saved.length).filterMap (fun i => match s.saved[i]? with
    | some v => if v.phase == .trapped slot then some (i, v) else none
    | none => none)).head?
/-- The core on which a record's context stands in place. -/
def State.inPlace? (s : State) (r : TrapRec) : Option (CoreId × Stop) :=
  let c : CoreId := Fin.ofNat 128 r.core
  match (s.core c).stop with
  | some st => if st.why == .inplace && st.rcd == some r then some (c, st) else none
  | none => none
/-- Resume, with or without drop. -/
def State.tqResume (s : State) (slot : Nat) (drop : Bool) : State :=
  let cmd := if drop then 2 else 1
  match s.tq.toList.getD slot none with
  | none => s.tqRefuse slot cmd
  | some r =>
    if r.fatal || (drop && r.eng == .seq) then s.tqRefuse slot cmd
    else
      let act (c : CoreId) (t : State) : State := (if drop then t.dropCmd c r.seq else t).replayFaulted c
      match s.trapped? slot with
      | some (i, v) =>
        let s := s.inSaved i (act v.core)
        ({ s with saved := (match s.saved[i]? with
            | some v => s.saved.set i { v with phase := if v.ctx.wait.isSome then .wait else .ready, since := s.now }
            | none => s.saved) }).tqDone slot cmd
      | none => match s.inPlace? r with
        | some (c, st) => ((act c s).goOn c st.since (s.now + 16)).tqDone slot cmd
        | none => s.tqRefuse slot cmd
/-- A saved context leaves the node (R372). -/
def State.endSaved (s : State) (i : Nat) (v : Saved) (status : Nat) : State :=
  ({ s with saved := s.saved.eraseIdx i, free := s.free + 1 }).retireSteps v.core v.ctx (Config.exitNone s.free) status
def State.tqKill (s : State) (slot : Nat) : State :=
  match s.tq.toList.getD slot none with
  | none => s.tqRefuse slot 3
  | some r =>
    if r.fatal then s.tqRefuse slot 3
    else match s.trapped? slot with
      | some (i, v) => (s.endSaved i v 2).tqDone slot 3
      | none => match s.inPlace? r with
        | some (c, _) => ({ s with free := s.free + 1 }.retire c (Config.exitNone s.free) 2 2).tqDone slot 3
        | none => s.tqRefuse slot 3
def State.tqRelease (s : State) (slot : Nat) : State :=
  match s.tq.toList.getD slot none with
  | none => s.tqRefuse slot 4
  | some r =>
    if !r.fatal then s.tqRefuse slot 4
    else
      let s := { s with deadImgs := s.deadImgs.filter (fun d => d.place != slot) }
      match s.inPlace? r with
      | some (c, _) => ({ s with free := s.free + 1 }.retire c (Config.exitNone s.free) 1 2).tqDone slot 4
      | none => s.tqDone slot 4
/-- The host administrator or firmware. -/
def Who.rules : Who → Bool
  | .pf => true
  | .fw => true
  | _ => false
/-- R449: the event TQCMD_RESUME. -/
def execTqcmdResume (w : Who) (slot : Fin 64) (s : State) : Out := .next (if Who.rules w then s.tqResume slot.val false else s)
/-- R449: the event TQCMD_RESUME_DROP. -/
def execTqcmdResumeDrop (w : Who) (slot : Fin 64) (s : State) : Out := .next (if Who.rules w then s.tqResume slot.val true else s)
/-- R449: the event TQCMD_KILL. -/
def execTqcmdKill (w : Who) (slot : Fin 64) (s : State) : Out := .next (if Who.rules w then s.tqKill slot.val else s)
/-- R449: the event TQCMD_RELEASE. -/
def execTqcmdRelease (w : Who) (slot : Fin 64) (s : State) : Out := .next (if Who.rules w then s.tqRelease slot.val else s)

/- Function-level reset (R420, R447). -/
/-- Step 1: the queues of the function. -/
def State.flrQueues (s : State) (f : Nat) : State :=
  let mine (q : Nat) : Bool := bit (s.func f).lq.toNat q
  let s := (List.range 64).foldl (fun (s : State) q =>
    if mine q then let x := s.lq q; s.setLq q { x with head := x.tail, arr := [], qctl := setBits x.qctl 7 1 0 } else s) s
  (List.range 32).foldl (fun (s : State) e =>
    if bit (s.func f).eq.toNat e then
      let x := s.eq e
      let s := (List.range (x.put.toNat - x.rel.toNat)).foldl (fun (s : State) i => s.store (eqSlotKey e (x.rel.toNat + i)) (List.replicate 64 0)) s
      s.setEq e { x with put := x.rel, ctl := setBits x.ctl 0 1 0 }
    else s) s
/- Requests that have left. -/
/-- A request of the context on a core has left the node and has no answer. -/
def State.hasLeft (s : State) (c : CoreId) : Bool :=
  let x := s.ctxOf c
  x.gacc.any (fun g => paNode g.pa != s.nodeId) || x.cmds.any (fun m => !m.done && (s.farParts c m).any (s.partAway c m)) ||
    x.cmds.any (fun m => m.started && !m.done && isCoded m.ins && (!m.eff || !m.ext.isEmpty))
/-- The requests of a function that no space has served go, its walks with them; those in service stay until their stack answers (R420,
R472). -/
def State.dropReqs (s : State) (f : Nat) : State :=
  { s with tracks := s.tracks.filterMap (fun (r : TrackReq) => if r.fn == f then r.gone else some r)
           walks := s.walks.filter (fun w => w.fn != f) }
/-- A context is discarded without a report; its slots go, and what this node declared in them (R364). -/
def State.discard (s : State) (c : CoreId) (x : Ctx) : State :=
  let s := { s with eqs := s.eqs.map (fun (e : EgQueue) => if bits e.ctl.toNat 8 32 == x.ctxid.toNat then { e with ctl := setBits e.ctl 8 32 0 } else e) }
  ((s.spendNrg x).closeSlots c x.ctxid).dropUser x.serial
/-- The extent changes of a context that firmware has in hand (R462). -/
def Ctx.extsInHand (x : Ctx) (c : CoreId) : List FwExt :=
  x.cmds.filterMap (fun m =>
    if m.started && !m.done then
      match m.ins with
      | .xextAdd _ => some { core := c, seq := m.seq.toNat, add := true, ext := m.extent x.fn.val }
      | .xextRelease _ => some { core := c, seq := m.seq.toNat, add := false, ext := m.extent x.fn.val }
      | _ => none
    else none)
/-- Those of all contexts of a function, on cores and saved. -/
def State.extsInHand (s : State) (f : Nat) : List FwExt :=
  (List.range 128).flatMap (fun n =>
    let c : CoreId := Fin.ofNat 128 n
    if (s.core c).busy && (s.ctxOf c).fn.val == f then (s.ctxOf c).extsInHand c else []) ++
  s.saved.flatMap (fun v => if v.ctx.fn.val == f then v.ctx.extsInHand v.core else [])
/-- Step 2: the contexts of the function stop at once; firmware goes on with the extent changes that it has in hand (R462). -/
def State.flrContexts (s : State) (f : Nat) : State :=
  let s := { s.dropReqs f with fwExts := s.fwExts ++ s.extsInHand f }
  let s := (List.range 128).foldl (fun (s : State) n =>
    let c : CoreId := Fin.ofNat 128 n
    let k := s.core c
    let s := s.setCore c { k with inq := k.inq.filter (fun b => b.fn != f) }
    if k.busy && k.ctx.fn.val == f then
      let pp := k.ctx.status.getLsbD 3
      let s := { s.discard c k.ctx with winUnits := s.winUnits.filter (fun u => u.core != c), pkts := s.pkts.filter (fun p => match p.id with
        | .acc d _ => d != c
        | .cmd d _ _ => d != c
        | .resp _ _ => true
        | .block sl _ _ => sl.val / 8 != f) }
      let s := s.freeCore c
      if pp then s.setCore c { s.core c with preOut := some 2 } else s
    else s) s
  let s := (s.saved.filter (fun v => v.ctx.fn.val == f)).foldl (fun (s : State) v => s.discard v.core v.ctx) s
  { s with saved := s.saved.filter (fun v => v.ctx.fn.val != f)
           nests := s.nests.map (fun (n : Option Nest) => match n with | some n => if n.fn == f then none else some n | none => none)
           deadImgs := s.deadImgs.filter (fun d => d.fn != f)
           tq := s.tq.map (fun (r : Option TrapRec) => match r with | some r => if r.fn == f then none else some r | none => none) }
/-- R447: the event FRST: GO starts the reset, which then drains (R420, steps 1 to 3). -/
def execFrst (w : CtlW) (s : State) : Out :=
  let f := w.idx % 16
  let x := s.func f
  if !(Who.rules w.who || w.who == .vf (Fin.ofNat 16 f)) || !w.v.getLsbD 0 || x.frst.getLsbD 0 then .next s
  else
    let left := (List.range 128).any (fun n => (s.core (Fin.ofNat 128 n)).busy && (s.ctxOf (Fin.ofNat 128 n)).fn.val == f && s.hasLeft (Fin.ofNat 128 n))
    let s := (s.flrQueues f).flrContexts f
    .next (s.setFunc f { s.func f with frst := 7, frstDue := if left then s.now + 30 * s.ftmo else s.now })
/-- Entries of the TLBs that `p` picks leave every tier. -/
def State.dropTlb (s : State) (p : TlbEnt → Bool) : State :=
  { s with cores := s.cores.map (fun (k : Core) => { k with tlb := k.tlb.filter (fun e => !p e) })
           clusterTlb := s.clusterTlb.map (fun l => l.filter (fun e => !p e)) }
/-- Step 4: the scrub. -/
def State.flrScrub (s : State) (f : Nat) : State :=
  let x := s.func f
  let s := (coreList x.cores).foldl (fun (s : State) c =>
    let k := s.core c
    if k.busy then s
    else
      { s.setCore c { inq := k.inq, tlb := k.tlb, preOut := k.preOut } with
        mem := s.mem.filter (fun m => !(inBufs c m.1)), ecc := s.ecc.filter (fun w => !(inBufs c w)) }) s
  let s := s.dropTlb (fun e => e.fn == f)
  let own (i : Nat) : Bool := s.flagOk f i
  { s with flags := Vector.ofFn (fun i => if own i.val then 0 else s.flags[i])
           setters := Vector.ofFn (fun i => if own i.val then {} else s.setters[i])
           trees := Vector.ofFn (fun i => if bit x.trees.toNat i.val then {} else s.trees[i])
           replies := s.replies.filter (fun r => r.fn != f) }
/-- A reset is past its second step: FRST reads GO with STEP 3, or with STEP 4 while the scrub waits (R447). -/
def Func.drains (x : Func) : Bool := x.frst == 7 || x.frst == 9
/-- R420: the event FLR_DRAIN_DONE; tracks are clear of the function (R472), and the scrub, step 4, waits for the release of a trip
(R462). -/
def execFlrDrainDone (f : Fin 16) (s : State) : Out :=
  if !(s.func f.val).drains || s.tracks.any (fun r => r.src == .gone f.val) then .next s
  else if s.trip then .next (s.setFunc f.val { s.func f.val with frst := 9 })
  else
    let s := s.flrScrub f.val
    let x := s.func f.val
    .next (s.setFunc f.val { x with frst := 0, inval := x.inval &&& ~~~8#64 })

/- Invalidation (R139, R446). -/
/-- R446: the event INVAL. -/
def execInval (w : CtlW) (s : State) : Out :=
  let f := w.idx % 16
  let x := s.func f
  if !(Who.rules w.who || w.who == .vf (Fin.ofNat 16 f)) || x.inval.getLsbD 3 then .next s
  else
    let v := w.v &&& 0x01FFFFFFFFFFFFF3#64
    .next (s.setFunc f { x with inval := if bits v.toNat 0 2 == 0 then v else v ||| 8 })
/-- What an INVAL word names. -/
def invalHits (v f : Nat) (e : TlbEnt) : Bool :=
  e.fn == f && (match bits v 0 2 with
    | 1 => e.asid == bits v 4 8 && e.va ≤ bits v 12 45 * 4096 && bits v 12 45 * 4096 < e.va + e.size
    | 2 => e.asid == bits v 4 8 && !e.g
    | _ => true)
/-- R139: the event INVAL_COMPLETE, once the accesses in flight of the function have performed; a reset absorbs it (R447). -/
def execInvalComplete (f : Fin 16) (s : State) : Out :=
  let x := s.func f.val
  let v := x.inval.toNat
  let users := s.cores.toList.any (fun k => k.busy && k.ctx.fn.val == f.val &&
    (!k.ctx.gacc.isEmpty || k.ctx.cmds.any (fun m => m.started && !m.done && !m.faulted && m.gcls.isSome)))
  if !x.inval.getLsbD 3 || users || x.frst.getLsbD 0 then .next s
  else
    let s := s.dropTlb (invalHits v f.val)
    let s := { s with cores := s.cores.map (fun (k : Core) => if k.busy && k.ctx.fn.val == f.val then { k with ibuf := [], xlat := none } else k) }
    .next (s.setFunc f.val { x with inval := x.inval &&& ~~~8#64 })

end Sys2Proof.Machine
end

