-- ==== Sys2Proof/Machine/Scalar.lean ====
section
/-! DEFINITION. The integer, bit-field, compare, select and address instructions of the A and M slots (04_scalar.md,
R85 to R97), and `nop` (R53). -/

namespace Sys2Proof.Machine

/-- Latency 1 (R81). -/
def State.alu (s : State) (g : Guard) (slot : Slot) (code : Nat) (v : Word) (fl : Fl := 0) : Out :=
  s.finish g slot 1 code v none fl

def State.bin (s : State) (x : Bin) (f : Word → Word → Word) : Out :=
  s.alu x.g x.slot (sCode x.d) (f (s.ctx.src x.a) (s.ctx.src x.b))
def State.una (s : State) (x : Una) (f : Word → Word) : Out := s.alu x.g x.slot (sCode x.d) (f (s.ctx.src x.a))

/-- Clamp of a signed result to 64 bits, with SV (R86). -/
def clamp64 (sat : Bool) (r : Int) : Word × Fl :=
  if sat && r > 2 ^ 63 - 1 then (BitVec.ofInt 64 (2 ^ 63 - 1), Fl.sv)
  else if sat && r < -2 ^ 63 then (BitVec.ofInt 64 (-2 ^ 63), Fl.sv)
  else (BitVec.ofInt 64 r, 0)

def boolW (b : Bool) : Word := if b then 1 else 0

/-- The conditions of R90. -/
def cmpHolds (cond : Nat) (a b : Word) : Bool :=
  match cond with
  | 0 => a == b
  | 1 => a != b
  | 2 => a.toInt < b.toInt
  | 3 => b.toInt ≤ a.toInt
  | 4 => a.toInt ≤ b.toInt
  | 5 => b.toInt < a.toInt
  | 6 => a.toNat < b.toNat
  | 7 => b.toNat ≤ a.toNat
  | 8 => a.toNat ≤ b.toNat
  | 9 => b.toNat < a.toNat
  | 10 => (a &&& b) != 0
  | _ => (a &&& b) == 0

def shlW (a b : Word) : Word := if 64 ≤ b.toNat then 0 else BitVec.ofNat 64 (a.toNat * 2 ^ b.toNat)
def shrW (a b : Word) : Word := if 64 ≤ b.toNat then 0 else BitVec.ofNat 64 (a.toNat / 2 ^ b.toNat)
def sraW (a b : Word) : Word :=
  if 64 ≤ b.toNat then (if a.msb then BitVec.allOnes 64 else 0) else BitVec.ofInt 64 (a.toInt / 2 ^ b.toNat)
def rotlW (a b : Word) : Word := a.rotateLeft (b.toNat % 64)
/-- Zero bits above the highest one among the low `k` bits. -/
def clzN (x : Nat) : Nat → Nat
  | 0 => 0
  | k + 1 => if bit x k then 0 else 1 + clzN x k
/-- Zero bits below the lowest one, from bit `i` for `k` bits. -/
def ctzN (x i : Nat) : Nat → Nat
  | 0 => 0
  | k + 1 => if bit x i then 0 else 1 + ctzN x (i + 1) k
def minW (signed : Bool) (a b : Word) : Word :=
  if (if signed then a.toInt ≤ b.toInt else a.toNat ≤ b.toNat) then a else b
def maxW (signed : Bool) (a b : Word) : Word :=
  if (if signed then b.toInt ≤ a.toInt else b.toNat ≤ a.toNat) then a else b
/-- `bfi` (R91): the low `len` bits of b stand at `pos` in a. -/
def bfiW (a b : Word) (pos len : Nat) : Word :=
  BitVec.ofNat 64 (a.toNat - bits a.toNat pos len * 2 ^ pos + b.toNat % 2 ^ len * 2 ^ pos)

/-- Quotient and remainder toward zero, with DZ (R94). -/
def divmod (x y : Int) (signed : Bool) : Int × Int × Fl :=
  if y == 0 then (0, x, Fl.dz)
  else if signed && x == -2 ^ 63 && y == -1 then (-2 ^ 63, 0, 0)
  else (x.tdiv y, x.tmod y, 0)

/-- R53: nothing in any slot. -/
def execNop (_slot : Slot) (s : State) : Out := .next s

/-- R86. -/
def execAdd (x : Bin) (s : State) : Out :=
  let (v, fl) := clamp64 x.sat ((s.ctx.src x.a).toInt + (s.ctx.src x.b).toInt)
  s.alu x.g x.slot (sCode x.d) v fl
/-- R86. -/
def execSub (x : Bin) (s : State) : Out :=
  let (v, fl) := clamp64 x.sat ((s.ctx.src x.a).toInt - (s.ctx.src x.b).toInt)
  s.alu x.g x.slot (sCode x.d) v fl
/-- R86. -/
def execNeg (x : Una) (s : State) : Out :=
  let (v, fl) := clamp64 x.sat (-(s.ctx.src x.a).toInt)
  s.alu x.g x.slot (sCode x.d) v fl
/-- R87. -/
def execAnd (x : Bin) (s : State) : Out := s.bin x (fun a b => a &&& b)
/-- R87. -/
def execOr (x : Bin) (s : State) : Out := s.bin x (fun a b => a ||| b)
/-- R87. -/
def execXor (x : Bin) (s : State) : Out := s.bin x (fun a b => a ^^^ b)
/-- R87. -/
def execAndn (x : Bin) (s : State) : Out := s.bin x (fun a b => a &&& ~~~b)
/-- R87. -/
def execShl (x : Bin) (s : State) : Out := s.bin x shlW
/-- R87. -/
def execShr (x : Bin) (s : State) : Out := s.bin x shrW
/-- R87. -/
def execSra (x : Bin) (s : State) : Out := s.bin x sraW
/-- R87. -/
def execRotl (x : Bin) (s : State) : Out := s.bin x rotlW
/-- R88. -/
def execClz (x : Una) (s : State) : Out := s.una x (fun a => BitVec.ofNat 64 (clzN a.toNat 64))
/-- R88. -/
def execCtz (x : Una) (s : State) : Out := s.una x (fun a => BitVec.ofNat 64 (ctzN a.toNat 0 64))
/-- R88. -/
def execPopc (x : Una) (s : State) : Out := s.una x (fun a => BitVec.ofNat 64 (popcount a.toNat 64))
/-- R91. -/
def execBfx (x : Bfx) (s : State) : Out :=
  s.alu x.g x.slot (sCode x.d) (BitVec.ofInt 64 (sext (bits (s.ctx.src x.a).toNat x.pos.val x.len.val) x.len.val))
/-- R91. -/
def execBfxn (x : Bfx) (s : State) : Out :=
  s.alu x.g x.slot (sCode x.d) (BitVec.ofNat 64 (bits (s.ctx.src x.a).toNat x.pos.val x.len.val))
/-- R91. -/
def execBfi (x : Bfi) (s : State) : Out :=
  s.alu x.g x.slot (sCode x.d) (bfiW (s.ctx.src x.a) (s.ctx.src x.b) x.pos.val x.len.val)
/-- R89. -/
def execMin (x : Bin) (s : State) : Out := s.bin x (minW true)
/-- R89. -/
def execMax (x : Bin) (s : State) : Out := s.bin x (maxW true)
/-- R89. -/
def execMinn (x : Bin) (s : State) : Out := s.bin x (minW false)
/-- R89. -/
def execMaxn (x : Bin) (s : State) : Out := s.bin x (maxW false)
/-- R89. -/
def execSel (x : Sel) (s : State) : Out :=
  s.alu x.g x.slot (sCode x.d) (if s.ctx.pr x.p then s.ctx.src x.a else s.ctx.src x.b)
/-- R90. -/
def execCmp (x : Cmp) (s : State) : Out :=
  s.alu x.g x.slot (cCode x.d) (boolW (cmpHolds x.cond.val (s.ctx.src x.a) (s.ctx.src x.b)))
/-- R89. -/
def execMov (x : Una) (s : State) : Out := s.una x (fun a => a)
/-- R92. -/
def execLea (x : Lea) (s : State) : Out :=
  s.alu x.g x.slot (sCode x.d) (s.ctx.src x.a + BitVec.ofNat 64 ((s.ctx.src x.b).toNat * 2 ^ x.sh.val) + s.ctx.src x.c)

/-- The extended immediate (R95). -/
def ImmOp.value (x : ImmOp) : Word := if x.zx then x.imm.setWidth 64 else x.imm.signExtend 64
def State.immOp (s : State) (x : ImmOp) (f : Word → Word → Word) : Out :=
  s.alu x.g x.slot (sCode x.d) (f (s.ctx.dsrc x.d) (ImmOp.value x))
/-- R95. -/
def execAddi (x : ImmOp) (s : State) : Out := s.immOp x (fun d i => d + i)
/-- R95. -/
def execAndi (x : ImmOp) (s : State) : Out := s.immOp x (fun d i => d &&& i)
/-- R95. -/
def execOri (x : ImmOp) (s : State) : Out := s.immOp x (fun d i => d ||| i)
/-- R95. -/
def execXori (x : ImmOp) (s : State) : Out := s.immOp x (fun d i => d ^^^ i)
/-- R96: the conditions eq, lt, ltn, tst of R90. -/
def cmpiCond : Fin 4 → Nat
  | 0 => 0 | 1 => 2 | 2 => 6 | 3 => 10
/-- R96. -/
def execCmpi (x : Cmpi) (s : State) : Out :=
  s.alu x.g x.slot (cCode (.p x.p)) (boolW (cmpHolds (cmpiCond x.cond) (s.ctx.src x.src) (x.imm.signExtend 64)))
/-- R95. -/
def execMovi (x : ImmOp) (s : State) : Out := s.alu x.g x.slot (sCode x.d) (ImmOp.value x)
/-- R57, R97: an A syllable. -/
def execMovl (x : Movl) (s : State) : Out := s.alu x.g .a (sCode x.d) x.imm

/-- R93; latency 3 (R81). -/
def execMul (x : Bin) (s : State) : Out :=
  let (v, fl) := clamp64 x.sat ((s.ctx.src x.a).toInt * (s.ctx.src x.b).toInt)
  s.finish x.g .m 3 (sCode x.d) v none fl
/-- R93. -/
def execMulh (x : Bin) (s : State) : Out :=
  s.finish x.g .m 3 (sCode x.d) (BitVec.ofInt 64 ((s.ctx.src x.a).toInt * (s.ctx.src x.b).toInt / 2 ^ 64)) none 0
/-- R93. -/
def execMulhn (x : Bin) (s : State) : Out :=
  s.finish x.g .m 3 (sCode x.d) (BitVec.ofNat 64 ((s.ctx.src x.a).toNat * (s.ctx.src x.b).toNat / 2 ^ 64)) none 0

/-- The quotient, remainder and flags of R94 for the operands' values. -/
def divRes (signed : Bool) (a b : Word) : Int × Int × Fl :=
  if signed then divmod a.toInt b.toInt true else divmod a.toNat b.toNat false
/-- R94; latency 14 (R81). -/
def execDiv (x : Bin) (s : State) : Out :=
  let (q, _, fl) := divRes true (s.ctx.src x.a) (s.ctx.src x.b)
  s.finish x.g .m 14 (sCode x.d) (BitVec.ofInt 64 q) none fl
/-- R94. -/
def execDivn (x : Bin) (s : State) : Out :=
  let (q, _, fl) := divRes false (s.ctx.src x.a) (s.ctx.src x.b)
  s.finish x.g .m 14 (sCode x.d) (BitVec.ofInt 64 q) none fl
/-- R94. -/
def execRem (x : Bin) (s : State) : Out :=
  let (_, r, fl) := divRes true (s.ctx.src x.a) (s.ctx.src x.b)
  s.finish x.g .m 14 (sCode x.d) (BitVec.ofInt 64 r) none fl
/-- R94. -/
def execRemn (x : Bin) (s : State) : Out :=
  let (_, r, fl) := divRes false (s.ctx.src x.a) (s.ctx.src x.b)
  s.finish x.g .m 14 (sCode x.d) (BitVec.ofInt 64 r) none fl

end Sys2Proof.Machine
end

