-- ==== Sys2Proof/Machine/Events.lean ====
section
/-! DEFINITION. What happens at bundle boundaries: fills of the instruction buffer, results that land, checked mode, faults of
engines and of earlier accesses, breakpoint hits, releases of commands (R11, R80, R84, R106, R151, R402, R434), and droop
samples (R440). -/

namespace Sys2Proof.Machine

/-- R80: the event RESULT_LAND: the results that are due at this cycle land; those of a stopped core do not (R83), but its token
writes do (R155). -/
def execResultLand (c : CoreId) (s : State) : Out :=
  let x := s.ctxOf c
  .next (s.setCtxOf c ((if (s.core c).stop.isSome then x else x.land s.now).landToks s.now))

/- The instruction buffer (R106, R109, R176, R457). -/
/-- Bundles of the buffer: 64 KiB. -/
def ibufSize : Nat := 2048
/-- The bundle at a physical address, from the admitted image that holds it. -/
def State.fetch (s : State) (fn pa : Nat) : Except TrapClass (BitVec 256) :=
  if paNode pa != s.nodeId || !plainKind (paKind pa) then .error .access
  else match s.imageAt fn pa with
    | none => .error .access
    | some i =>
      if (eccHit s.ecc (paKey pa) 32).isSome then .error .ecc
      else .ok (BitVec.ofNat 256 ((if i.users.isEmpty then s.mem else i.code).readN (paKey pa) 32))
/-- The buffer of the current core takes the bundle at the pc, or the bundle takes its fetch's fault. -/
def State.fill (s : State) : State :=
  let pc := s.ctx.pc
  let (s, r) := s.xlate s.cur pc.toNat 32 .fetch
  match (match r with | .ok pa => s.fetch s.ctx.fn.val pa | .error e => .error e) with
  | .error cls => s.precise {} .a cls pc.toNat
  | .ok w =>
    let k := s.core s.cur
    s.setCore s.cur { k with ibuf := ((pc, w) :: k.ibuf).take ibufSize }
/-- A core that issues: a context with no stop, no wait and no end. -/
def Core.runs (k : Core) : Bool := k.busy && k.stop.isNone && k.ctx.ended.isNone && !k.ctx.issuing && k.ctx.rest.isNone
/-- R106: the event IBUF_FILL. -/
def execIbufFill (c : CoreId) (s : State) : Out :=
  let k := s.core c
  if k.runs && k.ctx.wait.isNone && k.word.isNone then .next (s.at c State.fill) else .next s

/- Checked mode (R84, R180, R209). -/
/-- The syllables that checked mode covers. -/
def checked : Instr → Bool
  | .fadd _ => true | .fsub _ => true | .fmul _ => true | .ffma _ => true | .fdiv _ => true | .fsqrt _ => true
  | .fmin _ => true | .fmax _ => true | .fcmp _ => true | .fcvt _ => true
  | .div _ => true | .divn _ => true | .rem _ => true | .remn _ => true
  | .vadd x => !ETy.isInt x.t | .vsub x => !ETy.isInt x.t | .vmul x => !ETy.isInt x.t | .vfma x => !ETy.isInt x.t | .vfms x => !ETy.isInt x.t
  | .vmin x => !ETy.isInt x.t | .vmax x => !ETy.isInt x.t | .vcmp x => !ETy.isInt x.t
  | .vcvt _ => true | .vquant _ => true | .vdequant _ => true
  | .vwadd x => !ETy.isInt x.t | .vwmul x => !ETy.isInt x.t
  | .vscan x => x.t == .f32 || x.t == .f16 || x.t == .bf16
  | .vred x => x.t == .f32 || x.t == .f16 || x.t == .bf16
  | .vexp2 _ => true | .vlog2 _ => true | .vrcp _ => true | .vrsqrt _ => true | .vtanh _ => true | .vsigm _ => true | .vmstat _ => true
  | _ => false
/-- The meanings of those syllables. -/
def checkedEx : Instr → State → Out
  | .fadd x => execFadd x | .fsub x => execFsub x | .fmul x => execFmul x | .ffma x => execFfma x | .fdiv x => execFdiv x
  | .fsqrt x => execFsqrt x | .fmin x => execFmin x | .fmax x => execFmax x | .fcmp x => execFcmp x | .fcvt x => execFcvt x
  | .div x => execDiv x | .divn x => execDivn x | .rem x => execRem x | .remn x => execRemn x
  | .vadd x => execVadd x | .vsub x => execVsub x | .vmul x => execVmul x | .vfma x => execVfma x | .vfms x => execVfms x
  | .vmin x => execVmin x | .vmax x => execVmax x | .vcmp x => execVcmp x | .vcvt x => execVcvt x | .vquant x => execVquant x
  | .vdequant x => execVdequant x | .vwadd x => execVwadd x | .vwmul x => execVwmul x | .vscan x => execVscan x | .vred x => execVred x
  | .vexp2 x => execVexp2 x | .vlog2 x => execVlog2 x | .vrcp x => execVrcp x | .vrsqrt x => execVrsqrt x | .vtanh x => execVtanh x
  | .vsigm x => execVsigm x | .vmstat x => execVmstat x
  | _ => fun s => .next s
/-- The position k of R108 that the next bundle has. -/
def Ctx.issueK (x : Ctx) : Option Nat :=
  match x.xfer with
  | some t => if t.left == 2 then some 1 else if t.left == 1 then some 2 else none
  | none => none
/-- The bundle's own A syllable is a taken transfer (R107). -/
def Ctx.takes (x : Ctx) (b : Bundle) : Bool :=
  match b.a with
  | .br y => x.guard y.g
  | .jr y => x.guard y.g
  | .call y => x.guard y.g
  | .callr y => x.guard y.g
  | .ret y => x.guard y.g
  | .loop y => x.guard y.g && (x.src y.a).toNat % 2 ^ 32 == 0
  | .loopi y => x.guard y.g && y.n == 0
  | _ => false
/-- The position k of R108 at which the M, V and E syllables of the next bundle stand. -/
def Ctx.slotK (x : Ctx) (b : Bundle) : Option Nat := if x.takes b then some 0 else x.issueK
/-- What a syllable of the next bundle would raise with all enables clear, and its latency. -/
def State.probe (s : State) (ex : Instr → State → Out) (i : Instr) : Fl × Nat :=
  let x := s.ctx
  match ex i (s.setCtx { x with fpstat := 0, raised := 0, flight := [], kpos := none }) with
  | .next t =>
    if (t.core s.cur).traps != (s.core s.cur).traps then (0, 0)
    else
      let fs := t.ctx.flight
      (fs.foldl (fun a f => a ||| f.flags) t.ctx.raised, fs.foldl (fun n f => max n (f.fin - s.now)) 0)
  | _ => (0, 0)
/-- The checked syllables of a bundle: slot, guard, flags and latency of each. A squashable one that the bundle's own transfer kills
holds the bundle and raises nothing; one that an earlier transfer kills does neither (R84, R108). -/
def State.checkedOf (s : State) (b : Bundle) : List (Slot × Guard × Fl × Nat) :=
  if bits s.ctx.fpstat.toNat 16 5 == 0 then []
  else [(Slot.m, b.m), (.v, b.v)].filterMap (fun p =>
    match facts p.2 with
    | none => none
    | some f =>
      if checked p.2 && s.ctx.guard f.g then
        let (fl, lat) := s.probe checkedEx p.2
        let dead := f.g.sq && (match s.ctx.slotK b with | some k => decide (3 ≤ k + lat) | none => false)
        if lat == 0 || (dead && !(s.ctx.takes b)) then none else some (p.1, f.g, if dead then 0 else fl, lat)
      else none)
/-- A result has landed at every level (R80). -/
def Flight.settled (f : Flight) (now : Nat) : Bool :=
  if 0 < f.code && f.code < 0x40 then f.fin + 1 ≤ now else f.fin ≤ now
/-- Step 1 of R84: no scalar result of an earlier bundle is in flight, and for V no row result (R180). -/
def Ctx.settledFor (x : Ctx) (now : Nat) (v : Bool) : Bool := x.flight.all (fun f => (f.row.isSome && !v) || f.settled now)
/-- The evaluation at the end of step 2: ARITH, or the bundle may issue; a squashable syllable at a position `k` of R108 is
killed by its own fault. -/
def State.evalChecked (s : State) (k : Option Nat) (ps0 : List (Slot × Guard × Fl × Nat)) : State :=
  let x := s.ctx
  let ps := ps0.filter (fun p => !(x.enabled p.2.2.1 && p.2.1.sq && k.isSome))
  match ps.find? (fun p => x.enabled p.2.2.1) with
  | some (sl, g, _, _) =>
    let fl := ps.foldl (fun (a : Fl) (p : Slot × Guard × Fl × Nat) => a ||| p.2.2.1) 0
    (s.setCtx { x with chk := none }).arith g sl fl
  | none => s.setCtx { x with chkOk := true }
/-- R84: the event CHECKED_MODE_EVAL, at the end of step 2. -/
def execCheckedModeEval (c : CoreId) (s : State) : Out :=
  let k := s.core c
  match k.ctx.chk, k.word with
  | some t, some w =>
    if !k.runs || s.now < t || k.ctx.chkOk then .next s
    else match decodeBundle w.toNat with
      | .ok b => .next (s.at c (fun t => t.evalChecked (t.ctx.slotK b) (t.checkedOf b)))
      | .error _ => .next s
  | _, _ => .next s

/- Faults that wait for a boundary (R149, R151, R152, R388, R402). -/
/-- A bundle reads or writes a token, or waits on it by a condition of kind 1, or ends the context: `end` discards a join token and
takes no CHILD_FAULT (R372). -/
def Ctx.observes (x : Ctx) (b : Bundle) (p : Pend) : Bool :=
  let t := p.tok
  x.names b [t] ||
  (match b.e with
   | .endCtx e => x.guard e.g && p.cls != .childFault
   | .wait w => x.guard w.g && (x.condWords w.a w.n).any (fun c => condKind c == 1 && condObj c == t.val)
   | _ => false)
/-- A bundle brings a recorded store failure to light (R152). -/
def Ctx.reveals (x : Ctx) (b : Bundle) (p : Pend) : Bool :=
  x.readsOf b x.toks ||
  (match b.m with | .fence f => x.guard f.g && f.mask.getLsbD p.oc | _ => false) ||
  (match b.e with | .endCtx e => x.guard e.g | _ => false)
/-- The first recorded failure that is taken at this boundary; `b` is the next bundle, if it is known. An `end` that waits for its
completion takes them all but a join's (R152, R372). -/
def Ctx.pendNow (x : Ctx) (now : Nat) (b : Option Bundle) : Option Pend :=
  x.pend.find? (fun p =>
    p.due ≤ now && (if x.ended.isSome then p.cls != .childFault
     else if p.tok != 0 || p.store then
      (match b with
       | none => false
       | some b => if p.store then x.reveals b p else x.observes b p)
     else true))
/-- The next bundle of a core, if its buffer holds it and it decodes. -/
def Core.nextBundle (k : Core) : Option Bundle :=
  match k.word with
  | some w => (match decodeBundle w.toNat with | .ok b => some b | .error _ => none)
  | none => none
/-- The slot of the first syllable that names a token. -/
def Ctx.seenIn (x : Ctx) (b : Option Bundle) (t : Tok) : Slot :=
  match b with
  | none => .e
  | some b =>
    let names (i : Instr) : Bool := match facts i with | some f => x.guard f.g && (f.s ++ f.d).contains t.val | none => false
    match ((Bundle.slots b).zip [Slot.a, .m, .v, .e]).find? (fun p => names p.1) with
    | some p => p.2
    | none => .e
/-- A recorded failure is taken at the boundary before the next bundle. -/
def State.takePend (s : State) (c : CoreId) (p : Pend) : State :=
  let x := s.ctxOf c
  let r : TrapRec := { cls := p.cls, slot := if p.cls == .childFault then x.seenIn (s.core c).nextBundle p.tok else p.slot, pc := if p.cls == .childFault then x.pc else p.pc,
                       seq := if p.cls == .childFault then x.lastSeq else BitVec.ofNat 32 p.seq,
                       addr := BitVec.ofNat 64 p.addr, esw := p.syl, rpc := x.pc, fatal := p.fatal }
  (s.setCtxOf c { x with pend := x.pend.erase p }).takeTrap c r (max s.now (s.core c).holdUntil)
/-- The boundary before a core's next bundle has come: the bundle could issue (R157, R402). A sequencer wait puts it off, since a
frame holds no wait (R407). -/
def Core.atBoundary (k : Core) (now : Nat) : Bool :=
  k.busy && k.stop.isNone && !k.ctx.issuing && k.ctx.wait.isNone && k.ctx.rest.isNone && decide (k.holdUntil ≤ now)
/-- The trap that waits at a core's boundary: that of the bundle before it, then an engine fault, lowest number first (R416), then
a recorded failure. -/
def State.boundaryTrap (s : State) (c : CoreId) : State :=
  let k := s.core c
  if !k.atBoundary s.now then s
  else if let some r := k.ctx.trapDue then
    (s.setCtxOf c { k.ctx with trapDue := none }).takeTrap c { r with rpc := k.ctx.pc } s.now
  else if !k.ctx.engFaults.isEmpty then s.takeEngineFault c
  else match k.ctx.pendNow s.now k.nextBundle with
    | some p => s.takePend c p
    | none => s
/-- R403: the event TRAP_TAKE. -/
def execTrapTake (c : CoreId) (s : State) : Out := .next (s.boundaryTrap c)
/-- R402: the event ENGINE_FAULT: an engine reports the fault that a command of its has met. -/
def execEngineFault (r : CmdRef) (s : State) : Out :=
  .next (s.onCmd r (fun t m => if m.started && m.fail.isSome && !m.faulted then t.engineFault r.core m else t))
/-- Hits taken at one boundary form one record (R435). Those raised before a handler was entered wait for its `rte` (R436). -/
def State.takeHits (s : State) (c : CoreId) : State :=
  let k := s.core c
  let x := k.ctx
  let best := x.hits.foldl (fun (a : Option Hit) h => match a with | some g => if h.n < g.n then some h else some g | none => some h) none
  match best with
  | none => s
  | some h =>
    if !k.atBoundary s.now || !x.engFaults.isEmpty || x.trapDue.isSome || x.ih then s
    else (s.setCtxOf c { x with hits := [] }).takeTrap c
      { cls := .bkpt, slot := .e, pc := h.pc, seq := h.seq, esw := k.bphit, addr := BitVec.ofNat 64 (2 ^ 32 + h.n), rpc := x.pc } s.now
/-- R434: the event BREAKPOINT_HIT, the boundary at which the hits are taken. -/
def execBreakpointHit (c : CoreId) (s : State) : Out := .next (s.takeHits c)

/- Releases (R11). -/
/-- What an engine does as a command starts. -/
def State.startAny (s : State) (c : CoreId) (m : Cmd) : State :=
  match m.ins with
  | .waitQ _ => s.putCmd c { m with started := true, start := if m.start == 0 then s.now else m.start, due := s.now }
  | .fset _ => s.startCmd c m s.now
  | .finc _ => s.startCmd c m s.now
  | .fclr _ => s.startCmd c m s.now
  | i =>
    if isTask i then s.startCmd c { m with t0 := s.now } s.now
    else match m.eng with
      | .me => s.startMe c m
      | .ce => s.startCe c m
      | .xe => s.startXe c m
      | .fi => s.startFiAll c m
      | _ => s.startCmd c m s.now
/-- A command is released: it starts, or its inbound block goes on to its next entry (R327). -/
def State.release (s : State) (c : CoreId) (m : Cmd) : State :=
  let x := s.ctxOf c
  let k := s.core c
  if !k.busy || k.stop.isSome || s.trip || m.done || m.faulted || (m.fail.isSome && m.started) then s
  else match m.inb with
    | some b =>
      if m.ins == idleIns then (if m.started || x.mayStart m then s.nextEntry c m b (fun s m => s.startAny c m) else s)
      else if x.mayStart m then s.startAny c m else s
    | none => if x.mayStart m then s.startAny c m else s
/-- R11: the event SCOREBOARD_RELEASE. -/
def execScoreboardRelease (r : CmdRef) (s : State) : Out :=
  match s.cmd? r with
  | some m => .next (s.release r.core m)
  | none => .next s

/- Droop samples (R440). -/
/-- A unit of a core is busy in this cycle. -/
def Ctx.engBusy (x : Ctx) (e : Eng) : Bool := x.cmds.any (fun m => m.eng == e && m.started && !m.done && !m.faulted)
/-- The 16 bytes of a core in a sample. -/
def State.droopCore (s : State) (c : CoreId) : List Byte :=
  let k := s.core c
  let x := k.ctx
  if !k.busy then leBytes 0 16
  else
    let arr (b : Nat) : Bool := x.cmds.any (fun m => m.started && !m.done && !m.faulted && (bit m.arrs b || m.eng == .ce))
    leBytes (if x.conf then 0 else x.pc.toNat) 8 ++
      leBytes (x.ctxid.toNat + b2n (x.flight.any (fun f => f.slot == .v && s.now < f.fin)) * 2 ^ 32 + b2n (arr 0) * 2 ^ 33 + b2n (arr 1) * 2 ^ 34 +
        b2n (x.engBusy .xe) * 2 ^ 35 + b2n (x.engBusy .fi) * 2 ^ 36 + b2n x.conf * 2 ^ 37) 8
/-- R440: the event DROOP_DETECT of a domain, with its depth. -/
def execDroopDetect (d : Fin 16) (depth : Fin 256) (s : State) : Out :=
  if s.droopAt[d].any (fun t => s.now < t + 3000) then .next { s with drops := s.drops.set d (s.drops[d] + 1) }
  else
    let bs := leBytes (d.val + depth.val * 2 ^ 8) 8 ++ leBytes s.stamp 8 ++ leBytes 0 48 ++
      ((List.range 8).map (fun i => s.droopCore (Fin.ofNat 128 (8 * d.val + i)))).flatten
    let a := key 5 (0xA00000 + 192 * (s.droops % 1024))
    .next { s.store a bs with droops := s.droops + 1, droopAt := s.droopAt.set d (some s.now) }

end Sys2Proof.Machine
end

