-- ==== Sys2Proof/Machine/Host.lean ====
section
/-! DEFINITION. What the host, firmware and the supply do to the node (18_host.md, R443 to R462, R475): node control words,
grants, the flag window, mailboxes, bring-up, power and heat. -/

namespace Sys2Proof.Machine

/-- A refused write leaves the state as it was. -/
def State.orElse (s : State) (ok : Bool) (t : State) : Out := .next (if ok then t else s)
def Who.isFw : Who → Bool
  | .fw => true
  | _ => false

/- Limits, owner maps, D (R142, R448). -/
/-- R448: the event LIMITS_WRITE. -/
def execLimitsWrite (w : CtlW) (s : State) : Out :=
  let a := bits w.v.toNat 0 20
  let f := bits w.v.toNat 20 20
  s.orElse (Who.isFw w.who && 1 ≤ a && a ≤ 1000000 && 1 ≤ f && f ≤ 1000000) { s with limNew := some (f, a) }
/-- Owned spaces of a channel once the pending changes apply. -/
def State.ownersNext (s : State) (ch : Nat) : List (Nat × CoreId) :=
  match s.pendOwners.find? (fun p => p.1 == ch) with
  | some p => p.2
  | none => (s.owners.filter (fun o => o.1 == ch)).map (fun o => o.2)
/-- Owned spaces of a core over all channels once the pending changes apply. -/
def State.ownCount (s : State) (c : CoreId) : Nat :=
  (List.range 512).foldl (fun n ch => n + ((s.ownersNext ch).filter (fun o => o.2 == c)).length) 0
/-- A function is enabled: firmware has granted it cores (R456). -/
def State.enabled (s : State) (f : Nat) : Bool := (s.func f).cores != 0
/-- R448: the event OWNER_MAP_WRITE of eight spaces of a channel; byte 0xFF names no owner. -/
def execOwnerMapWrite (w : CtlW) (s : State) : Out :=
  let ch := w.idx % 512
  let sp0 := w.off % 64 / 8 * 8
  let b (i : Nat) : Nat := bits w.v.toNat (8 * i) 8
  let old := s.ownersNext ch
  let new := old.filter (fun o => !(sp0 ≤ o.1 && o.1 < sp0 + 8)) ++
    (List.range 8).filterMap (fun i => if b i < 128 then some (sp0 + i, Fin.ofNat 128 (b i)) else none)
  let t := { s with pendOwners := s.pendOwners.filter (fun p => p.1 != ch) ++ [(ch, new)] }
  let takes (c : CoreId) : Bool := decide ((new.filter (fun o => o.2 == c)).length < (old.filter (fun o => o.2 == c)).length)
  let inUse (c : CoreId) : Bool := (List.range 16).any (fun f => s.enabled f && s.hasCore f c.val)
  s.orElse (Who.isFw w.who && (List.range 8).all (fun i => b i < 128 || b i == 255) && new.length ≤ 60 &&
    (List.range 128).all (fun n => !(takes (Fin.ofNat 128 n) && inUse (Fin.ofNat 128 n) && t.ownCount (Fin.ofNat 128 n) < 64))) t

/- Torus and partitions (R475). -/
/-- R475: the event TORUS_WRITE. -/
def execTorusWrite (w : CtlW) (s : State) : Out :=
  let v := w.v &&& 0x0FFF0FFF#64
  let t := { s with torus := v }
  s.orElse (Who.isFw w.who && s.boot ≤ 3 && t.nodeIn (bits v.toNat 16 12)) t
/-- A function has a living context on the node. -/
def State.hasLiving (s : State) (f : Nat) : Bool := s.living.any (fun x => x.fn.val == f)
/-- R475: the event PBOX_WRITE. -/
def execPboxWrite (w : CtlW) (s : State) : Out :=
  let f := w.idx % 16
  let v := w.v &&& 0x8FFF0FFF#64
  let (x, y, z) := s.dims
  s.orElse (Who.isFw w.who && bits v.toNat 16 4 < x && bits v.toNat 20 4 < y && bits v.toNat 24 4 < z && !s.hasLiving f)
    (s.setFunc f { s.func f with pbox := v })
/-- The nodes that a command's request `i` goes to. -/
def State.targets (s : State) (c : CoreId) (m : Cmd) (i : Nat) : List Nat :=
  if m.eng == .fi then
    [match m.ins with
     | .renq _ => bits m.a.toNat 0 12
     | k => match rflagOf k with
       | some _ => bits m.a.toNat 0 12
       | none => paNode (m.ext.getD i 0)]
  else
    let (va, n, k) := s.partSpan c m i
    (chunks va n).filterMap (fun ch => match (s.xlate c ch.1 ch.2 k).2 with | .ok pa => some (paNode pa) | .error _ => none)
/-- A `chlink` that nothing but its buffer's fill keeps from starting (R277). -/
def State.awaitsFill (s : State) (c : CoreId) (m : Cmd) : Bool :=
  let x := s.ctxOf c
  match m.ins with
  | .chlink _ => x.chain.isSome && x.mayStart m && (match x.lbufs.toList.getD (m.a.toNat % 16) none with | some b => b.st == 0 | none => false)
  | _ => false
/-- A coded command's collective has a participant at a node that `p` picks (R363). -/
def State.namesAny (s : State) (c : CoreId) (m : Cmd) (p : Nat → Bool) : Bool :=
  (match m.ins with
    | .cmset _ => (m.ext.drop 1).any (fun e => p (bits e 0 12))
    | .cmsetClose _ => (m.ext.drop 1).any (fun e => p (bits e 0 12))
    | _ => !m.eff && match s.mySlot c (s.cmSlot c m) with
      | some x => x.list.any (fun e => p (bits e 0 12))
      | none => false)
/-- The outstanding requests of a core's context into a box fail with PEER, and so does a `chlink` that waits for a fill from it (R277,
R316, R336). The targets are those of the state in which the partition was healthy. -/
def State.peerFail (s : State) (c : CoreId) (box : Word) (was : State) : State :=
  let x := s.ctxOf c
  let away (n : Nat) : Bool := n != s.nodeId && s.inBox box n
  let s := (x.gacc.filter (fun g => away (paNode g.pa))).foldl (fun (s : State) g => s.failReq (.acc c g.id) .peer) s
  (x.cmds.filter (fun m => !m.done && !m.faulted && m.fail.isNone)).foldl
    (fun (s : State) m =>
      if s.awaitsFill c m then s.putCmd c { m with started := true, start := s.now, fail := some (.peer, m.a.toNat, 0) }
      else if isCoded m.ins then
        (if s.namesAny c m away then s.fiFail c { m with started := true, start := if m.started then m.start else s.now } .peer m.a.toNat false else s)
      else match ((was.farParts c m).filter (fun i => (was.targets c m i).any away)) with
        | [] => s
        | i :: r => (if m.eng == .fi then [i] else i :: r).foldl (fun (s : State) i => s.failReq (.cmd c m.seq.toNat i) .peer) s) s
/-- R475: the event PHLT_CLEAR: the partition is unhealthy. -/
def execPhltClear (w : Who) (f : Fin 16) (s : State) : Out :=
  let x := s.func f.val
  if !(Who.isFw w) then .next s
  else
    let t := s.setFunc f.val { x with phlt := 0, down := true }
    let t := (List.range 128).foldl (fun (t : State) n =>
      let c : CoreId := Fin.ofNat 128 n
      if (t.core c).busy && (t.ctxOf c).fn == f then t.peerFail c x.pbox s else t) t
    let t := (List.range t.saved.length).foldl (fun (t : State) i =>
      match t.saved[i]? with
      | some v => if v.ctx.fn == f then t.inSaved i (fun u => u.peerFail v.core x.pbox (s.setCtxOf v.core v.ctx)) else t
      | none => t) t
    .next { t with replies := t.replies.filter (fun r => !(r.fn == f.val && s.inBox x.pbox r.nm.node))
                   sideInfo := t.sideInfo.filter (fun e => e.1 / 8 != f.val) }
/-- R475: the event PHLT_SET: the partition is healthy again. -/
def execPhltSet (w : Who) (f : Fin 16) (s : State) : Out := s.orElse (Who.isFw w) (s.setFunc f.val { s.func f.val with phlt := 1, down := false })

/- The flag window (R450). -/
/-- A write of the flag window: reach, reserved bits, operation. -/
def State.flagWindow (s : State) (w : CtlW) (op : Nat) (f : BitVec 32 → BitVec 32) : Out :=
  let n := w.idx % 512
  let reach := match w.who with
    | .vf g => s.flagOk g.val n
    | .ctx _ => false
    | _ => true
  s.orElse (reach && bits w.v.toNat 34 30 == 0 && bits w.v.toNat 32 2 == op) (s.setFlag n (f (s.flag n)) {})
/-- R450: the event FLAG_WINDOW_SET. -/
def execFlagWindowSet (w : CtlW) (s : State) : Out := s.flagWindow w 0 (fun _ => w.v.setWidth 32)
/-- R450: the event FLAG_WINDOW_INC. -/
def execFlagWindowInc (w : CtlW) (s : State) : Out := s.flagWindow w 1 (fun o => (incClamp o (w.v &&& 0xFFFFFFFF#64)).1)
/-- R450: the event FLAG_WINDOW_CLR. -/
def execFlagWindowClr (w : CtlW) (s : State) : Out := s.flagWindow w 2 (fun _ => 0)

/- Function blocks (R451). -/
/-- A bit of `v` that another function's grant of the same kind holds. -/
def State.heldElse (s : State) (f : Nat) (v : Word) (g : Func → Word) : Bool :=
  (List.range 16).any (fun i => i != f && (g (s.func i) &&& v) != 0)
/-- R451: the event LQ_WRITE. -/
def execLqWrite (w : CtlW) (s : State) : Out :=
  let f := w.idx % 16
  let old := (s.func f).lq
  let t := (List.range 64).foldl (fun (t : State) q =>
    let x := t.lq q
    if w.v.getLsbD q then t.setLq q { x with qctl := setBits x.qctl 0 4 f }
    else if old.getLsbD q then t.setLq q { x with qctl := setBits x.qctl 7 1 0 } else t) s
  s.orElse (Who.isFw w.who && !s.hasLiving f && !s.heldElse f w.v Func.lq) (t.setFunc f { t.func f with lq := w.v })
/-- R451: the event EQ_WRITE. -/
def execEqWrite (w : CtlW) (s : State) : Out :=
  let f := w.idx % 16
  let old := (s.func f).eq
  let v := w.v &&& 0xFFFFFFFF#64
  let t := (List.range 32).foldl (fun (t : State) e =>
    let x := t.eq e
    if v.getLsbD e then t.setEq e { x with ctl := setBits x.ctl 40 4 f }
    else if old.getLsbD e then t.setEq e { x with ctl := setBits x.ctl 0 1 0 } else t) s
  s.orElse (Who.isFw w.who && !s.hasLiving f && !s.heldElse f v Func.eq) (t.setFunc f { t.func f with eq := v })
/-- A grant field with a new value; `none` for an offset that names none, or a value out of range. -/
def Func.grant (x : Func) (off : Nat) (v : Word) : Option Func :=
  match off with
  | 0x000 => some { x with cores := BitVec.ofNat 128 (x.cores.toNat / 2 ^ 64 * 2 ^ 64 + v.toNat) }
  | 0x008 => some { x with cores := BitVec.ofNat 128 (x.cores.toNat % 2 ^ 64 + v.toNat * 2 ^ 64) }
  | 0x010 => if bits v.toNat 0 9 + bits v.toNat 16 10 ≤ 512 then some { x with flags := v &&& 0x03FF01FF#64 } else none
  | 0x018 => some { x with trees := v &&& 0xFFFF#64 }
  | 0x060 => some { x with pool := v &&& 0xFF#64 }
  | 0x068 => some { x with root := v &&& 0x01FFFFFFFFFFF000#64 }
  | 0x070 => some { x with imgbase := v &&& 0x01FFFFFFFFFFF000#64 }
  | 0x078 => if v.toNat % 4096 == 0 then some { x with imglen := v } else none
  | n =>
    if 0x020 ≤ n && n < 0x060 && n % 8 == 0 then
      (if bits v.toNat 32 24 % 4096 == 0 then some { x with cache := x.cache.setIfInBounds ((n - 0x020) / 8) (v &&& 0x00FFFFFF007FF0F1#64) } else none)
    else none
/-- R451: the event GRANT_WRITE of the grant field at an offset of a function's block. -/
def execGrantWrite (w : CtlW) (s : State) : Out :=
  let f := w.idx % 16
  match (s.func f).grant w.off w.v with
  | some x => s.orElse (Who.isFw w.who && !s.hasLiving f) (s.setFunc f x)
  | none => .next s

/- Mailboxes (R452). -/
def mbKey (m : Fin 17) : Nat := key 5 (0xC00000 + 0x1000 * m.val)
/-- The request: its bytes. -/
def State.mbReq (s : State) (m : Fin 17) : List Byte := s.load (mbKey m + 0x40) s.mbox[m].len.toNat
/-- The requester may name the function (R452). -/
def mbMay (m : Fin 17) (f : Nat) : Bool := m.val == 16 || m.val == f
/-- The mailbox's request is the first to have arrived of those pending (R452). -/
def State.mbFirst (s : State) (m : Fin 17) : Bool := s.mbox.toList.all (fun b => !bit b.cmd.toNat 31 || decide (s.mbox[m].arr ≤ b.arr))
/-- The place of a request that arrives now. -/
def State.mbNext (s : State) : Nat := 1 + s.mbox.toList.foldl (fun n b => max n b.arr) 0
/-- Firmware acts on a pending request: `f` answers the status, the response and the state, from the function and the bytes. -/
def State.serve (s : State) (m : Fin 17) (op len : Nat) (f : Nat → List Byte → Nat × List Byte × State) : Out :=
  let b := s.mbox[m]
  let q := s.mbReq m
  let fn := rdOf q 0 1
  if !bit b.cmd.toNat 31 || bits b.cmd.toNat 0 8 != op || b.answer.isSome || !s.mbFirst m then .next s
  else
    let (st, resp, t) :=
      if q.length < len || bits (rdOf q 0 8) 8 56 != 0 || 16 ≤ fn then (1, [], s)
      else if !mbMay m fn || !s.enabled fn then (2, [], s)
      else f fn q
    .next { t with mbox := t.mbox.set m { b with answer := some (st, resp) } }
/-- R452: the event KEY. -/
def execKey (m : Fin 17) (s : State) : Out :=
  s.serve m 1 142 (fun fn q =>
    let slot := rdOf q 8 1
    let k := sub q 9 133
    if q.length != 142 || 8 ≤ slot || (sec1 k).isNone then (1, [], s)
    else (0, [], { s with keys := (fn, slot, k) :: s.keys.filter (fun e => !(e.1 == fn && e.2.1 == slot)) }))

/- Images (R74, R76, R457). -/
/-- A section of an ELF64 file: its name's place, its flags of place and length: name offset, address, file offset, size. -/
structure Sec where
  name : List Byte
  addr : Nat
  off : Nat
  size : Nat
def nameAt (bs : List Byte) (o : Nat) : List Byte := (bs.drop o).takeWhile (· != 0)
/-- The sections of an ELF64 file (R76). -/
def elfSecs (e : List Byte) : List Sec :=
  let shoff := rdOf e 0x28 8
  let sz := rdOf e 0x3A 2
  let str := rdOf e (shoff + rdOf e 0x3E 2 * sz + 0x18) 8
  (List.range (rdOf e 0x3C 2)).map (fun i =>
    let h := shoff + i * sz
    { name := nameAt e (str + rdOf e h 4), addr := rdOf e (h + 0x10) 8, off := rdOf e (h + 0x18) 8, size := rdOf e (h + 0x20) 8 })
def ascii (s : String) : List Byte := s.toList.map (fun c => BitVec.ofNat 8 c.toNat)
def secNamed (ss : List Sec) (n : String) : Option Sec := ss.find? (fun x => x.name == ascii n)
/-- What the loader writes of a `.buf` section (R74). -/
def bufSec (e : List Byte) (ss : List Sec) (n : String) (sp : Space) : List (Space × Nat × List Byte) :=
  match secNamed ss n with
  | some x => if x.size == 0 then [] else [(sp, x.addr, sub e x.off x.size)]
  | none => []
/-- R457: the event ADMIT; `out` is firmware's policy: 0 admit, 1 refuse, 2 no capacity. An image that R130 forbids is refused by STATUS
4 (log entry 88); bytes of a `.buf` section past their buffer's end are written on from there (log entry 91). -/
def execAdmit (m : Fin 17) (out : Fin 3) (s : State) : Out :=
  s.serve m 2 32 (fun fn q =>
    let pa := rdOf q 8 8
    let len := rdOf q 16 8
    let n := rdOf q 28 4
    let ranges := (List.range n).map (fun i => (rdOf q (32 + 16 * i) 8, rdOf q (40 + 16 * i) 8))
    if n < 1 || 64 < n || q.length != 32 + 16 * n || 8 ≤ rdOf q 24 1 || rdOf q 25 3 != 0 ||
       ranges.any (fun r => r.1 % 4096 != 0 || r.2 % 4096 != 0) then (1, [], s)
    else
      let e := s.load (paKey pa) len
      let ss := elfSecs e
      let good := match s.keys.find? (fun k => k.1 == fn && k.2.1 == rdOf q 24 1), secNamed ss ".ipd.sig" with
        | some k, some g => (eccHit s.ecc (paKey pa) len).isNone && paNode pa == s.nodeId && plainKind (paKind pa) &&
            ecdsaOk k.2.2 (sha512 (e.take g.off ++ e.drop (g.off + g.size))) (sub e g.off g.size)
        | _, _ => false
      -- the loader refuses bytes in the system area of JB (R130)
      let low := match secNamed ss ".buf.jb" with | some j => j.size != 0 && j.addr < 0x8000 | none => false
      if !good then (3, [], s)
      else if out == 1 || low then (4, [], s)
      else if out == 2 then (5, [], s)
      else
        let id := s.lastImage + 1
        let sig := match secNamed ss ".ipd.sig" with | some g => g | none => { name := [], addr := 0, off := 0, size := 0 }
        let maps := match secNamed ss ".maps" with
          | some g => (List.range (min 8 (g.size / 8))).map (fun i => BitVec.ofNat 64 (rdOf e (g.off + 8 * i) 8))
          | none => []
        let im : Image := { id, fn, ranges, maps, digest := sha512 (e.take sig.off ++ e.drop (sig.off + sig.size)),
                            bufs := bufSec e ss ".buf.wb" .wb ++ bufSec e ss ".buf.ab" .ab ++ bufSec e ss ".buf.cb" .cb ++ bufSec e ss ".buf.jb" .jb }
        (0, leBytes id 8, { s with images := s.images ++ [im], lastImage := id }))
/-- R452: the event WITHDRAW. -/
def execWithdraw (m : Fin 17) (s : State) : Out :=
  s.serve m 3 16 (fun fn q =>
    if q.length != 16 then (1, [], s)
    else match s.images.find? (fun i => i.fn == fn && i.id == rdOf q 8 8) with
      | none => (6, [], s)
      | some i => if i.users.isEmpty then (0, [], { s with images := s.images.filter (fun j => j.id != i.id) }) else (4, [], s))
/-- R458: the event ATTEST. -/
def execAttest (m : Fin 17) (s : State) : Out :=
  s.serve m 4 206 (fun fn q =>
    let tk := rdOf q 72 1 == 1
    let key := sub q 73 133
    if q.length != 206 || 1 < rdOf q 72 1 || (if tk then (sec1 key).isNone else key.any (· != 0)) then (1, [], s)
    else
      let d := Config.ephemeral s.free
      let digests := ((s.images.filter (fun i => i.fn == fn)).map Image.digest).flatten
      let head := leBytes (1 + fn * 2 ^ 8) 8 ++ sub q 8 64 ++ sha512 (Config.fwBody ++ Config.fwSig) ++ sha512 digests ++ leBytes Config.fuses.toNat 16 ++
        (if tk then ecPub d else List.replicate 133 0) ++ [0]
      let report := head ++ ecdsaSign s.identity (Config.sigNonce s.free) (sha512 head)
      let t := { s with free := s.free + 1 }
      (0, report, if tk then { t with seals := t.seals.setIfInBounds fn (some (hkdf32 Config.hkdfSalt (ecdh d key) Config.hkdfInfo)) } else t))
/-- R452: the event EXTENT; `out` is firmware's answer, coded as OUT (R287). A release waits until the accesses to the extent have
performed (R145). -/
def execExtent (m : Fin 17) (out : Fin 4) (s : State) : Out :=
  let q := s.mbReq m
  let e : Extent := { win := bits (rdOf q 8 8) 8 3, start := bits (rdOf q 8 8) 16 19, count := rdOf q 16 8 }
  if out == 0 && bits (rdOf q 8 8) 0 2 == 2 && s.inUse e.holds then .next s
  else s.serve m 5 24 (fun fn q =>
    let a := rdOf q 8 8
    let n := rdOf q 16 8
    let op := bits a 0 2
    let e : Extent := { win := bits a 8 3, start := bits a 16 19, count := n, fn }
    if q.length != 24 || op == 0 || op == 3 || bits a 2 6 != 0 || bits a 11 5 != 0 || bits a 35 29 != 0 || n < 1 || 2 ^ 19 < n ||
       2 ^ 19 < e.start + n then (1, [], s)
    else if !bit (s.func fn).pool.toNat e.win then (2, [], s)
    else (0, leBytes out.val 8, if out != 0 then s else if op == 1 then { s with exts := s.exts ++ [e] } else s.dropExtent e))
/-- R452: the event MAILBOX_DONE: the response, its length and STATUS are written, and BUSY clears; an OP that names no
request is malformed. -/
def execMailboxDone (m : Fin 17) (s : State) : Out :=
  let b := s.mbox[m]
  let op := bits b.cmd.toNat 0 8
  let ans := match b.answer with
    | some a => some a
    | none => if (1 ≤ op && op ≤ 5) || !s.mbFirst m then none else some (1, [])
  match ans with
  | none => .next s
  | some (st, resp) =>
    if !bit b.cmd.toNat 31 then .next s
    else
      let s := s.store (mbKey m + 0x40) resp
      .next { s with mbox := s.mbox.set m { b with cmd := BitVec.ofNat 64 (op + st * 2 ^ 8), rlen := BitVec.ofNat 64 resp.length, answer := none } }

/- Pool links (R444). -/
/-- R444: the event POOL_LINK_DOWN: accesses to its windows, outstanding or later, raise ACCESS. -/
def execPoolLinkDown (p : Fin 2) (s : State) : Out :=
  let t := { s with poolUp := s.poolUp.set p false }
  let mine (pa : Nat) : Bool := 0x10 ≤ paKind pa && paKind pa ≤ 0x17 && (paKind pa - 0x10) % 2 == p.val && paNode pa == s.nodeId
  .next ((List.range 128).foldl (fun (t : State) n =>
    let c : CoreId := Fin.ofNat 128 n
    ((t.ctxOf c).gacc.filter (fun g => mine g.pa)).foldl (fun (t : State) g => t.failReq (.acc c g.id) .access) t) t)
/-- R444: the event POOL_LINK_UP. -/
def execPoolLinkUp (p : Fin 2) (s : State) : Out := .next { s with poolUp := s.poolUp.set p true }

/- The watchdog and bring-up (R454 to R456). -/
/-- R454: the event WATCHDOG_WRITE. -/
def execWatchdogWrite (w : Who) (s : State) : Out := s.orElse (Who.isFw w) { s with wdog := s.now }
/-- R454: the event WATCHDOG_EXPIRY: the controller restarts; requests not yet answered are served again. -/
def execWatchdogExpiry (s : State) : Out :=
  s.orElse (s.wdog + 30 * 1000000 ≤ s.now) { s with wdog := s.now, mbox := s.mbox.map (fun (b : Mbox) => { b with answer := none }) }
/-- The ROM's checks (R455): the key's digest, the signature over every byte before it, the version against the fuse counter. -/
def romAccepts : Bool :=
  sha512 Config.fwKey == Config.romDigest && ecdsaOk Config.fwKey (sha512 Config.fwBody) Config.fwSig &&
    decide (Config.fuses.toNat % 2 ^ 64 ≤ Config.fwVersion.toNat)
/-- Flags and typed buffers are zero (R456, step 4). -/
def State.clearAll (s : State) : State :=
  { s with flags := Vector.replicate 512 0, mem := s.mem.filter (fun m => !(key 2 0 ≤ m.1 && m.1 < key 3 0))
           ecc := s.ecc.filter (fun w => !(key 2 0 ≤ w && w < key 3 0)) }
/-- R456: the event POWER_GOOD: bring-up begins, or its next step does. The ROM stops at step 1 with firmware that it does not accept
(R455); step 2 derives the identity key (R458). -/
def execPowerGood (s : State) : Out :=
  .next (if s.boot == 0 then { s with boot := 1 }
    else if s.boot == 1 then
      (if romAccepts then { s with boot := 2, romFail := false, identity := Config.identityKey } else { s with romFail := true })
    else if s.boot == 3 then { s.clearAll with boot := 4 }
    else if s.boot < 5 then { s with boot := s.boot + 1 } else s)
/-- What the PF status shows (R455, R456). -/
inductive PfStatus where
  | none | failed | training | configuring
  deriving DecidableEq, Repr
def State.pfStatus (s : State) : PfStatus :=
  if s.boot == 1 && s.romFail then .failed else if s.boot == 2 then .training else if s.boot == 3 then .configuring else .none
/-- The virtual functions enumerate from step 4 on; Memory_Active is reported from step 5 on (R443, R456). -/
def State.vfsVisible (s : State) : Bool := decide (4 ≤ s.boot)
def State.memoryActive (s : State) : Bool := decide (5 ≤ s.boot)

/- Power, heat and soft errors (R459 to R461). -/
/-- The throttles now hold from this cycle on. -/
def State.throttled (s : State) (th : BitVec 4) (k : Nat) : State :=
  { s with thermal := th, capK := k, slow := (s.now, th, k) :: s.slow }
/-- R459: the event THERMAL_THROTTLE: a die above 100 °C at 8/16, or the cap at `k`/16. -/
def execThermalThrottle (die : Option (Fin 4)) (k : Fin 17) (s : State) : Out :=
  .next (match die with
    | some d => s.throttled (s.thermal ||| (1 : BitVec 4) <<< d.val) s.capK
    | none => s.throttled s.thermal k.val)
/-- R459: the event THROTTLE_RELEASE. -/
def execThrottleRelease (die : Option (Fin 4)) (s : State) : Out :=
  .next (match die with
    | some d => s.throttled (s.thermal &&& ~~~((1 : BitVec 4) <<< d.val)) s.capK
    | none => s.throttled s.thermal 0)
/-- R459: the event TRIP. -/
def execTrip (s : State) : Out := .next { s with trip := true, mchecks := s.mchecks + 1 }
/-- R459: the event TRIP_RELEASE. -/
def execTripRelease (s : State) : Out := .next { s with trip := false }
/-- R460: the event CLUSTER_WAKE. -/
def execClusterWake (k : Fin 16) (s : State) : Out :=
  .next { s with gated := s.gated &&& ~~~((1 : BitVec 16) <<< k.val), wakeAt := s.wakeAt.set k none }
/-- The unit that counts the corrected errors of a word (R140, R460): a buffer kind, a slice, a stack, a pool port. -/
def eccUnit (w : Nat) : Option (Fin 30) :=
  match w / 2 ^ 40 with
  | 0 => if w < 2 ^ 39 then some (Fin.ofNat 30 (20 + bits w 12 3)) else none
  | 1 => if bits w 0 40 < 2 ^ 27 then some (Fin.ofNat 30 (4 + bits w 23 4)) else none
  | 2 => if bits w 0 40 < 2 ^ 32 then some (Fin.ofNat 30 (bits w 23 2)) else none
  | k => if 0x10 ≤ k && k ≤ 0x17 then some (Fin.ofNat 30 (28 + k % 2)) else none
def State.markEcc (s : State) (w : Nat) : State := { s with ecc := if s.ecc.contains w then s.ecc else s.ecc ++ [w] }
/-- R461: the event PATROL_SCRUB: an uncorrectable word of HBM is counted and left marked. By its key, a word of a buffer, a slice or the
pool (poison, R444) becomes uncorrectable too; from 2^48 on, by its key, an error of a single bit is corrected and counted (log entry
117). -/
def execPatrolScrub (a : Nat) (s : State) : Out :=
  let w := a / 8 * 8
  match eccUnit (w % 2 ^ 48) with
  | none => .next s
  | some u =>
    if 2 ^ 48 ≤ a then .next (if a < 2 ^ 49 then { s with corrected := s.corrected.set u (s.corrected[u] + 1) } else s)
    else if a < 2 ^ 39 then .next { s.markEcc w with scrubbed := s.scrubbed + 1 }
    else .next (s.markEcc w)

/- Writes of the other registers (R445). -/
/-- A host or firmware write of a debug register (R432, R433, R437). -/
def Core.debugWrite (k : Core) (n : Nat) (v : Word) : Option Core :=
  if 0x080 ≤ n && n < 0x084 then
    let i := n - 0x080
    if bpcOk (k.bpc.toList.getD i 0) (k.bpv.toList.getD i 0) v then some { k with bpc := k.bpc.setIfInBounds i (bpcVal v false) } else none
  else if 0x084 ≤ n && n < 0x088 then
    let i := n - 0x084
    if bpvOk (bits (k.bpc.toList.getD i 0).toNat 0 3) v then some { k with bpv := k.bpv.setIfInBounds i v } else none
  else if n == 0x088 then (if only v [(0, 4)] then some { k with bphit := k.bphit &&& ~~~v } else none)
  else if n == 0x090 then (if only v [(0, 4), (8, 1)] then some { k with trctl := v, trptr := k.trptr &&& 0x0000FFFF00000000#64 } else none)
  else if n == 0x091 then (if only v [(0, 4), (12, 45)] && bits v.toNat 0 4 ≤ 12 then some { k with trbase := v, trptr := 0 } else none)
  else none
/-- A write of a mailbox's word (R452). -/
def State.mbWrite (s : State) (m : Fin 17) (o : Nat) (v : Word) : Option State :=
  let b := s.mbox[m]
  if bit b.cmd.toNat 31 then none
  else if o == 0 then some { s with mbox := s.mbox.set m { b with cmd := (v &&& 0xFF#64) ||| 0x80000000#64, answer := none, arr := s.mbNext } }
  else if o == 8 then (if 8 ≤ v.toNat && v.toNat ≤ 4032 then some { s with mbox := s.mbox.set m { b with len := v } } else none)
  else if 0x40 ≤ o then some (s.store (mbKey m + o) (leBytes v.toNat 8))
  else none
/-- The word of a queue that only the host or firmware writes (R366, R367, R392). -/
def State.queueWrite (s : State) (w : CtlW) : Option State :=
  let o := w.off
  if o < 0x100000 then
    let q := o / 0x4000
    let x := s.lq q
    let r := o % 0x4000
    if r < 0x2000 then (if Who.mayUse w.who s (bits x.qctl.toNat 0 4) then some (s.store (key 5 o) (leBytes w.v.toNat 8)) else none)
    else if r == 0x2010 && Who.isFw w.who && (!bit w.v.toNat 7 || (List.range 16).any (fun f => bit (s.func f).lq.toNat q)) then
      some (s.setLq q { x with qctl := setBits (setBits x.qctl 7 1 (bits w.v.toNat 7 1)) 4 3 (bits w.v.toNat 4 3) })
    else none
  else
    let e := (o - 0x100000) / 0x8000
    let x := s.eq e
    if (o - 0x100000) % 0x8000 == 0x4000 && Who.isFw w.who && (!bit w.v.toNat 0 || (List.range 16).any (fun f => bit (s.func f).eq.toNat e)) then
      let x := if bit w.v.toNat 0 && !bit x.ctl.toNat 0 then { x with put := 0, rel := 0, head := 0 } else x
      some (s.setEq e { x with ctl := setBits x.ctl 0 1 (bits w.v.toNat 0 1) })
    else none
/-- D(core, channel) of `n` channels, from the next lap boundary on (R142, R445). -/
def State.dWrite (s : State) (o n : Nat) (v : Word) : State :=
  let i0 := (o - 0x380000) / 2
  { s with pendD := (List.range n).map (fun i => (i0 + i, bits v.toNat (16 * i) 16)) ++ s.pendD.filter (fun d => !(i0 ≤ d.1 && d.1 < i0 + n)) }
/-- The registers of the power block that have an offset here (R440, R453, R459, R460; log entry 61): the cap, the watchdog, the gated
clusters, OFF, the droop thresholds, the places of the wait logs. -/
def State.powerWrite (s : State) (o : Nat) (v : Word) : Option State :=
  if o == 0xB00000 then (if v.toNat ≤ 1800 then some { s with cap := v.toNat } else none)
  else if o == 0xB00008 then some { s with wdog := s.now }
  else if o == 0xB00010 then
    (if (List.range 128).all (fun n => !(v.getLsbD (n / 8) && (s.core (Fin.ofNat 128 n)).busy)) then some { s with gated := v.setWidth 16 } else none)
  else if o == 0xB00018 then (if v == 0 || (v == 1 && s.living.isEmpty) then some { s with off := v == 1 } else none)
  else if 0xB00080 ≤ o && o < 0xB00100 then some { s with droopTh := s.droopTh.setIfInBounds ((o - 0xB00080) / 8) v }
  else if 0xB00100 ≤ o && o < 0xB00180 then
    (if v.toNat % 0x20000 == 0 && v.toNat < 2 ^ 23 then some { s with logAt := s.logAt.setIfInBounds ((o - 0xB00100) / 8) v.toNat } else none)
  else none
/-- R445: the event REGISTER_WRITE at an offset of node control space: an aligned 8-byte write, or with `idx` 2 one of the 16 bits of an
entry of D (log entry 122). -/
def execRegisterWrite (w : CtlW) (s : State) : Out :=
  let o := w.off
  let inD := 0x380000 ≤ o && o < 0x3A0000
  if inD && w.idx == 2 && o % 2 == 0 then s.orElse (Who.isFw w.who) (s.dWrite o 1 w.v)
  else if o % 8 != 0 || w.idx == 2 then .next s
  else
    let t : Option State :=
      if o < 0x200000 then s.queueWrite w
      else if inD then (if Who.isFw w.who then some (s.dWrite o 4 w.v) else none)
      else if o == 0x501000 then
        (if Who.rules w.who && (bits w.v.toNat 0 3 == 0 || 5 ≤ bits w.v.toNat 0 3) then some (s.tqRefuse (bits w.v.toNat 16 6) (bits w.v.toNat 0 3)) else none)
      else if 0x600000 ≤ o && o < 0x620000 then
        (if Who.rules w.who then
          let c : CoreId := Fin.ofNat 128 ((o - 0x600000) / 0x400)
          ((s.core c).debugWrite ((o - 0x600000) % 0x400 / 8 + 0x80) w.v).map (fun k => s.setCore c k)
         else none)
      else if 0xB00000 ≤ o && o < 0xB01000 then (if Who.isFw w.who then s.powerWrite o w.v else none)
      else if 0xC00000 ≤ o && o < 0xC11000 then
        (let m := Fin.ofNat 17 ((o - 0xC00000) / 0x1000)
         let own := match w.who with | .vf f => f.val == m.val | .pf => m.val == 16 | _ => false
         if own then s.mbWrite m (o % 0x1000) w.v else none)
      else none
    .next (t.getD s)

end Sys2Proof.Machine
end

