-- ==== Sys2Proof/Machine/Reads.lean ====
section
/-! DEFINITION. What the host and firmware read of node control space (R366, R392, R410, R432, R439, R440, R443, R445 to R452, R460,
R475). A read changes nothing, so it is no step: `State.hostRead` is what it answers. A refused read returns zeros. -/

namespace Sys2Proof.Machine

/-- A requester with the function's rights in its block: firmware, the PF, the function's own VF (R445). -/
def Who.sees (w : Who) (f : Nat) : Bool := Who.rules w || (match w with | .vf g => g.val == f | _ => false)
/-- A word of a function block (R451); an offset that is not listed reads zero. -/
def Func.word (x : Func) (o : Nat) : Word :=
  match o with
  | 0x000 => x.cores.setWidth 64
  | 0x008 => (x.cores >>> 64).setWidth 64
  | 0x010 => x.flags
  | 0x018 => x.trees
  | 0x060 => x.pool
  | 0x068 => x.root
  | 0x070 => x.imgbase
  | 0x078 => x.imglen
  | 0x080 => x.lq
  | 0x088 => x.eq
  | 0x100 => x.frst
  | 0x108 => x.inval
  | n => if 0x020 ≤ n && n < 0x060 && n % 8 == 0 then x.cache.toList.getD ((n - 0x020) / 8) 0 else 0
/-- LIMITS (R448), as last written. -/
def State.limitsWord (s : State) : Word :=
  let (f, a) := s.limNew.getD (s.ftmo, s.age)
  BitVec.ofNat 64 (a + f * 2 ^ 20)
/-- A word of the block at 0x40_0000 (R475). -/
def State.torusWord (s : State) (o : Nat) : Word :=
  if o == 0 then s.limitsWord
  else if o == 8 then s.torus
  else if 0x100 ≤ o && o < 0x200 then (if o % 16 == 0 then (s.func ((o - 0x100) / 16)).pbox else (s.func ((o - 0x100) / 16)).phlt)
  else 0
/-- The owner bytes of a channel, as last written: 0xFF names no owner (R445). -/
def State.ownerBytes (s : State) (ch : Nat) : List Byte :=
  let m := s.ownersNext ch
  (List.range 64).map (fun sp => match m.find? (fun o => o.1 == sp) with | some o => BitVec.ofNat 8 o.2.val | none => 0xFF)
/-- An entry of D, as last written (R142, R445). -/
def State.dEntry (s : State) (i : Nat) : Nat :=
  match s.pendD.find? (fun d => d.1 == i) with
  | some d => d.2
  | none => s.latD (Fin.ofNat 128 (i / 512)) (i % 512)
/-- A debug register of a core (R432): CYC and NRG are those of the running context; a number that names no register reads zero. -/
def State.debugWord (s : State) (c : CoreId) (n : Nat) : Word :=
  let k := s.core c
  if 0x0A0 ≤ n && !k.busy then 0 else (s.regRead k k.ctx n).getD 0
/-- The energy of a function: NRG of its contexts, living and gone (R441, R460). -/
def State.fnEnergy (s : State) (f : Nat) : Nat :=
  (s.func f).nrg + ((s.living.filter (fun x => x.fn.val == f)).map (fun x => x.nrg.toNat)).foldl (· + ·) 0
/-- A word of the power block (R459, R460; log entry 61). -/
def State.powerWord (s : State) (o : Nat) : Word :=
  let i := o % 0x80 / 8
  let num (n : Nat) : Word := BitVec.ofNat 64 n
  if o == 0xB00000 then num s.cap
  else if o == 0xB00010 then s.gated.setWidth 64
  else if o == 0xB00018 then (if s.off then 1 else 0)
  else if o < 0xB00080 then 0
  else if o < 0xB00100 then s.droopTh.toList.getD i 0
  else if o < 0xB00180 then num (s.logAt.toList.getD i 0)
  else if o < 0xB00200 then num (s.waitLost i)
  else if o < 0xB00280 then num (s.drops.toList.getD i 0)
  else if o < 0xB00300 then num (s.fnEnergy i)
  else if o == 0xB00300 then num s.mchecks
  else if o == 0xB00308 then num s.scrubbed
  else if o == 0xB00310 then num s.lost
  else if 0xB00400 ≤ o && o < 0xB004F0 then num (s.corrected.toList.getD ((o - 0xB00400) / 8) 0)
  else if 0xB00500 ≤ o && o < 0xB00600 then Config.sensor ((o - 0xB00500) / 8) s.now
  else 0
/-- Bytes `o` to `o+n` of a word that starts at 0. -/
def part (bs : List Byte) (o n : Nat) : List Byte := ((bs ++ List.replicate (o + n) 0).drop o).take n
/-- The rows of R445 that hold bytes: who may read them, and the bytes. -/
def State.ctlBytes (s : State) (w : Who) (o n : Nat) : Option (List Byte) :=
  let all := Who.rules w
  if o < 0x200000 then
    (if ctlRow o n .rd == some true && Who.mayUse w s (s.ctlOwner o) && (match w with | .ctx _ => false | _ => true) then some (s.ctlRead o n true)
     else none)
  else if 0x300000 ≤ o && o < 0x308000 then (if all then some (part (s.ownerBytes ((o - 0x300000) / 64)) (o % 64) n) else none)
  else if 0x380000 ≤ o && o < 0x3A0000 then
    (match w with
     | .ctx _ => none
     | _ => some (part (((List.range (n / 2 + 1)).map (fun i => leBytes (s.dEntry ((o - 0x380000) / 2 + i)) 2)).flatten) (o % 2) n))
  else if 0x500000 ≤ o && o < 0x501000 then
    (if all then some (part (match s.tq.toList.getD ((o - 0x500000) / 64) none with | some r => r.bytes true | none => []) (o % 64) n) else none)
  else if 0x800000 ≤ o && o < 0xA00000 then
    (if all then some (s.load (s.logKey ((o - 0x800000) / 0x20000) (o % 0x20000)) n) else none)
  else if 0xA00000 ≤ o && o < 0xA30000 then (if all then some (s.load (key 5 o) n) else none)
  else none
/-- The rows of R445 that hold naturally aligned 8-byte words: who may read them, and the word. -/
def State.ctlWord (s : State) (w : Who) (o : Nat) : Option Word :=
  let all := Who.rules w
  let mail (m : Fin 17) (o : Nat) : Word :=
    if o == 0 then s.mbox[m].cmd else if o == 8 then s.mbox[m].len else if o == 0x10 then s.mbox[m].rlen
    else if 0x40 ≤ o then BitVec.ofNat 64 (s.mem.readN (mbKey m + o) 8) else 0
  if 0x200000 ≤ o && o < 0x210000 then
    (if Who.sees w ((o - 0x200000) / 0x1000) then some ((s.func ((o - 0x200000) / 0x1000)).word (o % 0x1000)) else none)
  else if 0x400000 ≤ o && o < 0x401000 then (if all then some (s.torusWord (o - 0x400000)) else none)
  else if o == 0x501000 then (if all then some s.tqcmd else none)
  else if 0x600000 ≤ o && o < 0x620000 then
    (if all then some (s.debugWord (Fin.ofNat 128 ((o - 0x600000) / 0x400)) ((o - 0x600000) % 0x400 / 8 + 0x80)) else none)
  else if 0xB00000 ≤ o && o < 0xB01000 then (if all then some (s.powerWord o) else none)
  else if 0xC00000 ≤ o && o < 0xC11000 then
    (let m : Fin 17 := Fin.ofNat 17 ((o - 0xC00000) / 0x1000)
     let own := match w with | .vf f => f.val == m.val | .pf => m.val == 16 | .fw => true | _ => false
     if own then some (mail m (o % 0x1000)) else none)
  else if 0xD00000 ≤ o && o < 0xD01000 then
    (let f := (o - 0xD00000) / 8
     if (match w with | .vf g => s.flagOk g.val f | _ => all) then some ((s.flag f).setWidth 64) else none)
  else none
/-- A read of `n` bytes at an offset of node control space from outside the node's contexts. -/
def State.hostRead (s : State) (w : Who) (o n : Nat) : List Byte :=
  match s.ctlBytes w o n with
  | some bs => bs
  | none =>
    if n == 8 && o % 8 == 0 then (match s.ctlWord w o with | some v => leBytes v.toNat 8 | none => List.replicate n 0)
    else List.replicate n 0
/-- R392: the event EGRESS_SLOT_READ from outside the node, which gets the record or zeros; a refused read gets zeros. -/
def execEgressSlotRead (w : Who) (e : Fin 32) (slot : Fin 256) (s : State) : Out :=
  .next { s with hostData := s.hostRead w (0x100000 + e.val * 0x8000 + 64 * slot.val) 64 }

end Sys2Proof.Machine
end

