-- ==== Sys2Proof/Machine/Cycle.lean ====
section
/-! DEFINITION. One cycle of one core: results land, waits and boundaries, the holds of R106 and the other holds of issue, the
issue of a bundle (R80, R105 to R109, R402); then what the core's engines, accesses and contexts do of themselves. `ex` is the
meaning of an instruction. -/

namespace Sys2Proof.Machine

/-- What follows a step that answers a next state. -/
def Out.then (o : Out) (f : State → Out) : Out :=
  match o with
  | .next s => f s
  | .fault r => .fault r
  | .refused r => .refused r
/-- An event that comes about now. -/
def State.did (s : State) (ev : State → Out) : State :=
  match ev s with
  | .next t => t
  | _ => s

/- Holds. -/
/-- A cycle in which a core may not issue: a trip, a throttled cycle, a gated cluster (R459, R460). -/
def State.clockHeld (s : State) (c : CoreId) : Bool :=
  s.trip || s.gated.getLsbD (cluOf c) ||
    decide (s.now % 16 < max (if s.thermal.getLsbD (c.val / 32) then 8 else 0) s.capK)
/-- An `end` that issues again acts by its E syllable alone. -/
def Ctx.acting (x : Ctx) (b : Bundle) : Bundle := if x.endOnly then { b with a := .nop .a, m := .nop .m, v := .nop .v } else b
/-- No command, access or token of the context is outstanding; an access of the own buffers has performed once its port cycles have
passed (R170, R425). -/
def Ctx.quiet (x : Ctx) (now : Nat) : Bool :=
  x.cmds.all (fun m => m.done) && x.gacc.isEmpty && x.toks.isEmpty && x.tokDue.isEmpty && x.portQ.isEmpty && x.portUse.all (fun p => decide (p.2 < now))
/-- The hold of `rte` (R409): earlier results have landed, and every command pushed since the trap has completed. -/
def Ctx.rteHeld (x : Ctx) (now : Nat) : Bool :=
  !(x.flight.all (fun f => f.settled now)) || x.cmds.any (fun m => !m.done && seqLe x.trapSeq m.seq)
/-- Bits 12:10 of the first word of the trap save area: the record's ENG (R401, R407). -/
def State.frameEng (s : State) (c : CoreId) : Nat := bits (s.mem.readN (bufKey c .jb 0x4000) 8) 10 3
/-- The holds that last until results have landed: the rows in flight, a table's entries, a return (R220, R408, R409). Results of a
resumed context go on landing under them. -/
def State.landHeld (s : State) (b : Bundle) : Bool :=
  let x := s.ctx
  ((x.live b).any Facts.row && decide (20 ≤ (x.flight.filter (fun f => f.row.isSome && decide (s.now < f.fin))).length)) ||
  (match b.v with
   | .vtbsw g => x.guard g && decide (s.now < x.tabDue)
   | _ => false) ||
  (match b.e with
   | .rte g => x.guard g && x.ih && x.rteHeld s.now
   | .rteDrop g => x.guard g && x.ih && s.frameEng s.cur != 0 && x.rteHeld s.now
   | _ => false)
/-- The holds of a bundle that has been decoded, but for translation and checked mode (R12, R13, R41, R106, R148, R170, R220,
R408, R409, R425). -/
def State.holds (s : State) (b : Bundle) : Bool :=
  let k := s.core s.cur
  let x := k.ctx
  let fs := x.live b
  x.names b x.toks ||
  (decide (32 ≤ x.inFlight) && fs.any Facts.push) ||
  (decide (s.now < k.portFree) && fs.any (fun f => f.port.isSome)) ||
  s.landHeld b ||
  (match b.m with
   | .fence f => s.fenceHeld f || (x.guard f.g && x.portUse.any (fun p => f.mask.getLsbD p.1 && decide (s.now ≤ p.2)))
   | _ => false) ||
  (match b.e with
   | .syswr w => x.guard w.g && decide (0x020 ≤ w.reg.toNat) && decide (w.reg.toNat < 0x040) && x.fmtHeld w.reg.toNat
   | .ctxsave y => x.guard y.g && !(x.quiet s.now)
   | .ctxrest y => x.guard y.g && !(x.quiet s.now)
   | .dump y => x.guard y.g && !(x.quiet s.now)
   | _ => false)

/-- The address of a global scalar access of a bundle that goes to translation: aligned and in range (R150). -/
def Ctx.globalVa (x : Ctx) (b : Bundle) : Option Nat :=
  let fit (g : Guard) (va n : Nat) : Option Nat := if x.guard g && va % n == 0 && va < 2 ^ 57 then some va else none
  match b.m with
  | .ldg y => fit y.g (offAddr (x.src y.a) y.off).toNat (accW y.t y.dw)
  | .stg y => fit y.g (offAddr (x.src y.a) y.off).toNat (accW y.t y.dw)
  | .prf y => fit y.g (offAddr (x.src y.a) y.off).toNat 1
  | i => match atomOf i with
    | some (_, y) => if y.sp == .g then fit y.g (x.src y.a).toNat (accW y.t y.dw) else none
    | none => none
/-- The bundle waits for a translation (R138, R150). -/
def State.xlateHeld (s : State) (b : Bundle) : Option State :=
  match s.ctx.globalVa b with
  | none => none
  | some va =>
    let k := s.core s.cur
    (s.setCore s.cur { k with xprf := match b.m with | .prf _ => true | _ => false }).vaHeld s.cur va
/-- The bytes that a system instruction of a bundle reads or writes, once its checks have passed (R426 to R428). -/
def State.sysSpan (s : State) (b : Bundle) : Option (Nat × Nat) :=
  let x := s.ctx
  let a (y : CtxOp) : Nat := (x.src y.a).toNat
  let n (y : CtxOp) : Nat := (x.src y.b).toNat
  match b.e with
  | .ctxsave y =>
    if x.guard y.g && n y % 64 == 0 && a y % 64 == 0 then
      let len := s.imageLen s.cur (x.result s.now y.g .e 1 (sCode y.d) 0).advance (s.now + 1)
      if n y < len then none else some (a y, len)
    else none
  | .ctxrest y =>
    if x.guard y.g && !x.ih && x.chain.isNone && a y % 64 == 0 then
      some (a y, if x.sysAt == 0 then 256 else match (s.sysGet (a y) 256).2 with
        | .ok h => if x.headerOk h then rdOf h 16 8 else 256
        | .error _ => 256)
    else none
  | .dump y =>
    if x.guard y.g && n y % 64 == 0 && 64 ≤ n y && a y % 64 == 0 then
      some (a y, min (n y) (64 + (s.dumpBody s.cur x (s.now + 1)).length))
    else none
  | _ => none
/-- The pages of `[va, va+n)` are translated one after another (R138); none once all are, or one of them faults. -/
def State.sysHeld (s : State) (va n : Nat) : Nat → Option State
  | 0 => some s
  | fuel + 1 =>
    let x := s.ctx
    let page := (va / 4096 + x.sysAt) * 4096
    if n == 0 || va + n ≤ page then none
    else match s.vaHeld s.cur page with
      | some t => some t
      | none =>
        if (tlbFind (s.core s.cur).tlb x.tfn x.asid page).isNone then none
        else (s.setCtx { x with sysAt := x.sysAt + 1 }).sysHeld va n fuel
/-- Checked mode (R84): the state, and whether the bundle may issue. -/
def State.checkedHeld (s : State) (b : Bundle) : State × Bool :=
  let ps := s.checkedOf b
  let x := s.ctx
  let eval (s : State) : State × Bool :=
    let t := s.evalChecked (x.slotK b) ps
    (t, t.ctx.chkOk)
  if ps.isEmpty || x.chkOk then (s, true)
  else match x.chk with
    | some t => if s.now < t then (s, false) else eval s
    | none =>
      if !x.settledFor s.now (ps.any (fun p => p.1 == .v)) then (s, false)
      else
        let t := s.now + ps.foldl (fun n p => max n p.2.2.2) 1 - 1
        let s := s.setCtx { x with chk := some t }
        if s.now < t then (s, false) else eval s

/- Issue. -/
def State.trapsOf (s : State) : Nat := (s.core s.cur).traps
/-- Syllables take effect in slot order; a precise trap names its syllable and the state before it. -/
def runSlots (ex : Instr → State → Out) (n : Nat) : List Instr → State → Out × Option (Instr × State)
  | [], s => (.next s, none)
  | i :: r, s =>
    match ex i s with
    | .next t => if t.trapsOf == n then runSlots ex n r t else (.next t, some (i, s))
    | o => (o, none)
/-- The flags that a syllable of the bundle raises (R36). -/
def State.flagsOf (s : State) (ex : Instr → State → Out) (i : Instr) : Fl :=
  match ex i (s.setCtx { s.ctx with fpstat := 0, raised := 0, flight := [] }) with
  | .next t => if t.trapsOf == s.trapsOf then t.ctx.flight.foldl (fun a f => a ||| f.flags) t.ctx.raised else 0
  | _ => 0
/-- The context as its bundle issues: a pending transfer that has reached its target is over (R107, R113); what the bundle's
`sysrd` reads is as it stood before (R424). -/
def Ctx.toIssue (x : Ctx) : Ctx :=
  let x := match x.xfer with
    | some t => if t.left == 0 then { x with xfer := none, loops := if t.pops then popTo t.tgt x.loops else x.loops } else x
    | none => x
  { x with
    issuing := true, thaw := none, sysAt := 0, kpos := x.issueK, raised := 0, raisedSm := 0, raisedAm := none
    pre := some { fp := x.fpstatNow, sm := x.smstatNow, am0 := x.smamNow false, am1 := x.smamNow true, sp := x.sp, loopst := loopst x.loops, act := x.act } }
/-- After the bundle: the context has moved on, whatever its syllables did. -/
def Ctx.issued (x : Ctx) : Ctx :=
  let x := if x.issuing then x.advance else x
  { x with issuing := false, kpos := none, raised := 0, raisedSm := 0, raisedAm := none, pre := none, chk := none, chkOk := false }
/-- A bundle issues. -/
def State.issue (s : State) (ex : Instr → State → Out) (b : Bundle) : Out :=
  let k := s.core s.cur
  let x := k.ctx
  let s0 := s.setCore s.cur { k with ctx := x.toIssue, xlat := none }
  -- an `end` that issues again has hit already
  let s1 := (s0.setCtx { s0.ctx with lastPc := x.pc, lastQ := x.lastSeq }).hit s.cur 1 x.pc x.lastSeq (fun n => !x.endOnly && k.bpv[n] == x.pc)
  let is := if x.endOnly then [b.e] else [b.a, b.m, b.v, b.e]
  let done (s : State) : Out := .next (s.setCtx s.ctx.issued)
  match runSlots ex s.trapsOf is s1 with
  | (_, some (i, t)) =>
    let y := { s0.ctx with kpos := t.ctx.kpos }
    let fl := (is.filter (fun j => j != i)).foldl (fun (a : Fl) j => a ||| (s0.setCtx y).flagsOf ex j) 0
    (ex i (s0.setCtx { y with raised := fl })).then done
  | (.next t, none) =>
    let use := (x.live (x.acting b)).filterMap (fun f => f.port.map (fun p => (p.1, s.now + 1 + p.2)))
    done (t.setCtx { t.ctx with portUse := t.ctx.portUse.filter (fun p => decide (s.now < p.2)) ++ use })
  | (o, none) => o
/-- A bundle in the instruction buffer: held, or issued. -/
def State.tryWord (s : State) (ex : Instr → State → Out) (w : BitVec 256) : Out :=
  match decodeBundle w.toNat with
  | .error (slot, _) => .next ((s.setCtx s.ctx.toIssue).precise {} slot .illegal 0 |> fun t => t.setCtx t.ctx.issued)
  | .ok b0 =>
    let b := s.ctx.acting b0
    let go (s : State) : State := s.setCtx { s.ctx with thaw := none }
    if s.holds b then .next (if s.landHeld b then go s else s)
    else match s.xlateHeld b with
      | some t => .next t
      | none => match (match s.sysSpan b with | some (va, n) => s.sysHeld va n 1024 | none => none) with
        | some t => .next t
        | none => match s.checkedHeld b with
          | (t, false) => .next (go t)
          | (t, true) => t.issue ex b
/-- The core's next bundle: fetched if the buffer lacks it, a fill that takes no cycle (log entry 39); then held or issued. -/
def State.tryIssue (s : State) (ex : Instr → State → Out) : Out :=
  let k := s.core s.cur
  if !k.runs || s.clockHeld s.cur || s.now < k.holdUntil then .next s
  else match k.word with
    | some w => s.tryWord ex w
    | none => match s.vaHeld s.cur k.ctx.pc.toNat with
      | some t => .next t
      | none =>
      let t := s.fill
      match (t.core s.cur).word with
      | some w =>
        if t.trapsOf != s.trapsOf then .next t
        else match t.ctx.pendNow t.now (t.core t.cur).nextBundle with
          | some p => .next (t.takePend t.cur p)
          | none => t.tryWord ex w
      | none => .next t
/-- CYC and NRG of the context on the core (R441). -/
def State.countCycle (s : State) : State :=
  let x := s.ctx
  s.setCtx { x with cyc := if x.cyc == BitVec.allOnes 64 then x.cyc else x.cyc + 1
                    nrg := BitVec.ofNat 64 (min (2 ^ 64 - 1) (x.nrg.toNat + (Config.energy s.cur.val s.now))) }
/-- What stands before the next bundle: results that wait for a resumed bundle (R83), port cycles (R148), results that land, a
`ctxrest`'s loading pass (R427), waits, traps, hits and a pre-emption (R80, R120, R402, R415, R434). -/
def State.boundary (s : State) : State :=
  let c := s.cur
  let waiting := s.ctx.wait.isSome
  let s := s.setCtx (if waiting then { s.ctx with thaw := none } else s.ctx.frozen s.now)
  let s := ((s.portStep c).did (execResultLand c)).restLoad c
  let s := (s.did (execWaitEnd c)).did (execWaitTimeout c)
  let s := if waiting then s else (s.did (execTrapTake c)).did (execBreakpointHit c)
  s.did (execPreemptTake c)
/-- The sequencer's cycle. -/
def State.sequence (s : State) (ex : Instr → State → Out) : Out :=
  let c := s.cur
  if !(s.core c).busy then .next ((s.did (execWaitEnd c)).did (execWaitTimeout c))
  else
    let waiting := s.ctx.wait.isSome
    let s := s.boundary.countCycle
    if waiting then .next s
    else (s.tryIssue ex).then (fun s => .next ((s.did (execWaitEnd c)).did (execWaitTimeout c)))

end Sys2Proof.Machine
end

