-- ==== Sys2Proof/Machine/Auto.lean ====
section
/-! DEFINITION. What the node does of itself in a cycle: starts, commits and completions of commands, answers that come from
this node, saves and resumptions, and the node's own calendar. Each is a call of an event's meaning; nothing here brings bytes
or answers of another node (log entries 1, 2). -/

namespace Sys2Proof.Machine

/-- The answer of a location of this node: its own state holds the bytes. -/
def ownAns : Answer := .ok []

/- Matrix and chain engines. -/
/-- A running command, as it stands now. -/
def State.onRunning (s : State) (r : CmdRef) (f : State → Cmd → State) : State :=
  match s.cmd? r with
  | some m => if m.started && !m.faulted && m.fail.isNone then f s m else s
  | none => s
/-- The requests of a command that went out in an earlier cycle and that this node answers. -/
def State.nearParts (s : State) (c : CoreId) (m : Cmd) : List Nat :=
  (m.asked.filter (fun p => decide (p.2 < s.now) && !(s.partAway c m p.1))).map Prod.fst
/-- A matrix command's cycle: its requests, the rows that this node answers, its ports, a row's commit, its completion (R242, R243,
R252). While the core is stopped, or a trip holds, a stream and `mdrain` go no further (R415, R459); the others have no stopping point. -/
def State.autoMe (s : State) (c : CoreId) (m : Cmd) : State :=
  let r : CmdRef := { core := c, seq := m.seq.toNat }
  let stopped := (s.core c).stop.isSome || s.trip
  let s := s.onRunning r (fun s m =>
    match m.ins with
    | .mstrr x => if stopped then s else s.askRows c m x
    | .mstr _ => if stopped then s else s.mePort c m
    | .mdrain _ => if stopped then s else s.mePort c m
    | _ => s.mePort c m)
  let s := s.onRunning r (fun s m =>
    (s.nearParts c m).foldl (fun (s : State) idx => s.did (execMstrrRowArrive { core := c, seq := m.seq.toNat, idx, ans := ownAns })) s)
  (s.did (execMeRowCommit r)).did (execMeCommandComplete r)

/- The transfer engine. -/
/-- Units of `xput` that go out to a window of this node in this cycle: each is ready for its lane at once (R292, R305). -/
def State.winParts (s : State) (c : CoreId) (m : Cmd) : List Nat :=
  match m.move with
  | some o =>
    if o.k != .put then [] else
    (m.asked.filter (fun p => p.2 == s.now && (match o.gParts[p.1]? with
      | some (va, n) => (match (s.xlate c va n .wr).2 with | .ok pa => paKind pa == 4 && paNode pa == s.nodeId | .error _ => false)
      | none => false))).map Prod.fst
  | none => []
/-- The pieces of a move that this node answers: those with a track by their data's arrival, others once their space has come. -/
def State.autoGranules (s : State) (c : CoreId) (m : Cmd) : State :=
  (s.nearParts c m ++ s.winParts c m).foldl (fun (s : State) idx =>
    match s.trackOf c (.cmd m.seq.toNat) idx with
    | some t =>
      if t.due.isSome then
        match (List.range s.tracks.length).find? (fun i => s.tracks[i]? == some t) with
        | some i => s.did (execTrackDataArrive i)
        | none => s
      else s.did (execXeGranuleArrive { core := c, seq := m.seq.toNat, idx, ans := ownAns })
    | none => s.did (execXeGranuleArrive { core := c, seq := m.seq.toNat, idx, ans := ownAns })) s
/-- Units of a command commit, as many as the ports move in a cycle: at most `n`, each of a byte or more (R242). -/
def State.commitUnits (s : State) (r : CmdRef) : Nat → State
  | 0 => s
  | n + 1 =>
    let t := s.did (execXeUnitCommit r)
    if (t.cmd? r).map Cmd.prog == (s.cmd? r).map Cmd.prog then t else t.commitUnits r n
/-- A transfer's cycle: its requests, what this node answers, units that commit, a swap, its completion (R286, R292, R298, R303). While the core is
stopped, or a trip holds, a list asks for no entry (R309, R459). -/
def State.autoXe (s : State) (c : CoreId) (m : Cmd) : State :=
  let r : CmdRef := { core := c, seq := m.seq.toNat }
  let arrive (s : State) (idx : Nat) : State := s.did (execXeGranuleArrive { core := c, seq := m.seq.toNat, idx, ans := ownAns })
  let stopped := (s.core c).stop.isSome || s.trip
  let s := s.onRunning r (fun s m => if stopped && m.move.isNone then s else s.xeAsk c m)
  let s := s.onRunning r (fun s m =>
    match m.move with
    | some o => if o.k == .mcast then (List.range ((s.ctxOf c).units o)).foldl arrive s else s.autoGranules c m
    | none => if !m.asked.isEmpty && (s.nearParts c m).length == m.asked.length then arrive s 0 else s)
  ((s.commitUnits r 1024).did (execPublishSwap r)).did (execXeCommandComplete r)

/- The fabric interface. -/
/-- The own blocks of a running `cmgath` or `cmshuf` are copied, and its next send goes out (R351 to R353). -/
def State.autoBlocks (s t : State) (c : CoreId) (m : Cmd) (r : CmdRef) : State :=
  let i := t.cmSlot c m
  match t.mySlot c i with
  | none => s
  | some x =>
    let s := (List.range x.total).foldl (fun (s : State) idx =>
      let (src, id) := x.srcOf (isShuf m.ins) idx
      if src == x.rank && m.run.phase != 0 && !(t.mapBit x idx) && t.allOwn c (x.ownSrc (isShuf m.ins) m.b.toNat id) (blockB x.z) .rd then
        s.did (execCodedBlockArrive { slot := Fin.ofNat 128 i, src, idx, ans := ownAns })
      else s) s
    s.onCmd r (fun s m => match s.mySlot c i with | some x => s.codedSend c m x | none => s)
/-- The blocks that wait in FI for their writes (R353). -/
def State.autoDeliver (s : State) (c : CoreId) (i : Nat) (m : Cmd) : State :=
  m.staged.foldl (fun (s : State) g => s.onRun i (fun s cr e x =>
    if e.seq == m.seq && e.staged.any (fun h => h.idx == g.idx) && c == cr then s.deliver cr e x g.idx g.data else s)) s
/-- A coded command of a context of a core; `t` is the state in which that context stands on the core (R344 to R364). The barrier, a
match, acknowledgements and blocks of other ranks come from outside. -/
def State.autoCoded (s t : State) (c : CoreId) (m : Cmd) : State :=
  let ctx := (t.ctxOf c).serial
  let r : CmdRef := { core := c, seq := m.seq.toNat, ctx }
  let answer (s : State) (idx : Nat) : State := s.did (execFiResponseArrive (.cmd { core := c, seq := m.seq.toNat, idx, ans := ownAns, ctx }))
  let i := t.cmSlot c m
  let acks := (match m.ins with | .cmsetClose _ => !m.ext.isEmpty | _ => false)
  let s := if m.eff then (if acks then s else answer s 0) else match m.ins with
    | .cmset _ =>
      if m.ext.isEmpty then (if t.allOwn c m.b.toNat (4 * (bits m.a.toNat 8 6 + 1)) .rd then answer s 0 else s)
      else if (t.slot i).owner.isSome then s.did (execCmsetMatch r 0) else s
    | .cmsetClose _ => s
    | .cmheldClr _ => s
    | .cmheld _ =>
      let ad := m.b.toNat + 16 * m.prog
      let own := match t.mySlot c i with
        | none => true
        | some x => bits m.c.toNat 0 32 ≤ m.prog || (t.allOwn c ad 16 .rd && (match (t.gReadVa c ad 16 ownAns cmPol).2 with
          | .ok e => t.allOwn c (leNat ((e.drop 8).take 8)) (blockB x.z) .rd
          | .error _ => true))
      if own then answer s m.prog else s
    | ins =>
      if isShuf ins || State.gathOf.isGath ins then answer (((s.autoBlocks t c m r).autoDeliver c i m).did (execCodedSettle r)) 0
      else answer s 0
  s.did (execCodedTimeout r)
/-- The units of an FI command that this node answers (R321, R322, R327). -/
def State.autoUnits (s : State) (c : CoreId) (m : Cmd) : State :=
  let answer (s : State) (idx : Nat) : State := s.did (execFiResponseArrive (.cmd { core := c, seq := m.seq.toNat, idx, ans := ownAns }))
  if !m.started || m.faulted || m.fail.isSome || (s.ctxOf c).portAhead m then s
  else if !m.late.isEmpty then (match m.fiSpan with | some (va, n, k) => s.fiLeave c m va n k | none => s)
  else if isLbuf m.ins then answer s 0
  else match m.ins with
    | .renq _ =>
      let a := m.a.toNat
      if s.fiAway m 0 then s
      else
        let q : RenqReq :=
          { node := s.nodeId, core := c.val, seq := m.seq.toNat, fn := (s.ctxOf c).fn.val
            tgt := Fin.ofNat 128 (bits a 12 7), eng := Fin.ofNat 4 (bits a 20 2), data := m.pay }
        answer (s.did (execRenqArrive q)) 0
    | _ =>
      (List.range m.fiUnits).foldl (fun (s : State) idx =>
        if s.fiAway m idx || m.staged.any (fun g => g.idx == idx) then s
        else match s.fiReq c m idx with
          | none => s
          | some r => answer (s.did (if reqIsLink r then execLinkUnitArrive r else execFiRequestArrive r)) idx) s
def State.autoFi (s : State) (c : CoreId) (m : Cmd) : State :=
  let r : CmdRef := { core := c, seq := m.seq.toNat }
  if isCoded m.ins then s.autoCoded s c m
  else if isTask m.ins then
    let s := if (s.ctxOf c).released m then s else s.onCmd r (fun s m => s.putCmd c { m with t0 := s.now })
    (s.did (execReleasePerform r)).did (execEgputTimeout r)
  else s.autoUnits c m

/- Commands, accesses, units. -/
/-- What one command does of itself. -/
def State.autoCmd (s : State) (c : CoreId) (q : Nat) : State :=
  let r : CmdRef := { core := c, seq := q }
  let s := s.did (execScoreboardRelease r)
  match s.cmd? r with
  | none => s
  | some m =>
    let s := match m.ins, m.aside, m.eng with
      | .waitQ _, _, _ => s.did (execEngineWaitSatisfied r)
      | .fset _, _, _ => s.did (execFlagPerform r)
      | .finc _, _, _ => s.did (execFlagPerform r)
      | .fclr _, _, _ => s.did (execFlagPerform r)
      | .fget _, _, _ => s.did (execFlagPerform r)
      | _, _, .me => s.autoMe c m
      | _, _, .ce => ((s.onRunning r (fun s m => s.ceMove c m)).did (execChainBlockCommit r)).did (execChainCommandComplete r)
      | _, _, .xe => s.autoXe c m
      | _, _, .fi => s.autoFi c m
      | _, _, _ => s.did (execFlagPerform r)
    let s := (s.farParts c m).foldl (fun (s : State) i => s.did (execFabricTimeout (.cmd c q i))) s
    s.did (execEngineFault r)
/-- An access of the sequencer returns from this node, one cycle or more after its issue (R151, R152, R155). -/
def State.autoAcc (s : State) (c : CoreId) (g : GAcc) : State :=
  let a : AccAns := { core := c, id := g.id, ans := ownAns }
  if s.now ≤ g.born then s
  else if paNode g.pa != s.nodeId then s.did (execFabricTimeout (.acc c g.id))
  else match g.ins with
    | .ldg _ => s.did (execLdgReturn a)
    | .stg _ => s.did (execStgAck a)
    | _ => s.did (execGlobalAtomicReturn a)
/-- The lane of a core carries a unit, and units of the core land (R305). -/
def State.autoWin (s0 : State) (c : CoreId) : State :=
  let s := s0.lane c
  (s.winUnits.filter (fun u => u.core == c)).foldl (fun (s : State) u =>
    match (List.range s.winUnits.length).find? (fun i => s.winUnits[i]? == some u) with
    | some i => s.did (execWindowUnitLand i)
    | none => s) s
/-- Packets of a core that were trimmed, or that this node refused, and the reply table's entries of its commands (R324, R331, R333).
The ready notice of another node comes from outside. -/
def State.autoPkts (s : State) (c : CoreId) : State :=
  let mine (p : PktId) : Bool := match p with
    | .acc d _ => d == c
    | .cmd d _ _ => d == c
    | .resp _ _ => c == 0
    | .block sl _ _ => (match (s.slots[sl]).owner with | some (d, _) => d == c | none => false)
  let near (s : State) (p : PktId) : Bool := match p with
    | .cmd d q i => (match s.cmd? { core := d, seq := q } with
      | some m => if isBulk m.ins then !((List.range m.fiUnits).any (s.fiAway m)) else !(s.fiAway m i)
      | none => true)
    | _ => false
  let s := (s.pkts.filter (fun p => mine p.id)).foldl (fun (s : State) p =>
    let s := s.did (execResendBackoffExpiry p.id)
    if near s p.id then s.did (execReadyNotice p.id) else s) s
  (s.replies.filter (fun e => e.nm.node == s.nodeId && e.nm.core == c.val)).foldl (fun (s : State) e => s.did (execReplyRelease e.nm)) s
/-- The saved contexts of a core: joins, and the commands that stay outstanding (R309, R364, R388). -/
def State.autoSaved (s : State) (c : CoreId) : State :=
  (s.saved.filter (fun v => v.core == c)).foldl (fun (s : State) v =>
    let t := s.setCtxOf c v.ctx
    (v.ctx.cmds.filter (fun m => m.started && !m.done && isCoded m.ins)).foldl (fun (s : State) m => s.autoCoded t c m) s) s
/-- Joins of a core's contexts (R388). -/
def State.autoJoins (s : State) (c : CoreId) : State :=
  if (s.ctxOf c).joinTok.isEmpty && s.saved.all (fun v => v.core != c || v.ctx.joinTok.isEmpty) then s
  else (List.range 16).foldl (fun (s : State) j => s.did (execJoinReady c (Fin.ofNat 16 j))) s
/-- A command's turn at the engine ports: SA, VA, XE (R242). -/
def Cmd.portRank (m : Cmd) : Nat :=
  match m.eng with
  | .me => if bit m.arrs 0 then 0 else 1
  | .ce => 1
  | .xe => 2
  | _ => 3
/-- The commands of a core in a cycle: at the ports by rank, then those that may start now. -/
def State.autoCmds (s : State) (c : CoreId) : State :=
  let act (s : State) (n : Nat) : State :=
    ((s.ctxOf c).cmds.filter (fun m => !m.done && m.portRank == n)).foldl (fun (s : State) m => s.autoCmd c m.seq.toNat) s
  let s := [1, 2, 3].foldl act ((act s 0).cePort c)
  ((s.ctxOf c).cmds.filter (fun m => !m.done)).foldl (fun (s : State) m => s.did (execScoreboardRelease { core := c, seq := m.seq.toNat })) s
/-- What a core and its contexts do of themselves in a cycle. -/
def State.autoCore (s : State) (c : CoreId) : State :=
  let s := s.autoCmds c
  let s := (s.ctxOf c).gacc.foldl (fun (s : State) g => s.autoAcc c g) s
  let s := ((s.autoWin c).autoPkts c).autoSaved c
  let s := if (s.core c).inq.isEmpty then s else ([0, 1, 2, 3] : List (Fin 4)).foldl (fun (s : State) e => s.did (execInboxDequeue c e)) s
  let s := s.autoJoins c
  ((s.did (execContextRetire c)).did (execContextSaved c)).did (execContextResume c)

/- The node. -/
/-- A gated cluster with a context wakes, within 2 µs of its placement (R460; log entry 116). -/
def State.wakeStep (s : State) (k : Fin 16) : State :=
  if !(s.gated.getLsbD k.val && s.cores.toList.zipIdx.any (fun p => p.2 / 8 == k.val && p.1.busy)) then s
  else match s.wakeAt[k] with
    | none => { s with wakeAt := s.wakeAt.set k (some (s.now + Config.wakeTime k.val s.now % 6001)) }
    | some t => if t ≤ s.now then s.did (execClusterWake k) else s
/-- The part's calendar, the lap boundary before its first space, and the node's units, once in each cycle (R138, R141, R142, R374 to R376, R383, R385, R420, R446, R454,
R476). -/
def State.autoNode (s : State) : State :=
  let s := s.did execTrackLapBoundary
  let s := ((s.winUnits.map (fun u => u.clu)).eraseDups).foldl (fun (s : State) k => s.foreignLane k) s
  let chans := (s.tracks.map (fun r => r.chan)).eraseDups
  let s := if s.now % 4 == 0 then chans.foldl (fun (s : State) ch => s.did (execTrackSpace (Fin.ofNat 512 ch))) s else s
  let s := (s.tracks.filter (fun r => match r.src with | .gone _ => true | _ => false)).foldl (fun (s : State) r =>
    match (List.range s.tracks.length).find? (fun i => s.tracks[i]? == some r) with
    | some i => s.did (execTrackDataArrive i)
    | none => s) s
  let s := (List.range s.walks.length).foldl (fun (s : State) i => s.walkStep i) s
  let s := (List.range s.walks.length).foldr (fun i (s : State) => s.did (execPageWalkDone i)) s
  let s := if s.off then s else s.did execLaunchTake
  let s := if s.off || s.saved.isEmpty && s.nests.toList.all Option.isNone then s
    else (List.range 128).foldl (fun (s : State) n =>
      let c : CoreId := Fin.ofNat 128 n
      match (s.bestWork c) with
      | some { ref := .nest i, .. } => s.did (execNestGrant i c)
      | _ => s.did (execCorePlace c)) s
  let s := if s.gated == 0 then s else (List.range 16).foldl (fun (s : State) k => s.wakeStep (Fin.ofNat 16 k)) s
  let s := if s.nests.toList.all Option.isNone then s
    else (List.range 16).foldl (fun (s : State) i => (s.did (execNestComplete (Fin.ofNat 16 i))).did (execAgeExpiry (.nest (Fin.ofNat 16 i)))) s
  let s := (List.range s.saved.length).foldl (fun (s : State) i => s.did (execAgeExpiry (.ctx i))) s
  let s := s.did execSchedLapBoundary
  let s := (List.range 16).foldl (fun (s : State) f =>
    let x := s.func f
    let s := if x.inval.getLsbD 3 then s.did (execInvalComplete (Fin.ofNat 16 f)) else s
    if x.drains && x.frstDue ≤ s.now then s.did (execFlrDrainDone (Fin.ofNat 16 f)) else s) s
  s.did execWatchdogExpiry
/-- The part of a cycle that is core `cur`'s, then the next core's turn; after the last core the node's, and the next cycle. -/
def State.cycle (s : State) (ex : Instr → State → Out) : Out :=
  (s.sequence ex).then (fun t =>
    let t := t.autoCore s.cur
    if s.cur.val == 127 then
      let t := t.autoNode
      .next { t with now := t.now + 1, cur := 0, sent := [] }
    else .next { t with cur := Fin.ofNat 128 (s.cur.val + 1) })

end Sys2Proof.Machine
end

