-- ==== Sys2Proof/Machine/Control.lean ====
section
/-! DEFINITION. Control transfers, hardware loops, predicate logic, `eseq`, `live` and `end` (05_control.md, R107 to R114,
R118, R125, R126). -/

namespace Sys2Proof.Machine

/-- A transfer may not be taken here: in a delay bundle of a taken transfer, or in the last three bundles of an active
loop's body (R109). -/
def Ctx.noTransfer (c : Ctx) : Bool :=
  (match c.xfer with | some x => 1 ≤ x.left | none => false) ||
  c.loops.any (fun e => c.pc == e.fin || c.pc + 32 == e.fin || c.pc + 64 == e.fin)

/-- The transfer is taken: older results are killed, two delay bundles follow (R107, R108). -/
def Ctx.take (c : Ctx) (now : Nat) (tgt : Word) (pops : Bool) : Ctx :=
  { c.killOlder now with xfer := some { tgt, left := 2, pops }, kpos := some 0 }

/-- A transfer with its checks (R109, R110); `f` writes the link; an uncorrectable error of a load that it kills is counted (R149).
DESIGN CHOICE: a misaligned target raises ALIGN also where no transfer may be taken (log entry 84). -/
def State.transfer (s : State) (g : Guard) (tgt : Word) (pops : Bool) (f : Ctx → Ctx) : Out :=
  if !s.ctx.guard g then .next s
  else if tgt.toNat % 32 != 0 then .next (s.precise g .a .align tgt.toNat)
  else if s.ctx.noTransfer then .next (s.precise g .a .illegal 0)
  else
    let n := (s.ctx.pend.filter (fun p => p.dies s.now)).length
    .next ({ s with lost := s.lost + n }.setCtx ((f s.ctx).take s.now tgt pops))

/-- `PC + 32*disp` (R56). -/
def Ctx.rel (c : Ctx) (disp : Int) : Word := c.pc + BitVec.ofInt 64 (32 * disp)
/-- The link: PC + 96, of latency 1 (R110). -/
def Ctx.link (now : Nat) (g : Guard) (d : SDst) (c : Ctx) : Ctx := c.result now g .a 1 (sCode d) (c.pc + 96)

/-- R110. -/
def execBr (x : Br) (s : State) : Out := s.transfer x.g (s.ctx.rel x.disp.toInt) true id
/-- R110. -/
def execJr (x : Jr) (s : State) : Out := s.transfer x.g (s.ctx.src x.a) true id
/-- R110. -/
def execCall (x : Call) (s : State) : Out := s.transfer x.g (s.ctx.rel x.disp.toInt) false (Ctx.link s.now x.g x.link)
/-- R110. -/
def execCallr (x : Callr) (s : State) : Out := s.transfer x.g (s.ctx.src x.a) false (Ctx.link s.now x.g x.link)
/-- R110. DESIGN CHOICE: R438 gives a trace record no place for the mark of a return, and none is written (log entry 85). -/
def execRet (x : Jr) (s : State) : Out := s.transfer x.g (s.ctx.src x.a) false id

/-- R112: the checks, then a transfer past the body for a count of 0, else a new entry. -/
def State.openLoop (s : State) (g : Guard) (n : Nat) (disp : BitVec 16) : Out :=
  let c := s.ctx
  let e := c.rel disp.toInt
  if !c.guard g then .next s
  else if disp.toInt < 1 then .next (s.precise g .a .illegal 0)
  else if 4 ≤ c.loops.length then .next (s.precise g .a .illegal 0)
  else if (match c.loops with | l :: _ => decide (l.fin.toNat < e.toNat) | [] => false) then .next (s.precise g .a .illegal 0)
  else if n == 0 then s.transfer g (e + 32) false id
  else .next (s.setCtx { c with loops := { start := c.pc + 32, fin := e, count := n } :: c.loops })

/-- R112. -/
def execLoop (x : Loop) (s : State) : Out := s.openLoop x.g ((s.ctx.src x.a).toNat % 2 ^ 32) x.disp
/-- R112. -/
def execLoopi (x : Loopi) (s : State) : Out := s.openLoop x.g x.n.toNat x.disp

/-- A predicate result of R114. -/
def State.pred (s : State) (g : Guard) (d : Fin 8) (v : Bool) : Out := s.alu g .a (cCode (.p d)) (boolW v)
def State.pbin (s : State) (x : PBin) (f : Bool → Bool → Bool) : Out :=
  s.pred x.g x.d (f (s.ctx.pr x.a != x.na) (s.ctx.pr x.b != x.nb))
def Ctx.psrc (c : Ctx) : PSrc → Bool
  | .p i => c.pr i
  | .sc x => c.src x != 0
/-- R114. -/
def execPand (x : PBin) (s : State) : Out := s.pbin x (fun a b => a && b)
/-- R114. -/
def execPor (x : PBin) (s : State) : Out := s.pbin x (fun a b => a || b)
/-- R114. -/
def execPxor (x : PBin) (s : State) : Out := s.pbin x (fun a b => a != b)
/-- R114. -/
def execPnot (x : PUna) (s : State) : Out := s.pred x.g x.d (!(s.ctx.psrc x.a != x.na))
/-- R114. -/
def execPmov (x : PUna) (s : State) : Out := s.pred x.g x.d (s.ctx.psrc x.a != x.na)

/-- R118: the next sequence number, or an engine's completion number. -/
def execEseq (x : Eseq) (s : State) : Out :=
  let v := if x.sel.val == 0 then s.ctx.nextSeq else s.ctx.comp.toArray.getD (x.sel.val - 1) 0
  s.alu x.g .e (sCode x.d) (v.setWidth 64)

/-- `live` (R125): a change of the declarations at issue. -/
def State.live (s : State) (g : Guard) (f : Ctx → Ctx) : Out :=
  if s.ctx.guard g then .next (s.setCtx (f s.ctx)) else .next s
/-- R125. -/
def execLiveNone (g : Guard) (s : State) : Out :=
  s.live g (fun c => { c with liveS := 0, liveT := 0, liveBuf := false, liveR := [] })
/-- R125. -/
def execLiveAll (g : Guard) (s : State) : Out :=
  s.live g (fun c => { c with liveS := BitVec.allOnes 64, liveT := BitVec.allOnes 16, liveBuf := true, liveR := [] })
/-- R125. -/
def execLiveS (x : LiveA) (s : State) : Out := s.live x.g (fun c => { c with liveS := c.src x.a })
/-- R125. -/
def execLiveT (x : LiveA) (s : State) : Out := s.live x.g (fun c => { c with liveT := (c.src x.a).setWidth 16 })
/-- R125: BUFFER beyond the buffer, ILLEGAL for a ninth region. DESIGN CHOICE: a ninth one beyond its buffer raises BUFFER (log entry
84). -/
def execLiveR (x : LiveR) (s : State) : Out :=
  let lo := (s.ctx.src x.a).toNat
  let hi := lo + (s.ctx.src x.b).toNat
  if !s.ctx.guard x.g then .next s
  else if Space.size x.sp < hi then .next (s.precise x.g .e .buffer lo)
  else if 8 ≤ s.ctx.liveR.length then .next (s.precise x.g .e .illegal 0)
  else .next (s.setCtx { s.ctx with liveBuf := false, liveR := s.ctx.liveR ++ [{ buf := x.sp, lo, hi }] })
/-- R125. -/
def execLiveRclr (g : Guard) (s : State) : Out := s.live g (fun c => { c with liveBuf := false, liveR := [] })

/-- R126, R127: no further bundle issues; the context retires when its commands have completed (CONTEXT_RETIRE). -/
def execEndCtx (x : LiveA) (s : State) : Out :=
  if s.ctx.guard x.g then .next (s.setCtx { s.ctx with
    ended := some ((s.ctx.src x.a).setWidth 32), xfer := if s.ctx.kpos == some 0 then none else s.ctx.xfer })
  else .next s

end Sys2Proof.Machine
end

