-- ==== Sys2Proof/Machine/Dispatch.lean ====
section
/-! DEFINITION. The dispatch: one arm for each instruction and event, each a direct call of its meaning. -/

namespace Sys2Proof.Machine

def exec (i : Instr) (s : State) : Host.Outcome State Fault Refusal :=
  match i with
  | .nop slot => Sys2Proof.Machine.execNop slot s
  | .add x => Sys2Proof.Machine.execAdd x s
  | .sub x => Sys2Proof.Machine.execSub x s
  | .neg x => Sys2Proof.Machine.execNeg x s
  | .and x => Sys2Proof.Machine.execAnd x s
  | .or x => Sys2Proof.Machine.execOr x s
  | .xor x => Sys2Proof.Machine.execXor x s
  | .andn x => Sys2Proof.Machine.execAndn x s
  | .shl x => Sys2Proof.Machine.execShl x s
  | .shr x => Sys2Proof.Machine.execShr x s
  | .sra x => Sys2Proof.Machine.execSra x s
  | .rotl x => Sys2Proof.Machine.execRotl x s
  | .clz x => Sys2Proof.Machine.execClz x s
  | .ctz x => Sys2Proof.Machine.execCtz x s
  | .popc x => Sys2Proof.Machine.execPopc x s
  | .bfx x => Sys2Proof.Machine.execBfx x s
  | .bfxn x => Sys2Proof.Machine.execBfxn x s
  | .bfi x => Sys2Proof.Machine.execBfi x s
  | .min x => Sys2Proof.Machine.execMin x s
  | .max x => Sys2Proof.Machine.execMax x s
  | .minn x => Sys2Proof.Machine.execMinn x s
  | .maxn x => Sys2Proof.Machine.execMaxn x s
  | .sel x => Sys2Proof.Machine.execSel x s
  | .cmp x => Sys2Proof.Machine.execCmp x s
  | .mov x => Sys2Proof.Machine.execMov x s
  | .lea x => Sys2Proof.Machine.execLea x s
  | .addi x => Sys2Proof.Machine.execAddi x s
  | .andi x => Sys2Proof.Machine.execAndi x s
  | .ori x => Sys2Proof.Machine.execOri x s
  | .xori x => Sys2Proof.Machine.execXori x s
  | .cmpi x => Sys2Proof.Machine.execCmpi x s
  | .movi x => Sys2Proof.Machine.execMovi x s
  | .movl x => Sys2Proof.Machine.execMovl x s
  | .mul x => Sys2Proof.Machine.execMul x s
  | .mulh x => Sys2Proof.Machine.execMulh x s
  | .mulhn x => Sys2Proof.Machine.execMulhn x s
  | .div x => Sys2Proof.Machine.execDiv x s
  | .divn x => Sys2Proof.Machine.execDivn x s
  | .rem x => Sys2Proof.Machine.execRem x s
  | .remn x => Sys2Proof.Machine.execRemn x s
  | .fadd x => Sys2Proof.Machine.execFadd x s
  | .fsub x => Sys2Proof.Machine.execFsub x s
  | .fmul x => Sys2Proof.Machine.execFmul x s
  | .ffma x => Sys2Proof.Machine.execFfma x s
  | .fdiv x => Sys2Proof.Machine.execFdiv x s
  | .fsqrt x => Sys2Proof.Machine.execFsqrt x s
  | .fmin x => Sys2Proof.Machine.execFmin x s
  | .fmax x => Sys2Proof.Machine.execFmax x s
  | .fcmp x => Sys2Proof.Machine.execFcmp x s
  | .fcvt x => Sys2Proof.Machine.execFcvt x s
  | .fclass x => Sys2Proof.Machine.execFclass x s
  | .ld x => Sys2Proof.Machine.execLd x s
  | .ldn x => Sys2Proof.Machine.execLdn x s
  | .st x => Sys2Proof.Machine.execSt x s
  | .ldg x => Sys2Proof.Machine.execLdg x s
  | .stg x => Sys2Proof.Machine.execStg x s
  | .prf x => Sys2Proof.Machine.execPrf x s
  | .aadd x => Sys2Proof.Machine.execAadd x s
  | .aand x => Sys2Proof.Machine.execAand x s
  | .aor x => Sys2Proof.Machine.execAor x s
  | .axor x => Sys2Proof.Machine.execAxor x s
  | .amin x => Sys2Proof.Machine.execAmin x s
  | .amax x => Sys2Proof.Machine.execAmax x s
  | .aminn x => Sys2Proof.Machine.execAminn x s
  | .amaxn x => Sys2Proof.Machine.execAmaxn x s
  | .axchg x => Sys2Proof.Machine.execAxchg x s
  | .acas x => Sys2Proof.Machine.execAcas x s
  | .afadd x => Sys2Proof.Machine.execAfadd x s
  | .afmax x => Sys2Proof.Machine.execAfmax x s
  | .pushm x => Sys2Proof.Machine.execPushm x s
  | .popm x => Sys2Proof.Machine.execPopm x s
  | .fence x => Sys2Proof.Machine.execFence x s
  | .br x => Sys2Proof.Machine.execBr x s
  | .jr x => Sys2Proof.Machine.execJr x s
  | .call x => Sys2Proof.Machine.execCall x s
  | .callr x => Sys2Proof.Machine.execCallr x s
  | .ret x => Sys2Proof.Machine.execRet x s
  | .loop x => Sys2Proof.Machine.execLoop x s
  | .loopi x => Sys2Proof.Machine.execLoopi x s
  | .pand x => Sys2Proof.Machine.execPand x s
  | .por x => Sys2Proof.Machine.execPor x s
  | .pxor x => Sys2Proof.Machine.execPxor x s
  | .pnot x => Sys2Proof.Machine.execPnot x s
  | .pmov x => Sys2Proof.Machine.execPmov x s
  | .wait x => Sys2Proof.Machine.execWait x s
  | .waitQ x => Sys2Proof.Machine.execWaitQ x s
  | .fset x => Sys2Proof.Machine.execFset x s
  | .finc x => Sys2Proof.Machine.execFinc x s
  | .fclr x => Sys2Proof.Machine.execFclr x s
  | .fget x => Sys2Proof.Machine.execFget x s
  | .eseq x => Sys2Proof.Machine.execEseq x s
  | .liveNone g => Sys2Proof.Machine.execLiveNone g s
  | .liveAll g => Sys2Proof.Machine.execLiveAll g s
  | .liveS x => Sys2Proof.Machine.execLiveS x s
  | .liveT x => Sys2Proof.Machine.execLiveT x s
  | .liveR x => Sys2Proof.Machine.execLiveR x s
  | .liveRclr g => Sys2Proof.Machine.execLiveRclr g s
  | .endCtx x => Sys2Proof.Machine.execEndCtx x s
  | .mld x => Sys2Proof.Machine.execMld x s
  | .mldsp x => Sys2Proof.Machine.execMldsp x s
  | .mstr x => Sys2Proof.Machine.execMstr x s
  | .mstrr x => Sys2Proof.Machine.execMstrr x s
  | .mzero x => Sys2Proof.Machine.execMzero x s
  | .mdrain x => Sys2Proof.Machine.execMdrain x s
  | .mcfg x => Sys2Proof.Machine.execMcfg x s
  | .mpip x => Sys2Proof.Machine.execMpip x s
  | .mabort x => Sys2Proof.Machine.execMabort x s
  | .chbind x => Sys2Proof.Machine.execChbind x s
  | .chkv x => Sys2Proof.Machine.execChkv x s
  | .chlink x => Sys2Proof.Machine.execChlink x s
  | .chmask x => Sys2Proof.Machine.execChmask x s
  | .chfin x => Sys2Proof.Machine.execChfin x s
  | .chsave x => Sys2Proof.Machine.execChsave x s
  | .chrest x => Sys2Proof.Machine.execChrest x s
  | .chstat x => Sys2Proof.Machine.execChstat x s
  | .chdrop x => Sys2Proof.Machine.execChdrop x s
  | .xcopy x => Sys2Proof.Machine.execXcopy x s
  | .xlist x => Sys2Proof.Machine.execXlist x s
  | .xget x => Sys2Proof.Machine.execXget x s
  | .xput x => Sys2Proof.Machine.execXput x s
  | .xfill x => Sys2Proof.Machine.execXfill x s
  | .xtrans x => Sys2Proof.Machine.execXtrans x s
  | .xpub x => Sys2Proof.Machine.execXpub x s
  | .xmap x => Sys2Proof.Machine.execXmap x s
  | .xmcast x => Sys2Proof.Machine.execXmcast x s
  | .xextAdd x => Sys2Proof.Machine.execXextAdd x s
  | .xextRelease x => Sys2Proof.Machine.execXextRelease x s
  | .rld x => Sys2Proof.Machine.execRld x s
  | .rst x => Sys2Proof.Machine.execRst x s
  | .ratomAdd x => Sys2Proof.Machine.execRatomAdd x s
  | .ratomAnd x => Sys2Proof.Machine.execRatomAnd x s
  | .ratomOr x => Sys2Proof.Machine.execRatomOr x s
  | .ratomXor x => Sys2Proof.Machine.execRatomXor x s
  | .ratomMin x => Sys2Proof.Machine.execRatomMin x s
  | .ratomMax x => Sys2Proof.Machine.execRatomMax x s
  | .ratomMinn x => Sys2Proof.Machine.execRatomMinn x s
  | .ratomMaxn x => Sys2Proof.Machine.execRatomMaxn x s
  | .ratomXchg x => Sys2Proof.Machine.execRatomXchg x s
  | .ratomCas x => Sys2Proof.Machine.execRatomCas x s
  | .ratomFadd x => Sys2Proof.Machine.execRatomFadd x s
  | .ratomFmax x => Sys2Proof.Machine.execRatomFmax x s
  | .renq x => Sys2Proof.Machine.execRenq x s
  | .rflagSet x => Sys2Proof.Machine.execRflagSet x s
  | .rflagInc x => Sys2Proof.Machine.execRflagInc x s
  | .rflagClr x => Sys2Proof.Machine.execRflagClr x s
  | .lbufBind x => Sys2Proof.Machine.execLbufBind x s
  | .lbufRelease x => Sys2Proof.Machine.execLbufRelease x s
  | .cmset x => Sys2Proof.Machine.execCmset x s
  | .cmsetClose x => Sys2Proof.Machine.execCmsetClose x s
  | .cmheld x => Sys2Proof.Machine.execCmheld x s
  | .cmheldClr x => Sys2Proof.Machine.execCmheldClr x s
  | .cmdec x => Sys2Proof.Machine.execCmdec x s
  | .cmdecRel x => Sys2Proof.Machine.execCmdecRel x s
  | .cmgath x => Sys2Proof.Machine.execCmgath x s
  | .cmshuf x => Sys2Proof.Machine.execCmshuf x s
  | .cmpol x => Sys2Proof.Machine.execCmpol x s
  | .cmstat x => Sys2Proof.Machine.execCmstat x s
  | .nest x => Sys2Proof.Machine.execNest x s
  | .spawn x => Sys2Proof.Machine.execSpawn x s
  | .join x => Sys2Proof.Machine.execJoin x s
  | .ecinit x => Sys2Proof.Machine.execEcinit x s
  | .ecdone x => Sys2Proof.Machine.execEcdone x s
  | .egput x => Sys2Proof.Machine.execEgput x s
  | .egrel x => Sys2Proof.Machine.execEgrel x s
  | .egdrop x => Sys2Proof.Machine.execEgdrop x s
  | .prio x => Sys2Proof.Machine.execPrio x s
  | .yield x => Sys2Proof.Machine.execYield x s
  | .trap x => Sys2Proof.Machine.execTrap x s
  | .rte g => Sys2Proof.Machine.execRte g s
  | .rteDrop g => Sys2Proof.Machine.execRteDrop g s
  | .sysrd x => Sys2Proof.Machine.execSysrd x s
  | .syswr x => Sys2Proof.Machine.execSyswr x s
  | .ctxsave x => Sys2Proof.Machine.execCtxsave x s
  | .ctxrest x => Sys2Proof.Machine.execCtxrest x s
  | .dump x => Sys2Proof.Machine.execDump x s
  | .bkpt x => Sys2Proof.Machine.execBkpt x s
  | .trace x => Sys2Proof.Machine.execTrace x s
  | .jrd x => Sys2Proof.Machine.execJrd x s
  | .vadd x => Sys2Proof.Machine.execVadd x s
  | .vsub x => Sys2Proof.Machine.execVsub x s
  | .vmul x => Sys2Proof.Machine.execVmul x s
  | .vfma x => Sys2Proof.Machine.execVfma x s
  | .vfms x => Sys2Proof.Machine.execVfms x s
  | .vmin x => Sys2Proof.Machine.execVmin x s
  | .vmax x => Sys2Proof.Machine.execVmax x s
  | .vabs x => Sys2Proof.Machine.execVabs x s
  | .vneg x => Sys2Proof.Machine.execVneg x s
  | .vand x => Sys2Proof.Machine.execVand x s
  | .vor x => Sys2Proof.Machine.execVor x s
  | .vxor x => Sys2Proof.Machine.execVxor x s
  | .vshl x => Sys2Proof.Machine.execVshl x s
  | .vshr x => Sys2Proof.Machine.execVshr x s
  | .vsra x => Sys2Proof.Machine.execVsra x s
  | .vcmp x => Sys2Proof.Machine.execVcmp x s
  | .vsel x => Sys2Proof.Machine.execVsel x s
  | .vmov x => Sys2Proof.Machine.execVmov x s
  | .vbcast x => Sys2Proof.Machine.execVbcast x s
  | .vlane x => Sys2Proof.Machine.execVlane x s
  | .viota x => Sys2Proof.Machine.execViota x s
  | .vcvt x => Sys2Proof.Machine.execVcvt x s
  | .vquant x => Sys2Proof.Machine.execVquant x s
  | .vdequant x => Sys2Proof.Machine.execVdequant x s
  | .vwadd x => Sys2Proof.Machine.execVwadd x s
  | .vwmul x => Sys2Proof.Machine.execVwmul x s
  | .vscan x => Sys2Proof.Machine.execVscan x s
  | .vred x => Sys2Proof.Machine.execVred x s
  | .vperm x => Sys2Proof.Machine.execVperm x s
  | .vrot x => Sys2Proof.Machine.execVrot x s
  | .vshuf x => Sys2Proof.Machine.execVshuf x s
  | .vpopc x => Sys2Proof.Machine.execVpopc x s
  | .vld x => Sys2Proof.Machine.execVld x s
  | .vst x => Sys2Proof.Machine.execVst x s
  | .vldt x => Sys2Proof.Machine.execVldt x s
  | .vstt x => Sys2Proof.Machine.execVstt x s
  | .vldm x => Sys2Proof.Machine.execVldm x s
  | .vstm x => Sys2Proof.Machine.execVstm x s
  | .vexp2 x => Sys2Proof.Machine.execVexp2 x s
  | .vlog2 x => Sys2Proof.Machine.execVlog2 x s
  | .vrcp x => Sys2Proof.Machine.execVrcp x s
  | .vrsqrt x => Sys2Proof.Machine.execVrsqrt x s
  | .vtanh x => Sys2Proof.Machine.execVtanh x s
  | .vsigm x => Sys2Proof.Machine.execVsigm x s
  | .vtbl x => Sys2Proof.Machine.execVtbl x s
  | .vtbld x => Sys2Proof.Machine.execVtbld x s
  | .vtbsw g => Sys2Proof.Machine.execVtbsw g s
  | .vsmax x => Sys2Proof.Machine.execVsmax x s
  | .vsexp x => Sys2Proof.Machine.execVsexp x s
  | .vsdiv x => Sys2Proof.Machine.execVsdiv x s
  | .vmstat x => Sys2Proof.Machine.execVmstat x s
  | .vpart x => Sys2Proof.Machine.execVpart x s
  | .vgath x => Sys2Proof.Machine.execVgath x s
  | .vscat x => Sys2Proof.Machine.execVscat x s
  | .formatRegWrite w => Sys2Proof.Machine.execFormatRegWrite w s
  | .trctlWrite w => Sys2Proof.Machine.execTrctlWrite w s
  | .bpcWrite w => Sys2Proof.Machine.execBpcWrite w s
  | .xstatRead r => Sys2Proof.Machine.execXstatRead r s
  | .fistatRead r => Sys2Proof.Machine.execFistatRead r s
  | .resultLand c => Sys2Proof.Machine.execResultLand c s
  | .ibufFill c => Sys2Proof.Machine.execIbufFill c s
  | .checkedModeEval c => Sys2Proof.Machine.execCheckedModeEval c s
  | .waitEnd c => Sys2Proof.Machine.execWaitEnd c s
  | .waitTimeout c => Sys2Proof.Machine.execWaitTimeout c s
  | .engineWaitSatisfied r => Sys2Proof.Machine.execEngineWaitSatisfied r s
  | .flagPerform r => Sys2Proof.Machine.execFlagPerform r s
  | .scoreboardRelease r => Sys2Proof.Machine.execScoreboardRelease r s
  | .meRowCommit r => Sys2Proof.Machine.execMeRowCommit r s
  | .meCommandComplete r => Sys2Proof.Machine.execMeCommandComplete r s
  | .mstrrRowArrive a => Sys2Proof.Machine.execMstrrRowArrive a s
  | .chainBlockCommit r => Sys2Proof.Machine.execChainBlockCommit r s
  | .chainCommandComplete r => Sys2Proof.Machine.execChainCommandComplete r s
  | .xeGranuleArrive a => Sys2Proof.Machine.execXeGranuleArrive a s
  | .xeUnitCommit r => Sys2Proof.Machine.execXeUnitCommit r s
  | .xeCommandComplete r => Sys2Proof.Machine.execXeCommandComplete r s
  | .publishSwap r => Sys2Proof.Machine.execPublishSwap r s
  | .windowUnitLand n => Sys2Proof.Machine.execWindowUnitLand n s
  | .trackSpace ch => Sys2Proof.Machine.execTrackSpace ch s
  | .trackLapBoundary => Sys2Proof.Machine.execTrackLapBoundary s
  | .trackDataArrive n => Sys2Proof.Machine.execTrackDataArrive n s
  | .refreshRetry n h => Sys2Proof.Machine.execRefreshRetry n h s
  | .pageWalkDone n => Sys2Proof.Machine.execPageWalkDone n s
  | .ldgReturn a => Sys2Proof.Machine.execLdgReturn a s
  | .stgAck a => Sys2Proof.Machine.execStgAck a s
  | .globalAtomicReturn a => Sys2Proof.Machine.execGlobalAtomicReturn a s
  | .fiRequestArrive r => Sys2Proof.Machine.execFiRequestArrive r s
  | .fiResponseArrive x => Sys2Proof.Machine.execFiResponseArrive x s
  | .packetTrim p => Sys2Proof.Machine.execPacketTrim p s
  | .resendRequest p => Sys2Proof.Machine.execResendRequest p s
  | .resendBackoffExpiry p => Sys2Proof.Machine.execResendBackoffExpiry p s
  | .flitCrcFail d => Sys2Proof.Machine.execFlitCrcFail d s
  | .fibreFail d => Sys2Proof.Machine.execFibreFail d s
  | .spareSwitchDone d => Sys2Proof.Machine.execSpareSwitchDone d s
  | .fabricTimeout p => Sys2Proof.Machine.execFabricTimeout p s
  | .readyNotice p => Sys2Proof.Machine.execReadyNotice p s
  | .replyRelease n => Sys2Proof.Machine.execReplyRelease n s
  | .linkUnitArrive r => Sys2Proof.Machine.execLinkUnitArrive r s
  | .renqArrive r => Sys2Proof.Machine.execRenqArrive r s
  | .inboxDequeue c e => Sys2Proof.Machine.execInboxDequeue c e s
  | .cmsetMatch r out => Sys2Proof.Machine.execCmsetMatch r out s
  | .codedBarrier r => Sys2Proof.Machine.execCodedBarrier r s
  | .announceStore a => Sys2Proof.Machine.execAnnounceStore a s
  | .routerFork o q => Sys2Proof.Machine.execRouterFork o q s
  | .forkSplit f => Sys2Proof.Machine.execForkSplit f s
  | .forkCopyArrive f => Sys2Proof.Machine.execForkCopyArrive f s
  | .fallbackRequest a => Sys2Proof.Machine.execFallbackRequest a s
  | .codedBlockArrive b => Sys2Proof.Machine.execCodedBlockArrive b s
  | .blockAckArrive a => Sys2Proof.Machine.execBlockAckArrive a s
  | .codedSettle r => Sys2Proof.Machine.execCodedSettle r s
  | .codedTimeout r => Sys2Proof.Machine.execCodedTimeout r s
  | .tailWrite w => Sys2Proof.Machine.execTailWrite w s
  | .launchTake => Sys2Proof.Machine.execLaunchTake s
  | .nestGrant id c => Sys2Proof.Machine.execNestGrant id c s
  | .nestComplete id => Sys2Proof.Machine.execNestComplete id s
  | .contextRetire c => Sys2Proof.Machine.execContextRetire c s
  | .joinReady c j => Sys2Proof.Machine.execJoinReady c j s
  | .releasePerform r => Sys2Proof.Machine.execReleasePerform r s
  | .schedLapBoundary => Sys2Proof.Machine.execSchedLapBoundary s
  | .corePlace c => Sys2Proof.Machine.execCorePlace c s
  | .lendMessage q p => Sys2Proof.Machine.execLendMessage q p s
  | .ageExpiry w => Sys2Proof.Machine.execAgeExpiry w s
  | .preemptRequest c => Sys2Proof.Machine.execPreemptRequest c s
  | .preemptTake c => Sys2Proof.Machine.execPreemptTake c s
  | .contextSaved c => Sys2Proof.Machine.execContextSaved c s
  | .contextResume c => Sys2Proof.Machine.execContextResume c s
  | .engineFault r => Sys2Proof.Machine.execEngineFault r s
  | .trapTake c => Sys2Proof.Machine.execTrapTake c s
  | .breakpointHit c => Sys2Proof.Machine.execBreakpointHit c s
  | .droopDetect d depth => Sys2Proof.Machine.execDroopDetect d depth s
  | .tqcmdResume w slot => Sys2Proof.Machine.execTqcmdResume w slot s
  | .tqcmdResumeDrop w slot => Sys2Proof.Machine.execTqcmdResumeDrop w slot s
  | .tqcmdKill w slot => Sys2Proof.Machine.execTqcmdKill w slot s
  | .tqcmdRelease w slot => Sys2Proof.Machine.execTqcmdRelease w slot s
  | .frst w => Sys2Proof.Machine.execFrst w s
  | .flrDrainDone f => Sys2Proof.Machine.execFlrDrainDone f s
  | .inval w => Sys2Proof.Machine.execInval w s
  | .invalComplete f => Sys2Proof.Machine.execInvalComplete f s
  | .limitsWrite w => Sys2Proof.Machine.execLimitsWrite w s
  | .ownerMapWrite w => Sys2Proof.Machine.execOwnerMapWrite w s
  | .torusWrite w => Sys2Proof.Machine.execTorusWrite w s
  | .pboxWrite w => Sys2Proof.Machine.execPboxWrite w s
  | .phltClear w f => Sys2Proof.Machine.execPhltClear w f s
  | .phltSet w f => Sys2Proof.Machine.execPhltSet w f s
  | .flagWindowSet w => Sys2Proof.Machine.execFlagWindowSet w s
  | .flagWindowInc w => Sys2Proof.Machine.execFlagWindowInc w s
  | .flagWindowClr w => Sys2Proof.Machine.execFlagWindowClr w s
  | .lqWrite w => Sys2Proof.Machine.execLqWrite w s
  | .eqWrite w => Sys2Proof.Machine.execEqWrite w s
  | .grantWrite w => Sys2Proof.Machine.execGrantWrite w s
  | .eqctlWrite w => Sys2Proof.Machine.execEqctlWrite w s
  | .headWrite w => Sys2Proof.Machine.execHeadWrite w s
  | .egressSlotRead w e slot => Sys2Proof.Machine.execEgressSlotRead w e slot s
  | .key m => Sys2Proof.Machine.execKey m s
  | .admitImg m out => Sys2Proof.Machine.execAdmit m out s
  | .withdraw m => Sys2Proof.Machine.execWithdraw m s
  | .attest m => Sys2Proof.Machine.execAttest m s
  | .extent m out => Sys2Proof.Machine.execExtent m out s
  | .mailboxDone m => Sys2Proof.Machine.execMailboxDone m s
  | .firmwareExtentAnswer r out => Sys2Proof.Machine.execFirmwareExtentAnswer r out s
  | .poolLinkDown p => Sys2Proof.Machine.execPoolLinkDown p s
  | .watchdogWrite w => Sys2Proof.Machine.execWatchdogWrite w s
  | .watchdogExpiry => Sys2Proof.Machine.execWatchdogExpiry s
  | .powerGood => Sys2Proof.Machine.execPowerGood s
  | .thermalThrottle die k => Sys2Proof.Machine.execThermalThrottle die k s
  | .trip => Sys2Proof.Machine.execTrip s
  | .tripRelease => Sys2Proof.Machine.execTripRelease s
  | .clusterWake k => Sys2Proof.Machine.execClusterWake k s
  | .patrolScrub a => Sys2Proof.Machine.execPatrolScrub a s
  | .registerWrite w => Sys2Proof.Machine.execRegisterWrite w s
  | .throttleRelease die => Sys2Proof.Machine.execThrottleRelease die s
  | .poolLinkUp p => Sys2Proof.Machine.execPoolLinkUp p s
  | .egputTimeout r => Sys2Proof.Machine.execEgputTimeout r s
  | .announcementWithdraw slot rank => Sys2Proof.Machine.execAnnouncementWithdraw slot rank s

end Sys2Proof.Machine
end

