-- ==== Sys2Proof/Machine/Step.lean ====
section
/-! DEFINITION. One step of the node: the next row that the agenda holds, else the current core's part of a cycle. -/

namespace Sys2Proof.Machine

/-- What comes from outside the node comes about first; else a core takes its cycle (log entry 2). -/
def step (s : State) : Host.Outcome State Fault Refusal :=
  match s.agenda with
  | i :: r => exec i { s with agenda := r }
  | [] => s.cycle exec

/-- The context of the current core with nothing that stands before its next bundle. -/
def Ctx.clearWay (x : Ctx) : Ctx :=
  { x with issuing := false, wait := none, ended := none, endOnly := false, engFaults := [], hits := [], pend := [], toks := []
           status := x.status &&& ~~~8#64 }

/-- The instruction is the next that a step runs: a context stands on the current core, its instruction buffer holds the bundle
at the pc, and its translation, if the bundle makes an access that needs one, has been answered (log entry 38). -/
def State.withFetchWord (s : State) (_nbits w : Nat) : State :=
  let k := s.core s.cur
  let x := k.ctx.clearWay
  let b : BitVec 256 := BitVec.ofNat 256 w
  let va : Option Nat := match decodeBundle b.toNat with
    | .ok b => x.globalVa b
    | .error _ => none
  let k := { k with ctx := x, busy := true, stop := none, holdUntil := 0, ibuf := [(x.pc, b)], xlat := va.map (fun v => (v / 4096 * 4096, some s.now)) }
  { s.setCore s.cur k with agenda := [], trip := false, gated := 0, thermal := 0, capK := 0 }

end Sys2Proof.Machine
end

