-- ==== Sys2Proof/Safety.lean ====
section
/-! DEFINITION. What a safe run is, and the other terms in which claims speak: the node always has a next state, and its memory
keeps one canonical form; what an instruction that gives one result leaves; the conditions of the entries, in plain terms. -/

namespace Sys2Proof.Machine

/-- The node has a next state. -/
def State.Goes (s : State) : Prop := ∃ t, step s = .next t
/-- The memory of the node, and what a saved context keeps of it, stand in canonical form. -/
def State.MemOk (s : State) : Prop := s.mem.wf = true ∧ ∀ v ∈ s.saved, Memory.wf v.cells = true
/-- A state that some number of steps reaches. -/
inductive Reaches (s : State) : State → Prop where
  | start : Reaches s s
  | step {t u : State} : Reaches s t → Machine.step t = .next u → Reaches s u
/-- A safe run from a state: every state it reaches has a next one, with memory in canonical form. -/
def State.Safe (s : State) : Prop := ∀ t, Reaches s t → t.Goes ∧ t.MemOk

/-- A syllable of latency `lat` acts: its guard reads true and no taken transfer kills it (R105, R108). -/
def Ctx.acts (c : Ctx) (g : Guard) (lat : Nat) : Prop := c.guard g = true ∧ c.kills g lat = false
/-- The state with one more result in flight on the current core, and with the flags `fl` in FPSTAT: at once, or for a
squashable syllable with the result (R36, R80). Nothing else differs. -/
def State.gives (s : State) (g : Guard) (slot : Slot) (lat code : Nat) (v : Word) (row : Option Row := none) (fl : Fl := 0) : State :=
  let atOnce : Fl := if g.sq then 0 else fl
  s.setCtx { s.ctx with
    flight := s.ctx.flight ++ [{ fin := s.now + lat, born := s.now, code, slot, val := v, row, sq := g.sq, flags := if g.sq then fl else 0 }]
    fpstat := s.ctx.fpstat ||| atOnce.setWidth 64
    raised := s.ctx.raised ||| atOnce }

/-- The conditions of R90, by code. -/
def condTrue (cond : Nat) (a b : Word) : Prop :=
  match cond with
  | 0 => a = b
  | 1 => a ≠ b
  | 2 => a.slt b = true
  | 3 => b.sle a = true
  | 4 => a.sle b = true
  | 5 => b.slt a = true
  | 6 => a.ult b = true
  | 7 => b.ule a = true
  | 8 => a.ule b = true
  | 9 => b.ult a = true
  | 10 => a &&& b ≠ 0
  | _ => a &&& b = 0
/-- A signed result clamped to 64 bits, and whether the clamp changes it (R86). -/
def clamped (r : Int) : Int := max (-2 ^ 63) (min r (2 ^ 63 - 1))
/-- The word and flags of a signed result `r`, with saturation or without (R86). -/
def satWord (sat : Bool) (r : Int) : Word := BitVec.ofInt 64 (if sat then clamped r else r)
def satFlag (sat : Bool) (r : Int) : Fl := if sat = true ∧ clamped r ≠ r then Fl.sv else 0
/-- The number of one bits (R88). -/
def ones (a : Word) : Nat := (List.range 64).countP (fun i => a.getLsbD i)
/-- `n` is the number of zero bits above the highest one bit, or below the lowest, or 64 (R88). -/
def leadingZeros (a : Word) (n : Nat) : Prop := n ≤ 64 ∧ (∀ i < n, a.getMsbD i = false) ∧ (n < 64 → a.getMsbD n = true)
def trailingZeros (a : Word) (n : Nat) : Prop := n ≤ 64 ∧ (∀ i < n, a.getLsbD i = false) ∧ (n < 64 → a.getLsbD n = true)

/- Floating point. -/
/-- The rational number of an exact value without a root (R25, R26). -/
def Q.rat (q : Q) : ℚ := (q.n : ℚ) / q.d * (2 : ℚ) ^ q.e
/-- The rational number of a finite value. -/
def Ex.rat : Ex → Option ℚ
  | .fin q => some q.rat
  | .zero _ => some 0
  | _ => none
/-- Round of R30: an exact non-zero real to M+1 significant bits, or fewer below 2^emin. -/
def roundR30 (x : ℚ) (t : ETy) (rm : Rm) : ℚ :=
  let quantum : ℚ := (2 : ℚ) ^ (max (Int.log 2 |x|) (ETy.emin t) - ETy.mant t)
  let k : ℤ := ⌊|x| / quantum⌋
  let f : ℚ := |x| / quantum - k
  let up : Bool := match rm with
    | .rne => decide (1 / 2 < f) || (decide (f = 1 / 2) && decide (k % 2 = 1))
    | .rtz => false
    | .rup => decide (0 < x) && decide (0 < f)
    | .rdn => decide (x < 0) && decide (0 < f)
  (if x < 0 then -1 else 1) * (if up then (k : ℚ) + 1 else k) * quantum
/-- An operand as the floating instructions read it: decoded at its type's width, and flushed under ftz (R26, R33, R99). -/
def Ctx.fsrc (c : Ctx) (t : ETy) (ftz : Bool) (x : SSrc) : Ex := flushIn ftz (decodeEl (c.src x).toNat t)
/-- The word that a floating result writes, and its flags (R31, R99). -/
def fWord (e : Ex × Fl) (t : ETy) (rm : Rm) (ftz sat : Bool) : Word × Fl :=
  let r := encodeEl e.1 t rm ftz sat
  (BitVec.ofNat 64 r.1, e.2 ||| r.2)
/-- The order relation that each condition of R101 asks. -/
def fcondTrue (cond : Nat) (x y : Ex) : Prop :=
  let un := x.isNan = true ∨ y.isNan = true
  match cond with
  | 0 => ¬ un ∧ x.cmp y = .eq
  | 1 => un ∨ x.cmp y ≠ .eq
  | 2 => ¬ un ∧ x.cmp y = .lt
  | 3 => ¬ un ∧ x.cmp y ≠ .gt
  | 4 => ¬ un ∧ x.cmp y = .gt
  | 5 => ¬ un ∧ x.cmp y ≠ .lt
  | 6 => un
  | _ => ¬ un
/-- The invalid-operation flag of a comparison (R101): any NaN for the ordered ones, else a signalling one. -/
def fcondFlag (cond : Nat) (x y : Ex) : Fl :=
  if (if 2 ≤ cond ∧ cond ≤ 5 then x.isNan || y.isNan else x.isSig || y.isSig) then Fl.nv else 0
/-- The one bit of `fclass` (R102). -/
def fclassBit (t : ETy) (x : Ex) : Nat :=
  match x with
  | .nan sig => if sig then 8 else 9
  | .inf neg => if neg then 0 else 7
  | .zero neg => if neg then 3 else 4
  | .fin q =>
    let sub := t != .lg6 && decide (Q.log2 q < ETy.emin t)
    if q.n < 0 then (if sub then 2 else 1) else (if sub then 5 else 6)

/-- A sum as R49 forms it: from `a0`, `g` terms at a time in their order, each group's exact sum rounded to FP32, and flushed with ftz. -/
def accSum (ftz : Bool) (g : Nat) (a0 : Ex) (ts : List Ex) (v : Ex) : Prop :=
  ∃ acc : Nat → Ex, acc 0 = a0 ∧ v = acc ((ts.length + g - 1) / g) ∧ ∀ q, q * g < ts.length →
    acc (q + 1) = flushIn ftz (roundRne (exactSum .rne (acc q :: (ts.drop (q * g)).take g)).1 .f32).1
/-- `v` is the positive root of `x`, or lies with it between two numbers that differ in no bit that a rounding looks at. -/
def nearRoot (x v : ℚ) : Prop :=
  0 < v ∧ (v * v = x ∨ ∃ lo hi : ℚ, 0 < lo ∧ lo < v ∧ v < hi ∧ lo * lo < x ∧ x < hi * hi ∧ hi - lo ≤ lo / 2 ^ 80)
/-- The number that an FP32 encoding stands for; 0 for a NaN or an infinity. -/
def f32Rat (b : Nat) : ℚ := ((decodeEl b .f32).rat).getD 0
/-- `RoundRne(Exp2Ref(RoundRne(v * L)))`, with the constant L of R212. -/
def expL (v : Ex) : Ex := (roundRne (fnExp2 (roundRne (exactMul v (decodeEl 0x3FB8AA3B .f32)).1 .f32).1).1 .f32).1
/-- An exact value rounded to FP32, and flushed with ftz (R269). -/
def rnd32 (ftz : Bool) (x : Ex) : Ex := flushIn ftz (roundRne x .f32).1
/-- The exponential of R271: `Exp2Ref((x - m) * L)`, each step rounded, and flushed with ftz. -/
def expStep271 (ftz : Bool) (x m : Ex) : Ex :=
  rnd32 ftz (fnExp2 (rnd32 ftz (exactMul (rnd32 ftz (exactSum .rne [x, m.negate]).1) (decodeEl 0x3FB8AA3B .f32)).1)).1
/-- The FP32 encoding of a value. -/
def f32Bits (x : Ex) : Nat := (encodeEl x .f32 .rne false false).1

/- Frames. -/
/-- The instructions whose whole effect is to give results from registers: fixed latency, no memory (R80). -/
def resultOnly : Instr → Bool
  | .add _ => true | .sub _ => true | .neg _ => true | .and _ => true | .or _ => true | .xor _ => true | .andn _ => true
  | .shl _ => true | .shr _ => true | .sra _ => true | .rotl _ => true | .clz _ => true | .ctz _ => true | .popc _ => true
  | .bfx _ => true | .bfxn _ => true | .bfi _ => true | .min _ => true | .max _ => true | .minn _ => true | .maxn _ => true
  | .sel _ => true | .cmp _ => true | .mov _ => true | .lea _ => true | .addi _ => true | .andi _ => true | .ori _ => true
  | .xori _ => true | .cmpi _ => true | .movi _ => true | .movl _ => true | .mul _ => true | .mulh _ => true | .mulhn _ => true
  | .div _ => true | .divn _ => true | .rem _ => true | .remn _ => true | .fadd _ => true | .fsub _ => true | .fmul _ => true
  | .ffma _ => true | .fdiv _ => true | .fsqrt _ => true | .fmin _ => true | .fmax _ => true | .fcmp _ => true | .fcvt _ => true
  | .fclass _ => true | .pand _ => true | .por _ => true | .pxor _ => true | .pnot _ => true | .pmov _ => true | .eseq _ => true
  | .vadd _ => true | .vsub _ => true | .vmul _ => true | .vfma _ => true | .vfms _ => true | .vmin _ => true | .vmax _ => true
  | .vabs _ => true | .vneg _ => true | .vand _ => true | .vor _ => true | .vxor _ => true | .vshl _ => true | .vshr _ => true
  | .vsra _ => true | .vcmp _ => true | .vsel _ => true | .vmov _ => true | .vbcast _ => true | .vlane _ => true | .viota _ => true
  | .vcvt _ => true | .vquant _ => true | .vdequant _ => true | .vwadd _ => true | .vwmul _ => true | .vscan _ => true
  | .vred _ => true | .vperm _ => true | .vrot _ => true | .vshuf _ => true | .vpopc _ => true | .vexp2 _ => true | .vlog2 _ => true
  | .vrcp _ => true | .vrsqrt _ => true | .vtanh _ => true | .vsigm _ => true | .vtbl _ => true
  | _ => false
/-- A syllable took no trap: the count of traps stands. -/
def State.noTrap (s t : State) : Prop := (t.core s.cur).traps = (s.core s.cur).traps

/- Control. -/
/-- Where R109 allows a transfer: not in a delay bundle, not in the last three bundles of an active loop's body. -/
def Ctx.mayTransfer (c : Ctx) : Prop :=
  (∀ x, c.xfer = some x → x.left = 0) ∧ ∀ e ∈ c.loops, c.pc ≠ e.fin ∧ c.pc + 32 ≠ e.fin ∧ c.pc + 64 ≠ e.fin
/-- A taken transfer (R107, R108, R149, R205): the squashable results of earlier bundles that would land in the third cycle after it
or later are gone; so are the base updates of the loads among them, landed or not, and what an earlier squashable load had failed of;
two delay bundles are still to issue; nothing else changes. -/
def Ctx.taken (c : Ctx) (now : Nat) (tgt : Word) (pops : Bool) : Ctx :=
  let dies (f : Flight) : Bool := f.sq && decide (f.born < now) && decide (now + 3 ≤ f.fin)
  let gone := ((c.flight.filter dies).map Flight.pid).filter (· != 0)
  let r := (c.undo.filter (fun u => gone.contains u.1)).foldl (fun (c : Ctx) u => c.write u.2.1 u.2.2 none) c
  { r with
    flight := c.flight.filter (fun f => !(dies f) && !(gone.contains f.pid) && !(gone.contains f.base))
    undo := c.undo.filter (fun u => !(gone.contains u.1))
    pend := c.pend.filter (fun p => match p.kill with | some f => decide (f < now + 3) | none => true)
    xfer := some { tgt, left := 2, pops }
    kpos := some 0 }
/-- The state after a taken transfer, from the context `c`: the errors of loads that it kills are counted (R149). -/
def State.jumps (s : State) (c : Ctx) (tgt : Word) (pops : Bool) : State :=
  let n := (s.ctx.pend.filter (fun p => match p.kill with | some f => decide (s.now + 3 ≤ f) | none => false)).length
  { s with lost := s.lost + n }.setCtx (c.taken s.now tgt pops)
/-- `PC + 32*disp` (R56). -/
def Ctx.bundleAt (c : Ctx) (disp : Int) : Word := c.pc + BitVec.ofInt 64 (32 * disp)

/- Memory. -/
/-- The little-endian number of the `n` bytes from `a` (R2). -/
def Memory.num (m : Memory) (a : Nat) : Nat → Nat
  | 0 => 0
  | n + 1 => (m.get a).toNat + 256 * Memory.num m (a + 1) n
/-- The extension of an access of type `t` (R146): i8 and i32 by sign, every other by zero. -/
def extended (t : ETy) (dw : Bool) (v : Nat) : Word :=
  if dw then BitVec.ofNat 64 v
  else match t with
    | .i8 => (BitVec.ofNat 8 v).signExtend 64
    | .i32 => (BitVec.ofNat 32 v).signExtend 64
    | _ => BitVec.ofNat 64 v
/-- The buffers let a scalar access through (R129, R130, R147, R302): aligned, inside the buffer, not a store to WB, not the lower
part of JB, not hidden. -/
def Ctx.letsIn (c : Ctx) (sp : Space) (addr w : Nat) (wr : Bool) : Prop :=
  addr % w = 0 ∧ addr + w ≤ Space.size sp ∧ (wr = true → sp ≠ .wb) ∧ (sp = .jb → 0x8000 ≤ addr) ∧ c.hidden sp addr w = false
/-- No byte of `[a, a+n)` lies in a word marked uncorrectable. -/
def State.sound (s : State) (a n : Nat) : Prop := ∀ w ∈ s.ecc, a + n ≤ w ∨ w + 8 ≤ a
/-- The results of a load at issue: the value, which its port cycle brings, and with post-increment the base (R147, R148). -/
def loadFlights (now : Nat) (g : Guard) (d : SDst) (pid : Nat) (pi : Bool) (a : SSrc) (base : Word) : List Flight :=
  { fin := now + 4, born := now, code := sCode d, slot := .m, val := 0, sq := g.sq, pid } ::
    (if pi then [{ fin := now + 1, born := now, code := srcCode a, slot := .m, val := base, latch := false, base := pid }] else [])
/-- The access of the issuing bundle that waits for its port cycle, two cycles after (R148). -/
def State.portOp (s : State) (slot : Slot) (sp : Space) (act : PortAct) : PortOp :=
  { pid := s.ctx.nextPort, at_ := s.now + 2, sp, act, slot, pc := s.ctx.pc, seq := (s.ctx.nextSeq - 1).toNat, syl := (s.core s.cur).syllable slot }
/-- The access waits, with the results `fs` in flight, `n` of which its port cycle brings; nothing else changes. -/
def State.queuing (s : State) (o : PortOp) (n : Nat) (fs : List Flight) : State :=
  s.setCtx { s.ctx with portQ := s.ctx.portQ ++ [o], nextPort := s.ctx.nextPort + n, flight := s.ctx.flight ++ fs }
/-- The one access `o` that core `c` has waiting comes to its port cycle. -/
def State.performs (s : State) (c : CoreId) (o : PortOp) : Prop := (s.ctxOf c).portQ = [o] ∧ o.at_ ≤ s.now
/-- The load that `o` was met an uncorrectable error (R149, R206): it writes nothing, and ECC waits for the first bundle three or more
cycles after its issue, unless a transfer kills the load, whose result was `f`. -/
def State.loadFails (s t : State) (c : CoreId) (o : PortOp) (f : Flight) (p : Pend) : Prop :=
  (t.ctxOf c).flight = [] ∧ (t.ctxOf c).pend = (s.ctxOf c).pend ++ [p] ∧ p.cls = .ecc ∧ p.pc = o.pc ∧ p.slot = o.slot ∧ p.due = o.at_ + 1 ∧
  p.kill = (if f.sq then some f.fin else none) ∧ t.mem = s.mem ∧ (t.ctxOf c).s = (s.ctxOf c).s ∧ (t.ctxOf c).o = (s.ctxOf c).o ∧
  (t.ctxOf c).p = (s.ctxOf c).p ∧ (t.ctxOf c).rows = (s.ctxOf c).rows
/-- Byte `b` of a buffer that starts at `base`, of old contents `v`, after the pieces of a store, in their order, each of which writes
the bits of its mask (R147, R203, R230). -/
def putByte (ps : List Piece) (base b : Nat) (v : Byte) : Byte :=
  ps.foldl (fun (v : Byte) p =>
    if base + p.off ≤ b ∧ b < base + p.off + p.n then
      let i := 8 * (b - (base + p.off))
      let k := BitVec.ofNat 8 (p.mask / 2 ^ i)
      (v &&& ~~~k) ||| (BitVec.ofNat 8 (p.val / 2 ^ i) &&& k)
    else v) v
/-- Every byte outside `[a, a+n)` reads in `t` as it does in `s`. -/
def bytesKept (s t : State) (a n : Nat) : Prop := ∀ b, b < a ∨ a + n ≤ b → t.mem.get b = s.mem.get b
/-- The registers of the current context stand, and every other core. -/
def State.regsKept (s t : State) : Prop :=
  t.ctx.s = s.ctx.s ∧ t.ctx.o = s.ctx.o ∧ t.ctx.p = s.ctx.p ∧ t.ctx.lx = s.ctx.lx ∧ t.ctx.rows = s.ctx.rows ∧
  t.ctx.fpstat = s.ctx.fpstat ∧ t.ctx.smstat = s.ctx.smstat ∧ t.ctx.loops = s.ctx.loops ∧ t.ctx.pc = s.ctx.pc ∧
  t.ctx.status = s.ctx.status ∧ t.ctx.trapvec = s.ctx.trapvec ∧ t.ctx.trapinfo = s.ctx.trapinfo ∧
  ∀ c, c ≠ s.cur → t.core c = s.core c
/-- The new contents of a read-modify-write of `8w` bits (R154), in plain terms. -/
def rmw (op : AOp) (w old b c : Nat) : Nat :=
  let m := 2 ^ (8 * w)
  match op with
  | .add => (old + b) % m
  | .and => old &&& (b % m)
  | .or => old ||| (b % m)
  | .xor => old ^^^ (b % m)
  | .min => if sext old (8 * w) ≤ sext b (8 * w) then old else b % m
  | .max => if sext b (8 * w) ≤ sext old (8 * w) then old else b % m
  | .minn => if old ≤ b % m then old else b % m
  | .maxn => if b % m ≤ old then old else b % m
  | .xchg => b % m
  | .cas => if old = b % m then c % m else old
  | .fadd => (encodeEl (fAddX .rne (decodeEl old .f32) (decodeEl b .f32)).1 .f32 .rne false false).1
  | .fmax =>
    let x := decodeEl old .f32
    let y := decodeEl b .f32
    if x.isSig || y.isSig || (x.isNan && y.isNan) then 0x7FC00000
    else if x.isNan then b % m
    else if y.isNan then old
    else if x.cmp y = .lt ∨ (x.cmp y = .eq ∧ x = .zero true) then b % m
    else old
/-- The value of a register by the codes that `pushm` and `popm` count in (R157). -/
def Ctx.regAt (c : Ctx) (code : Nat) : Word :=
  if h : code < 64 then c.rs ⟨code, h⟩ else if h : code - 64 < 8 then c.o[code - 64] else 0
/-- An access has gone out (R150 to R152): it stands last among the outstanding ones, under the next number; its token is pending. -/
def State.issued (s t : State) (i : Instr) (va pa n cls : Nat) (tok : Tok) : Prop :=
  (∃ g, t.ctx.gacc = s.ctx.gacc ++ [g] ∧ g.id = s.ctx.nextAcc ∧ g.ins = i ∧ g.pc = s.ctx.pc ∧ g.va = va ∧ g.pa = pa ∧ g.width = n ∧
    g.cls = cls ∧ g.tok = tok ∧ g.born = s.now) ∧
  t.ctx.nextAcc = s.ctx.nextAcc + 1 ∧ (tok ≠ 0 → tok ∈ t.ctx.toks) ∧ s.regsKept t ∧ t.ctx.flight = s.ctx.flight ∧ t.mem = s.mem
/-- A token has been written on core `c` (R13): the register holds the value and is pending no more; other registers stand. -/
def tokenGot (s t : State) (c : CoreId) (tok : Tok) (v : Word) : Prop :=
  (tok ≠ 0 → (t.ctxOf c).rs tok = v ∧ tok ∉ (t.ctxOf c).toks) ∧
  (∀ i : Fin 64, i ≠ tok → (t.ctxOf c).rs i = (s.ctxOf c).rs i) ∧ (t.ctxOf c).o = (s.ctxOf c).o ∧ (t.ctxOf c).p = (s.ctxOf c).p ∧
  (t.ctxOf c).rows = (s.ctxOf c).rows

/- Commands. -/
/-- A command has been pushed (R117): it has the next sequence number and stands last in the scoreboard, not started; its journal
entry is in JB (R411); its token is pending; registers stand, and where the core keeps no trace ring, so does memory outside the
journal. -/
def State.pushed (s t : State) (e : Eng) (i : Instr) (tok : Tok) : Prop :=
  let jb := bufKey s.cur .jb 0
  (∃ m, t.ctx.cmds = s.ctx.cmds ++ [m] ∧ m.seq = s.ctx.nextSeq ∧ m.pc = s.ctx.pc ∧ m.eng = e ∧ m.ins = i ∧ m.tok = tok ∧
    m.started = false ∧ m.done = false ∧ m.faulted = false ∧ m.born = s.now ∧
    ((s.core s.cur).ring = none → ∀ j, j < 64 → t.mem.get (jb + m.seq.toNat % 128 * 64 + j) = m.entry.getD j 0)) ∧
  t.ctx.nextSeq = s.ctx.nextSeq + 1 ∧ (tok ≠ 0 → tok ∈ t.ctx.toks) ∧ s.regsKept t ∧ t.ctx.flight = s.ctx.flight ∧
  ((s.core s.cur).ring = none → bytesKept s t jb 0x4000)
/-- A command has completed with a token value (R13, R118): no command of its number is left in flight, and the token is written. -/
def completed (s t : State) (c : CoreId) (m : Cmd) (v : Word) : Prop :=
  (∀ x ∈ (t.ctxOf c).cmds, x.seq = m.seq → x.done = true) ∧ tokenGot s t c m.tok v
/-- The value and the clamp bit of `finc` (R116). -/
def fincValue (old : BitVec 32) (a : Word) : BitVec 32 × Bool :=
  let r : Int := old.toNat + (a.setWidth 32).toInt
  if r < 0 then (0, true) else if 2 ^ 32 - 1 < r then (BitVec.allOnes 32, true) else (BitVec.ofInt 32 r, false)

/- Rows. -/
/-- Element `e` of width `w` of a row (R177). -/
def el (r : Row) (w e : Nat) : Nat := (r.extractLsb' (w * e) w).toNat
/-- An integer element read as its type says (R29). -/
def elInt (t : ETy) (n : Nat) : Int := if ETy.isSigned t then (BitVec.ofNat (ETy.sw t) n).toInt else n
/-- The element that an exact integer result leaves, wrapped or clamped, with its flag (R183). -/
def intEl (t : ETy) (sat : Bool) (v : Int) : Nat × Fl :=
  let k : Int := max (ETy.lo t) (min v (ETy.hi t))
  ((BitVec.ofInt (ETy.sw t) (if sat then k else v)).toNat, if sat = true ∧ k ≠ v then Fl.sv else 0)
/-- The element that an exact floating result leaves, with its flags (R31). -/
def fEl (t : ETy) (rm : Rm) (ftz sat : Bool) (r : Ex × Fl) : Nat × Fl :=
  let q := encodeEl r.1 t rm ftz sat
  (q.1, r.2 ||| q.2)
/-- A row result of latency `lat` for the row `d`, each element and its flags given by `f` (R178, R183): the flags of all elements
are ORed, and the row is in flight when none of them is enabled. -/
def State.givesRow (s : State) (i : Instr) (g : Guard) (lat : Nat) (d : Fin 128) (w : Nat) (f : Nat → Nat × Fl) : Prop :=
  s.ctx.acts g lat → ∃ (r : Row) (fl : Fl), (∀ e, e < 4096 / w → el r w e = (f e).1) ∧
    (∀ b, fl.getLsbD b = true ↔ ∃ e, e < 4096 / w ∧ (f e).2.getLsbD b = true) ∧
    (s.ctx.enabled fl = false → exec i s = .next (s.gives g .v lat (0x80 + d.val) (r.setWidth 64) (some r) fl))
/-- The integer conditions of R187. -/
def vcondTrue (t : ETy) (cond a b : Nat) : Prop :=
  match cond with
  | 0 => elInt t a = elInt t b
  | 1 => elInt t a ≠ elInt t b
  | 2 => elInt t a < elInt t b
  | 3 => elInt t a ≤ elInt t b
  | 4 => elInt t b < elInt t a
  | 5 => elInt t b ≤ elInt t a
  | 8 => a &&& b ≠ 0
  | _ => a &&& b = 0
/-- The least or greatest of a list of elements by R100, with NV for a signalling one (R195, R196). -/
def bestOf (mx : Bool) (t : ETy) (xs : List Nat) : Nat × Fl := fBestRes t (xs.foldl (fBest mx t) (false, none))
/-- The elements of the width `w`, from the first, `n` of them. -/
def firstEls (r : Row) (w n : Nat) : List Nat := (List.range n).map (el r w)
/-- A syllable that acts, with nothing held back for a taken transfer. -/
def Ctx.plain (c : Ctx) (g : Guard) : Prop := c.guard g = true ∧ g.sq = false
/-- Position `e` is enabled by the mask row `m`, a row of t8 to t15, or there is no mask (R203, R224). -/
def Ctx.lets (c : Ctx) (m : Option (Fin 64)) (w e : Nat) : Bool :=
  match m with
  | none => true
  | some j => el (c.row ⟨64 + j.val, by omega⟩) w e != 0
/-- A row access of the bytes `[off, off+n)` is let through (R201): aligned to `unit`, in the buffer, no JB, no store to WB. -/
def Ctx.letsRow (c : Ctx) (sp : Space) (addr unit : Nat) (wr : Bool) (off n : Nat) : Prop :=
  addr % unit = 0 ∧ sp ≠ .jb ∧ (wr = true → sp ≠ .wb) ∧ off + n ≤ Space.size sp ∧ c.hidden sp off n = false
/-- The address of a row access (R201). -/
def Ctx.rowAddr (c : Ctx) (x : VMem) : Nat := (if x.pi then c.src x.a else c.src x.a + x.off.signExtend 64).toNat
/-- What a row load leaves in flight at issue: the row, which its port cycle brings, and with post-increment the base (R201, R204). -/
def rowFlights (now : Nat) (g : Guard) (lat : Nat) (d : Fin 128) (pid : Nat) (pi : Bool) (a : SSrc) (base : Word) : List Flight :=
  { fin := now + lat, born := now, code := 0x80 + d.val, slot := .v, val := 0, row := some 0, sq := g.sq, pid } ::
    (if pi then [{ fin := now + 1, born := now, code := srcCode a, slot := .v, val := base, latch := false, base := pid }] else [])
/-- A row access waits for its port cycles: the port is used for `n` cycles, the results `fs` are in flight, `k` of which the port
cycle brings; nothing else changes. -/
def State.rowQueuing (s : State) (o : PortOp) (n k : Nat) (fs : List Flight) : State :=
  let q := s.core s.cur
  (s.setCore s.cur { q with portFree := max q.portFree (s.now + n) }).queuing o k fs

/- Commands with checks. -/
/-- A command syllable whose checks give `chk` (R117): it is pushed with its operand words, and `post` holds of what the checks
gave, the entry and the context after it; or the first failed check is a precise trap. -/
def State.pushes {α : Type} (s : State) (x : Ecmd) (i : Instr) (e : Eng) (chk : Chk α)
    (post : α → Cmd → Ctx → Prop := fun _ m _ => m.reads = [] ∧ m.writes = []) : Prop :=
  s.ctx.guard x.g = true →
    (∀ r, chk = .ok r → s.ctx.inFlight < 32 → ∃ t m, exec i s = .next t ∧ s.pushed t e i x.tok ∧ t.ctx.cmds.getLast? = some m ∧
      m.a = s.ctx.src x.a ∧ m.b = s.ctx.src x.b ∧ m.c = s.ctx.src x.c ∧ post r m t.ctx) ∧
    (∀ cls a, chk = .error (cls, a) → exec i s = .next (s.precise x.g .e cls a))
/-- What a command asks of its operands, in order (R117): the first requirement that does not hold gives the class and the address of
its trap; when all hold the operands pass. -/
def asks {α : Type} (chk : Chk α) : List (Prop × TrapClass × Nat) → Prop
  | [] => ∃ r, chk = .ok r
  | (p, cls, a) :: l => (¬ p → chk = .error (cls, a)) ∧ (p → asks chk l)
/-- A type that an array takes, and a stationary and streamed type that go together (R234). -/
def arrTy (t : ETy) : Prop := t ≠ .f32 ∧ t ≠ .i32 ∧ t ≠ .n32
def arrPair (t x : ETy) : Prop := arrTy t ∧ arrTy x ∧ (t = .lg6 ↔ x = .lg6)
/-- The types of queries and keys that go together (R270). -/
def qkPair (q : ETy) (qbs : Bool) (k : ETy) (kbs : Bool) : Prop :=
  (q = .lg6 ∧ k = .lg6) ∨ (arrTy q ∧ arrTy k ∧ q ≠ .lg6 ∧ k ≠ .lg6 ∧ ¬ (ETy.isInt q = true ∧ qbs = false ∧ ETy.isInt k = true ∧ kbs = false))
/-- The low bits of a local word (R289). -/
def LocW.good (l : LocW) (w : Nat) : Prop := bits w 3 5 = 0 ∧ 1 ≤ l.sp ∧ l.sp ≤ 4
/-- Its side lies in a buffer whose banks give its format, or in CB, or starts in no buffer. -/
def LocW.inside (l : LocW) : Prop := 3 ≤ l.sp ∨ l.off < Space.size l.space
/-- Slot `i` of a list of records holds `v`, the others what they held. -/
def slotSet {α : Type} {n : Nat} (old new : Vector α n) (i : Nat) (v : α) : Prop :=
  ∀ k : Fin n, new[k] = if k.val = i then v else old[k]

/- Engines at work. -/
/-- A started command of one entry that has met no fault. -/
def State.runs (s : State) (r : CmdRef) (m : Cmd) : Prop :=
  s.cmd? r = some m ∧ m.started = true ∧ m.faulted = false ∧ m.fail = none ∧ m.inb = none
/-- The command goes on: it is found again, with `P` of it. -/
def State.goesOn (t : State) (r : CmdRef) (P : Cmd → Prop) : Prop := ∃ m, t.cmd? r = some m ∧ P m
/-- Where core `c` keeps no trace ring, memory outside its journal and outside `[a, a+n)` stands. -/
def bytesBut (s t : State) (c : CoreId) (a n : Nat) : Prop :=
  (s.core c).ring = none → ∀ b, (b < a ∨ a + n ≤ b) → (b < bufKey c .jb 0 ∨ bufKey c .jb 0 + 0x4000 ≤ b) → t.mem.get b = s.mem.get b
/-- A result word: a count in bits 31:0, the bits of `st` above it (R238). -/
def countWord (st : Word) (n : Nat) : Word := (st &&& 0xFFFFFFFF00000000) ||| BitVec.ofNat 64 n

/-- The progress of a command whose move of `n` units has committed `k` more: a list goes on to its next entry after the last (R286, R298). -/
def Cmd.progAfter (m : Cmd) (n k : Nat) : Nat :=
  match m.ins with
  | .xlist _ => if m.unit + k = n then ((m.prog + k) / 2 ^ 32 + 1) * 2 ^ 32 else m.prog + k
  | _ => m.prog + k
/-- Where core `c` keeps no trace ring, memory outside its journal is as in `u`. -/
def memAs (s u t : State) (c : CoreId) : Prop :=
  (s.core c).ring = none → ∀ b, (b < bufKey c .jb 0 ∨ bufKey c .jb 0 + 0x4000 ≤ b) → t.mem.get b = u.mem.get b
/-- A format of whole bytes without scales, on both sides of a move. -/
def bytesFmt (f g : Fmt) : Prop := f.ty = g.ty ∧ f.bs = false ∧ g.bs = false ∧ ETy.sw f.ty = 8 ∧ f.ty ≠ .lg6

/- Traps. -/
/-- A trap is handled within its context (R404, R407). -/
def Ctx.handles (x : Ctx) (cls : TrapClass) : Prop := x.trapvec.getLsbD 0 = true ∧ x.status.getLsbD 0 = false ∧ cls ≠ .bkpt
/-- The record of a trap, in plain terms: class, place, addresses. -/
structure TrapIs where
  cls : TrapClass
  slot : Slot
  eng : Eng := .seq
  pc : Word
  seq : BitVec 32
  addr : Word
  rpc : Word
/-- A trap has been handled (R403, R407): the context, which stood as `x`, is at its handler; the save area of core `c` holds the
record, the resume PC, the pending transfer, the predicates, the latches and the loops; the registers stand. -/
def State.entered (s t : State) (c : CoreId) (x : Ctx) (r : TrapIs) (t0 : Nat) : Prop :=
  let y := t.ctxOf c
  let jb := bufKey c .jb 0x4000
  y.pc = x.trapvec &&& 0x01FFFFFFFFFFFFE0 ∧ y.status = x.status ||| 1 ∧
  y.trapinfo = BitVec.ofNat 64 (TrapClass.code r.cls + Slot.num r.slot * 2 ^ 8 + Eng.code r.eng * 2 ^ 10 + r.seq.toNat * 2 ^ 32) ∧
  y.loops = [] ∧ y.xfer = none ∧ y.flight = [] ∧ (t.core c).holdUntil = t0 + 16 ∧ (t.core c).stop = (s.core c).stop ∧
  y.s = x.s ∧ y.o = x.o ∧ y.p = x.p ∧ y.lx = x.lx ∧ y.rows = x.rows ∧ y.cmds = x.cmds ∧ (∀ d, d ≠ c → t.core d = s.core d) ∧
  ((s.core c).ring = none → bytesKept s t jb 0x4000 ∧ (t.mem.get jb).toNat = TrapClass.code r.cls ∧ t.mem.num (jb + 8) 8 = r.pc.toNat ∧
    t.mem.num (jb + 0x10) 4 = r.seq.toNat ∧ t.mem.num (jb + 0x20) 8 = r.addr.toNat ∧ t.mem.num (jb + 0x40) 8 = r.rpc.toNat ∧
    (x.xfer = none → t.mem.num (jb + 0x48) 16 = 0) ∧
    (∀ v, x.xfer = some v → t.mem.num (jb + 0x48) 8 = v.tgt.toNat ∧ t.mem.num (jb + 0x50) 8 = (v.left + 4) % 2 ^ 64) ∧
    (∀ i : Fin 8, (t.mem.get (jb + 0x58)).getLsbD i = (i != 0 && x.p[i])) ∧
    (∀ i : Fin 4, t.mem.num (jb + 0x60 + 8 * i.val) 8 = x.lx[i].toNat) ∧
    (∀ i v, i < 4 → x.loops[i]? = some v → t.mem.num (jb + 0x80 + 24 * i) 8 = v.start.toNat ∧ t.mem.num (jb + 0x88 + 24 * i) 8 = v.fin.toNat ∧
      t.mem.num (jb + 0x90 + 24 * i) 8 = v.count % 2 ^ 64) ∧
    ∀ f, x.flight = [f] → f.row = none → f.code < 2 ^ 8 → t0 ≤ f.fin → f.fin < t0 + 30 → t.mem.num (jb + 0x100) 8 = f.val.toNat ∧
      t.mem.num (jb + 0x108) 8 = f.code + Slot.num f.slot * 2 ^ 8 + (f.fin - t0) * 2 ^ 10 + 2 ^ 15)
/-- A trap has been reported (R403, R410): the core issues nothing until its context has been saved; the registers, the results in
flight and memory stand. -/
def State.reported (s t : State) (c : CoreId) (x : Ctx) (r : TrapIs) (t0 : Nat) : Prop :=
  let y := t.ctxOf c
  (∃ st q, (t.core c).stop = some st ∧ st.why = .report ∧ st.since = t0 ∧ st.rcd = some q ∧ q.cls = r.cls ∧ q.slot = r.slot ∧ q.eng = r.eng ∧
    q.pc = r.pc ∧ q.seq = r.seq ∧ q.addr = r.addr ∧ q.rpc = r.rpc ∧ q.ctx = x.ctxid ∧ q.conf = x.conf ∧ q.core = c.val ∧ q.fn = x.fn.val ∧
    q.nest = x.status.getLsbD 0 ∧ (TrapClass.fatal r.cls = true → q.fatal = true)) ∧
  y.pc = r.rpc ∧ y.status = x.status ∧ y.s = x.s ∧ y.o = x.o ∧ y.p = x.p ∧ y.lx = x.lx ∧ y.rows = x.rows ∧ y.cmds = x.cmds ∧
  y.loops = x.loops ∧ y.flight = x.flight ∧ (∀ d, d ≠ c → t.core d = s.core d) ∧ ((s.core c).ring = none → t.mem = s.mem)
/-- A trap has been taken (R403), from the context that stood as `x`: the results which a bundle of cycle `t0` reads in the main file
have landed. -/
def State.trapped (s t : State) (c : CoreId) (x : Ctx) (r : TrapIs) (t0 : Nat) : Prop :=
  (x.handles r.cls → s.entered t c (x.settle t0) r t0) ∧ (¬ x.handles r.cls → s.reported t c (x.settle t0) r t0)

end Sys2Proof.Machine
end

