-- ==== Sys2Proof/Certificates/Slice0/Obligations.lean ====
section
/-! DEFINITION. Statements for the provers. Each docstring names the rules of the spec that the statement formalises. -/

open Sys2Proof Sys2Proof.Machine

/-- R86, R87, R89: the two-operand integer instructions without `.sat`, latency 1. -/
def Obligations.IntegerResults : Prop :=
  ∀ (s : State) (x : Bin), s.ctx.acts x.g 1 →
    let a := s.ctx.src x.a
    let b := s.ctx.src x.b
    let r (v : Word) : Out := .next (s.gives x.g x.slot 1 (sCode x.d) v)
    (x.sat = false → exec (.add x) s = r (a + b) ∧ exec (.sub x) s = r (a - b)) ∧
    exec (.and x) s = r (a &&& b) ∧ exec (.or x) s = r (a ||| b) ∧ exec (.xor x) s = r (a ^^^ b) ∧
    exec (.andn x) s = r (a &&& ~~~b) ∧
    exec (.shl x) s = r (a <<< b) ∧ exec (.shr x) s = r (a >>> b) ∧ exec (.sra x) s = r (a.sshiftRight' b) ∧
    exec (.rotl x) s = r (a <<< (b.toNat % 64) ||| a >>> ((64 - b.toNat % 64) % 64)) ∧
    exec (.min x) s = r (if a.sle b then a else b) ∧ exec (.max x) s = r (if b.sle a then a else b) ∧
    exec (.minn x) s = r (if a.ule b then a else b) ∧ exec (.maxn x) s = r (if b.ule a then a else b)

/-- R86, R93: the saturating forms clamp and set SV when the clamp changes the value. -/
def Obligations.SaturatingResults : Prop :=
  ∀ (s : State) (x : Bin) (y : Una),
    let a := (s.ctx.src x.a).toInt
    let b := (s.ctx.src x.b).toInt
    let n := -(s.ctx.src y.a).toInt
    (s.ctx.acts x.g 1 → s.ctx.enabled (satFlag x.sat (a + b)) = false →
      exec (.add x) s = .next (s.gives x.g x.slot 1 (sCode x.d) (satWord x.sat (a + b)) none (satFlag x.sat (a + b)))) ∧
    (s.ctx.acts x.g 1 → s.ctx.enabled (satFlag x.sat (a - b)) = false →
      exec (.sub x) s = .next (s.gives x.g x.slot 1 (sCode x.d) (satWord x.sat (a - b)) none (satFlag x.sat (a - b)))) ∧
    (s.ctx.acts y.g 1 → s.ctx.enabled (satFlag y.sat n) = false →
      exec (.neg y) s = .next (s.gives y.g y.slot 1 (sCode y.d) (satWord y.sat n) none (satFlag y.sat n))) ∧
    (s.ctx.acts x.g 3 → s.ctx.enabled (satFlag x.sat (a * b)) = false →
      exec (.mul x) s = .next (s.gives x.g .m 3 (sCode x.d) (satWord x.sat (a * b)) none (satFlag x.sat (a * b))))

/-- R88, R89, R91, R92: counts, moves, bit fields, selection and addresses. -/
def Obligations.BitFieldResults : Prop :=
  ∀ (s : State) (u : Una) (f : Bfx) (h : Bfi) (c : Sel) (l : Lea),
    (s.ctx.acts u.g 1 →
      let a := s.ctx.src u.a
      let r (v : Word) : Out := .next (s.gives u.g u.slot 1 (sCode u.d) v)
      (∃ n, leadingZeros a n ∧ exec (.clz u) s = r (BitVec.ofNat 64 n)) ∧
      (∃ n, trailingZeros a n ∧ exec (.ctz u) s = r (BitVec.ofNat 64 n)) ∧
      exec (.popc u) s = r (BitVec.ofNat 64 (ones a)) ∧ exec (.mov u) s = r a) ∧
    (s.ctx.acts f.g 1 → 1 ≤ f.len.val → f.pos.val + f.len.val ≤ 64 →
      let v := (s.ctx.src f.a).extractLsb' f.pos.val f.len.val
      exec (.bfx f) s = .next (s.gives f.g f.slot 1 (sCode f.d) (v.signExtend 64)) ∧
      exec (.bfxn f) s = .next (s.gives f.g f.slot 1 (sCode f.d) (v.setWidth 64))) ∧
    (s.ctx.acts h.g 1 → 1 ≤ h.len.val → h.pos.val + h.len.val ≤ 64 →
      ∃ v, exec (.bfi h) s = .next (s.gives h.g h.slot 1 (sCode h.d) v) ∧
        ∀ i, v.getLsbD i = if h.pos.val ≤ i ∧ i < h.pos.val + h.len.val then (s.ctx.src h.b).getLsbD (i - h.pos.val)
                           else (s.ctx.src h.a).getLsbD i) ∧
    (s.ctx.acts c.g 1 →
      exec (.sel c) s = .next (s.gives c.g c.slot 1 (sCode c.d) (if s.ctx.pr c.p then s.ctx.src c.a else s.ctx.src c.b))) ∧
    (s.ctx.acts l.g 1 →
      exec (.lea l) s = .next (s.gives l.g l.slot 1 (sCode l.d) (s.ctx.src l.a + s.ctx.src l.b <<< l.sh.val + s.ctx.src l.c)))

/-- R90, R96: comparisons write 1 or 0, to a scalar or to a predicate. -/
def Obligations.CompareResults : Prop :=
  ∀ (s : State) (x : Cmp) (y : Cmpi),
    (s.ctx.acts x.g 1 → x.cond.val < 12 →
      (condTrue x.cond.val (s.ctx.src x.a) (s.ctx.src x.b) → exec (.cmp x) s = .next (s.gives x.g x.slot 1 (cCode x.d) 1)) ∧
      (¬ condTrue x.cond.val (s.ctx.src x.a) (s.ctx.src x.b) → exec (.cmp x) s = .next (s.gives x.g x.slot 1 (cCode x.d) 0))) ∧
    (s.ctx.acts y.g 1 →
      let a := s.ctx.src y.src
      let b := y.imm.signExtend 64
      let h : Prop := match y.cond with | 0 => a = b | 1 => a.slt b = true | 2 => a.ult b = true | 3 => a &&& b ≠ 0
      (h → exec (.cmpi y) s = .next (s.gives y.g y.slot 1 (0x58 + y.p.val) 1)) ∧
      (¬ h → exec (.cmpi y) s = .next (s.gives y.g y.slot 1 (0x58 + y.p.val) 0)))

/-- R95, R97, R53: immediate forms, `movl` and `nop`. -/
def Obligations.ImmediateResults : Prop :=
  ∀ (s : State) (x : ImmOp) (y : Movl) (p : Slot),
    (s.ctx.acts x.g 1 →
      let d := s.ctx.dsrc x.d
      let i : Word := if x.zx then x.imm.setWidth 64 else x.imm.signExtend 64
      let r (v : Word) : Out := .next (s.gives x.g x.slot 1 (sCode x.d) v)
      exec (.addi x) s = r (d + i) ∧ exec (.andi x) s = r (d &&& i) ∧ exec (.ori x) s = r (d ||| i) ∧
      exec (.xori x) s = r (d ^^^ i) ∧ exec (.movi x) s = r i) ∧
    (s.ctx.acts y.g 1 → exec (.movl y) s = .next (s.gives y.g .a 1 (sCode y.d) y.imm)) ∧
    exec (.nop p) s = .next s

/-- R93, R94: high products, quotients and remainders; a division by zero gives 0 or the dividend, and DZ. -/
def Obligations.ProductsAndQuotients : Prop :=
  ∀ (s : State) (x : Bin),
    let a := s.ctx.src x.a
    let b := s.ctx.src x.b
    let r (lat : Nat) (v : Word) (fl : Fl) : Out := .next (s.gives x.g .m lat (sCode x.d) v none fl)
    (s.ctx.acts x.g 3 →
      exec (.mulh x) s = r 3 ((a.signExtend 128 * b.signExtend 128).extractLsb' 64 64) 0 ∧
      exec (.mulhn x) s = r 3 ((a.setWidth 128 * b.setWidth 128).extractLsb' 64 64) 0) ∧
    (s.ctx.acts x.g 14 → b ≠ 0 →
      exec (.div x) s = r 14 (a.sdiv b) 0 ∧ exec (.divn x) s = r 14 (a / b) 0 ∧
      exec (.rem x) s = r 14 (a.srem b) 0 ∧ exec (.remn x) s = r 14 (a % b) 0) ∧
    (s.ctx.acts x.g 14 → b = 0 → s.ctx.enabled Fl.dz = false →
      exec (.div x) s = r 14 0 Fl.dz ∧ exec (.divn x) s = r 14 0 Fl.dz ∧
      exec (.rem x) s = r 14 a Fl.dz ∧ exec (.remn x) s = r 14 a Fl.dz)

/-- R99, R31, R34: the exact results of scalar floating arithmetic, rounded once, with their flags. -/
def Obligations.FloatArithmetic : Prop :=
  ∀ (s : State) (x : FBin) (y : FTer) (z : FUna),
    let a := s.ctx.fsrc x.t x.ftz x.a
    let b := s.ctx.fsrc x.t x.ftz x.b
    let ok (i : Instr) (lat : Nat) (e : Ex × Fl) : Prop :=
      let r := fWord e x.t x.rm x.ftz x.sat
      s.ctx.acts x.g lat → s.ctx.enabled r.2 = false → exec i s = .next (s.gives x.g .m lat (sCode x.d) r.1 none r.2)
    ok (.fadd x) 4 (fAddX x.rm a b) ∧ ok (.fsub x) 4 (fAddX x.rm a b.negate) ∧ ok (.fmul x) 4 (exactMul a b) ∧
    ok (.fdiv x) 14 (fDivX x.rm a b) ∧
    (let r := fWord (fFmaX y.rm (s.ctx.fsrc y.t y.ftz y.a) (s.ctx.fsrc y.t y.ftz y.b) (s.ctx.fsrc y.t y.ftz y.c)) y.t y.rm y.ftz y.sat
     s.ctx.acts y.g 4 → s.ctx.enabled r.2 = false → exec (.ffma y) s = .next (s.gives y.g .m 4 (sCode y.d) r.1 none r.2)) ∧
    (let r := fWord (fSqrtX (s.ctx.fsrc z.t z.ftz z.a)) z.t z.rm z.ftz z.sat
     s.ctx.acts z.g 14 → s.ctx.enabled r.2 = false → exec (.fsqrt z) s = .next (s.gives z.g .m 14 (sCode z.d) r.1 none r.2))

/-- R99: the special cases of addition, multiplication, division, `ffma` and the square root, decided before Encode. -/
def Obligations.FloatSpecialCases : Prop :=
  (∀ (s : State) (y : FTer), y.t.f3 = true →
    let a := s.ctx.fsrc y.t y.ftz y.a
    let b := s.ctx.fsrc y.t y.ftz y.b
    let d := s.ctx.fsrc y.t y.ftz y.c
    let sig : Prop := a.isSig = true ∨ b.isSig = true ∨ d.isSig = true
    let zeroInf : Prop := (a.isZero = true ∧ b.isInf = true) ∨ (a.isInf = true ∧ b.isZero = true)
    let nan : Prop := a.isNan = true ∨ b.isNan = true ∨ d.isNan = true
    let gives (n : Nat) (fl : Fl) : Prop := s.ctx.acts y.g 4 → s.ctx.enabled fl = false →
      exec (.ffma y) s = .next (s.gives y.g .m 4 (sCode y.d) (BitVec.ofNat 64 n) none fl)
    (sig ∨ zeroInf → gives (ETy.nanBits y.t) Fl.nv) ∧
    (¬ sig → ¬ zeroInf → nan → gives (ETy.nanBits y.t) 0) ∧
    (¬ zeroInf → ¬ nan → a.isInf = true ∨ b.isInf = true →
      (d = .inf (a.neg == b.neg) → gives (ETy.nanBits y.t) Fl.nv) ∧
      (d ≠ .inf (a.neg == b.neg) → y.sat = false → gives (withSign y.t (a.neg != b.neg) (ETy.infBits y.t)) 0)) ∧
    (¬ nan → a.isInf = false → b.isInf = false → ∀ n, d = .inf n → y.sat = false → gives (withSign y.t n (ETy.infBits y.t)) 0)) ∧
  (∀ (s : State) (z : FUna), z.t.f3 = true →
    let a := s.ctx.fsrc z.t z.ftz z.a
    let gives (n : Nat) (fl : Fl) : Prop := s.ctx.acts z.g 14 → s.ctx.enabled fl = false →
      exec (.fsqrt z) s = .next (s.gives z.g .m 14 (sCode z.d) (BitVec.ofNat 64 n) none fl)
    (a.isSig = true → gives (ETy.nanBits z.t) Fl.nv) ∧
    (a.isNan = true → a.isSig = false → gives (ETy.nanBits z.t) 0) ∧
    (a.isNan = false → a.isZero = false → a.neg = true → gives (ETy.nanBits z.t) Fl.nv) ∧
    (∀ n, a = .zero n → gives (withSign z.t n 0) 0) ∧
    (a = .inf false → z.sat = false → gives (ETy.infBits z.t) 0)) ∧
  ∀ (s : State) (x : FBin), x.t.f3 = true →
    let a := s.ctx.fsrc x.t x.ftz x.a
    let b := s.ctx.fsrc x.t x.ftz x.b
    let nan (i : Instr) (lat : Nat) (fl : Fl) : Prop :=
      s.ctx.acts x.g lat → s.ctx.enabled fl = false →
        exec i s = .next (s.gives x.g .m lat (sCode x.d) (BitVec.ofNat 64 (ETy.nanBits x.t)) none fl)
    let all (fl : Fl) : Prop := nan (.fadd x) 4 fl ∧ nan (.fsub x) 4 fl ∧ nan (.fmul x) 4 fl ∧ nan (.fdiv x) 14 fl
    (a.isSig = true ∨ b.isSig = true → all Fl.nv) ∧
    (a.isSig = false → b.isSig = false → a.isNan = true ∨ b.isNan = true → all 0) ∧
    (∀ n, a = .inf n → b = .inf (!n) → nan (.fadd x) 4 Fl.nv) ∧
    (∀ n, a = .inf n → b = .inf n → nan (.fsub x) 4 Fl.nv) ∧
    (∀ n m, (a = .inf n ∧ b = .zero m) ∨ (a = .zero n ∧ b = .inf m) → nan (.fmul x) 4 Fl.nv) ∧
    (∀ n m, (a = .inf n ∧ b = .inf m) ∨ (a = .zero n ∧ b = .zero m) → nan (.fdiv x) 14 Fl.nv) ∧
    (∀ q m, a = .fin q → b = .zero m → x.sat = false → s.ctx.acts x.g 14 → s.ctx.enabled Fl.dz = false →
      exec (.fdiv x) s = .next (s.gives x.g .m 14 (sCode x.d)
        (BitVec.ofNat 64 (withSign x.t (decide (q.n < 0) != m) (ETy.infBits x.t))) none Fl.dz))

/-- R30, R31: a finite non-zero value that stays within MaxFinite encodes as its rounding, and NX tells whether that differs. -/
def Obligations.EncodeRounds : Prop :=
  ∀ (q : Q) (t : ETy) (rm : Rm) (sat : Bool), ETy.isFloat t = true → q.n ≠ 0 → q.d ≠ 0 → q.r = 0 →
    |roundR30 q.rat t rm| ≤ ((decodeEl (ETy.maxBits t) t).rat.getD 0) →
    (decodeEl (encodeEl (.fin q) t rm false sat).1 t).rat = some (roundR30 q.rat t rm) ∧
    ((encodeEl (.fin q) t rm false sat).2 &&& Fl.nx = 0 ↔ roundR30 q.rat t rm = q.rat)

/-- R34, R48, R99: sums, products, quotients and `ffma` of finite values are exact before they are rounded, and the root is as near as
a rounding can tell. R44, R49, R235, R236, R240, R241: what the arrays compute from such sums: a word of a stream's row, the times of
its steps and where they begin. R263, R271, R279: a block's step of the chain, and the output; KPOS goes on from 0 after 2^32 - 1
(DESIGN CHOICE, log entry 101). -/
def Obligations.ExactBeforeRounding : Prop :=
  (∀ (rm : Rm) (p q : Q), p.n ≠ 0 → q.n ≠ 0 → p.d ≠ 0 → q.d ≠ 0 → p.r = 0 → q.r = 0 →
    (fAddX rm (.fin p) (.fin q)).1.rat = some (p.rat + q.rat) ∧
    (exactMul (.fin p) (.fin q)).1.rat = some (p.rat * q.rat) ∧
    (fDivX rm (.fin p) (.fin q)).1.rat = some (p.rat / q.rat) ∧
    (p.rat + q.rat = 0 → (fAddX rm (.fin p) (.fin q)).1 = .zero (decide (rm = .rdn))) ∧
    (∀ b, (fFmaX rm (.fin p) (.fin q) (.zero b)).1.rat = some (p.rat * q.rat)) ∧
    (∀ z : Q, z.n ≠ 0 → z.d ≠ 0 → z.r = 0 → (fFmaX rm (.fin p) (.fin q) (.fin z)).1.rat = some (p.rat * q.rat + z.rat) ∧
      (p.rat * q.rat + z.rat = 0 → (fFmaX rm (.fin p) (.fin q) (.fin z)).1 = .zero (decide (rm = .rdn)))) ∧
    (0 < q.n → ∃ v, (fSqrtX (.fin q)).1.rat = some v ∧ nearRoot q.rat v ∧ (fSqrtX (.fin q)).2 = 0)) ∧
  (∀ (rm : Rm) (xs : List Ex),
    ((∀ x ∈ xs, x.isFin = true ∧ ∀ q, x = .fin q → q.d ≠ 0 ∧ q.r = 0) →
      (exactSum rm xs).1.rat = some ((xs.map (fun x => x.rat.getD 0)).sum) ∧ (exactSum rm xs).2 = 0) ∧
    ((∃ x ∈ xs, x.isNan = true) ∨ (.inf false ∈ xs ∧ .inf true ∈ xs) → (exactSum rm xs).1 = .nan false) ∧
    (∀ n, .inf n ∈ xs → .inf (!n) ∉ xs → (∀ x ∈ xs, x.isNan = false) → exactSum rm xs = (.inf n, 0))) ∧
  -- a stream's row: the word of column n, from the word that stood there when it accumulates
  (∀ (ar : Arr) (tx : ETy) (isat : Bool) (xs : Els) (n : Nat) (cin : Option Nat),
    let col := ((ar.cells.take ar.sh.kc).map (fun r => r.getD n { enc := 0 })).zipIdx
    let ns := (patNM ar.sh.pat).1
    let m := (patNM ar.sh.pat).2
    let k (p : Cell × Nat) : Nat := if ar.sh.pat = 0 then p.2 else p.2 / ns * m + p.1.idx % m
    let x (p : Cell × Nat) : Nat × Nat := xs.getD (k p) (0, 127)
    (∃ v, accSum ar.ftz ar.G (match cin with | some w => decodeEl w .f32 | none => .zero false)
        (col.map (fun p => (cellMul (ar.sh.ty == .lg6) ar.ftz ar.sh.ty p.1 tx (x p)).1)) v ∧
      (outWord ar tx false isat xs n cin).1 = f32Bits v) ∧
    (let ts := col.map (fun p => elInt ar.sh.ty (p.1.enc % 2 ^ ETy.bits ar.sh.ty) * elInt tx ((x p).1 % 2 ^ ETy.bits tx))
     ∃ acc : Nat → Int, acc 0 = (match cin with | some w => (BitVec.ofNat 32 w).toInt | none => 0) ∧
       (∀ q, q * ar.G < ts.length → acc (q + 1) =
         (let v := acc q + ((ts.drop (q * ar.G)).take ar.G).sum
          if isat then max (-2 ^ 31) (min v (2 ^ 31 - 1)) else v.bmod (2 ^ 32))) ∧
       (outWord ar tx true isat xs n cin).1 = (acc ((ts.length + ar.G - 1) / ar.G) % 2 ^ 32).toNat)) ∧
  (∀ (ts : ETy) (st : Cell) (tx : ETy) (x : Nat × Nat) (ftz : Bool),
    (cellMul false ftz ts st tx x).1 = (exactMul (flushIn ftz (decodeScaled st.enc ts st.e8)) (flushIn ftz (decodeScaled x.1 tx x.2))).1 ∧
    (st.e8 = 255 ∨ x.2 = 255 → (cellMul true ftz ts st tx x).1 = .nan false)) ∧
  -- its steps: a group of cell rows takes as long as the most pips of what it reads, and one cycle for none
  (∀ (b : Nat) (t : ETy) (q : Q), decodeEl b t = .fin q → pips b t = if t = .lg6 then 1 else (topDigits q.n.natAbs 48).2) ∧
  (∀ (ar : Arr) (tx : ETy) (xs : Els) (g : Nat),
    let span := if ar.sh.pat = 0 then ar.G else ar.G * (patNM ar.sh.pat).2 / (patNM ar.sh.pat).1
    let row := xs.take ar.sh.keff
    let ps := ((row.drop (g * span)).take span).map (fun p => pips p.1 tx)
    (g * span < row.length → (stepTimes ar tx xs)[g]? = some (max 1 (ps.foldl max 0), ps.sum, decide (∀ p ∈ ps, p = 0))) ∧
    (row.length ≤ g * span → (stepTimes ar tx xs)[g]? = none)) ∧
  (∀ (clk : Nat → Nat) (hist : List (List Nat)) (a : Nat) (ts : List Nat) (g : Nat),
    (stepEnds clk hist a ts)[g]? = (ts[g]?).map (fun d =>
      let b := clk (max ((hist.headD []).getD g 0) (max a ((hist.getD 7 []).foldl max 0)))
      (b, b + d))) ∧
  -- the digits that a weight keeps
  (∀ n k, n < 2 ^ 24 → (topDigits n k).2 ≤ k ∧ (topDigits n 48).1 = n ∧
    ((topDigits n k).1 = n ∨ k = 0 ∨ ∃ i : Nat, (2 ^ i : Int) ∣ (topDigits n k).1 ∧ ¬ (2 ^ (i + 1) : Int) ∣ (topDigits n k).1 ∧
      3 * |(n : Int) - (topDigits n k).1| < 2 ^ i)) ∧
  (∀ b k, b < 0x7F800000 →
    let n := b % 2 ^ 23 + if b / 2 ^ 23 = 0 then 0 else 2 ^ 23
    (truncP (decodeEl b .f32) k).1.rat = some (((topDigits n k).1 : ℚ) * (2 : ℚ) ^ (((max (b / 2 ^ 23) 1 : Nat) : Int) - 150)) ∧
    (truncP (decodeEl b .f32) k).2 = (topDigits n k).2) ∧
  -- a block's step for one query row
  (∀ (ch : Chain) (gs gv : Nat) (b : Block) (i : Nat), gs ≠ 0 → gv ≠ 0 →
    let r := ch.rowStep gs gv b i
    let o0 := ch.o.getD i []
    let m0 := decodeEl (ch.m.getD i 0) .f32
    let l0 := decodeEl (ch.l.getD i 0) .f32
    let sigma := decodeEl (bits ch.oword.toNat 32 32) .f32
    let vis (j : Nat) : Prop := j < b.k.length ∧ ch.visible i j b.base = true
    (ch.nm.getD i false = true → r.nm = true ∧ r.m = ch.m.getD i 0 ∧ r.l = ch.l.getD i 0 ∧ r.rs = ch.rs.getD i 0 ∧ r.o = o0) ∧
    (ch.nm.getD i false = false → ∃ sc : Nat → Ex,
      (∀ j kr, b.k[j]? = some kr → ∃ acc, accSum ch.ftz gs (.zero false)
        (((ch.q.getD i []).zip kr).map (fun p => (cellMul (ch.qty == .lg6) ch.ftz ch.qty p.1 b.kt p.2).1)) acc ∧
        sc j = rnd32 ch.ftz (exactMul sigma acc).1) ∧
      ((∃ j, vis j ∧ (sc j).isNan = true) → r.nm = true ∧ r.m = 0x7FC00000 ∧ r.l = 0x7FC00000 ∧ r.rs = 0x7FC00000 ∧
        (∀ n, n < ch.d → r.o[n]? = some 0x7FC00000) ∧ ∀ n, ch.d ≤ n → r.o[n]? = o0[n]?) ∧
      ((∀ j, vis j → (sc j).isNan = false) → ∃ (mn w : Ex) (ph : List Ex), r.nm = false ∧ ph.length = b.k.length ∧
        (mn = m0 ∨ ∃ j, vis j ∧ sc j = mn) ∧ mn.cmp m0 ≠ .lt ∧ (∀ j, vis j → sc j ≠ .inf true → mn.cmp (sc j) ≠ .lt) ∧
        (m0.cmp mn = .lt → w = expStep271 ch.ftz m0 mn ∧ r.m = f32Bits mn) ∧
        (m0.cmp mn ≠ .lt → w.rat = some 1 ∧ r.m = ch.m.getD i 0) ∧ r.rs = f32Bits w ∧
        (∀ j, j < b.k.length → (¬ vis j ∨ sc j = .inf true → ph[j]? = some (.zero false)) ∧
          (vis j → sc j = .inf false → ∃ p, ph[j]? = some p ∧ p.rat = some 1) ∧
          (vis j → (sc j).isInf = false → ph[j]? = some (truncP (expStep271 ch.ftz (sc j) mn) ch.ppips).1)) ∧
        r.l = f32Bits (rnd32 ch.ftz (exactSum .rne ((exactMul l0 w).1 :: ph)).1) ∧
        (∀ n, n < ch.d → ∃ acc, r.o[n]? = some (f32Bits acc) ∧ accSum ch.ftz gv (exactMul (decodeEl (o0.getD n 0) .f32) w).1
          ((ph.zip b.v).map (fun p => (exactMul p.1 (flushIn ch.ftz (decodeScaled (p.2.getD n (0, 127)).1 b.vt (p.2.getD n (0, 127)).2))).1)) acc) ∧
        ∀ n, ch.d ≤ n → r.o[n]? = o0[n]?))) ∧
  -- the step of all rows, and the output of one
  (∀ (ch : Chain) (gs gv : Nat) (b : Block),
    let t := (ch.step gs gv b).1
    (∃ nm m l rs o, t = { ch with nm, m, l, rs, o, kpos := (b.base + b.k.length) % 2 ^ 32 }) ∧
    (∀ i, i < ch.nq → let r := ch.rowStep gs gv b i
      t.nm[i]? = some r.nm ∧ t.m[i]? = some r.m ∧ t.l[i]? = some r.l ∧ t.rs[i]? = some r.rs ∧ t.o[i]? = some r.o) ∧
    ∀ i, ch.nq ≤ i → t.nm[i]? = ch.nm[i]? ∧ t.m[i]? = ch.m[i]? ∧ t.l[i]? = ch.l[i]? ∧ t.rs[i]? = ch.rs[i]? ∧ t.o[i]? = ch.o[i]?) ∧
  ∀ (ch : Chain) (raw : Bool) (i n x : Nat), n < ch.d → (ch.o.getD i [])[n]? = some x →
    let r := ch.finRow raw i
    let l := decodeEl (ch.l.getD i 0) .f32
    (ch.nm.getD i false = true → r.1[n]? = some (ETy.nanBits ch.oty) ∧ r.2.2 = false) ∧
    (ch.nm.getD i false = false →
      (l.isZero = true → r.1[n]? = some 0 ∧ r.2.2 = true) ∧
      (l.isZero = false → r.2.2 = false ∧ r.1[n]? = some (encodeEl (if raw then decodeEl x .f32 else (fDivX .rne (decodeEl x .f32) l).1)
        ch.oty .rne ch.ftz ch.sat).1))

/-- R100 to R103: selection, comparison, classification and conversion. -/
def Obligations.FloatSelectCompareConvert : Prop :=
  ∀ (s : State) (x : FBin) (c : FCmp) (k : FUna) (v : FCvt),
    (x.t.f3 = true →
      let w := ETy.bits x.t
      let pa := (s.ctx.src x.a).toNat % 2 ^ w
      let pb := (s.ctx.src x.b).toNat % 2 ^ w
      let a := s.ctx.fsrc x.t x.ftz x.a
      let b := s.ctx.fsrc x.t x.ftz x.b
      let za := if a.isZero then withSign x.t a.neg 0 else pa
      let zb := if b.isZero then withSign x.t b.neg 0 else pb
      let less (x y : Ex) : Prop := x.cmp y = .lt ∨ (x.cmp y = .eq ∧ x = .zero true ∧ y = .zero false)
      let gives (i : Instr) (n : Nat) (fl : Fl) : Prop :=
        s.ctx.acts x.g 2 → s.ctx.enabled fl = false → exec i s = .next (s.gives x.g .m 2 (sCode x.d) (BitVec.ofNat 64 n) none fl)
      (a.isSig = true ∨ b.isSig = true → gives (.fmin x) (ETy.nanBits x.t) Fl.nv ∧ gives (.fmax x) (ETy.nanBits x.t) Fl.nv) ∧
      (a.isSig = false → b.isSig = false →
        (a.isNan = true → b.isNan = true → gives (.fmin x) (ETy.nanBits x.t) 0 ∧ gives (.fmax x) (ETy.nanBits x.t) 0) ∧
        (a.isNan = true → b.isNan = false → gives (.fmin x) zb 0 ∧ gives (.fmax x) zb 0) ∧
        (a.isNan = false → b.isNan = true → gives (.fmin x) za 0 ∧ gives (.fmax x) za 0) ∧
        (a.isNan = false → b.isNan = false →
          (less b a → gives (.fmin x) zb 0) ∧ (¬ less b a → gives (.fmin x) za 0) ∧
          (less a b → gives (.fmax x) zb 0) ∧ (¬ less a b → gives (.fmax x) za 0)))) ∧
    (let a := s.ctx.fsrc c.t c.ftz c.a
     let b := s.ctx.fsrc c.t c.ftz c.b
     let fl := fcondFlag c.cond.val a b
     s.ctx.acts c.g 2 → s.ctx.enabled fl = false →
       (fcondTrue c.cond.val a b → exec (.fcmp c) s = .next (s.gives c.g .m 2 (cCode c.d) 1 none fl)) ∧
       (¬ fcondTrue c.cond.val a b → exec (.fcmp c) s = .next (s.gives c.g .m 2 (cCode c.d) 0 none fl))) ∧
    (s.ctx.acts k.g 2 →
      exec (.fclass k) s = .next (s.gives k.g .m 2 (sCode k.d) (BitVec.ofNat 64 (2 ^ fclassBit k.t (decodeEl (s.ctx.src k.a).toNat k.t))))) ∧
    (let e := decodeEl (s.ctx.src v.a).toNat v.src
     let x := if ETy.isFloat v.src then flushIn v.ftz e else e
     let toInt := !ETy.isInt v.src && ETy.isInt v.t
     let r := encodeEl x v.t v.rm v.ftz (v.sat || toInt)
     let fl := if toInt && r.2 &&& Fl.sv != 0 then (r.2 &&& ~~~Fl.sv) ||| Fl.nv else r.2
     let w : Word := if ETy.isSigned v.t then BitVec.ofInt 64 (sext r.1 (ETy.bits v.t)) else BitVec.ofNat 64 r.1
     s.ctx.acts v.g 4 → s.ctx.enabled fl = false → exec (.fcvt v) s = .next (s.gives v.g .m 4 (sCode v.d) w none fl))

/-- R114, R118: predicate logic, and `eseq`. -/
def Obligations.PredicateResults : Prop :=
  ∀ (s : State) (x : PBin) (y : PUna) (e : Eseq),
    (s.ctx.acts x.g 1 →
      let a := s.ctx.pr x.a != x.na
      let b := s.ctx.pr x.b != x.nb
      let r (v : Bool) : Out := .next (s.gives x.g .a 1 (0x58 + x.d.val) (if v then 1 else 0))
      exec (.pand x) s = r (a && b) ∧ exec (.por x) s = r (a || b) ∧ exec (.pxor x) s = r (a ^^ b)) ∧
    (s.ctx.acts y.g 1 →
      let v := match y.a with | .p i => s.ctx.pr i | .sc w => s.ctx.src w != 0
      exec (.pnot y) s = .next (s.gives y.g .a 1 (0x58 + y.d.val) (if v != y.na then 0 else 1)) ∧
      exec (.pmov y) s = .next (s.gives y.g .a 1 (0x58 + y.d.val) (if v != y.na then 1 else 0))) ∧
    (s.ctx.acts e.g 1 → e.sel.val ≤ 4 →
      (e.sel = 0 → exec (.eseq e) s = .next (s.gives e.g .e 1 (sCode e.d) (s.ctx.nextSeq.setWidth 64))) ∧
      (∀ j : Fin 4, e.sel.val = j.val + 1 → exec (.eseq e) s = .next (s.gives e.g .e 1 (sCode e.d) ((s.ctx.comp[j.val]).setWidth 64))))

/-- R105: a syllable whose guard reads false has no effect of any kind. -/
def Obligations.GuardFalseDoesNothing : Prop :=
  ∀ (i : Instr) (f : Facts) (s : State), facts i = some f → s.ctx.guard f.g = false → exec i s = .next s

/-- R80, R108: what an instruction that only gives results changes when it takes no trap: results in flight and FPSTAT's flags. -/
def Obligations.ResultFrame : Prop :=
  ∀ (i : Instr) (s t : State), resultOnly i = true → exec i s = .next t → s.noTrap t →
    (∀ a, t.mem.get a = s.mem.get a) ∧ (∀ c, c ≠ s.cur → t.core c = s.core c) ∧
    t.ctx.s = s.ctx.s ∧ t.ctx.o = s.ctx.o ∧ t.ctx.p = s.ctx.p ∧ t.ctx.lx = s.ctx.lx ∧ t.ctx.rows = s.ctx.rows ∧
    t.ctx.fpstat >>> 16 = s.ctx.fpstat >>> 16 ∧ (∃ fs, t.ctx.flight = s.ctx.flight ++ fs ∧ fs.length ≤ 2) ∧
    (∃ fl fp ra, t = s.setCtx { s.ctx with flight := fl, fpstat := fp, raised := ra })

/-- R36: an enabled flag makes the syllable raise ARITH: the flags are set, no result is put in flight. -/
def Obligations.EnabledFlagRaisesArith : Prop :=
  ∀ (s : State) (x : Bin), s.ctx.acts x.g 14 → s.ctx.faultKills x.g = false → s.ctx.src x.b = 0 → s.ctx.fpstat.getLsbD 19 = true →
    s.ctx.raised = 0 → s.ctx.trapvec.getLsbD 0 = false →
    ∃ t, exec (.div x) s = .next t ∧ t.ctx.flight = (s.ctx.settle s.now).flight ∧ t.ctx.s = (s.ctx.settle s.now).s ∧
      t.ctx.fpstat = s.ctx.fpstat ||| 8 ∧
      ∃ r st, (t.core s.cur).stop = some st ∧ st.why = .report ∧ st.rcd = some r ∧ r.cls = .arith ∧ r.slot = .m ∧ r.esw = 8 ∧
        r.pc = s.ctx.pc ∧ r.rpc = s.ctx.pc

/-- R107, R108, R110: the control transfers. `br` and `jr` pop loops, the others do not; `call` and `callr` also give the link, PC + 96.
The base updates of killed loads are undone, landed or not (`Ctx.taken`: DEDUCED, log entry 9). -/
def Obligations.Transfers : Prop :=
  ∀ (s : State) (b : Br) (j : Jr) (c : Call) (d : Callr), s.ctx.mayTransfer →
    (s.ctx.guard b.g = true → (s.ctx.bundleAt b.disp.toInt).toNat % 32 = 0 →
      exec (.br b) s = .next (s.jumps s.ctx (s.ctx.bundleAt b.disp.toInt) true)) ∧
    (s.ctx.guard j.g = true → (s.ctx.src j.a).toNat % 32 = 0 →
      exec (.jr j) s = .next (s.jumps s.ctx (s.ctx.src j.a) true) ∧
      exec (.ret j) s = .next (s.jumps s.ctx (s.ctx.src j.a) false)) ∧
    (s.ctx.acts c.g 1 → (s.ctx.bundleAt c.disp.toInt).toNat % 32 = 0 →
      exec (.call c) s = .next (s.jumps (s.gives c.g .a 1 (sCode c.link) (s.ctx.pc + 96)).ctx (s.ctx.bundleAt c.disp.toInt) false)) ∧
    (s.ctx.acts d.g 1 → (s.ctx.src d.a).toNat % 32 = 0 →
      exec (.callr d) s = .next (s.jumps (s.gives d.g .a 1 (sCode d.link) (s.ctx.pc + 96)).ctx (s.ctx.src d.a) false))

/-- R109, R110, R112: a transfer to a misaligned target takes ALIGN, one where none may be taken ILLEGAL: the five transfers, and a loop
with a count of 0. One that fails both checks takes ALIGN (DESIGN CHOICE, log entry 84). -/
def Obligations.TransferTraps : Prop :=
  ∀ (s : State) (b : Br) (j : Jr) (c : Call) (d : Callr) (x : Loop) (y : Loopi),
    let traps (i : Instr) (g : Guard) (tgt : Word) : Prop := s.ctx.guard g = true →
      (tgt.toNat % 32 ≠ 0 → exec i s = .next (s.precise g .a .align tgt.toNat)) ∧
      (tgt.toNat % 32 = 0 → ¬ s.ctx.mayTransfer → exec i s = .next (s.precise g .a .illegal 0))
    let e (disp : BitVec 16) := s.ctx.bundleAt disp.toInt
    let fits (disp : BitVec 16) : Prop :=
      1 ≤ disp.toInt ∧ s.ctx.loops.length < 4 ∧ ∀ l, s.ctx.loops.head? = some l → (e disp).toNat ≤ l.fin.toNat
    traps (.br b) b.g (s.ctx.bundleAt b.disp.toInt) ∧ traps (.jr j) j.g (s.ctx.src j.a) ∧ traps (.ret j) j.g (s.ctx.src j.a) ∧
    traps (.call c) c.g (s.ctx.bundleAt c.disp.toInt) ∧ traps (.callr d) d.g (s.ctx.src d.a) ∧
    (fits x.disp → ((s.ctx.src x.a).setWidth 32).toNat = 0 → traps (.loop x) x.g (e x.disp + 32)) ∧
    (fits y.disp → y.n = 0 → traps (.loopi y) y.g (e y.disp + 32))

/-- R111, R112: `loop` and `loopi` open a loop of the body that ends `disp` bundles ahead; with a count of 0 they are a transfer past
it, which undoes the base updates of the loads that it kills (`Ctx.taken`: DEDUCED, log entry 9); with no room, a body that ends before
the next bundle or beyond the enclosing one, they take ILLEGAL. -/
def Obligations.LoopsOpen : Prop :=
  ∀ (s : State) (x : Loop) (y : Loopi),
    let e (disp : BitVec 16) := s.ctx.bundleAt disp.toInt
    let fits (disp : BitVec 16) : Prop :=
      1 ≤ disp.toInt ∧ s.ctx.loops.length < 4 ∧ ∀ l, s.ctx.loops.head? = some l → (e disp).toNat ≤ l.fin.toNat
    let opened (disp : BitVec 16) (n : Nat) : Out :=
      .next (s.setCtx { s.ctx with loops := { start := s.ctx.pc + 32, fin := e disp, count := n } :: s.ctx.loops })
    (s.ctx.guard x.g = true → fits x.disp →
      (((s.ctx.src x.a).setWidth 32).toNat ≠ 0 → exec (.loop x) s = opened x.disp ((s.ctx.src x.a).setWidth 32).toNat) ∧
      (((s.ctx.src x.a).setWidth 32).toNat = 0 → s.ctx.mayTransfer → (e x.disp + 32).toNat % 32 = 0 →
        exec (.loop x) s = .next (s.jumps s.ctx (e x.disp + 32) false))) ∧
    (s.ctx.guard y.g = true → fits y.disp → (y.n ≠ 0 → exec (.loopi y) s = opened y.disp y.n.toNat) ∧
      (y.n = 0 → s.ctx.mayTransfer → (e y.disp + 32).toNat % 32 = 0 → exec (.loopi y) s = .next (s.jumps s.ctx (e y.disp + 32) false))) ∧
    (s.ctx.guard x.g = true → ¬ fits x.disp → exec (.loop x) s = .next (s.precise x.g .a .illegal 0)) ∧
    (s.ctx.guard y.g = true → ¬ fits y.disp → exec (.loopi y) s = .next (s.precise y.g .a .illegal 0))

/-- R52, R107, R113: where the context goes after its bundle: through the two delay bundles to the target, back to the start of the
innermost loop at its end, out of it when its count is used up, where the loop around it is then tested in its turn, else to the next
bundle. The loop test is made of every bundle, also while a transfer is pending. After `end` the context stays (R126). When the target
of a `br` or `jr` issues, the innermost loops that do not hold it are left, up to the first that does. -/
def Obligations.AfterABundle : Prop :=
  (∀ (x : Ctx), x.ended ≠ none → x.advance.pc = x.pc ∧ x.advance.loops = x.loops ∧ x.advance.xfer = x.xfer ∧ x.advance.ended = x.ended) ∧
  (∀ (x : Ctx) (t : Xfer), x.xfer = some t →
    (t.left ≠ 0 → x.toIssue.xfer = some t ∧ x.toIssue.loops = x.loops) ∧
    (t.left = 0 → x.toIssue.xfer = none ∧ (t.pops = false → x.toIssue.loops = x.loops) ∧
      (t.pops = true → ∃ out, x.loops = out ++ x.toIssue.loops ∧ (∀ e ∈ out, ¬ (e.start ≤ t.tgt ∧ t.tgt ≤ e.fin)) ∧
        ∀ e, x.toIssue.loops.head? = some e → e.start ≤ t.tgt ∧ t.tgt ≤ e.fin))) ∧
  ∀ (x : Ctx), x.ended = none →
    (∀ t, x.xfer = some t → x.advance.loops = ({ x with xfer := none } : Ctx).advance.loops) ∧
    (∀ t, x.xfer = some t → x.kpos = some 0 → x.advance.pc = x.pc + 32 ∧ x.advance.xfer = some t) ∧
    (∀ t, x.xfer = some t → x.kpos ≠ some 0 → t.left = 2 → x.advance.pc = x.pc + 32 ∧ x.advance.xfer = some { t with left := 1 }) ∧
    (∀ t, x.xfer = some t → x.kpos ≠ some 0 → t.left = 1 → x.advance.pc = t.tgt ∧ x.advance.xfer = some { t with left := 0 }) ∧
    (x.xfer = none → x.loops = [] → x.advance.pc = x.pc + 32) ∧
    (∀ e r, x.xfer = none → x.loops = e :: r → x.pc ≠ e.fin → x.advance.pc = x.pc + 32 ∧ x.advance.loops = x.loops) ∧
    (∀ e r, x.xfer = none → x.loops = e :: r → x.pc = e.fin → 1 < e.count →
      x.advance.pc = e.start ∧ x.advance.loops = { e with count := e.count - 1 } :: r) ∧
    (∀ e r, x.xfer = none → x.loops = e :: r → x.pc = e.fin → e.count ≤ 1 →
      x.advance = ({ x with loops := r } : Ctx).advance ∧
      ((∀ f, r.head? = some f → f.fin ≠ x.pc) → x.advance.pc = x.pc + 32 ∧ x.advance.loops = r))

/-- R80, R82: when a result lands: its latch, and an operand-file, predicate or row destination, at `fin`; a main-file destination for
bundles that issue two cycles after it. Nothing lands before `fin`, or on a stopped core, of which a result that the resumed bundle
reads in the main file reaches it at once (R83). -/
def Obligations.ResultsLand : Prop :=
  ∀ (s : State) (c : CoreId) (f : Flight) (t0 : Nat),
    let x := s.ctxOf c
    (∀ st, (s.core c).stop = some st → x.tokDue = [] → exec (.resultLand c) s = .next s) ∧
    (x.flight = [f] → x.settle t0 = if f.landed = true ∧ f.fin + 2 ≤ t0 then ({ x with flight := [] } : Ctx).deliver f else x) ∧
    ((s.core c).stop = none → x.flight = [f] → x.tokDue = [] → x.undo = [] → f.landed = false →
      (s.now < f.fin → ∃ y, exec (.resultLand c) s = .next (s.setCtxOf c y) ∧ y = { x with rowsIn := y.rowsIn }) ∧
      (f.fin ≤ s.now → ∃ t, exec (.resultLand c) s = .next t ∧
        (f.latch = true → (t.ctxOf c).lx[(Slot.ix f.slot).val] = f.val) ∧
        (f.latch = false → (t.ctxOf c).lx = x.lx) ∧
        (t.ctxOf c).fpstat = x.fpstat ||| f.flags.setWidth 64 ∧
        (∀ i : Fin 64, i ≠ 0 → f.code = i.val → s.now < f.fin + 2 → (t.ctxOf c).s = x.s ∧ (t.ctxOf c).flight ≠ []) ∧
        (∀ i : Fin 64, i ≠ 0 → f.code = i.val → f.fin + 2 ≤ s.now →
          (t.ctxOf c).rs i = f.val ∧ (∀ j, j ≠ i → (t.ctxOf c).rs j = x.rs j) ∧ (t.ctxOf c).flight = []) ∧
        (∀ i : Fin 8, f.code = 0x40 + i.val → (t.ctxOf c).o[i.val] = f.val ∧ (t.ctxOf c).s = x.s) ∧
        (∀ i : Fin 8, i ≠ 0 → f.code = 0x58 + i.val → (t.ctxOf c).pr i = (f.val != 0)) ∧
        (∀ (i : Fin 128) (r : Row), f.code = 0x80 + i.val → f.row = some r →
          (t.ctxOf c).row i = r ∧ ∀ j, j ≠ i → (t.ctxOf c).row j = x.row j) ∧
        (f.code = 0 ∨ f.code = 0x58 → (t.ctxOf c).s = x.s ∧ (t.ctxOf c).o = x.o ∧ (t.ctxOf c).p = x.p ∧ (t.ctxOf c).rows = x.rows)))

/-- R59, R82: s0 reads zero, p0 reads true; a write to code 0x00 or to p0 changes no register. -/
def Obligations.HardwiredRegisters : Prop :=
  ∀ (x : Ctx) (v : Word) (r : Option Row),
    x.src (.s 0) = 0 ∧ x.pr 0 = true ∧ x.write 0 v r = x ∧ x.write 0x58 v r = x ∧ (x.write 0 v r).src (.s 0) = 0

/-- R128: bytes read back as written, and a write changes no other byte and keeps the canonical form. -/
def Obligations.ReadAfterWrite : Prop :=
  ∀ (m : Memory) (a : Nat) (bs : List Byte), m.wf = true →
    (∀ i, (h : i < bs.length) → (m.write a bs).get (a + i) = bs[i]) ∧
    (∀ b, b < a ∨ a + bs.length ≤ b → (m.write a bs).get b = m.get b) ∧
    (m.write a bs).wf = true ∧ (m.write a bs).read a bs.length = bs

/-- R146 to R149: `ld` and `ldn` of the own core's buffers wait for their port cycle, which gives the extended bytes that then stand
at the address; an uncorrectable error there writes nothing. With post-increment the base follows. -/
def Obligations.LocalLoads : Prop :=
  (∀ (s : State) (x : Load), s.ctx.acts x.g 4 →
    let w := accW x.t x.dw
    let addr := accAddr (s.ctx.src x.a) x.off x.pi
    s.ctx.letsIn x.sp addr w false →
      let t := s.queuing (s.portOp .m x.sp (.load addr w x.t x.dw)) 1
        (loadFlights s.now x.g x.d s.ctx.nextPort x.pi x.a (s.ctx.src x.a + x.off.signExtend 64))
      exec (.ld x) s = .next t ∧ exec (.ldn x) s = .next t) ∧
  ∀ (s : State) (c : CoreId) (o : PortOp) (f : Flight) (off w : Nat) (t : ETy) (dw : Bool), s.mem.wf = true → s.performs c o →
    o.act = .load off w t dw → (s.ctxOf c).frameFl = [] → (s.ctxOf c).flight = [f] → f.pid = o.pid → o.pid ≠ 0 →
    let a := bufKey c o.sp off
    (s.sound a w → s.portStep c = s.setCtxOf c { s.ctxOf c with
      portQ := [], flight := [{ f with val := extended t dw (s.mem.num a w), row := none }] }) ∧
    (¬ s.sound a w → (s.ctxOf c).undo = [] → ∃ p, p.addr = off ∧ s.loadFails (s.portStep c) c o f p)

/-- R129, R130, R147: an access the buffers refuse takes ALIGN when misaligned, else BUFFER; `ldn` gives 0 instead. -/
def Obligations.LocalAccessTraps : Prop :=
  ∀ (s : State) (x : Load) (y : Store),
    (s.ctx.guard x.g = true →
      let w := accW x.t x.dw
      let addr := accAddr (s.ctx.src x.a) x.off x.pi
      (addr % w ≠ 0 → exec (.ld x) s = .next (s.precise x.g .m .align addr)) ∧
      (addr % w = 0 → ¬ s.ctx.letsIn x.sp addr w false → exec (.ld x) s = .next (s.precise x.g .m .buffer addr)) ∧
      (¬ s.ctx.letsIn x.sp addr w false → s.ctx.kills x.g 4 = false → exec (.ldn x) s = .next (s.setCtx
        { s.ctx with flight := s.ctx.flight ++ [{ fin := s.now + 4, born := s.now, code := sCode x.d, slot := .m, val := 0, sq := x.g.sq }] }))) ∧
    (s.ctx.guard y.g = true →
      let w := accW y.t y.dw
      let addr := accAddr (s.ctx.src y.a) y.off y.pi
      (addr % w ≠ 0 → exec (.st y) s = .next (s.precise y.g .m .align addr)) ∧
      (addr % w = 0 → ¬ s.ctx.letsIn y.sp addr w true → exec (.st y) s = .next (s.precise y.g .m .buffer addr)))

/-- R147 to R149, R206: `st` waits for its port cycle, which writes the low bytes of its source at the address and nothing else, with
fresh check bits; with post-increment the base follows. In the port cycle of any store each byte takes the bits that its pieces give it,
in their order, and a word that is written whole takes fresh check bits. -/
def Obligations.LocalStores : Prop :=
  (∀ (s : State) (x : Store), s.ctx.acts x.g 1 →
    let w := accW x.t x.dw
    let addr := accAddr (s.ctx.src x.a) x.off x.pi
    let a := bufKey s.cur x.sp addr
    s.ctx.letsIn x.sp addr w true →
      let o := s.portOp .m x.sp (.store true [wholePiece addr w (s.ctx.src x.d).toNat])
      exec (.st x) s = .next (s.queuing o 0 (if x.pi then
        [{ fin := s.now + 1, born := s.now, code := srcCode x.a, slot := .m, val := s.ctx.src x.a + x.off.signExtend 64, sq := x.g.sq }] else [])) ∧
      ∀ (u : State), u.mem.wf = true → u.performs s.cur o →
        let t := u.portStep s.cur
        t.mem.num a w = (s.ctx.src x.d).toNat % 256 ^ w ∧ bytesKept u t a w ∧ t.sound a w ∧ (t.ctxOf s.cur).flight = (u.ctxOf s.cur).flight ∧
        (t.ctxOf s.cur).s = (u.ctxOf s.cur).s) ∧
  ∀ (s : State) (c : CoreId) (o : PortOp) (fresh : Bool) (ps : List Piece), s.mem.wf = true → s.performs c o → o.act = .store fresh ps →
    let base := bufKey c o.sp 0
    let t := s.portStep c
    (∀ b, t.mem.get b = putByte ps base b (s.mem.get b)) ∧ (t.ctxOf c).portQ = [] ∧ (t.ctxOf c).flight = (s.ctxOf c).flight ∧
    (∀ w ∈ t.ecc, w ∈ s.ecc ∧ (w < base ∨ ∃ i < 8, coversByte ps (w - base + i) = false)) ∧
    (fresh = true → ∀ p ∈ ps, t.sound (base + p.off) p.n)

/-- R157: `pushm` stores `n` registers from the first at SP and moves SP up; `popm` reads them back, as results of latency
3 + ceil(n/8), and moves SP down, each in its port cycle; both hold the next bundles for ceil(n/8) cycles. Outside the stack they take
BUFFER. A word marked uncorrectable is read by `popm` as it stands (DESIGN CHOICE, log entry 77). -/
def Obligations.StackMultiple : Prop :=
  (∀ (s : State) (x : Multi), s.ctx.guard x.g = true → x.g.sq = false → 1 ≤ x.n.val → x.f.val + x.n.val ≤ 0x48 →
    let sp := s.ctx.sp.toNat
    let n := x.n.val
    sp % 8 = 0 →
    (0x8000 ≤ sp → sp + 8 * n ≤ 0x3FFF8 →
      let o := s.portOp .m .jb (.store false ((List.range n).map (fun i => wholePiece (sp + 8 * i) 8 (s.ctx.regAt (x.f.val + i)).toNat)))
      (∃ t, exec (.pushm x) s = .next t ∧ t.ctx.sp.toNat = sp + 8 * n ∧ s.regsKept t ∧ t.ctx.flight = s.ctx.flight ∧ t.mem = s.mem ∧
        t.ctx.portQ = s.ctx.portQ ++ [o] ∧ s.now + (n + 7) / 8 ≤ (t.core s.cur).holdUntil) ∧
      ∀ (u : State), u.mem.wf = true → u.performs s.cur o →
        let t := u.portStep s.cur
        (∀ i, i < n → t.mem.num (bufKey s.cur .jb (sp + 8 * i)) 8 = (s.ctx.regAt (x.f.val + i)).toNat) ∧
        bytesKept u t (bufKey s.cur .jb sp) (8 * n)) ∧
    (0x8000 + 8 * n ≤ sp → sp ≤ 0x3FFF8 →
      ∃ t, exec (.popm x) s = .next t ∧ t.ctx.sp.toNat = sp - 8 * n ∧ s.regsKept t ∧ t.mem = s.mem ∧
        t.ctx.portQ = s.ctx.portQ ++ [s.portOp .m .jb (.pop (sp - 8 * n) n)] ∧ t.ctx.nextPort = s.ctx.nextPort + n ∧
        t.ctx.flight = s.ctx.flight ++ (List.range n).map (fun i =>
          ({ fin := s.now + (3 + (n + 7) / 8), born := s.now, code := x.f.val + i, slot := .m, val := 0, latch := false,
             pid := s.ctx.nextPort + i } : Flight)) ∧
        s.now + (n + 7) / 8 ≤ (t.core s.cur).holdUntil) ∧
    (sp < 0x8000 ∨ 0x3FFF8 < sp + 8 * n → exec (.pushm x) s = .next (s.precise x.g .m .buffer sp)) ∧
    (sp < 0x8000 + 8 * n → exec (.popm x) s = .next (s.precise x.g .m .buffer sp))) ∧
  ∀ (s : State) (c : CoreId) (o : PortOp) (off n : Nat) (fl : Nat → Flight), s.mem.wf = true → s.performs c o → o.act = .pop off n →
    (s.ctxOf c).frameFl = [] → (s.ctxOf c).flight = (List.range n).map fl → (∀ i, i < n → (fl i).pid = o.pid + i) →
    s.portStep c = s.setCtxOf c { s.ctxOf c with
      portQ := []
      flight := (List.range n).map (fun i => { fl i with val := BitVec.ofNat 64 (s.mem.num (bufKey c o.sp (off + 8 * i)) 8), row := none }) }

/-- R154 to R156: the atomics on the own core's buffers wait for their port cycle, in which the bank ALU reads, modifies and writes in
one; the old contents reach the token 6 ck after issue. An uncorrectable error leaves memory as it is and marks the token. -/
def Obligations.LocalAtomics : Prop :=
  (∀ (s : State) (x : Atom), s.ctx.guard x.g = true → x.sp ≠ .g →
    let w := accW x.t x.dw
    let addr := (s.ctx.src x.a).toNat
    s.ctx.letsIn x.sp addr w true →
      let does (i : Instr) (op : AOp) : Prop := ∃ t, exec i s = .next t ∧
        t.ctx.portQ = s.ctx.portQ ++ [s.portOp .m x.sp (.atom op addr w (s.ctx.src x.b).toNat (s.ctx.src x.c).toNat x.t x.dw x.tok)] ∧
        s.regsKept t ∧ t.mem = s.mem ∧ t.ctx.flight = s.ctx.flight ∧ t.ctx.tokDue = s.ctx.tokDue ∧
        (x.tok ≠ 0 → x.tok ∈ t.ctx.toks) ∧ (x.tok = 0 → t.ctx.toks = s.ctx.toks)
      does (.aadd x) .add ∧ does (.aand x) .and ∧ does (.aor x) .or ∧ does (.axor x) .xor ∧ does (.amin x) .min ∧ does (.amax x) .max ∧
      does (.aminn x) .minn ∧ does (.amaxn x) .maxn ∧ does (.axchg x) .xchg ∧ does (.acas x) .cas ∧ does (.afadd x) .fadd ∧
      does (.afmax x) .fmax) ∧
  ∀ (s : State) (c : CoreId) (o : PortOp) (op : AOp) (off w b d : Nat) (ty : ETy) (dw : Bool) (tok : Tok), s.mem.wf = true →
    s.performs c o → o.act = .atom op off w b d ty dw tok → (op = .fadd ∨ op = .fmax → w = 4) →
    let a := bufKey c o.sp off
    let old := s.mem.num a w
    let t := s.portStep c
    (s.sound a w →
      t.mem.num a w = rmw op w old b d % 256 ^ w ∧ bytesKept s t a w ∧ (t.ctxOf c).flight = (s.ctxOf c).flight ∧
      (t.ctxOf c).s = (s.ctxOf c).s ∧
      (tok ≠ 0 → (t.ctxOf c).tokDue = (s.ctxOf c).tokDue ++ [(o.at_ + 4, tok, extended ty dw old)]) ∧
      (tok = 0 → (t.ctxOf c).tokDue = (s.ctxOf c).tokDue)) ∧
    (¬ s.sound a w → t.mem = s.mem ∧ (tok ≠ 0 → tok ∉ (t.ctxOf c).toks) ∧
      ∃ p, (t.ctxOf c).pend = (s.ctxOf c).pend ++ [p] ∧ p.cls = .ecc ∧ p.addr = off ∧ p.tok = tok)

/-- R150 to R156: a global access whose address translates goes out; `prf` moves nothing; `fence` writes nothing. A check that fails is
the access's precise trap, and nothing for `prf`, whose page is checked as for a read (DESIGN CHOICE, log entry 78). R150, R366: what
the check asks, in its order (the alignment first: DEDUCED, log entry 19): the alignment, the translation, and the kinds that an access
may reach; an offset of another node's queues is checked by the layout (DEDUCED, log entry 109). -/
def Obligations.GlobalAccesses : Prop :=
  (∀ (s u : State) (va n pa : Nat) (k : AccK) (cls : TrapClass),
    (va % n ≠ 0 → s.gCheck va n k = (s, .error .align)) ∧
    (va % n = 0 → s.xlate s.cur va n k = (u, .error cls) → s.gCheck va n k = (u, .error cls)) ∧
    (va % n = 0 → s.xlate s.cur va n k = (u, .ok pa) →
      let kind := paKind pa
      let far : Prop := paNode pa ≠ u.nodeId
      let ctl : Prop := kind = 5
      let pass : Prop := s.gCheck va n k = (u, .ok pa)
      let fail (cls : TrapClass) : Prop := s.gCheck va n k = (u, .error cls)
      (kind = 2 ∨ kind = 3 → fail .buffer) ∧ (kind = 4 → k ≠ .wr → fail .buffer) ∧ (kind = 4 → k = .wr → pass) ∧
      (k = .at → kind ≠ 0 ∨ far → fail .buffer) ∧ (k = .at → kind = 0 → ¬ far → pass) ∧
      (k ≠ .at → ctl → far → (ctlRow (paOff pa) n k = some true → pass) ∧ (ctlRow (paOff pa) n k ≠ some true → fail .buffer)) ∧
      (k ≠ .at → ctl → ¬ far → (ctlRow (paOff pa) n k = none → fail .buffer) ∧
        ∀ ok, ctlRow (paOff pa) n k = some ok → (u.ctlOwner (paOff pa) ≠ u.ctx.fn.val → fail .access) ∧
          (u.ctlOwner (paOff pa) = u.ctx.fn.val → (ok = true → pass) ∧ (ok = false → fail .buffer))) ∧
      (k ≠ .at → kind < 2 ∨ 5 < kind → pass))) ∧
  ∀ (s u : State) (x : GLoad) (y : Store) (z : Atom) (f : Fence) (pa : Nat) (cls : TrapClass),
    let va := (s.ctx.src x.a + x.off.signExtend 64).toNat
    let vb := (s.ctx.src y.a + y.off.signExtend 64).toNat
    let vc := (s.ctx.src z.a).toNat
    (s.ctx.guard x.g = true →
      (s.gCheck va (accW x.t x.dw) .rd = (u, .ok pa) →
        ∃ t, exec (.ldg x) s = .next t ∧ s.issued t (.ldg x) va pa (accW x.t x.dw) x.oc.val x.tok) ∧
      (s.gCheck va (accW x.t x.dw) .rd = (u, .error cls) → exec (.ldg x) s = .next (u.precise x.g .m cls va)) ∧
      (s.xlate s.cur va 1 .rd = (u, .ok pa) → exec (.prf x) s = .next u ∧ s.regsKept u ∧ u.mem = s.mem ∧ u.ctx.gacc = s.ctx.gacc) ∧
      (s.xlate s.cur va 1 .rd = (u, .error cls) → exec (.prf x) s = .next s)) ∧
    (s.ctx.guard y.g = true →
      (s.gCheck vb (accW y.t y.dw) .wr = (u, .ok pa) →
        ∃ t, exec (.stg y) s = .next t ∧ s.issued t (.stg y) vb pa (accW y.t y.dw) y.oc.val 0) ∧
      (s.gCheck vb (accW y.t y.dw) .wr = (u, .error cls) → exec (.stg y) s = .next (u.precise y.g .m cls vb))) ∧
    (s.ctx.guard z.g = true → z.sp = .g → s.gCheck vc (accW z.t z.dw) .at = (u, .ok pa) →
      let goes (i : Instr) : Prop := ∃ t, exec i s = .next t ∧ s.issued t i vc pa (accW z.t z.dw) z.oc.val z.tok
      goes (.aadd z) ∧ goes (.aand z) ∧ goes (.aor z) ∧ goes (.axor z) ∧ goes (.amin z) ∧ goes (.amax z) ∧ goes (.aminn z) ∧
      goes (.amaxn z) ∧ goes (.axchg z) ∧ goes (.acas z) ∧ goes (.afadd z) ∧ goes (.afmax z)) ∧
    (s.ctx.guard z.g = true → z.sp = .g → s.gCheck vc (accW z.t z.dw) .at = (u, .error cls) →
      ∀ i ∈ [Instr.aadd z, .aand z, .aor z, .axor z, .amin z, .amax z, .aminn z, .amaxn z, .axchg z, .acas z, .afadd z, .afmax z],
        exec i s = .next (u.precise z.g .m cls vc)) ∧
    exec (.fence f) s = .next s

/-- R151, R152, R155: the answers of global accesses. A load's token gets the extended bytes; a store's bytes land; an atomic does both,
in one; each access performs once, after the earlier ones of its class. A failure marks the token, or is recorded for the store. -/
def Obligations.GlobalReturns : Prop :=
  ∀ (s : State) (a : AccAns) (g : GAcc) (bs : List Byte) (cls : TrapClass), s.acc? a = some g →
    let c := a.core
    let gone (t : State) : Prop := (t.ctxOf c).gacc = (s.ctxOf c).gacc.filter (fun h => h.id != a.id)
    (∀ x, g.ins = .ldg x →
      (s.gRead g.pa g.width a.ans = .ok bs → ∃ t, exec (.ldgReturn a) s = .next t ∧ gone t ∧ tokenGot s t c x.tok (accExt x.t x.dw (leNat bs)) ∧
        t.mem = s.mem ∧ ∀ d, d ≠ c → t.core d = s.core d) ∧
      (s.gRead g.pa g.width a.ans = .error cls → ∃ t, exec (.ldgReturn a) s = .next t ∧ gone t ∧ (t.ctxOf c).s = (s.ctxOf c).s ∧
        g.tok ∉ (t.ctxOf c).toks ∧ ∃ p, (t.ctxOf c).pend = (s.ctxOf c).pend ++ [p] ∧ p.cls = cls ∧ p.pc = g.pc ∧ p.tok = g.tok ∧ p.addr = g.va)) ∧
    (∀ x, g.ins = .stg x → paNode g.pa = s.nodeId → paKind g.pa < 2 → ∃ t, exec (.stgAck a) s = .next t ∧ gone t ∧
      t.mem.num (paKey g.pa) g.width = g.b.toNat % 256 ^ g.width ∧ bytesKept s t (paKey g.pa) g.width ∧ (t.ctxOf c).s = (s.ctxOf c).s) ∧
    (∀ x, g.ins = .stg x → paNode g.pa ≠ s.nodeId → a.ans = .fail cls → ∃ t, exec (.stgAck a) s = .next t ∧ gone t ∧ t.mem = s.mem ∧
      ∃ p, (t.ctxOf c).pend = (s.ctxOf c).pend ++ [p] ∧ p.cls = cls ∧ p.pc = g.pc ∧ p.store = true) ∧
    (∀ op x, atomOf g.ins = some (op, x) → s.gRead g.pa g.width (.ok []) = .ok bs → ∃ t, exec (.globalAtomicReturn a) s = .next t ∧ gone t ∧
      tokenGot s t c x.tok (accExt x.t x.dw (leNat bs)) ∧ bytesKept s t (paKey g.pa) g.width ∧
      t.mem.num (paKey g.pa) g.width = op.apply g.width (leNat bs) g.b.toNat g.c.toNat % 256 ^ g.width)

/-- R138, R141 to R144, R305: walks, spaces, laps, retries and window units. A retry may take a space that begins in the very cycle
(DESIGN CHOICE, log entry 79). R133, R135 to R137: what a walk reads from the tables of this node, level by level, and what the
translation of an address makes of it. -/
def Obligations.TracksAndWindows : Prop :=
  (∀ (s : State) (va tab n : Nat), n < 5 →
    let lvl := n + 1
    let idx := bits va (12 + 9 * n) 9
    let entry (i : Nat) : Nat := s.mem.num (key 0 (paOff tab + 8 * i)) 8
    let e := entry idx
    let grp := if lvl = 3 then 4 else 16
    let e1 := entry (idx / grp * grp)
    let bad (e : Nat) : Prop := bit e 0 = false ∨ bits e 57 7 ≠ 0 ∨ bits e 8 4 ≠ 0
    let pa (e : Nat) : Nat := bits e 12 45 * 2 ^ 12
    let leaf (e size : Nat) : TlbEnt :=
      { va := va / size * size, size, pa := pa e, fn := 0, asid := 0, g := bit e 6, cf := bit e 5, x := bit e 4, w := bit e 3, r := bit e 2 }
    let none' : Prop := s.walkFrom va lvl tab = none
    (paKind tab ≠ 0 → none') ∧
    (paKind tab = 0 → paNode tab = s.nodeId →
      (¬ s.sound (key 0 (paOff tab + 8 * idx)) 8 → none') ∧
      (s.sound (key 0 (paOff tab + 8 * idx)) 8 →
        (bad e → none') ∧
        (¬ bad e → bit e 1 = false → (bit e 7 = true ∨ lvl = 1 → none') ∧
          (bit e 7 = false → s.walkFrom va lvl tab = s.walkFrom va n (pa e))) ∧
        (¬ bad e → bit e 1 = true →
          (4 ≤ lvl ∨ (lvl = 2 ∧ bit e 7 = true) → none') ∧
          (lvl < 4 → bit e 7 = false → let size := 2 ^ (12 + 9 * n)
            (pa e % size ≠ 0 → none') ∧ (pa e % size = 0 → s.walkFrom va lvl tab = some (leaf e size))) ∧
          (lvl = 3 ∨ lvl = 1 → bit e 7 = true → let size := if lvl = 3 then 2 ^ 32 else 2 ^ 16
            let ok : Prop := ¬ bad e1 ∧ bit e1 1 = true ∧ bit e1 7 = true ∧ pa e1 % size = 0 ∧ s.sound (key 0 (paOff tab + 8 * (idx / grp * grp))) 8
            (ok → s.walkFrom va lvl tab = some (leaf e1 size)) ∧ (¬ ok → none')))))) ∧
  (∀ (s : State) (c : CoreId) (va n : Nat) (k : AccK) (e : TlbEnt),
    let x := s.ctxOf c
    let leaf : Prop := s.tlbHit c va = some e ∨ (s.tlbHit c va = none ∧ s.walk x.root x.tfn x.asid va = some e)
    let lets : Prop := (e.cf = true → x.conf = true) ∧
      match k with | .rd => e.r = true | .wr => e.w = true | .at => e.r = true ∧ e.w = true | .fetch => e.x = true
    (2 ^ 57 ≤ va → s.xlate c va n k = (s, .error .page)) ∧
    (va < 2 ^ 57 → s.tlbHit c va = none → s.walk x.root x.tfn x.asid va = none → s.xlate c va n k = (s, .error .page)) ∧
    (va < 2 ^ 57 → leaf → (¬ lets → (s.xlate c va n k).2 = .error .access) ∧
      (lets → (∀ cls, s.physFault x.fn.val (e.pa + va % e.size) n = some cls → (s.xlate c va n k).2 = .error cls) ∧
        (s.physFault x.fn.val (e.pa + va % e.size) n = none → (s.xlate c va n k).2 = .ok (e.pa + va % e.size))))) ∧
  ∀ (s : State) (ch : Fin 512) (i j b : Nat) (h : Fin 64) (c : CoreId) (r : TrackReq) (u : WinUnit) (w : Walk),
    (s.now % 4 = 0 → s.ownerOf ch.val s.space = some c → s.firstReq ch.val c.val false = some i → s.tracks[i]? = some r →
      exec (.trackSpace ch) s = .next { s with tracks := s.tracks.set i { r with served := some s.now, due := some (s.now + s.latD c ch.val) } }) ∧
    (s.now % 4 = 0 → s.ownerOf ch.val s.space = none → s.nextBorrower ch.val = some (b, i) → s.tracks[i]? = some r →
      exec (.trackSpace ch) s = .next { s with
        tracks := s.tracks.set i { r with served := some s.now }
        turn := (ch.val, b) :: s.turn.filter (fun t => t.1 != ch.val) }) ∧
    (s.now % 256 ≠ 0 → exec .trackLapBoundary s = .next s) ∧
    (s.now % 256 = 0 → ∃ t, exec .trackLapBoundary s = .next t ∧ t.pendOwners = [] ∧ t.pendD = [] ∧
      (∀ a l, s.pendOwners = [(a, l)] → t.owners = s.owners.filter (fun x => x.1 != a) ++ l.map (fun q => (a, q.1, q.2))) ∧
      (s.pendOwners = [] → t.owners = s.owners) ∧
      ((s.pendD.map Prod.fst).Nodup → ∀ c ch, t.latD c ch = match s.pendD.find? (fun p => p.1 == 512 * c.val + ch) with
        | some p => p.2
        | none => s.latD c ch) ∧
      ∀ (i : Nat) (r : TrackReq), s.tracks[i]? = some r → t.tracks[i]? = some (if r.borrowed = false ∧ r.served = none ∧ t.owners.all (fun o => o.1 != r.chan || o.2.2 != r.core) = true
        then { r with borrowed := true } else r)) ∧
    (∀ id t0, s.tracks[i]? = some r → r.served = some t0 → r.due = none → r.src = .acc id ∨ r.src = .walk id → h ≠ 0 →
      ∃ t e, exec (.refreshRetry i h) s = .next t ∧ t.tracks = e :: s.tracks.eraseIdx i ∧ e.served = none ∧ e.borrowed = true ∧ e.head = true ∧
        s.now ≤ e.ready ∧ e.ready < s.now + 256 ∧ e.ready % 4 = 0 ∧ e.ready % 256 / 4 = (t0 % 256 / 4 + h.val) % 64) ∧
    (∀ f, s.winUnits[i]? = some u → u.src = .gone f → s.winHeld u = false → s.winRefused u = false →
      ∃ t, exec (.windowUnitLand i) s = .next t ∧ t.winUnits = s.winUnits.eraseIdx i ∧ t.cores = s.cores ∧
        (u.data.length = 64 → ∀ k ∈ u.targets, ∀ b, u.data[j]? = some (some b) →
          t.mem.get (bufKey k u.buf (winOff (s.ctxOf k) u) + j) = b)) ∧
    (s.walks[i]? = some w → s.walkOver w = true → ∃ t, exec (.pageWalkDone i) s = .next t ∧ t.walks = s.walks.eraseIdx i ∧ t.mem = s.mem ∧
      ((s.core c).busy = true → (s.ctxOf c).tfn = w.fn → (s.ctxOf c).asid = w.asid → (s.core c).xlat = some (w.page, none) →
        (t.core c).xlat = some (w.page, some s.now) ∧ (t.core c).ctx = (s.core c).ctx))

/-- R119, R120: a sequencer `wait` whose conditions are well formed begins, with its deadline; one with a malformed condition takes
ILLEGAL, also where another condition names a flag outside the granted range (DESIGN CHOICE, log entry 84), and well-formed ones that
name such a flag take ACCESS. -/
def Obligations.WaitsBegin : Prop :=
  ∀ (s : State) (x : Wait), s.ctx.guard x.g = true →
    let ws := s.ctx.condWords x.a x.n
    ((∀ w ∈ ws, condOk w = true) → (∀ w ∈ ws, condKind w = 0 → s.flagOk s.ctx.fn.val (condObj w) = true) →
      ∃ w, exec (.wait x) s = .next (s.setCtx { s.ctx with wait := some w }) ∧ w.conds = ws ∧ w.all = x.all ∧ w.tt = x.tt ∧ w.d = x.d ∧
        w.deadline = s.now + 30 * ((s.ctx.src x.b).setWidth 32).toNat ∧ w.pc = s.ctx.pc ∧ w.start = s.now) ∧
    (∀ w ∈ ws, condOk w = false → exec (.wait x) s = .next (s.precise x.g .e .illegal 0)) ∧
    ((∀ w ∈ ws, condOk w = true) → ∀ w ∈ ws, condKind w = 0 → s.flagOk s.ctx.fn.val (condObj w) = false →
      exec (.wait x) s = .next (s.precise x.g .e .access 0))

/-- R119: what each kind of condition asks. -/
def Obligations.ConditionsHold : Prop :=
  ∀ (s : State) (c : CoreId) (w : Word),
    let obj := (w.extractLsb' 0 10).toNat
    let val := (w.extractLsb' 32 32).toNat
    let cmp := (w.extractLsb' 26 3).toNat
    let kind := (w.extractLsb' 29 3).toNat
    (kind = 0 → (h : obj < 512) → let f := s.flags[obj].toNat
      (s.cond c w = true ↔ match cmp with | 0 => f = val | 1 => f ≠ val | 2 => f < val | 3 => val ≤ f | 4 => val < f | _ => f ≤ val)) ∧
    (kind = 1 → (h : obj < 64) → (s.cond c w = true ↔ (⟨obj, h⟩ : Tok) ∉ (s.ctxOf c).toks)) ∧
    (kind = 2 → (s.cond c w = true ↔ ∀ m ∈ (s.ctxOf c).cmds, m.done = false → m.aside = false → Eng.code m.eng = obj →
      ¬ (BitVec.ofNat 32 val - m.seq).toNat < 2 ^ 31)) ∧
    (kind = 3 → (h : obj < 16) → (s.cond c w = true ↔ (s.ctxOf c).joins[obj].pend = 0)) ∧
    (kind = 4 → (h : obj < 32) → (s.cond c w = true ↔ s.eqs[obj].rel.toNat < s.eqs[obj].put.toNat))

/-- R120: the wait of the context on a core ends when its conditions hold, with their bits as its result, or at the deadline with the
time-out bit; a wait with `.tt` then takes TIMEOUT, after its bundle. -/
def Obligations.WaitsEnd : Prop :=
  ∀ (s : State) (c : CoreId) (w : WaitSt), (s.ctxOf c).wait = some w →
    let h := s.condBits c w.conds
    let met := if w.all then h = 2 ^ w.conds.length - 1 else h ≠ 0
    let ends (t : State) (st : Nat) : Prop := (t.ctxOf c).wait = none ∧ (t.ctxOf c).flight = (s.ctxOf c).flight ++
      [{ fin := s.now + 1, born := s.now, code := sCode w.d, slot := .e, val := BitVec.ofNat 64 st }]
    ((s.core c).stop = none → met → ∃ t, exec (.waitEnd c) s = .next t ∧ ends t h) ∧
    (∀ st, (s.core c).stop = some st → met → ∃ t, exec (.waitEnd c) s = .next t ∧ (t.ctxOf c).wait = none ∧
      (t.ctxOf c).flight = (s.ctxOf c).flight ++
        [{ fin := st.since, born := st.since, code := sCode w.d, slot := .e, val := BitVec.ofNat 64 h }]) ∧
    ((s.core c).stop = none → ¬ met → w.deadline ≤ s.now → w.tt = false →
      ∃ t, exec (.waitTimeout c) s = .next t ∧ ends t (h + 2 ^ 8)) ∧
    ((s.core c).stop = none → ¬ met → w.deadline ≤ s.now → w.tt = true → (s.ctxOf c).trapvec.getLsbD 0 = false →
      (s.core c).holdUntil ≤ s.now + 1 → ∃ t st r, exec (.waitTimeout c) s = .next t ∧
      (t.core c).stop = some st ∧ st.rcd = some r ∧ r.cls = .timeout ∧ r.pc = w.pc ∧ r.esw = BitVec.ofNat 64 (h + 2 ^ 8)) ∧
    ((∀ v ∈ s.saved, v.core ≠ c) → (¬ met → exec (.waitEnd c) s = .next s) ∧
      (¬ met → s.now < w.deadline → exec (.waitTimeout c) s = .next s))

/-- R116, R117, R121, R122: flag operations and engine-queue waits are commands; the three that change a flag enter it in the set-map;
a flag outside the granted range is ACCESS, a wait on a flag neither external nor in the set-map FWD_WAIT. -/
def Obligations.FlagCommandsPush : Prop :=
  ∀ (s : State) (x : FlagOp) (y : FlagNo) (w : WaitQ), s.ctx.inFlight < 32 →
    let inMap (t : State) (f : Fin 512) : Prop := ∀ i : Fin 512, t.ctx.setmap.getLsbD i = (s.ctx.setmap.getLsbD i || i == f)
    (s.ctx.guard x.g = true → s.flagOk s.ctx.fn.val x.flag.val = true →
      (∃ t, exec (.fset x) s = .next t ∧ s.pushed t (engOfQ x.q.val) (.fset x) x.tok ∧ inMap t x.flag) ∧
      (∃ t, exec (.finc x) s = .next t ∧ s.pushed t (engOfQ x.q.val) (.finc x) x.tok ∧ inMap t x.flag)) ∧
    (s.ctx.guard y.g = true → s.flagOk s.ctx.fn.val y.flag.val = true →
      (∃ t, exec (.fclr y) s = .next t ∧ s.pushed t (engOfQ y.q.val) (.fclr y) y.tok ∧ inMap t y.flag) ∧
      (∃ t, exec (.fget y) s = .next t ∧ s.pushed t (engOfQ y.q.val) (.fget y) y.tok ∧ t.ctx.setmap = s.ctx.setmap)) ∧
    (s.ctx.guard x.g = true → s.flagOk s.ctx.fn.val x.flag.val = false →
      exec (.fset x) s = .next (s.precise x.g .e .access 0) ∧ exec (.finc x) s = .next (s.precise x.g .e .access 0)) ∧
    (s.ctx.guard w.g = true →
      let ws := s.ctx.condWords w.a w.n
      (∀ c ∈ ws, condOk c = true ∧ condKind c = 0) → (∀ c ∈ ws, s.flagOk s.ctx.fn.val (condObj c) = true) →
      ((∀ c ∈ ws, s.ctx.forwarded (condObj c) = true) →
        ∃ t, exec (.waitQ w) s = .next t ∧ s.pushed t (engOfQ w.q.val) (.waitQ w) w.tok ∧ t.ctx.setmap = s.ctx.setmap) ∧
      (∀ c ∈ ws, s.ctx.forwarded (condObj c) = false → exec (.waitQ w) s = .next (s.precise w.g .e .fwdWait 0)))

/-- R116, R121: a flag operation performs once the earlier commands of its queue have completed: the new value, and the old one to the
token; an engine-queue wait that its engine has reached completes with the bits of the true conditions. -/
def Obligations.FlagOperationsPerform : Prop :=
  ∀ (s : State) (r : CmdRef) (m : Cmd), s.cmd? r = some m → m.inb = none →
    let c := r.core
    let sets (f : Fin 512) (v : BitVec 32) (tok : Word) : Prop := ∃ t, exec (.flagPerform r) s = .next t ∧ t.flags = s.flags.set f.val v ∧
      completed s t c m tok
    (((s.ctxOf c).earlier m).all (fun e => e.eng != m.eng) = true →
      (∀ x, m.ins = .fset x → sets x.flag (m.a.setWidth 32) ((s.flags[x.flag.val]).setWidth 64)) ∧
      (∀ x, m.ins = .fclr x → sets x.flag 0 ((s.flags[x.flag.val]).setWidth 64)) ∧
      (∀ x, m.ins = .fget x → sets x.flag s.flags[x.flag.val] ((s.flags[x.flag.val]).setWidth 64)) ∧
      (∀ x, m.ins = .finc x →
        let v := fincValue s.flags[x.flag.val] m.a
        sets x.flag v.1 ((s.flags[x.flag.val]).setWidth 64 ||| (if v.2 then 0x100000000 else 0)))) ∧
    (∀ x, m.ins = .waitQ x → m.started = true →
      let ws := m.ext.map (BitVec.ofNat 64)
      let h := s.condBits c ws
      ((if x.all then h = 2 ^ ws.length - 1 else h ≠ 0) →
        ∃ t, exec (.engineWaitSatisfied r) s = .next t ∧ completed s t c m (BitVec.ofNat 64 h)))

/-- R178, R179, R182 to R189: the element-wise rows. A broadcast scalar stands in every element. -/
def Obligations.VectorArithmetic : Prop :=
  ∀ (s : State) (x : VBin) (y : VTer) (z : VUna) (k : VLog) (c : VCmp) (l : VSel) (m : VMov) (v : SSrc),
    (∀ w e, w ∈ [4, 8, 16, 32] → e < 4096 / w → el (s.ctx.rsrc w (.sc v)) w e = (s.ctx.src v).toNat % 2 ^ w) ∧
    (let w := ETy.sw x.t
     let a := el (s.ctx.row x.a) w
     let b := el (s.ctx.rsrc w x.b) w
     let u (n : Nat) : Ex := flushIn x.ftz (decodeEl n x.t)
     let fl (i : Instr) (op : Ex → Ex → Ex × Fl) : Prop := s.givesRow i x.g 4 x.d w (fun e => fEl x.t x.rm x.ftz x.sat (op (u (a e)) (u (b e))))
     let it (i : Instr) (lat : Nat) (op : Int → Int → Int) : Prop :=
       s.givesRow i x.g lat x.d w (fun e => intEl x.t x.sat (op (elInt x.t (a e)) (elInt x.t (b e))))
     (x.t.f3 = true → fl (.vadd x) (fAddX x.rm) ∧ fl (.vsub x) (fun p q => fAddX x.rm p q.negate) ∧ fl (.vmul x) exactMul ∧
       s.givesRow (.vmin x) x.g 4 x.d w (fun e => fMinMax false x.t x.ftz (a e) (b e)) ∧
       s.givesRow (.vmax x) x.g 4 x.d w (fun e => fMinMax true x.t x.ftz (a e) (b e))) ∧
     (ETy.isInt x.t = true → it (.vadd x) 2 (fun p q => p + q) ∧ it (.vsub x) 2 (fun p q => p - q) ∧ it (.vmul x) 3 (fun p q => p * q) ∧
       it (.vmin x) 2 (fun p q => if p ≤ q then p else q) ∧ it (.vmax x) 2 (fun p q => if q ≤ p then p else q))) ∧
    (y.t.f3 = true →
     let w := ETy.sw y.t
     let u (n : Nat) : Ex := flushIn y.ftz (decodeEl n y.t)
     let a (e : Nat) := u (el (s.ctx.row y.a) w e)
     let b (e : Nat) := u (el (s.ctx.rsrc w y.b) w e)
     let d (e : Nat) := u (el (s.ctx.row y.c) w e)
     s.givesRow (.vfma y) y.g 4 y.d w (fun e => fEl y.t y.rm y.ftz y.sat (fFmaX y.rm (a e) (b e) (d e))) ∧
     s.givesRow (.vfms y) y.g 4 y.d w (fun e => fEl y.t y.rm y.ftz y.sat (fFmaX y.rm (a e) (b e) (d e).negate))) ∧
    (let w := ETy.sw z.t
     let a := el (s.ctx.row z.a) w
     (z.t.f3 = true → s.givesRow (.vabs z) z.g 2 z.d w (fun e => (a e % 2 ^ (w - 1), 0)) ∧
       s.givesRow (.vneg z) z.g 2 z.d w (fun e => (a e ^^^ 2 ^ (w - 1), 0))) ∧
     (ETy.isInt z.t = true → s.givesRow (.vabs z) z.g 2 z.d w (fun e => intEl z.t z.sat |elInt z.t (a e)|) ∧
       s.givesRow (.vneg z) z.g 2 z.d w (fun e => intEl z.t z.sat (-elInt z.t (a e)))) ∧
     s.givesRow (.vpopc z) z.g 2 z.d w (fun e => ((List.range w).countP (fun i => (a e).testBit i), 0))) ∧
    (let w := ETy.sw k.t
     let a := el (s.ctx.row k.a) w
     let b := el (s.ctx.rsrc w k.b) w
     (s.ctx.acts k.g 2 →
       let A := s.ctx.row k.a
       let B := s.ctx.rsrc 32 k.b
       let r (v : Row) : Out := .next (s.gives k.g .v 2 (0x80 + k.d.val) (v.setWidth 64) (some v))
       exec (.vand k) s = r (A &&& B) ∧ exec (.vor k) s = r (A ||| B) ∧ exec (.vxor k) s = r (A ^^^ B)) ∧
     s.givesRow (.vshl k) k.g 2 k.d w (fun e => ((BitVec.ofNat w (a e) <<< b e).toNat, 0)) ∧
     s.givesRow (.vshr k) k.g 2 k.d w (fun e => ((BitVec.ofNat w (a e) >>> b e).toNat, 0)) ∧
     s.givesRow (.vsra k) k.g 2 k.d w (fun e => (((BitVec.ofNat w (a e)).sshiftRight (b e)).toNat, 0))) ∧
    (let w := ETy.sw c.t
     let a := el (s.ctx.row c.a) w
     let b := el (s.ctx.rsrc w c.b) w
     let is (f : Nat → Nat × Fl) (p : Nat → Prop) : Prop := ∀ e, e < 4096 / w → (p e → (f e).1 = 2 ^ w - 1) ∧ (¬ p e → (f e).1 = 0)
     (c.t.f3 = true → c.cond.val < 8 →
       let u (n : Nat) : Ex := decodeEl n c.t
       ∃ f, is f (fun e => fcondTrue c.cond.val (u (a e)) (u (b e))) ∧ (∀ e, (f e).2 = fcondFlag c.cond.val (u (a e)) (u (b e))) ∧
         s.givesRow (.vcmp c) c.g 4 c.d w f) ∧
     (ETy.isInt c.t = true → c.cond.val < 6 ∨ c.cond = 8 ∨ c.cond = 9 →
       ∃ f, is f (fun e => vcondTrue c.t c.cond.val (a e) (b e)) ∧ (∀ e, (f e).2 = 0) ∧ s.givesRow (.vcmp c) c.g 2 c.d w f)) ∧
    (let w := ETy.sw l.t
     s.givesRow (.vsel l) l.g 2 l.d w (fun e =>
       (if el (s.ctx.row l.c) w e ≠ 0 then el (s.ctx.row l.a) w e else el (s.ctx.rsrc w l.b) w e, 0))) ∧
    (s.ctx.acts m.g 2 →
      let r := s.ctx.rsrc (ETy.sw m.t) m.a
      exec (.vmov m) s = .next (s.gives m.g .v 2 (0x80 + m.d.val) (r.setWidth 64) (some r)))

/-- R189 to R199: broadcasts, lanes, conversions, quantisation, scans, reductions and permutes. -/
def Obligations.VectorMovesAndReductions : Prop :=
  ∀ (s : State) (x : VRowS) (l : VLane) (i : VIota) (c : VCvt) (q : VQuant) (d : VDeq) (b : VBin) (n : VScan) (r : VRed) (p : VPerm)
    (u : VShuf),
    (let w := ETy.sw x.t
     let E := 4096 / w
     let a := el (s.ctx.row x.a) w
     let k := (s.ctx.src x.b).toNat
     s.givesRow (.vbcast x) x.g 2 x.d w (fun _ => (a (k % E), 0)) ∧
     s.givesRow (.vrot x) x.g 3 x.d w (fun e => (a (((e : Int) - (k % 2 ^ 32 : Nat)) % E).toNat, 0))) ∧
    (s.ctx.acts l.g 2 →
      let w := ETy.sw l.t
      let v := el (s.ctx.row l.a) w ((s.ctx.src l.b).toNat % (4096 / w))
      exec (.vlane l) s = .next (s.gives l.g .v 2 (sCode l.d) (BitVec.ofInt 64 (elInt l.t v)))) ∧
    (let w := ETy.sw i.t
     s.givesRow (.viota i) i.g 2 i.d w (fun e => (((s.ctx.src i.a).toNat + e) % 2 ^ w, 0))) ∧
    (let ws := ETy.sw c.src
     let wt := ETy.sw c.t
     let es := 4096 / ws
     let et := 4096 / wt
     let cv (e : Nat) : Nat × Fl := convEl c.t c.src c.rm c.ftz c.sat (el (s.ctx.row c.a) ws e)
     (ws ≤ wt → c.part.val < wt / ws → s.givesRow (.vcvt c) c.g 4 c.d wt (fun e => cv (c.part.val * et + e))) ∧
     (∀ o, wt < ws → c.part.val < ws / wt → c.c = some o → s.givesRow (.vcvt c) c.g 4 c.d wt (fun e =>
       if c.part.val * es ≤ e ∧ e < c.part.val * es + es then cv (e - c.part.val * es) else (el (s.ctx.row o) wt e, 0)))) ∧
    (s.ctx.acts q.g 6 → 128 * (q.part.val + 1) ≤ 4096 / ETy.sw q.t →
      let w := ETy.sw q.t
      let a (e : Nat) : Ex := decodeEl (el (s.ctx.row q.a) 32 e) .f32
      let sc (k : Nat) : Nat × Fl := chooseScale ((List.range 32).map (fun j => a (32 * k + j))) q.t q.rm
      let code (e : Nat) : Nat × Fl :=
        if (sc (e / 32)).1 = 0xFF then (0, 0) else encodeEl ((a e).scale (127 - ((sc (e / 32)).1 : Int))) q.t q.rm q.ftz true
      ∃ (r : Row) (fl : Fl) (v : Word), (∀ k, k < 4 → (v.extractLsb' (8 * k) 8).toNat = (sc k).1) ∧ v >>> 32 = 0 ∧
        (∀ e, e < 4096 / w → el r w e =
          if q.part.val * 128 ≤ e ∧ e < q.part.val * 128 + 128 then (code (e - q.part.val * 128)).1 else el (s.ctx.row q.c) w e) ∧
        (∀ f, fl.getLsbD f = true ↔ ∃ e, e < 128 ∧ ((code e).2 ||| (sc (e / 32)).2).getLsbD f = true) ∧
        (s.ctx.enabled fl = false →
          let t := s.gives q.g .v 6 (0x80 + q.d.val) (r.setWidth 64) (some r) fl
          exec (.vquant q) s = .next (t.setCtx { t.ctx with
            flight := t.ctx.flight ++ [{ fin := s.now + 6, born := s.now, code := sCode q.b, slot := .v, val := v, sq := q.g.sq, latch := false }] }))) ∧
    (let w := ETy.sw d.t
     128 * (d.part.val + 1) ≤ 4096 / w → s.givesRow (.vdequant d) d.g 6 d.d 32 (fun e =>
       let k := ((s.ctx.src d.b).extractLsb' (8 * (e / 32)) 8).toNat
       let v : Ex := if k = 0xFF then .nan false else (decodeEl (el (s.ctx.row d.a) w (d.part.val * 128 + e)) d.t).scale ((k : Int) - 127)
       encodeEl v .f32 d.rm d.ftz d.sat)) ∧
    (let w := ETy.sw b.t
     let x (e : Nat) := el (s.ctx.row b.a) w (b.part.val * 128 + e)
     let y (e : Nat) := el (s.ctx.rsrc w b.b) w (b.part.val * 128 + e)
     let u (v : Nat) : Ex := flushIn b.ftz (decodeEl v b.t)
     128 * (b.part.val + 1) ≤ 4096 / w →
     (b.t = .f16 ∨ b.t = .bf16 →
       s.givesRow (.vwadd b) b.g 4 b.d 32 (fun e => fEl .f32 b.rm b.ftz b.sat (fAddX b.rm (u (x e)) (u (y e)))) ∧
       s.givesRow (.vwmul b) b.g 4 b.d 32 (fun e => fEl .f32 b.rm b.ftz b.sat (exactMul (u (x e)) (u (y e))))) ∧
     (b.t = .i8 ∨ b.t = .n8 →
       s.givesRow (.vwadd b) b.g 4 b.d 32 (fun e => ((BitVec.ofInt 32 (elInt b.t (x e) + elInt b.t (y e))).toNat, 0)) ∧
       s.givesRow (.vwmul b) b.g 4 b.d 32 (fun e => ((BitVec.ofInt 32 (elInt b.t (x e) * elInt b.t (y e))).toNat, 0)))) ∧
    (let a := el (s.ctx.row n.a) 32
     let upTo (e : Nat) : List Nat := firstEls (s.ctx.row n.a) 32 (e + 1)
     (n.t = .f32 →
       (n.op = 0 → s.givesRow (.vscan n) n.g 6 n.d 32 (fun e => fEl .f32 .rne false false (exactSum .rne ((upTo e).map (fun v => decodeEl v .f32))))) ∧
       (n.op = 1 → s.givesRow (.vscan n) n.g 6 n.d 32 (fun e => bestOf false .f32 (upTo e))) ∧
       (n.op = 2 → s.givesRow (.vscan n) n.g 6 n.d 32 (fun e => bestOf true .f32 (upTo e)))) ∧
     (n.t = .i32 ∨ n.t = .n32 →
       (n.op = 0 → s.givesRow (.vscan n) n.g 6 n.d 32 (fun e => ((upTo e).sum % 2 ^ 32, 0))) ∧
       (n.op = 1 ∨ n.op = 2 → ∃ k : Nat → Nat,
         (∀ e, e < 128 → k e ≤ e ∧ ∀ j, j ≤ e → if n.op = 1 then elInt n.t (a (k e)) ≤ elInt n.t (a j) else elInt n.t (a j) ≤ elInt n.t (a (k e))) ∧
         s.givesRow (.vscan n) n.g 6 n.d 32 (fun e => (a (k e), 0))))) ∧
    (let w := ETy.sw r.t
     let xs := firstEls (s.ctx.row r.a) w (4096 / w)
     let res (v : Word) (fl : Fl) : Prop := s.ctx.acts r.g 6 → s.ctx.enabled fl = false → exec (.vred r) s = .next (s.gives r.g .v 6 (sCode r.d) v none fl)
     (r.t.f3 = true →
       (r.op = 0 → let v := fEl r.t .rne false false (exactSum .rne (xs.map (fun v => decodeEl v r.t))); res (BitVec.ofNat 64 v.1) v.2) ∧
       (r.op = 1 → let v := bestOf false r.t xs; res (BitVec.ofNat 64 v.1) v.2) ∧
       (r.op = 2 → let v := bestOf true r.t xs; res (BitVec.ofNat 64 v.1) v.2)) ∧
     (ETy.isInt r.t = true →
       (r.op = 0 → res (BitVec.ofInt 64 (xs.map (elInt r.t)).sum) 0) ∧
       (r.op = 1 → ∃ v ∈ xs, (∀ u ∈ xs, elInt r.t v ≤ elInt r.t u) ∧ res (BitVec.ofInt 64 (elInt r.t v)) 0) ∧
       (r.op = 2 → ∃ v ∈ xs, (∀ u ∈ xs, elInt r.t u ≤ elInt r.t v) ∧ res (BitVec.ofInt 64 (elInt r.t v)) 0))) ∧
    (let b := el (s.ctx.rsrc 32 p.b) 32
     s.givesRow (.vperm p) p.g 3 p.d 32 (fun e =>
       (if (b e).testBit 7 then (match p.c with | none => 0 | some o => el (s.ctx.row o) 32 (b e % 128)) else el (s.ctx.row p.a) 32 (b e % 128), 0))) ∧
    (let w := ETy.sw u.t
     let E := 4096 / w
     let a := el (s.ctx.row u.a) w
     (u.pat = 4 → s.givesRow (.vshuf u) u.g 3 u.d w (fun e => (a (E - 1 - e), 0))) ∧
     (∀ o, u.b = some o →
       let b := el (s.ctx.row o) w
       let mix (f : Nat → Nat) : Prop := s.givesRow (.vshuf u) u.g 3 u.d w (fun e => (f e, 0))
       (u.pat = 0 → mix (fun e => if e % 2 = 0 then a (e / 2) else b (e / 2))) ∧
       (u.pat = 1 → mix (fun e => if e % 2 = 0 then a (E / 2 + e / 2) else b (E / 2 + e / 2))) ∧
       (u.pat = 2 → mix (fun e => if e < E / 2 then a (2 * e) else b (2 * (e - E / 2)))) ∧
       (u.pat = 3 → mix (fun e => if e < E / 2 then a (2 * e + 1) else b (2 * (e - E / 2) + 1)))))

/-- R208 to R229: the special functions, each rounded once from its reference with NX left out; the tables; the passes of a soft
maximum and the row statistics; the sorted index lists. R212 to R216, R226: the references, their special cases and a weight of the
soft maximum. -/
def Obligations.VectorFunctions : Prop :=
  (∀ b : Bool, let r : Ex × Fl := (.nan false, if b then Fl.nv else 0)
    fnExp2 (.nan b) = r ∧ fnLog2 (.nan b) = r ∧ fnRcp (.nan b) = r ∧ fnRsqrt (.nan b) = r ∧ fnTanh (.nan b) = r ∧ fnSigm (.nan b) = r ∧
    fnLog2 (.zero b) = (.inf true, Fl.dz) ∧ fnRcp (.zero b) = (.inf b, Fl.dz) ∧ fnRcp (.inf b) = (.zero b, 0) ∧
    fnRsqrt (.zero b) = (.inf b, Fl.dz) ∧ fnTanh (.zero b) = (.zero b, 0) ∧ (fnExp2 (.zero b)).1.rat = some 1 ∧
    (fnTanh (.inf b)).1.rat = some (if b then -1 else 1) ∧ (fnSigm (.zero b)).1.rat = some (1 / 2)) ∧
  fnExp2 (.inf false) = (.inf false, 0) ∧ fnExp2 (.inf true) = (.zero false, 0) ∧
  fnLog2 (.inf false) = (.inf false, 0) ∧ fnLog2 (.inf true) = (.nan false, Fl.nv) ∧
  fnRsqrt (.inf false) = (.zero false, 0) ∧ fnRsqrt (.inf true) = (.nan false, Fl.nv) ∧
  fnSigm (.inf true) = (.zero false, 0) ∧ (fnSigm (.inf false)).1.rat = some 1 ∧
  (∀ j, j < 64 → (2 * t64.getD j 0 - 1) ^ 64 < 2 ^ (j + 1536) ∧ 2 ^ (j + 1536) < (2 * t64.getD j 0 + 1) ^ 64 ∧
    let v : ℚ := f32Rat (l64.getD j 0)
    (2 : ℚ) ^ ⌊v * 4096⌋ ≤ (1 + j / 64 : ℚ) ^ 4096 ∧ (1 + j / 64 : ℚ) ^ 4096 < (2 : ℚ) ^ (⌊v * 4096⌋ + 1)) ∧
  (∀ q : Q, q.n ≠ 0 → q.d ≠ 0 → q.r = 0 →
    let x := q.rat
    (let i := ⌊x⌋
     let j := ⌊64 * (x - i)⌋
     let r := x - i - j / 64
     (fnExp2 (.fin q)).2 = 0 ∧ (fnExp2 (.fin q)).1.rat = some ((t64.getD j.toNat 0 : ℚ) * (2 : ℚ) ^ (i - 23) *
       (1 + f32Rat 0x3F317218 * r + f32Rat 0x3E75FDF0 * r ^ 2 + f32Rat 0x3D635847 * r ^ 3))) ∧
    (x < 0 → fnLog2 (.fin q) = (.nan false, Fl.nv) ∧ fnRsqrt (.fin q) = (.nan false, Fl.nv)) ∧
    (0 < x →
      (let e := Int.log 2 x
       let m := x / (2 : ℚ) ^ e
       let j := ⌊64 * (m - 1)⌋
       let c : ℚ := 1 + j / 64
       let z := (m - c) / c
       (fnLog2 (.fin q)).2 = 0 ∧ (fnLog2 (.fin q)).1.rat = some (e + f32Rat (l64.getD j.toNat 0) +
         z * (f32Rat 0x3FB8AA3B + f32Rat 0xBF38AA3B * z + f32Rat 0x3EF6384F * z ^ 2 + f32Rat 0xBEB8AA3B * z ^ 3))) ∧
      ∃ v, (fnRsqrt (.fin q)).1.rat = some v ∧ nearRoot (1 / x) v ∧ (fnRsqrt (.fin q)).2 = 0) ∧
    (|x| < (2 : ℚ) ^ (-12 : Int) → fnTanh (.fin q) = (.fin q, 0)) ∧
    ((2 : ℚ) ^ (-12 : Int) ≤ |x| → ∃ u, (expL (.fin { q with n := -2 * q.n.natAbs })).rat = some u ∧ (fnTanh (.fin q)).2 = 0 ∧
      (fnTanh (.fin q)).1.rat = some ((if x < 0 then -1 else 1) * ((1 - u) / (1 + u)))) ∧
    (expL (Ex.fin q).negate = .inf false → fnSigm (.fin q) = (.zero false, 0)) ∧
    (∀ u, (expL (Ex.fin q).negate).rat = some u → (fnSigm (.fin q)).1.rat = some (1 / (1 + u)) ∧ (fnSigm (.fin q)).2 = 0)) ∧
  (∀ (ftz en : Bool) (m x0 : Ex),
    let x := flushIn ftz x0
    let w := expWeight ftz m en x0
    let p := expL (roundRne (exactSum .rne [x, m.negate]).1 .f32).1
    (en = false ∨ x = .inf true → w = (.zero false, 0)) ∧
    (en = true → x ≠ .inf true →
      (x.isNan = true ∨ m.isNan = true → w = (.nan false, 2)) ∧
      (x = .inf false → m = .inf false → w.1.rat = some 1 ∧ w.2 = 0) ∧
      (x.isNan = false → m.isNan = false → ¬ (x = .inf false ∧ m = .inf false) → w.2 = 0 ∧
        (ftz = false ∨ p.isFin = false → w.1 = p) ∧
        (ftz = true → ∀ v, p.rat = some v → (v < (2 : ℚ) ^ (-126 : Int) → w.1.rat = some 0) ∧ ((2 : ℚ) ^ (-126 : Int) ≤ v → w.1 = p))))) ∧
  ∀ (s : State) (x : VFn) (z : VUna) (t : VTbld) (g : Guard) (m : VFold) (e : VSexp) (d : VSdiv) (p : VPart),
    (let f (i : Instr) (F : Ex → Ex × Fl) : Prop := s.givesRow i x.g 8 x.d 32 (fun k =>
       let r := fEl .f32 x.rm x.ftz x.sat (F (flushIn x.ftz (decodeEl (el (s.ctx.rsrc 32 x.a) 32 k) .f32)))
       (r.1, r.2 &&& ~~~Fl.nx))
     f (.vexp2 x) fnExp2 ∧ f (.vlog2 x) fnLog2 ∧ f (.vrcp x) fnRcp ∧ f (.vrsqrt x) fnRsqrt ∧ f (.vtanh x) fnTanh ∧ f (.vsigm x) fnSigm) ∧
    (∀ q : Q, q.n ≠ 0 → q.d ≠ 0 → q.r = 0 → (fnRcp (.fin q)).1.rat = some (1 / q.rat) ∧ (fnRcp (.fin q)).2 = 0) ∧
    (let tab (k : Nat) : Nat := (s.ctx.tab.toArray.getD ((if s.ctx.act then 256 else 0) + k % 256) 0).toNat
     (z.t = .n32 → s.givesRow (.vtbl z) z.g 4 z.d 32 (fun k => (tab (el (s.ctx.row z.a) 32 k), 0))) ∧
     (z.t = .n8 → s.givesRow (.vtbl z) z.g 4 z.d 8 (fun k => (tab (el (s.ctx.row z.a) 8 k) % 256, 0)))) ∧
    (s.ctx.guard t.g = true → ∃ tab : Vector (BitVec 32) 512,
      exec (.vtbld t) s = .next (s.setCtx { s.ctx with tab, tabDue := s.now + 2 }) ∧
      ∀ k : Fin 512,
        let base := (if s.ctx.act then 0 else 256) + t.part.val * 128
        tab[k] = if base ≤ k.val ∧ k.val < base + 128 then BitVec.ofNat 32 (el (s.ctx.row t.a) 32 (k.val - base)) else s.ctx.tab[k]) ∧
    (s.ctx.guard g = true → exec (.vtbsw g) s = .next (s.setCtx { s.ctx with act := !s.ctx.act })) ∧
    (s.ctx.plain m.g →
      let on (k : Nat) : Prop := k < 128 ∧ s.ctx.lets m.mask 32 k = true
      let a (k : Nat) : Ex := decodeEl (el (s.ctx.row m.a) 32 k) .f32
      let r0 := decodeEl (s.ctx.src m.b).toNat .f32
      let gives (v : Nat) (sm : BitVec 3) : Prop := ∃ u, exec (.vsmax m) s = .next (s.setCtx u) ∧
        u.flight = s.ctx.flight ++ [{ fin := s.now + 6, born := s.now, code := sCode m.d, slot := .v, val := BitVec.ofNat 64 v }] ∧
        u.smstat = s.ctx.smstat ||| sm.setWidth 64
      ∀ inf : BitVec 3, ((∃ k, on k ∧ a k = .inf false) → inf = 4) → ((∀ k, on k → a k ≠ .inf false) → inf = 0) →
      ((∃ k, on k ∧ (a k).isNan = true) ∨ r0.isNan = true → gives 0x7FC00000 (2 ||| inf)) ∧
      ((∀ k, on k → (a k).isNan = false) → r0.isNan = false → m.ftz = false →
        ∃ v, gives v inf ∧ ((decodeEl v .f32).cmp r0 = .eq ∨ ∃ k, on k ∧ (decodeEl v .f32).cmp (a k) = .eq) ∧
          (decodeEl v .f32).cmp r0 ≠ .lt ∧ ∀ k, on k → (decodeEl v .f32).cmp (a k) ≠ .lt)) ∧
    (s.ctx.plain e.g →
      let mx := decodeEl (s.ctx.src e.b).toNat .f32
      let w (k : Nat) : Ex := (expWeight e.ftz mx (s.ctx.lets e.mask 32 k) (decodeEl (el (s.ctx.row e.d) 32 k) .f32)).1
      ∃ (u : Ctx) (r : Row) (v : Word), exec (.vsexp e) s = .next (s.setCtx u) ∧
        (∀ k, k < 128 → el r 32 k = (encodeEl (w k) .f32 .rne false false).1) ∧
        v = BitVec.ofNat 64 (smRound (exactSum .rne (decodeEl (s.ctx.src e.c).toNat .f32 :: (List.range 128).map w)).1 e.ftz).1 ∧
        u.flight = s.ctx.flight ++
          [{ fin := s.now + 8, born := s.now, code := 0x80 + e.d.val, slot := .v, val := r.setWidth 64, row := some r, latch := false },
           { fin := s.now + 10, born := s.now, code := sCode e.a, slot := .v, val := v }]) ∧
    (s.ctx.plain d.g →
      let l := decodeEl (s.ctx.src d.b).toNat .f32
      ∃ (u : Ctx) (r : Row), exec (.vsdiv d) s = .next (s.setCtx u) ∧
        u.flight = s.ctx.flight ++ [{ fin := s.now + 8, born := s.now, code := 0x80 + d.d.val, slot := .v, val := r.setWidth 64, row := some r }] ∧
        (l.isNan = true → (∀ k, k < 128 → el r 32 k = 0x7FC00000) ∧ u.smstat = s.ctx.smstat ||| 2) ∧
        (l.isZero = true → r = 0 ∧ u.smstat = s.ctx.smstat ||| 1 ∧
          ∀ k, k < 64 → u.smam0.getLsbD k = (s.ctx.smam0.getLsbD k || k == d.d.val) ∧
            u.smam1.getLsbD k = (s.ctx.smam1.getLsbD k || k + 64 == d.d.val)) ∧
        (l.isNan = false → l.isZero = false → u.smstat = s.ctx.smstat ∧ ∀ k, k < 128 →
          el r 32 k = (smRound (fDivX .rne (flushIn d.ftz (decodeEl (el (s.ctx.row d.a) 32 k) .f32)) l).1 d.ftz).1)) ∧
    (s.ctx.acts m.g 6 →
      let els : List Ex := ((List.range 128).filter (s.ctx.lets m.mask 32)).map
        (fun k => flushIn m.ftz (decodeEl (el (s.ctx.row m.a) 32 k) .f32))
      let b := (s.ctx.src m.b).toNat
      let sq := els.map (fun x => exactMul x x)
      let S := exactSum .rne (decodeEl b .f32 :: els)
      let Q := exactSum .rne (decodeEl (b / 2 ^ 32) .f32 :: sq.map Prod.fst)
      ∃ (v : Word) (fl : Fl), (v.setWidth 32).toNat = (smRound S.1 m.ftz).1 ∧ (v >>> 32).toNat = (smRound Q.1 m.ftz).1 ∧
        (∀ b, fl.getLsbD b = true ↔ (S.2 ||| Q.2 ||| (smRound S.1 m.ftz).2 ||| (smRound Q.1 m.ftz).2).getLsbD b = true ∨
          ∃ p ∈ sq, p.2.getLsbD b = true) ∧
        (s.ctx.enabled fl = false → exec (.vmstat m) s = .next (s.gives m.g .v 6 (sCode m.d) v none fl))) ∧
    (s.ctx.acts p.g 4 →
      let key (k : Nat) : Nat :=
        let v := el (s.ctx.row p.a) 32 k
        if p.key = 0 then (if v = 0 then 0 else 1) else v % 4
      ∃ (r : Row) (v : Word),
        (∀ k, k < 128 → el r 32 ((List.range 128).countP (fun j => key j < key k) + (List.range k).countP (fun j => key j = key k)) = k) ∧
        (∀ j, j < 4 → ((v.extractLsb' (8 * j) 8).toNat = (List.range 128).countP (fun k => key k = j))) ∧
        exec (.vpart p) s = .next (s.setCtx { s.ctx with flight := s.ctx.flight ++
          [{ fin := s.now + 4, born := s.now, code := 0x80 + p.d.val, slot := .v, val := r.setWidth 64, row := some r, sq := p.g.sq, latch := false },
           { fin := s.now + 4, born := s.now, code := sCode p.b, slot := .v, val := v, sq := p.g.sq }] }))

/-- R200 to R206, R230, R231: row loads and stores, plain, by columns, masked, and by a list of indices: what each asks of its port
cycle, in which the elements are read, or an uncorrectable error writes nothing. -/
def Obligations.VectorMemory : Prop :=
  (∀ (s : State) (x : VMem) (y : VGs),
    let w := ETy.sw x.t
    let E := 4096 / w
    let a := s.ctx.rowAddr x
    let base := s.ctx.src x.a + x.off.signExtend 64
    let d := el (s.ctx.row x.d) w
    let loads (i : Instr) (k n lat : Nat) (es : List (Nat × Nat × Nat)) : Prop :=
      exec i s = .next (s.rowQueuing (s.portOp .v x.sp (.row k es)) n 1 (rowFlights s.now x.g lat x.d s.ctx.nextPort x.pi x.a base))
    let stores (i : Instr) (n : Nat) (ps : List Piece) : Prop :=
      exec i s = .next (s.rowQueuing (s.portOp .v x.sp (.store false ps)) n 0 (if x.pi then
        [{ fin := s.now + 1, born := s.now, code := srcCode x.a, slot := .v, val := base, sq := x.g.sq }] else []))
    let on (e : Nat) : Bool := s.ctx.lets (some x.acc) w e
    (s.ctx.plain x.g →
      (s.ctx.letsRow x.sp a 64 false a 512 → loads (.vld x) 4096 1 4 [(a, 512, 0)]) ∧
      (s.ctx.letsRow x.sp a 64 true a 512 → stores (.vst x) 1 [wholePiece a 512 (s.ctx.row x.d).toNat]) ∧
      (w ≠ 4 →
        let at' (e : Nat) := a + e * 2 ^ x.acc.val
        ((∀ e, e < E → s.ctx.letsRow x.sp a (w / 8) false (at' e) (w / 8)) →
          loads (.vldt x) w (128 / w) (3 + 128 / w) ((List.range E).map (fun e => (at' e, w / 8, 0)))) ∧
        ((∀ e, e < E → s.ctx.letsRow x.sp a (w / 8) true (at' e) (w / 8)) →
          stores (.vstt x) (128 / w) ((List.range E).map (fun e => wholePiece (at' e) (w / 8) (d e))))) ∧
      (a % 64 = 0 → x.sp ≠ .jb →
        ((∀ e, e < E → on e = true → s.ctx.letsRow x.sp a 64 false (a + e * w / 8) ((w + 7) / 8)) →
          loads (.vldm x) w 1 4 ((List.range E).map (fun e => if on e then (a + e * w / 8, (w + 7) / 8, e * w % 8) else (0, 0, 0)))) ∧
        (x.sp ≠ .wb → (∀ e, e < E → on e = true → s.ctx.letsRow x.sp a 64 true (a + e * w / 8) ((w + 7) / 8)) →
          stores (.vstm x) 1 (((List.range E).filter on).map (fun e =>
            { off := a + e * w / 8, n := (w + 7) / 8, val := d e * 2 ^ (e * w % 8), mask := (2 ^ w - 1) * 2 ^ (e * w % 8) }))))) ∧
    (s.ctx.plain y.g → ETy.sw y.t ≠ 4 →
      let w := ETy.sw y.t
      let n := min ((s.ctx.src y.c).toNat % 2 ^ 32) 128
      let b := (s.ctx.src y.a).toNat
      let at' (e : Nat) := b + el (s.ctx.row y.b) 32 e * (w / 8)
      let lets (wr : Bool) : Prop := b % (w / 8) = 0 ∧ y.sp ≠ .jb ∧ (wr = true → y.sp ≠ .wb) ∧
        ∀ e, e < n → s.ctx.letsRow y.sp b (w / 8) wr (at' e) (w / 8)
      (lets false → exec (.vgath y) s = .next (s.rowQueuing
        (s.portOp .v y.sp (.row w ((List.range n).map (fun e => (at' e, w / 8, 0))))) 4 1
        [{ fin := s.now + 7, born := s.now, code := 0x80 + y.d.val, slot := .v, val := 0, row := some 0, pid := s.ctx.nextPort }])) ∧
      (lets true → exec (.vscat y) s = .next (s.rowQueuing
        (s.portOp .v y.sp (.store false ((List.range n).map (fun e => wholePiece (at' e) (w / 8) (el (s.ctx.row y.d) w e))))) 4 0 []))) ∧
    (s.ctx.guard x.g = true → a % 64 ≠ 0 → exec (.vld x) s = .next (s.precise x.g .v .align a) ∧
      exec (.vst x) s = .next (s.precise x.g .v .align a))) ∧
  ∀ (s : State) (c : CoreId) (o : PortOp) (f : Flight) (w : Nat) (es : List (Nat × Nat × Nat)), s.mem.wf = true → s.performs c o →
    o.act = .row w es → (s.ctxOf c).frameFl = [] → (s.ctxOf c).flight = [f] → f.pid = o.pid → o.pid ≠ 0 →
    let sound := ∀ e ∈ es, e.2.1 ≠ 0 → s.sound (bufKey c o.sp e.1) e.2.1
    (sound → ∃ r : Row,
      s.portStep c = s.setCtxOf c { s.ctxOf c with portQ := [], flight := [{ f with val := r.setWidth 64, row := some r }] } ∧
      ∀ i, i < 4096 / w → el r w i = match es[i]? with
        | some e => s.mem.num (bufKey c o.sp e.1) e.2.1 / 2 ^ e.2.2 % 2 ^ w
        | none => 0) ∧
    (¬ sound → (s.ctxOf c).undo = [] → ∃ p, p.addr % 64 = 0 ∧ s.loadFails (s.portStep c) c o f p)

/-- R234, R246 to R257, R261, R269 to R283: the commands of ME and CE are checked and pushed; the loads set the record of their array,
`chbind` and `chrest` bind the chain's record, a block moves its position on, and `chfin`, `chdrop` and `chsave` with its bit end it.
What each asks of its operands stands in the order of its checks, each with the class and the address of its trap. A later row whose
bank has another type than the first takes BUFFER (`Ctx.rowIn`: DESIGN CHOICE, log entry 100); KPOS goes on from 0 after 2^32 - 1
(DESIGN CHOICE, log entry 101). -/
def Obligations.ArrayCommandsPush : Prop :=
  ∀ (s : State) (x : Ecmd) (y : ChStat),
    let c := s.ctx
    let a := (c.src x.a).toNat
    let b := (c.src x.b).toNat
    let w := (c.src x.c).toNat
    let arrs (m : Cmd) : Prop := m.arrs = if x.m 0 then 2 else 1
    let loads (i : Instr) (sparse : Bool) : Prop := s.pushes x i .me (c.chkLoad x sparse) (fun r m t =>
      m.reads = r.2 ∧ m.writes = [] ∧ arrs m ∧ t.arrRec (x.m 0) = r.1 ∧ t.arrRec (!x.m 0) = c.arrRec (!x.m 0))
    let streams (i : Instr) (remote : Bool) : Prop := s.pushes x i .me (c.pushView.chkStream x remote) (fun r m _ =>
      m.reads = r.1 ∧ m.writes = r.2 ∧ arrs m ∧ m.gcls = if remote then some (x.mf 9 4) else none)
    let moved (t : Ctx) : Prop := t.chRec = { c.chRec with kpos := ((if w.testBit 8 then w / 2 ^ 32 % 2 ^ 32 else c.chRec.kpos) + w % 256 + 1) % 2 ^ 32 }
    let void (t : Ctx) : Prop := t.saRec.valid = false ∧ t.vaRec.valid = false
    loads (.mld x) false ∧ loads (.mldsp x) true ∧ streams (.mstr x) false ∧ streams (.mstrr x) true ∧
    s.pushes x (.mzero x) .me (c.chkZero x) (fun _ m _ => m.reads = [] ∧ m.writes = [{ buf := .cb, lo := a, hi := a + b }] ∧ arrs m) ∧
    s.pushes x (.mdrain x) .me (c.chkDrain x) (fun r m _ =>
      m.writes = [{ buf := .cb, lo := b, hi := r.2 }] ∧ arrs m ∧ { buf := .cb, lo := a, hi := r.1 } ∈ m.reads) ∧
    s.pushes x (.mcfg x) .me (c.chkCfg x) (fun _ m _ => m.reads = [] ∧ m.writes = [] ∧ arrs m) ∧
    s.pushes x (.mpip x) .me (c.chkPip x) (fun _ m _ => m.reads = [] ∧ m.writes = [{ buf := .cb, lo := a, hi := a + 1088 }] ∧ arrs m) ∧
    s.pushes x (.mabort x) .me (.ok () : Chk Unit) (fun _ m t => m.arrs = 0 ∧
      t.saRec = { c.saRec with valid := c.saRec.valid && !(x.m 2) && x.m 0 } ∧ t.vaRec = { c.vaRec with valid := c.vaRec.valid && !(x.m 2) && !(x.m 0) }) ∧
    s.pushes x (.chbind x) .ce (c.pushView.chkBind x) (fun r m t => m.reads = r.1 ∧ m.arrs = 3 ∧ void t ∧
      t.chRec.bound = true ∧ t.chRec.mode = x.mf 11 2 ∧ t.chRec.d = a / 2 ^ 40 % 2 ^ 8 + 1 ∧ t.chRec.kpos = 0) ∧
    s.pushes x (.chkv x) .ce (c.pushView.chkKv x) (fun r m t => m.reads = r ∧ m.writes = [] ∧ moved t) ∧
    s.pushes x (.chlink x) .ce (c.chkLink x) (fun r m t => m.reads = r ∧ m.writes = [] ∧ moved t) ∧
    s.pushes x (.chmask x) .ce (c.chkMask x) (fun _ m t => m.reads = c.pushView.ranges .ab a 2048 ∧ m.writes = [] ∧ t.chRec = c.chRec) ∧
    s.pushes x (.chfin x) .ce c.chBound (fun _ m t => m.reads = [] ∧ m.writes = c.outRange ∧ t.chRec.bound = false) ∧
    s.pushes x (.chdrop x) .ce c.chBound (fun _ m t => m.reads = [] ∧ m.writes = [] ∧ t.chRec.bound = false) ∧
    s.pushes x (.chsave x) .ce (c.pushView.chkImage x true) (fun r m t => m.reads = [] ∧ m.writes = r.2 ∧
      if x.m 0 then t.chRec.bound = false else t.chRec = c.chRec) ∧
    s.pushes x (.chrest x) .ce (c.pushView.chkImage x false) (fun r m t => m.reads = r.2 ∧ m.arrs = 3 ∧ void t ∧ t.chRec.bound = true) ∧
    (c.guard y.g = true →
      (c.chRec.bound = true → c.inFlight < 32 → ∃ t, exec (.chstat y) s = .next t ∧ s.pushed t .ce (.chstat y) y.tok) ∧
      (c.chRec.bound = false → exec (.chstat y) s = .next (s.precise y.g .e .illegal 0))) ∧
    -- what the operands must be
    (let v := c.pushView
     let len (t : ETy) (n : Nat) : Nat := (n * ETy.sw t + 7) / 8
     let rel (o : Nat) : Nat := o % 0x18000
     let wf := c.fmtAt .wb a
     let kc := bits b 0 8 + 1
     let n := bits b 8 8 + 1
     let p := bits b 16 16
     let nm := patNM (x.mf 5 3)
     let wEnd := (kc - 1) * p * 64 + len wf.ty n
     let inW : Prop := a < Space.size .wb
     let inRow : Prop := inW ∧ rel a + wEnd ≤ (if wf.bs then wf.soff * 256 else 0x18000)
     asks (c.chkLoad x false) [(bits b 32 32 = 0 ∧ kc ≤ 128 ∧ n ≤ 128, .illegal, 0), (inW → len wf.ty n ≤ p * 64, .illegal, 0),
       (inW → arrTy wf.ty, .illegal, 0), (a % 64 = 0, .align, a), (inRow, .buffer, a)] ∧
     asks (c.chkLoad x true) [(bits b 32 32 = 0 ∧ kc ≤ 128 ∧ n ≤ 128, .illegal, 0), (inW → len wf.ty n ≤ p * 64, .illegal, 0),
       (kc % nm.1 = 0 ∧ kc * nm.2 / nm.1 ≤ 512, .illegal, 0), (inW → arrTy wf.ty, .illegal, 0), (a % 64 = 0, .align, a),
       (w % 64 = 0, .align, w), (inRow, .buffer, a), (w < Space.size .wb ∧ rel w + kc * 64 ≤ 0x18000, .buffer, w)] ∧
     (let S := bits w 0 16
      let pa := bits w 16 16
      let pc := bits w 32 16
      let h := c.arrRec (x.m 0)
      let f := c.fmtAt .ab a
      let out := (S - 1) * pc * 64 + h.n * 4
      let rows : Prop := bits w 48 16 = 0 ∧ 1 ≤ S ∧ S ≤ 4096
      let inA : Prop := a < Space.size .ab
      asks (v.chkStream x false) [(rows, .illegal, 0), ((inA → len f.ty h.keff ≤ pa * 64) ∧ h.n * 4 ≤ pc * 64, .illegal, 0),
        (h.valid = true ∧ (inA → arrPair h.ty f.ty), .illegal, 0), (a % 64 = 0, .align, a), (b % 64 = 0, .align, b),
        (inA ∧ v.ringOk .ab a ((S - 1) * pa * 64 + len f.ty h.keff) = true, .buffer, a),
        (∀ r, r < S → v.rowIn .ab a (a + r * pa * 64) (len f.ty h.keff) = true, .buffer, a), (b + out ≤ Space.size .cb, .buffer, b)] ∧
      asks (v.chkStream x true) [(rows, .illegal, 0),
        (len x.t h.keff + (if x.m 8 then h.keff / 32 else 0) ≤ pa * 64 ∧ h.n * 4 ≤ pc * 64, .illegal, 0),
        (x.m 8 = true → h.keff % 32 = 0, .illegal, 0), (h.valid = true ∧ arrPair h.ty x.t, .illegal, 0), (a % 64 = 0, .align, a),
        (b % 64 = 0, .align, b), (b + out ≤ Space.size .cb, .buffer, b)]) ∧
     asks (c.chkZero x) [(b ≠ 0 ∧ b < 2 ^ 32, .illegal, 0), (a % 64 = 0 ∧ b % 64 = 0, .align, a), (a + b ≤ Space.size .cb, .buffer, a)] ∧
     (let R := bits w 0 16
      let n := bits w 16 7 + 1
      let scl : Prop := bits w 23 1 = 1
      let ps := bits w 24 8
      let pd := bits w 32 8
      let so := bits w 40 21
      let wt := ETy.bits x.t
      let sEnd := a + (R - 1) * ps * 64 + (n * 32 + 7) / 8
      let dEnd := b + (R - 1) * pd * 64 + (n * wt + 7) / 8
      asks (c.chkDrain x) [(bits w 61 3 = 0 ∧ 1 ≤ R ∧ R ≤ 4096 ∧ (¬ scl → so = 0), .illegal, 0),
        (n * 4 ≤ ps * 64 ∧ n * wt / 8 ≤ pd * 64, .illegal, 0),
        (scl → so < Space.size .wb → (c.fmtAt .wb so).ty = .f32 ∧ (c.fmtAt .wb so).bs = false, .illegal, 0),
        (a % 64 = 0, .align, a), (b % 64 = 0, .align, b), (so % 64 = 0, .align, so),
        (sEnd ≤ Space.size .cb ∧ dEnd ≤ Space.size .cb, .buffer, a), (scl → so < Space.size .wb ∧ rel so + n * 4 ≤ 0x18000, .buffer, so),
        ((b = a ∧ pd = ps) ∨ sEnd ≤ b ∨ dEnd ≤ a, .buffer, b)]) ∧
     asks (c.chkCfg x) [(a < 32 ∧ a % 4 ≠ 3, .illegal, 0)] ∧
     asks (c.chkPip x) [(a % 64 = 0, .align, a), (a + 1088 ≤ Space.size .cb, .buffer, a)] ∧
     (let mode := x.mf 11 2
      let qo := bits a 0 24
      let nq := bits a 32 8 + 1
      let d := bits a 40 8 + 1
      let pq := bits a 48 16
      let oo := bits b 0 20
      let po := bits b 24 8
      let sp : Space := if x.m 8 then .wb else .ab
      let f := c.fmtAt sp qo
      let span := (nq - 1) * pq * 64 + len f.ty d
      let inQ : Prop := qo < Space.size sp
      asks (v.chkBind x) [(c.chRec.bound = false, .illegal, 0),
        (bits a 24 8 = 0 ∧ nq ≤ 128 ∧ d ≤ 128 ∧ bits b 20 4 = 0, .illegal, 0),
        ((mode = 0 ∨ mode = 3 → w = 0) ∧ (mode = 1 → w < 2 ^ 32), .illegal, 0), (bits (bits b 32 32) 23 8 ≠ 0xFF, .illegal, 0),
        ((inQ → len f.ty d ≤ pq * 64) ∧ d * ETy.bits x.t / 8 ≤ po * 64, .illegal, 0), (inQ → arrTy f.ty, .illegal, 0),
        (qo % 64 = 0, .align, qo), (oo % 64 = 0, .align, oo),
        (inQ ∧ v.ringOk sp qo span = true ∧ v.rowIn sp qo qo span = true, .buffer, qo),
        (oo + (nq - 1) * po * 64 + d * ETy.bits x.t / 8 ≤ Space.size .cb, .buffer, oo)]) ∧
     (let nk := bits w 0 8 + 1
      let base := if bits w 8 1 = 1 then bits w 32 32 else c.chRec.kpos
      let word : Prop := nk ≤ 128 ∧ bits w 9 23 = 0 ∧ (bits w 8 1 = 0 → bits w 32 32 = 0)
      let ko := bits a 0 24
      let vo := bits b 0 24
      let pk := bits a 24 16 * 64
      let pv := bits b 24 16 * 64
      let fk := c.fmtAt .ab ko
      let fv := c.fmtAt .ab vo
      let kl := len fk.ty c.chRec.d
      let vl := len fv.ty c.chRec.d
      let inK : Prop := ko < Space.size .ab
      let inV : Prop := vo < Space.size .ab
      asks (v.chkKv x) [(c.chRec.bound = true, .illegal, 0), (bits a 40 24 = 0 ∧ bits b 40 24 = 0, .illegal, 0), (word, .illegal, 0),
        (base + nk ≤ 2 ^ 32, .illegal, 0), ((inK → kl ≤ pk) ∧ (inV → vl ≤ pv), .illegal, 0),
        ((inK → qkPair c.chRec.qty c.chRec.qbs fk.ty fk.bs) ∧ (inV → arrTy fv.ty ∧ fv.ty ≠ .lg6), .illegal, 0),
        (ko % 64 = 0, .align, ko), (vo % 64 = 0, .align, vo),
        (inK ∧ v.ringOk .ab ko ((nk - 1) * pk + kl) = true ∧ ∀ r, r < nk → v.rowIn .ab ko (ko + r * pk) kl = true, .buffer, ko),
        (inV ∧ v.ringOk .ab vo ((nk - 1) * pv + vl) = true ∧ ∀ r, r < nk → v.rowIn .ab vo (vo + r * pv) vl = true, .buffer, vo)] ∧
      (c.lbRec.toList.getD a none = none → asks (c.chkLink x) [(c.chRec.bound = true, .illegal, 0),
        (a < 256 ∧ bits b 56 8 = 0, .illegal, 0), (word, .illegal, 0), (base + nk ≤ 2 ^ 32, .illegal, 0), (vo % 64 = 0, .align, vo),
        (False, .buffer, a)]) ∧
      ∀ bw rw, c.lbRec.toList.getD a none = some (bw, rw) →
        let kt := bits bw.toNat 8 4
        let vt := bits bw.toNat 16 4
        let kbs := bit bw.toNat 12
        let len' (t : ETy) (bs : Bool) : Nat := len t c.chRec.d + (if bs then (c.chRec.d + 31) / 32 else 0)
        let kl := len' (tyOf kt) kbs
        let vl := len' (tyOf vt) (bit bw.toNat 20)
        let pv := bits b 40 16 * 64
        let pk := bits b 24 16 * 64
        asks (c.chkLink x) [(c.chRec.bound = true, .illegal, 0), (a < 256 ∧ bits b 56 8 = 0, .illegal, 0), (word, .illegal, 0),
          (base + nk ≤ 2 ^ 32, .illegal, 0), (kl ≤ pk ∧ vl ≤ pv, .illegal, 0),
          (kt < 12 ∧ vt < 12 ∧ qkPair c.chRec.qty c.chRec.qbs (tyOf kt) kbs ∧ arrTy (tyOf vt) ∧ tyOf vt ≠ .lg6, .illegal, 0),
          (vo % 64 = 0, .align, vo),
          ((nk - 1) * pk + kl ≤ regLen rw ∧ vo + (nk - 1) * pv + vl ≤ regLen rw, .buffer, regOff rw)]) ∧
     asks (c.chkMask x) [(c.chRec.bound = true, .illegal, 0), (c.chRec.mode = 3, .illegal, 0), (a % 64 = 0, .align, a),
       (v.runIn .ab a 2048 = true, .buffer, a)] ∧
     asks c.chBound [(c.chRec.bound = true, .illegal, 0)] ∧
     ∀ bound : Bool, asks (v.chkImage x bound) [(c.chRec.bound = bound, .illegal, 0), (a % 64 = 0, .align, a),
       (v.runIn (if x.m 1 then .ab else .cb) a 106496 = true, .buffer, a)])

/-- R289, R290, R293 to R307: the commands of XE are checked and pushed; `xmap` changes the record of its slot; the operation word of
`xext` says which of its two it is. What each asks of its operands stands in the order of its checks, each with the class and the address
of its trap. An envelope is taken modulo the ring that it starts in (DEDUCED, log entry 105). -/
def Obligations.TransferCommandsPush : Prop :=
  ∀ (s : State) (x : Ecmd),
    let c := s.ctx
    let a := (c.src x.a).toNat
    let move (i : Instr) (k : XK) (cls : Option Nat) : Prop :=
      s.pushes x i .xe (s.chkMove s.cur c.pushView { k, x, a, b := (c.src x.b).toNat, c := (c.src x.c).toNat }) (fun r m _ =>
        m.reads = r.1 ∧ m.writes = r.2 ∧ m.gcls = cls)
    move (.xcopy x) .copy none ∧ move (.xget x) .get (some (Ecmd.oc4 x)) ∧ move (.xput x) .put (some (Ecmd.oc4 x)) ∧
    move (.xfill x) .fill none ∧ move (.xtrans x) .trans none ∧ move (.xmcast x) .mcast none ∧
    s.pushes x (.xlist x) .xe (c.chkList x) (fun es m _ => m.reads = es ∧ m.writes = es ∧ m.gcls = some (Ecmd.oc4 x)) ∧
    s.pushes x (.xmap x) .xe (c.chkMap a) (fun _ m t =>
      m.writes = mapRng (c.xmRec.toList.getD (a / 16 % 8) 0).toNat ++ mapRng (slotWord a) ∧
      slotSet c.xmRec t.xmRec (a / 16 % 8) (BitVec.ofNat 64 (slotWord a))) ∧
    s.pushes x (.xpub x) .xe (c.chkPub x) (fun _ m t =>
      m.writes = [{ buf := .ab, lo := a * 0x30000, hi := a * 0x30000 + 0x18000 }, shadowRng (a * 0x30000) (a * 0x30000 + 0x18000)] ∧ t.xmRec = c.xmRec) ∧
    (a % 4 = 1 → s.pushes x (.xextAdd x) .xe (s.chkExt x)) ∧ (a % 4 ≠ 1 → s.pushes x (.xextRelease x) .xe (s.chkExt x)) ∧
    exec (.xextAdd x) s = exec (.xextRelease x) s ∧
    -- what the operands must be
    (let v := c.pushView
     let b := (c.src x.b).toNat
     let w := (c.src x.c).toNat
     let sh : Prop := x.m 7 = true
     let ls := LocW.of a
     let ld := LocW.of b
     let whole (n : Nat) : Prop := n % 64 = 0 ∧ 64 ≤ n ∧ n ≤ 0x180000
     let apart (ns nd : Nat) : Prop := ls.sp = ld.sp → meetsAny (v.ranges ls.space ls.off ns) (v.ranges ld.space ld.off nd) = false
     (∀ k : XK, k = .copy ∨ k = .get ∨ k = .put →
       let n := bits w 0 24
       let h := bits w 24 12 + 1
       let gp := bits w 36 28
       let src : Prop := k ≠ .get
       let dst : Prop := k ≠ .put
       let fs := if k = .get then globFmt x else v.sideFmt x ls
       let fd := if k = .put then globFmt x else v.sideFmt x ld
       let sl := rowLen fs n (k == .get)
       let dl := rowLen fd n (k == .put)
       let ga := if k = .get then a else b
       let ns := (h - 1) * ls.pitch + sl
       let nd := (h - 1) * ld.pitch + dl
       asks (v.chkCopy { k, x, a, b, c := w }) [(n ≠ 0 ∧ (k = .copy → gp = 0), .illegal, 0),
         ((src → ls.good a) ∧ (dst → ld.good b), .illegal, 0), (dst → x.mf 2 4 = 0 ∨ ld.sp = 3, .illegal, 0),
         (x.m 8 = true → k ≠ .copy ∧ n % 32 = 0 ∧ (if k = .put then ls.sp else ld.sp) ≠ 3, .illegal, 0),
         (((src → ls.inside) → n * ETy.sw fs.ty % 8 = 0) ∧ ((dst → ld.inside) → n * ETy.sw fd.ty % 8 = 0), .illegal, 0),
         (h = 1 ∨ ((src → ls.inside → sl ≤ ls.pitch) ∧ (¬ src → sl ≤ gp) ∧ (dst → ld.inside → dl ≤ ld.pitch) ∧ (¬ dst → dl ≤ gp)), .illegal, 0),
         (sh → dst → v.shOk ld nd = true, .illegal, 0),
         (k ≠ .copy → ga % max 1 (ETy.sw x.t / 8) = 0 ∧ gp % max 1 (ETy.sw x.t / 8) = 0, .align, ga),
         (src → ls.off % 64 = 0 ∧ ls.pitch % 64 = 0, .align, ls.off), (dst → ld.off % 64 = 0 ∧ ld.pitch % 64 = 0, .align, ld.off),
         (src → v.locBuf ls h sl ns = true, .buffer, ls.off), (dst → v.locBuf ld h dl nd = true ∧ (fd.bs = true → n % 32 = 0), .buffer, ld.off),
         (k = .copy → ¬ sh → apart ns nd, .buffer, ld.off)]) ∧
     (let h := bits w 0 8 + 1
      let n := bits w 8 8 + 1
      let z := ETy.sw x.t / 8
      let ns := (h - 1) * ls.pitch + n * z
      let nd := (n - 1) * ld.pitch + h * z
      asks (v.chkTrans { k := .trans, x, a, b, c := w }) [(bits w 16 48 = 0 ∧ ls.good a ∧ ld.good b ∧ ETy.sw x.t ≠ 4, .illegal, 0),
        ((h ≠ 1 → n * z ≤ ls.pitch) ∧ (n ≠ 1 → h * z ≤ ld.pitch), .illegal, 0), (sh → v.shOk ld nd = true, .illegal, 0),
        (ls.off % 64 = 0 ∧ ls.pitch % 64 = 0, .align, ls.off), (ld.off % 64 = 0 ∧ ld.pitch % 64 = 0, .align, ld.off),
        (ls.sp ≠ 4 ∧ v.runIn ls.space ls.off ns = true, .buffer, ls.off), (ld.sp ≠ 4 ∧ v.runIn ld.space ld.off nd = true, .buffer, ld.off),
        (¬ sh → apart ns nd, .buffer, ld.off)]) ∧
     asks (v.chkFill { k := .fill, x, a, b, c := w }) [(ls.good a ∧ ls.pitch = 0 ∧ whole w, .illegal, 0), (sh → v.shOk ls w = true, .illegal, 0),
       (ls.off % 64 = 0, .align, ls.off), (ls.sp ≠ 4 ∧ v.runIn ls.space ls.off w = true, .buffer, ls.off)] ∧
     (let mask := bits b 0 8
      let bf := bits b 8 2
      let off := bits b 16 24
      asks (s.chkMcast s.cur v { k := .mcast, x, a, b, c := w }) [
        (ls.good a ∧ ls.pitch = 0 ∧ bits b 10 6 = 0 ∧ bits b 40 24 = 0 ∧ mask ≠ 0 ∧ bf ≠ 3 ∧ whole w, .illegal, 0),
        (sh → off % 0x18000 + w ≤ 0x18000 ∧ off / 0x18000 % 2 = 0, .illegal, 0), (ls.off % 64 = 0, .align, ls.off), (off % 64 = 0, .align, off),
        (ls.sp ≠ 4 ∧ v.runIn ls.space ls.off w = true, .buffer, ls.off), (off + w ≤ Space.size (bufOf bf), .buffer, off),
        (∀ i, i < 8 → bits mask i 1 = 1 → s.hasCore c.fn.val (s.cur.val / 8 * 8 + i) = true, .access, off)]) ∧
     (let env (u : Nat) : Prop := bits u 3 5 = 0 ∧ 1 ≤ bits u 0 3 ∧ bits u 0 3 ≤ 4
      let fits (u : Nat) : Prop := bits u 0 3 ≠ 4 ∧ v.envIn u = true
      asks (v.chkList x) [(env b ∧ (w ≠ 0 → env w), .illegal, 0), (a % 64 = 0, .align, a), (bits b 8 24 % 64 = 0, .align, bits b 8 24),
        (bits w 8 24 % 64 = 0, .align, bits w 8 24), (fits b, .buffer, bits b 8 24), (w ≠ 0 → fits w, .buffer, bits w 8 24)]) ∧
     (let mt := bits a 0 3
      let at' := bits a 8 24
      let size := bits a 32 24
      asks (c.chkMap a) [(mt < 3 ∧ bits a 3 1 = 0 ∧ bits a 7 1 = 0 ∧ bits a 56 8 = 0, .illegal, 0),
        ((mt = 0 → at' = 0 ∧ size = 0) ∧
          (mt = 1 → at' % 64 = 0 ∧ size % 64 = 0 ∧ 128 ≤ size ∧ size ≤ 0x180000 ∧ at' + size ≤ 0x180000) ∧
          (mt = 2 → at' % 0x30000 = 0 ∧ at' / 0x30000 < 8 ∧ size = 0x18000), .illegal, 0),
        (∀ i : Fin 8, i.val ≠ bits a 4 3 →
          meetsAny ((mapRng (slotWord a)).take 1) ((mapRng (c.xmRec[i]).toNat).take 1) = false, .illegal, 0)]) ∧
     asks (c.chkPub x) [(a < 8 ∧ ∃ i : Fin 8, bits (c.xmRec[i]).toNat 0 3 = 2 ∧ bits (c.xmRec[i]).toNat 8 24 = a * 0x30000, .illegal, 0)] ∧
     (let n := bits b 0 32
      asks (s.chkExt x) [((bits a 0 2 = 1 ∨ bits a 0 2 = 2) ∧ bits a 2 6 = 0 ∧ bits a 11 5 = 0 ∧ bits a 35 29 = 0, .illegal, 0),
        (1 ≤ n ∧ n ≤ 524288 ∧ bits a 16 19 + n ≤ 524288, .illegal, 0),
        ((s.func c.fn.val).pool.getLsbD (bits a 8 3) = true, .access, 0)]))

/-- R317 to R330: the commands of FI are checked and pushed; `rflag` for the own node enters its flag in the set-map; the bind and
release of a link buffer change its record. What each asks of its operands stands in the order of its checks, each with the class and
the address of its trap. The payload of `renq` is read as earlier stores that still wait will leave the buffer (DESIGN CHOICE, log
entry 77). -/
def Obligations.FabricCommandsPush : Prop :=
  ∀ (s : State) (x : Ecmd),
    let c := s.ctx
    let a := (c.src x.a).toNat
    let b := (c.src x.b).toNat
    let w := (c.src x.c).toNat
    let atomic (i : Instr) : Prop := s.pushes x i .fi (c.chkRatom x) (fun _ m _ => m.reads = [] ∧ m.writes = [] ∧ m.gcls = some (Ecmd.oc4 x))
    let flag (i : Instr) : Prop := s.pushes x i .fi (s.chkRflag x) (fun _ m t => m.reads = [] ∧ m.writes = [] ∧
      ∀ k : Fin 512, t.setmap.getLsbD k = (c.setmap.getLsbD k || (decide (a % 2 ^ 12 = s.nodeId) && k.val == a / 2 ^ 16 % 2 ^ 9)))
    let rng (v : Word) : List Rng := [{ buf := .ab, lo := regOff v, hi := regOff v + regLen v }]
    s.pushes x (.rld x) .fi (c.pushView.chkRemote a b w) (fun r m _ => m.reads = [] ∧ m.writes = r ∧ m.gcls = some (Ecmd.oc4 x)) ∧
    s.pushes x (.rst x) .fi (c.pushView.chkRemote b a w) (fun r m _ => m.reads = r ∧ m.writes = [] ∧ m.gcls = some (Ecmd.oc4 x)) ∧
    atomic (.ratomAdd x) ∧ atomic (.ratomAnd x) ∧ atomic (.ratomOr x) ∧ atomic (.ratomXor x) ∧ atomic (.ratomMin x) ∧ atomic (.ratomMax x) ∧
    atomic (.ratomMinn x) ∧ atomic (.ratomMaxn x) ∧ atomic (.ratomXchg x) ∧ atomic (.ratomCas x) ∧ atomic (.ratomFadd x) ∧ atomic (.ratomFmax x) ∧
    s.pushes x (.renq x) .fi (s.chkRenq x) (fun n m _ => m.reads = [] ∧ m.writes = [] ∧ m.pay = (s.portView s.cur).bufLoad s.cur .jb b n) ∧
    flag (.rflagSet x) ∧ flag (.rflagInc x) ∧ flag (.rflagClr x) ∧
    s.pushes x (.lbufBind x) .fi (c.chkLbind x) (fun _ m t => m.reads = [] ∧ m.writes = rng (c.src x.b) ∧
      slotSet c.lbRec t.lbRec (a % 16) (some (c.src x.a, c.src x.b))) ∧
    s.pushes x (.lbufRelease x) .fi (c.chkLrel x) (fun r m t => m.reads = [] ∧ m.writes = rng r ∧ slotSet c.lbRec t.lbRec (a % 16) none) ∧
    -- what the operands must be
    (∀ va lw len : Nat,
      let l := LocW.of lw
      asks (c.pushView.chkRemote va lw len) [(l.good lw ∧ l.pitch = 0 ∧ len % 64 = 0 ∧ 64 ≤ len ∧ len ≤ 4096, .illegal, 0),
        (va % 64 = 0, .align, va), (l.off % 64 = 0, .align, l.off), (l.sp = 2, .buffer, l.off),
        (c.pushView.runIn .ab l.off len = true, .buffer, l.off)]) ∧
    asks (c.chkRatom x) [(a % accW x.t (x.m 8) = 0, .align, a)] ∧
    (let hdr := leNat ((s.portView s.cur).bufLoad s.cur .jb b 8)
     let fits : Prop := b % 8 = 0 ∧ 0x8000 ≤ b ∧ b + 8 ≤ Space.size .jb
     asks (s.chkRenq x) [(bits a 19 1 = 0 ∧ bits a 22 42 = 0 ∧ ¬ (bits a 0 12 = s.nodeId ∧ bits a 12 7 = s.cur.val), .illegal, 0),
       (fits → bits hdr 0 3 ≠ 0 ∧ bits hdr 3 13 = 0 ∧ bits hdr 25 6 = 0 ∧ bits hdr 32 32 = 0, .illegal, 0),
       (fits ∧ b + 8 + 32 * bits hdr 0 3 ≤ Space.size .jb, .buffer, b),
       (s.reachable c.fn.val (bits a 0 12) = true, .peer, bits a 0 12)]) ∧
    asks (s.chkRflag x) [(bits a 12 4 = 0 ∧ bits a 25 39 = 0, .illegal, 0),
      (s.reachable c.fn.val (bits a 0 12) = true, .peer, bits a 0 12)] ∧
    (let off := bits b 8 24
     let n := bits b 32 24
     asks (c.chkLbind x) [(bits a 4 4 = 0 ∧ bits a 13 3 = 0 ∧ bits a 21 11 = 0 ∧ bits a 42 22 = 0, .illegal, 0),
       (bits b 0 8 = 0 ∧ bits b 56 8 = 0 ∧ n % 64 = 0 ∧ 64 ≤ n ∧ n ≤ 0x40000, .illegal, 0),
       (c.lbRec.toList.getD (bits a 0 4) none = none, .illegal, 0), (off % 64 = 0, .align, off),
       (off + n ≤ Space.size .ab ∧ c.pushView.hidden .ab off n = false, .buffer, off)]) ∧
    asks (c.chkLrel x) [(a < 16 ∧ (c.lbRec.toList.getD (bits a 0 4) none).isSome = true, .illegal, 0)]

/-- R341 to R361: the commands of the coded collectives are checked against the record of their slot and pushed; opening, closing, and
binding or releasing a decode buffer change it. What each asks of its operands stands in the order of its checks, each with the class
and the address of its trap. -/
def Obligations.CodedCommandsPush : Prop :=
  ∀ (s : State) (x : Ecmd),
    let c := s.ctx
    let a := (c.src x.a).toNat
    let b := (c.src x.b).toNat
    let classed (m : Cmd) (y : Bool) : Prop := m.reads = [] ∧ m.gcls = if y then some (Ecmd.oc4 x) else none
    let same (t : Ctx) : Prop := t.cmRec = c.cmRec
    s.pushes x (.cmset x) .fi (c.chkCmset x) (fun r m t => classed m true ∧ m.writes = [] ∧ slotSet c.cmRec t.cmRec (a % 8) (some r)) ∧
    s.pushes x (.cmsetClose x) .fi (c.cmOpen a) (fun _ m t => classed m false ∧ m.writes = [] ∧ slotSet c.cmRec t.cmRec a none) ∧
    s.pushes x (.cmheld x) .fi (c.chkHeld x) (fun _ m t => classed m true ∧ m.writes = [] ∧ same t) ∧
    s.pushes x (.cmheldClr x) .fi (c.chkHeldClr x) (fun _ m t => classed m false ∧ m.writes = [] ∧ same t) ∧
    s.pushes x (.cmdec x) .fi (s.chkDec x) (fun r m t => classed m false ∧ m.writes = [] ∧ slotSet c.cmRec t.cmRec a (some r)) ∧
    s.pushes x (.cmdecRel x) .fi (c.cmOpen a) (fun r m t => classed m false ∧ m.writes = [] ∧
      slotSet c.cmRec t.cmRec a (some { r with dec := none })) ∧
    s.pushes x (.cmgath x) .fi (c.chkGath x true) (fun _ m t => classed m true ∧ m.writes = [] ∧ same t) ∧
    s.pushes x (.cmshuf x) .fi (c.chkGath x false) (fun _ m t => classed m true ∧ m.writes = [] ∧ same t) ∧
    s.pushes x (.cmpol x) .fi (c.chkPol x) (fun _ m t => classed m false ∧ m.writes = [] ∧ same t) ∧
    s.pushes x (.cmstat x) .fi (c.chkStat x) (fun _ m t => classed m false ∧ m.writes = [{ buf := .ab, lo := b, hi := b + 64 }] ∧ same t) ∧
    -- what the operands must be
    (let w := (c.src x.c).toNat
     let rec? (i : Nat) : Option CmRec := c.cmRec.toList.getD (i % 8) none
     let opened (i : Nat) : Prop := i < 8 ∧ (rec? i).isSome = true
     let bound (P : CmRec → Prop) : Prop := ∀ r, rec? a = some r → r.dec.isSome = true ∧ P r
     (let p := bits a 8 6 + 1
      let k := bits w 8 16
      let r := bits w 28 2 + 1
      asks (c.chkCmset x) [
        (bits a 3 5 = 0 ∧ bits a 14 2 = 0 ∧ bits a 22 10 = 0 ∧ bits a 48 16 = 0 ∧ 2 ≤ p ∧ bits a 16 6 < p, .illegal, 0),
        (bits w 0 3 ≤ 5 ∧ bits w 3 5 = 0 ∧ 1 ≤ k ∧ bits w 24 4 ≤ 1 ∧ bits w 30 34 = 0 ∧ r ≤ p ∧ p * k * r ≤ 2 ^ 20, .illegal, 0),
        (c.cmRec.toList.getD (bits a 0 3) none = none, .illegal, 0), (b % 64 = 0, .align, b)]) ∧
     (∀ i, asks (c.cmOpen i) [(opened i, .illegal, 0)]) ∧
     asks (c.chkHeld x) [(opened a, .illegal, 0), (bound (fun _ => 1 ≤ bits w 0 32 ∧ bits w 0 32 ≤ 4096), .illegal, 0), (b % 64 = 0, .align, b)] ∧
     asks (c.chkHeldClr x) [(opened a, .illegal, 0), (bound (fun _ => True), .illegal, 0)] ∧
     (let off := bits b 8 24
      let len := bits b 32 24
      asks (s.chkDec x) [(opened a, .illegal, 0),
        (∀ r, rec? a = some r → r.dec = none ∧ bits b 4 4 = 0 ∧ bits b 56 8 = 0 ∧ 4096 ≤ len ∧ len ≤ 0x800000 ∧ off + len ≤ 0x800000 ∧
          4096 * ((2 * r.p * r.k * r.r + 32767) / 32768) + 128 * 2 ^ r.z ≤ len, .illegal, 0),
        (off % 4096 = 0 ∧ len % 4096 = 0, .align, off), (s.cacheOk c.fn.val (bits b 0 4) off len = true, .access, off)]) ∧
     (∀ one : Bool, asks (c.chkGath x one) [(opened a, .illegal, 0), (bound (fun r => one = true → r.r = 1), .illegal, 0),
       (b % 64 = 0, .align, b), (w % 64 = 0, .align, w)]) ∧
     asks (c.chkPol x) [(bits a 3 5 = 0 ∧ bits a 8 2 ≠ 3 ∧ bits a 10 54 = 0, .illegal, 0), (opened (bits a 0 3), .illegal, 0)] ∧
     asks (c.chkStat x) [(opened a, .illegal, 0), (b % 64 = 0, .align, b), (c.pushView.runIn .ab b 64 = true, .buffer, b)])

/-- R125 to R127, R378 to R397: the task commands are checked and pushed; the claim of a chunk, `join`, `prio`, `yield`, what `live`
declares, and the end of a context. What each asks of its operands stands in the order of its checks, each with the class and the
address of its trap. The model's own choices: the token of `nest` is written at now + 8 (DESIGN CHOICE, log entry 16); the payloads of `spawn`
and `egput` are read as earlier stores that still wait will leave the buffer (DESIGN CHOICE, log entry 77); a ninth live region that
reaches past its buffer takes BUFFER, not ILLEGAL (DESIGN CHOICE, log entry 84). -/
def Obligations.TaskOperations : Prop :=
  ∀ (s : State) (x : Ecmd) (d : Edst) (l : LiveA) (r : LiveR) (g : Guard),
    let c := s.ctx
    let a := (c.src x.a).toNat
    let b := (c.src x.b).toNat
    let waits (m : Cmd) : Prop := m.ext = [c.nextAcc] ∧ m.reads = [] ∧ m.writes = []
    s.pushes x (.spawn x) .fi (s.chkSpawn x) (fun _ m _ => waits m ∧ m.pay = (s.portView s.cur).bufLoad s.cur .jb a 128) ∧
    s.pushes x (.ecinit x) .fi (ecChk s c a b true) (fun _ m _ => waits m) ∧ s.pushes x (.ecdone x) .fi (ecChk s c a b false) (fun _ m _ => waits m) ∧
    -- what the operands must be
    (let r := LRec.of ((s.portView s.cur).bufLoad s.cur .jb a 128)
     let fits : Prop := a % 64 = 0 ∧ 0x8000 ≤ a ∧ a + 128 ≤ Space.size .jb
     asks (s.chkSpawn x) [(bits b 5 59 = 0, .illegal, 0),
       (fits → r.shapeOk = true ∧ r.wen = false ∧ r.waitc = 0 ∧ r.cores ≠ 0, .illegal, 0), (a % 64 = 0, .align, a), (fits, .buffer, a),
       (r.fn = c.fn.val ∧ r.prio ≤ bits (s.lq c.lq.val).qctl.toNat 4 3 ∧ r.cores &&& ~~~(s.func c.fn.val).cores = 0 ∧
         (r.den = true → s.flagOk c.fn.val r.dflag = true), .access, 0)]) ∧
    asks (ecChk s c a b true) [(1 ≤ b ∧ b ≤ 65535, .illegal, 0), (bits a 4 4 = 0 ∧ bits a 15 1 = 0 ∧ bits a 26 38 = 0, .illegal, 0),
      ((s.func c.fn.val).trees.getLsbD (a % 16) = true, .access, 0),
      (s.hasCore c.fn.val (bits a 8 7) = true ∧ (bits a 25 1 = 1 → s.flagOk c.fn.val (bits a 16 9) = true), .access, 0)] ∧
    asks (ecChk s c a b false) [(1 ≤ b ∧ b ≤ 65535, .illegal, 0), (a < 16, .illegal, 0),
      ((s.func c.fn.val).trees.getLsbD (a % 16) = true, .access, 0)] ∧
    (let usable : Prop := bits (s.eq a).ctl.toNat 40 4 = c.fn.val ∧ (s.eq a).ctl.getLsbD 0 = true
     asks (s.chkEgput x) [(a < 32, .illegal, 0), (b % 16 = 0, .align, b), (0x8000 ≤ b ∧ b + 48 ≤ Space.size .jb, .buffer, b), (usable, .access, 0)] ∧
     asks (s.egChk x) [(a < 32, .illegal, 0), (usable, .access, 0)]) ∧
    s.pushes x (.egput x) .fi (s.chkEgput x) (fun _ m _ => waits m ∧ m.pay = (s.portView s.cur).bufLoad s.cur .jb b 48) ∧
    s.pushes x (.egrel x) .fi (s.egChk x) (fun _ m _ => waits m) ∧ s.pushes x (.egdrop x) .fi (s.egChk x) (fun _ m _ => waits m) ∧
    (c.guard x.g = true →
      (c.nestOf = none → exec (.nest x) s = .next (s.precise x.g .e .illegal 0)) ∧
      (∀ id n e, c.nestOf = some id → (h : id < 16) → s.nests[id] = some n → n.ctxs.find? (fun f => f.serial == c.serial) = some e →
        ∃ t, exec (.nest x) s = .next t ∧ t.ctx.toks = (c.tokenPend x.tok).toks ∧ t.mem = s.mem ∧ s.regsKept t ∧
          t.ctx.tokDue = c.tokDue ++ [(s.now + 8, x.tok, if e.cur < e.fin then BitVec.ofNat 64 e.cur else 0x8000000000000000)] ∧
          (e.cur < e.fin → ∃ n2, t.nests[id] = some n2 ∧ n2.ctxs = n.ctxs.map (fun (f : NestCtx) => if f.serial = c.serial then { f with cur := f.cur + 1 } else f))) ∧
      (a < 16 → (∀ j ∈ c.joinTok, j.1 ≠ a) →
        exec (.join x) s = .next (s.setCtx { c.tokenPend x.tok with joinTok := c.joinTok ++ [(a, x.tok, x.m 0)] })) ∧
      (16 ≤ a ∨ (∃ j ∈ c.joinTok, j.1 = a) → exec (.join x) s = .next (s.precise x.g .e .illegal 0))) ∧
    (c.guard d.g = true →
      let p := (c.src d.a).toNat
      let top := (s.lq c.lq.val).qctl.toNat / 16 % 8
      let res (v : Nat) : Flight := { fin := s.now + 1, born := s.now, code := sCode d.d, slot := .e, val := BitVec.ofNat 64 v, sq := d.g.sq }
      (d.g.sq = false → p ≤ 7 → p ≤ top →
        ∃ t, exec (.prio d) s = .next t ∧ t.ctx.pri.val = p ∧ t.ctx.flight = c.flight ++ [res c.pri.val] ∧ s.regsKept t) ∧
      (7 < p → exec (.prio d) s = .next (s.precise d.g .e .illegal 0)) ∧
      (p ≤ 7 → top < p → exec (.prio d) s = .next (s.precise d.g .e .access 0)) ∧
      (d.g.sq = false → (s.works s.cur = [] → exec (.yield d) s = .next (s.setCtx { c with flight := c.flight ++ [res 0] })) ∧
        (∀ k ∈ s.works s.cur, c.spri ≤ k.prio → s.lend c.lq.val ≤ k.prio →
          ∃ t st, exec (.yield d) s = .next t ∧ (t.core s.cur).stop = some st ∧ st.why = .yield))) ∧
    (c.guard g = true →
      exec (.liveNone g) s = .next (s.setCtx { c with liveS := 0, liveT := 0, liveBuf := false, liveR := [] }) ∧
      exec (.liveAll g) s = .next (s.setCtx { c with liveS := BitVec.allOnes 64, liveT := BitVec.allOnes 16, liveBuf := true, liveR := [] }) ∧
      exec (.liveRclr g) s = .next (s.setCtx { c with liveBuf := false, liveR := [] })) ∧
    (c.guard l.g = true →
      exec (.liveS l) s = .next (s.setCtx { c with liveS := c.src l.a }) ∧ exec (.liveT l) s = .next (s.setCtx { c with liveT := (c.src l.a).setWidth 16 }) ∧
      ∃ t, exec (.endCtx l) s = .next t ∧ t.ctx.ended = some ((c.src l.a).setWidth 32) ∧ s.regsKept t ∧ t.mem = s.mem ∧ t.ctx.flight = c.flight ∧
        t.ctx.cmds = c.cmds) ∧
    (c.guard r.g = true →
      let lo := (c.src r.a).toNat
      let hi := lo + (c.src r.b).toNat
      (hi ≤ Space.size r.sp → c.liveR.length < 8 →
        exec (.liveR r) s = .next (s.setCtx { c with liveBuf := false, liveR := c.liveR ++ [{ buf := r.sp, lo, hi }] })) ∧
      (hi ≤ Space.size r.sp → 8 ≤ c.liveR.length → exec (.liveR r) s = .next (s.precise r.g .e .illegal 0)) ∧
      (Space.size r.sp < hi → exec (.liveR r) s = .next (s.precise r.g .e .buffer lo)))

/-- R236, R238, R243, R249 to R257, R266, R271, R273, R279 to R283: what ME and CE do at their events. A row of a stream is committed to
CB as its products and sums give it; a drain's row is converted; the rows of `mstrr` arrive; commands complete with their words; a block
steps the chain, and the chain's other commands act. The cycles in which chain commands move their bytes are the model's (`State.ceMoved`:
DEDUCED, log entry 103). -/
def Obligations.ArrayEvents : Prop :=
  -- the rows that a block reads, where their formats are whole bytes without scales
  (∀ (s : State) (c : CoreId) (m : Cmd) (e : Ecmd) (ch : Chain), m.ins = .chkv e →
    let x := s.ctxOf c
    let w := m.c.toNat
    let nk := w % 256 + 1
    let off (o : Word) : Nat := o.toNat % 2 ^ 24
    let pitch (o : Word) : Nat := o.toNat / 2 ^ 24 % 2 ^ 16 * 64
    let ty (o : Word) : ETy := (x.fmtAt .ab (off o)).ty
    let plain (o : Word) : Prop := ETy.bits (ty o) = 8 ∧ (x.fmtAt .ab (off o)).bs = false ∧ x.ringAt (off o) = none ∧
      ∀ j i, j < nk → i < ch.d → (off o + j * pitch o + i) / 0x18000 = off o / 0x18000
    let reads (o : Word) (rows : List Els) : Prop := rows.length = nk ∧ ∀ j i, j < nk → i < ch.d →
      (rows.getD j [])[i]? = some ((s.mem.get (bufKey c .ab (off o + j * pitch o + i))).toNat, 127)
    plain m.a → plain m.b → ∃ k err, s.blockOf c m ch = some (k, err) ∧ k.base = (if w.testBit 8 then w / 2 ^ 32 % 2 ^ 32 else ch.kpos) ∧
      k.kt = ty m.a ∧ k.vt = ty m.b ∧ reads m.a k.k ∧ reads m.b k.v ∧ (s.ecc = [] → err = none)) ∧
  ∀ (s : State) (r : CmdRef) (m : Cmd) (e : Ecmd) (y : ChStat), s.mem.wf = true → s.runs r m →
    let c := r.core
    let x := s.ctxOf c
    let ar := x.arr (e.m 0)
    let a := m.a.toNat
    let b := m.b.toNat
    let w := m.c.toNat
    let S := w % 2 ^ 16
    let done (i : Instr) (v : Word) (P : State → Prop) : Prop := ∃ t, exec i s = .next t ∧ completed s t c m v ∧ P t
    (∀ g, m.ins = .mstr e → m.staged.find? (fun g => g.idx == m.prog) = some g → g.fail = none → m.prog < S → (s.core c).stop = none →
      s.trip = false →
      let f := x.fmtAt .ab a
      let xs := unpackEls g.data ar.sh.keff
      let ends := (stepEnds (s.stepClk c (m.start + 16)) m.hist (g.time - (m.start + 16)) ((stepTimes ar f.ty xs).map Prod.fst)).map Prod.snd
      let off := b + m.prog * (w / 2 ^ 32 % 2 ^ 16) * 64
      let int := unscaledInt ar.sh.ty ar.sh.bs && unscaledInt f.ty f.bs
      off + 4 * ar.sh.n ≤ 0xC0000 → s.sound (bufKey c .cb off) (4 * ar.sh.n) → s.cellBad c (e.m 0) = false →
      (s.takePort c ((.cb, true, ar.sh.n * 4) :: (if e.m 3 then [(.cb, false, ar.sh.n * 4)] else []))).isSome = true →
      m.start + 32 + ends.foldl max 0 ≤ s.now →
      ∃ t, exec (.meRowCommit r) s = .next t ∧ t.goesOn r (fun k => k.prog = m.prog + 1 ∧ k.hist = (ends :: m.hist).take 8) ∧
        bytesBut s t c (bufKey c .cb off) (4 * ar.sh.n) ∧
        ∀ n, n < ar.sh.n → t.mem.num (bufKey c .cb (off + 4 * n)) 4 =
          (outWord ar f.ty int (e.m 4) xs n (if e.m 3 then some (s.mem.num (bufKey c .cb (off + 4 * n)) 4) else none)).1) ∧
    (m.ins = .mdrain e → m.prog < S → s.ecc = [] → (s.core c).stop = none → s.trip = false → m.start + 8 + m.prog + 1 - m.first ≤ s.now →
      let n := w / 2 ^ 16 % 2 ^ 7 + 1
      let z := ETy.bits e.t / 8
      let src := a + m.prog * (w / 2 ^ 24 % 2 ^ 8) * 64
      let dst := b + m.prog * (w / 2 ^ 32 % 2 ^ 8) * 64
      let so := w / 2 ^ 40 % 2 ^ 21
      let val (k : Nat) : Nat :=
        let v := s.mem.num (bufKey c .cb (src + 4 * k)) 4
        let u : Ex := if e.m 1 then Ex.ofInt (sext v 32) else flushIn (e.m 10) (decodeEl v .f32)
        let q : Ex × Fl := if w.testBit 23 then exactMul u (decodeEl (s.mem.num (bufKey c .wb (so + 4 * k)) 4) .f32) else (u, 0)
        (fEl e.t (rmOf (e.mf 11 2)) (e.m 10) (e.m 9) q).1
      dst + n * z ≤ 0xC0000 → ETy.bits e.t % 8 = 0 → (s.takePort c ([(.cb, false, n * 4), (.cb, true, n * ETy.bits e.t / 8)] ++
        if w.testBit 23 then [(.wb, false, n * 4)] else [])).isSome = true →
      ∃ t, exec (.meRowCommit r) s = .next t ∧ t.goesOn r (fun k => k.prog = m.prog + 1) ∧ bytesBut s t c (bufKey c .cb dst) (n * z) ∧
        ∀ k, k < n → t.mem.num (bufKey c .cb (dst + k * z)) z = val k % 256 ^ z) ∧
    (∀ i ans, m.ins = .mstrr e → m.asked.any (fun p => p.1 == i) = true → Answer.legal ans = true →
      let k := (s.rowParts c m e i).length
      (∀ j, j < k → s.trackReady c (.cmd r.seq) (rowPart i j) = true) →
      let n := ar.sh.keff
      let len := elBytes e.t n
      let u : State := (List.range k).foldl (fun (s : State) j => s.dropTrack c (.cmd r.seq) (rowPart i j)) s
      let q := u.gReadVa c (a + i * (w / 2 ^ 16 % 2 ^ 16) * 64) (len + (if e.m 8 then n / 32 else 0)) ans (State.mstrrPol x.fn.val)
      ∃ t, exec (.mstrrRowArrive { core := c, seq := r.seq, idx := i, ans }) s = .next t ∧ t.goesOn r (fun k => ∃ g, k.staged = m.staged ++ [g] ∧
        g.idx = i ∧ g.time = s.now ∧
        (∀ bs, q.2 = .ok bs → g.fail = none ∧ g.data = packEls ((List.range n).map (fun j =>
          (elAt e.t bs j, if e.m 8 then (bs.getD (len + j / 32) 0).toNat else 127)))) ∧
        ∀ cls ad, q.2 = .error (cls, ad) → g.fail = some cls ∧ g.addr = ad)) ∧
    (m.due ≤ s.now → s.ecc = [] → s.meMoved c m = true →
      let comp := Instr.meCommandComplete r
      let streamed (v : Word) : Prop := (v = countWord m.res m.prog ∨ v = countWord (m.res ||| 0x2000000000) m.prog) ∧
        (m.staged = [] → ar.pips ≤ ar.limit → ar.rows ≤ ar.limit → ar.cycles + m.tEnd ≤ ar.limit → v = countWord m.res m.prog)
      let loaded (sparse : Bool) (pat : Nat) : Prop := done comp (countWord 0 (b % 256 + 1)) (fun t =>
        let l := s.loadCells c m sparse pat
        ((t.ctxOf c).arr (e.m 0)).sh = l.1 ∧ ((t.ctxOf c).arr (e.m 0)).cells = l.2)
      (m.ins = .mld e → loaded false 0) ∧ (m.ins = .mldsp e → loaded true (e.mf 5 3)) ∧
      (m.ins = .mstr e → m.prog = S → m.start + 32 + m.tEnd ≤ s.now → ∃ v, streamed v ∧ done comp v (fun _ => True)) ∧
      (m.ins = .mstrr e → m.prog = S → m.start + 32 + m.tEnd ≤ s.now → ∃ v, streamed v ∧ done comp v (fun _ => True)) ∧
      (m.ins = .mzero e → a + b ≤ 0xC0000 → done comp (countWord 0 b) (fun t => bytesBut s t c (bufKey c .cb a) b ∧
        ((s.core c).ring = none → ∀ k, k < b → t.mem.get (bufKey c .cb (a + k)) = 0))) ∧
      (m.ins = .mdrain e → m.prog = S → m.start + 8 + (S - m.first) ≤ s.now → done comp (countWord m.res m.prog) (fun _ => True)) ∧
      (m.ins = .mcfg e → done comp m.res (fun _ => True)) ∧
      (m.ins = .mpip e → done comp m.res (fun t => ∀ g, m.staged = [g] → g.data.length = 1088 → a + 1088 ≤ 0xC0000 →
        bytesBut s t c (bufKey c .cb a) 1088 ∧ ((s.core c).ring = none → ∀ j, j < 1088 → t.mem.get (bufKey c .cb (a + j)) = g.data.getD j 0))) ∧
      (m.ins = .mabort e → s.abortWork c m e = [] → done comp m.res (fun _ => True))) ∧
    (isBlock m.ins = true → (∀ k ∈ x.earlier m, k.eng ≠ .ce ∨ k.aside = true) →
      (x.chain = none → done (.chainBlockCommit r) 0x20000000000 (fun _ => True)) ∧
      (∀ ch k b, x.chain = some ch → s.blockOf c m ch = some (k, none) → s.runBlock c ch m = some b → (s.core c).stop = none → b.vae + 8 ≤ s.now →
        ∃ v, v.setWidth 32 = BitVec.ofNat 32 k.k.length ∧ done (.chainBlockCommit r) v (fun t =>
          ∃ ends, (t.ctxOf c).chain = some { (ch.step x.sa.G x.va.G k).1 with ends }))) ∧
    (m.due ≤ s.now → s.ecc = [] → s.ceMoved c m = true →
      let comp := Instr.chainCommandComplete r
      (m.ins = .chbind e → done comp (BitVec.ofNat 64 (a / 2 ^ 32 % 2 ^ 8 + 1)) (fun t => ∃ ch, (t.ctxOf c).chain = some ch ∧
        ch.nq = a / 2 ^ 32 % 2 ^ 8 + 1 ∧ ch.d = a / 2 ^ 40 % 2 ^ 8 + 1 ∧ ch.mode = e.mf 11 2 ∧ ch.oty = e.t ∧ ch.kpos = 0 ∧
        ch.q = s.qCells c m e ∧ ch.m = List.replicate 128 0xFF800000 ∧ ch.l = List.replicate 128 0 ∧ ch.nm = List.replicate 128 false ∧
        (t.ctxOf c).sa.cells = (List.range ch.d).map (fun k => ch.q.map (fun r => r.getD k { enc := 0 })))) ∧
      (m.ins = .chrest e →
        let img := Chain.ofImage (s.ringRead c (if e.m 1 then .ab else .cb) a a 106496)
        (∀ ch, img = some ch → done comp 106496 (fun t => (t.ctxOf c).chain = some ch)) ∧
        (img = none → ∃ t, exec comp s = .next t ∧ t.goesOn r (fun k => k.fail = some (.illegal, a, 0)))) ∧
      (∀ ch, x.chain = some ch →
        (m.ins = .chdrop e → done comp 0 (fun t => (t.ctxOf c).chain = none)) ∧
        (m.ins = .chsave e → e.m 0 = false → done comp 106496 (fun t => (t.ctxOf c).chain = some ch)) ∧
        (m.ins = .chmask e → done comp 128 (fun t => ∃ bm, (t.ctxOf c).chain = some { ch with bmap := bm } ∧ bm.length = 128 ∧
          (x.ringAt a = none → ∀ i, i < 128 → bm.getD i 0 = s.mem.num (bufKey c .ab (a + 16 * i)) 16))) ∧
        (m.ins = .chfin e → ∃ v, v.setWidth 32 = BitVec.ofNat 32 ch.nq ∧ done comp v (fun t => (t.ctxOf c).chain = none ∧
          let row (i : Nat) : List Nat := (ch.finRow (e.m 0) i).1
          let z := ETy.bits ch.oty / 8
          let at' (i : Nat) : Nat := ch.oword.toNat % 2 ^ 20 + i * (ch.oword.toNat / 2 ^ 24 % 2 ^ 8) * 64
          ((s.core c).ring = none → 1 ≤ z → ETy.bits ch.oty % 8 = 0 →
            (∀ i, i < ch.nq → (row i).length * z ≤ (ch.oword.toNat / 2 ^ 24 % 2 ^ 8) * 64 ∧ at' i + (row i).length * z ≤ 0xC0000) →
            ∀ i j, i < ch.nq → j < (row i).length → t.mem.num (bufKey c .cb (at' i + j * z)) z = (row i).getD j 0 % 256 ^ z))) ∧
        (m.ins = .chstat y → x.rowsIn.1 ≠ s.now → y.ta ≠ y.tb → (∀ z, y.tc = some z → z ≠ y.ta ∧ z ≠ y.tb) → ∃ t, exec comp s = .next t ∧
          (∀ k ∈ (t.ctxOf c).cmds, k.seq = m.seq → k.done = true) ∧
          (∀ z, y.tc = some z → y.sel.val = 1 → ∀ i, i < 128 →
            el ((t.ctxOf c).row z) 32 i = (if i < ch.nq then ch.rs.getD i 0 else 0x3F800000) % 2 ^ 32) ∧
          (∀ z, y.tc = some z → y.sel.val ≠ 1 → ch.nq ≤ 128 → ch.nm.length = 128 →
            let bitAt (i : Nat) : Bool := (el ((t.ctxOf c).row z) 32 (i / 32)).testBit (i % 32)
            (∀ i, i < 128 → bitAt i = (decide (i < ch.nq) && decide (ch.m.getD i 0 = 0xFF800000) && !(ch.nm.getD i false))) ∧
            (∀ i, i < 128 → bitAt (128 + i) = (decide (i < ch.nq) && ch.nm.getD i false)) ∧
            ∀ i, 8 ≤ i → i < 128 → el ((t.ctxOf c).row z) 32 i = 0) ∧
          (∀ i, i < 128 → el ((t.ctxOf c).row y.ta) 32 i = (if i < ch.nq then ch.m.getD i 0 else 0xFF800000) % 2 ^ 32) ∧
          (∀ i, i < 128 → el ((t.ctxOf c).row y.tb) 32 i = (if i < ch.nq then ch.l.getD i 0 else 0) % 2 ^ 32))))

/-- R142, R286 to R288, R290 to R292, R295 to R298, R300, R303, R305 to R307: what XE does at its events. A granule arrives, of `xget` or
of a list of them, or in an owned space; a global unit of `xput` is written at its home or sent to its window, as each unit of `xmcast`
is; a list's header and entries are read and checked; a unit of a local destination is written, a sent one is counted once it has landed;
a publish exchanges the halves of a pair; commands complete with their words, `xext` with firmware's answer. The first clauses say what a
unit holds and where it goes, where both sides are whole bytes without scales. The model's readings: envelopes and rings (DEDUCED, log
entry 105), and an extent change whose context is gone (DEDUCED, log entry 123). -/
def Obligations.TransferEvents : Prop :=
  -- the bytes of a unit of a local destination
  (∀ (s : State) (c : CoreId) (m : Cmd) (o : XOp) (u : Nat) (B : Nat → Byte), s.ecc = [] →
    let x := s.ctxOf c
    let len := x.dstLen o
    let upr := (len + 63) / 64
    let row := u / upr
    let b := u % upr * 64
    let n := min 64 (len - b)
    let la := LocW.of o.a
    let q := s.localUnit c m o u
    let byte (i : Nat) : Byte := s.mem.get (bufKey c la.space (la.off + i))
    let straight : Prop := la.space ≠ .ab ∨ x.ringAt la.off = none
    let holds (bs : List Byte) (f : Nat → Byte) : Prop := bs.length = n ∧ ∀ i, i < n → bs[i]? = some (f i)
    let els (f : Nat → Byte) : Prop := ∃ xs fl t, q.2.2.2 = .els xs fl t ∧ holds (xs.map (fun p => BitVec.ofNat 8 p.1)) f
    let bytes (f : Nat → Byte) : Prop := ∃ bs fl t, q.2.2.2 = .bytes bs fl t ∧ holds bs f
    let w := ETy.sw o.x.t / 8
    let N := cntN o.c
    (q.1 = row ∧ q.2.1 = b ∧ q.2.2.1 = n) ∧
    (o.k = .fill → bytes (fun i => BitVec.ofNat 8 (o.b / 2 ^ (8 * ((b + i) % 8)) % 2 ^ 8))) ∧
    (o.k = .trans → straight → w ≠ 0 → n % w = 0 → bytes (fun i => byte ((b / w + i / w) * la.pitch + row * w + i % w))) ∧
    (o.k = .copy → straight → bytesFmt (x.rowFmt o.x la row) (x.rowFmt o.x (LocW.of o.b) row) → len = N →
      els (fun i => byte (row * la.pitch + b + i))) ∧
    (o.k = .get → bytesFmt (globFmt o.x) (x.rowFmt o.x (LocW.of o.b) row) → len = N → 0 < N → row < o.rows →
      (∀ j va n, o.gParts[j]? = some (va, n) → ∃ g, m.staged.find? (fun g => g.idx == j) = some g ∧ g.fail = none ∧
        g.data = (List.range n).map (fun i => B (va + i))) →
      els (fun i => B (o.gAddr row + b + i)))) ∧
  -- where it goes
  (∀ (s : State) (c : CoreId) (o : XOp) (row b : Nat) (bs : List Byte) (xs : Els) (fl : Fl) (t : Nat),
    let x := s.ctxOf c
    let l := LocW.of (if o.k = .fill then o.a else o.b)
    let a := bufKey c l.space (x.wrapOff l.space l.off (l.off + row * l.pitch + b) + if mSh o.x then 0x18000 else 0)
    (s.putUnit c o row b (.bytes bs fl t)).mem = s.mem.write a bs ∧
    (l.sp = 3 ∨ (x.rowFmt o.x l row).bs = false → ETy.sw (x.rowFmt o.x l row).ty = 8 →
      (s.putUnit c o row b (.els xs fl t)).mem = s.mem.write a (xs.map (fun p => BitVec.ofNat 8 p.1)))) ∧
  -- the bytes of a global unit, and where they go
  (∀ (s : State) (c : CoreId) (m : Cmd) (o : XOp) (row lo hi : Nat), s.ecc = [] →
    let x := s.ctxOf c
    let la := LocW.of o.a
    la.space ≠ .ab ∨ x.ringAt la.off = none → bytesFmt (x.rowFmt o.x la row) (globFmt o.x) → o.k = .put → lo < hi → hi ≤ cntN o.c →
    ∃ bs fl t, s.putPart c m o row lo hi = .bytes bs fl t ∧ bs.length = hi - lo ∧
      ∀ i, i < hi - lo → bs[i]? = some (s.mem.get (bufKey c la.space (la.off + (row * la.pitch + lo + i))))) ∧
  (∀ (s : State) (pa : Nat) (bs : List Byte) (ans : Answer) (cls : TrapClass),
    (paNode pa = s.nodeId → paKind pa < 2 → ∃ t, s.gWrite pa bs ans = .ok t ∧ t.mem = s.mem.write (paKey pa) bs) ∧
    (paNode pa ≠ s.nodeId → (ans = .fail cls → s.gWrite pa bs ans = .error cls) ∧ ∀ d, ans = .ok d → s.gWrite pa bs ans = .ok s)) ∧
  (∀ (s : State) (c : CoreId) (src : WinSrc) (j pa : Nat) (bs : List Byte) (sh : Bool) (t : Nat),
    s.winSend c src j pa bs sh t = { s with winUnits := s.winUnits ++ [{
      core := c, src, idx := j, clu := pa / 2 ^ 26 % 2 ^ 4, mask := pa / 2 ^ 32 % 2 ^ 8, buf := bufOf (pa / 2 ^ 24 % 2 ^ 2),
      off := pa % 2 ^ 23 / 64 * 64, data := winData (pa % 64) bs, sh, ready := t }] }) ∧
  ∀ (s : State) (r : CmdRef) (m : Cmd) (e : Ecmd), s.mem.wf = true → s.runs r m →
    let c := r.core
    let x := s.ctxOf c
    let a := m.a.toNat
    let src := WinSrc.cmd r.seq
    let done (i : Instr) (n : Nat) (P : State → Prop) : Prop :=
      ∃ t, exec i s = .next t ∧ completed s t c m (BitVec.ofNat 64 (n + m.retry * 2 ^ 40)) ∧ P t
    let goes (i : Instr) (P : Cmd → Prop) (R : State → Prop) : Prop := ∃ t, exec i s = .next t ∧ t.goesOn r P ∧ R t
    let fails (i : Instr) (cls : TrapClass) (ad : Nat) : Prop := goes i (fun k => k.fail = some (cls, ad, ad)) (fun _ => True)
    let stages (i : Instr) (j : Nat) (P : Staged → Prop) (R : State → Prop) : Prop :=
      goes i (fun k => ∃ g, k.staged = m.staged ++ [g] ∧ g.idx = j ∧ g.time = s.now ∧ P g) R
    let bad (cls : TrapClass) (ad : Nat) (g : Staged) : Prop := g.fail = some cls ∧ g.addr = ad
    let good (here : Bool) (g : Staged) : Prop := g.fail = none ∧ g.here = here
    -- a granule of a source, or a global unit of a destination
    (∀ o, m.move = some o →
      let arrives (i : Instr) (j : Nat) (ans : Answer) : Prop := ∀ va n, o.gParts[j]? = some (va, n) → (∀ g ∈ m.staged, g.idx ≠ j) →
        m.asked.any (fun p => p.1 == j) = true → s.onWay (.cmd c m.seq.toNat j) = true → Answer.legal ans = true →
        (o.k = .get →
          let q := s.gReadVa c va n ans (State.xePol c x.fn.val false)
          (∀ bs, q.2 = .ok bs → stages i j (fun g => good true g ∧ g.data = bs) (fun _ => True)) ∧
          ∀ cls ad, q.2 = .error (cls, ad) → stages i j (bad cls ad) (fun _ => True)) ∧
        (o.k = .put →
          let row := (o.rowOf j).1
          let lo := va - o.gAddr row
          let pol := State.xePol c x.fn.val true
          let part := s.putPart c m o row lo (lo + n)
          (∀ cls ad, part = .fail cls ad → stages i j (bad cls ad) (fun _ => True)) ∧
          ∀ bs fl t0, part = .bytes bs fl t0 → ∀ u,
            (∀ cls, s.xlate c va n .wr = (u, .error cls) → stages i j (bad cls va) (fun _ => True)) ∧
            ∀ pa, s.xlate c va n .wr = (u, .ok pa) →
              let window : Prop := paKind pa = 4 ∧ paNode pa = u.nodeId
              (∀ cls, pol u pa n = some cls → stages i j (bad cls va) (fun _ => True)) ∧
              (pol u pa n = none → window → stages i j (fun g => good false g ∧ g.addr = va)
                (fun t => t.winUnits = (u.winSend c src j pa bs (mSh o.x) s.now).winUnits ∧ memAs s s t c)) ∧
              (pol u pa n = none → ¬ window → (∀ cls, u.gWrite pa bs ans = .error cls → stages i j (bad cls va) (fun _ => True)) ∧
                ∀ v, u.gWrite pa bs ans = .ok v → stages i j (good true) (fun t => memAs s v t c)))
      (∀ j ans, (o.k = .get ∨ o.k = .put) → s.trackReady c src j = true → (∀ q, s.trackOf c src j = some q → q.due = none) →
        arrives (.xeGranuleArrive { core := c, seq := r.seq, idx := j, ans }) j ans) ∧
      (∀ i q d, (o.k = .get ∨ o.k = .put) → s.tracks[i]? = some q → q.core = c → q.src = src → q.due = some d → d ≤ s.now →
        arrives (.trackDataArrive i) q.idx (.ok [])) ∧
      -- a unit of a multicast goes out
      (∀ j ans, o.k = .mcast → j < x.units o → m.t0 + 4 + j ≤ s.now → (∀ g ∈ m.staged, g.idx ≠ j) →
        let l := LocW.of o.a
        let off := o.b / 2 ^ 16 % 2 ^ 24 + 64 * j
        let i := Instr.xeGranuleArrive { core := c, seq := r.seq, idx := j, ans }
        (∀ ad, s.rawEcc c l.space l.off (l.off + 64 * j) 64 = some ad → stages i j (bad .ecc ad) (fun _ => True)) ∧
        (s.rawEcc c l.space l.off (l.off + 64 * j) 64 = none → (s.takePort c [(l.space, false, 64)]).isSome = true → off < 2 ^ 23 → off % 64 = 0 →
          stages i j (fun g => good false g ∧ g.addr = off) (fun t => memAs s s t c ∧ t.winUnits = s.winUnits ++ [{
            core := c, src, idx := j, clu := c.val / 8, mask := o.b % 2 ^ 8, buf := bufOf (o.b / 2 ^ 8 % 2 ^ 2), off,
            data := winData 0 (s.ringRead c l.space l.off (l.off + 64 * j) 64), sh := mSh o.x, ready := s.now }]))) ∧
      -- the next unit commits
      (x.portAhead m = false → m.unit < x.units o →
        let i := Instr.xeUnitCommit r
        let on (n : Nat) (k : Cmd) : Prop := k.prog = m.progAfter (x.units o) n
        (o.k ≠ .put → o.k ≠ .mcast → (m.unit + 1 ≠ x.units o ∨ m.due ≤ s.now + 4) → ∀ row b n res, s.localUnit c m o m.unit = (row, b, n, res) →
          let writes (t0 : Nat) : Prop := t0 ≤ s.now → (s.takePort c (x.unitPort o n)).isSome = true →
            goes i (on 1) (fun t => memAs s (s.putUnit c o row b res) t c)
          match res with
          | .wait => exec i s = .next s
          | .fail cls ad => fails i cls ad
          | .bytes _ _ t0 => writes t0
          | .els _ _ t0 => writes t0) ∧
        (o.k = .put ∨ o.k = .mcast →
          let us := o.together m.unit
          ((∀ j ∈ us, ∃ g, m.staged.find? (fun g => g.idx == j) = some g ∧ good true g) → goes i (on us.length) (fun t => memAs s s t c)) ∧
          ∀ g cls, us.head? = some m.unit → m.staged.find? (fun g => g.idx == m.unit) = some g → g.fail = some cls → fails i cls g.addr))) ∧
    -- the header and the entries of a list
    (m.ins = .xlist e → m.move = none → (s.core c).stop = none → ∀ ans, Answer.legal ans = true →
      let ps := m.parts.1
      ps ≠ [] → ps.length ≤ m.asked.length → (∀ i, i < ps.length → s.trackReady c src i = true) →
      let i := Instr.xeGranuleArrive { core := c, seq := r.seq, ans }
      let v := (List.range ps.length).foldl (fun (s : State) i => s.dropTrack c src i) s
      let pol := State.xePol c x.fn.val false
      (m.ext = [] →
        let q := v.gReadVa c a 8 ans pol
        (∀ cls ad, q.2 = .error (cls, ad) → fails i cls ad) ∧
        ∀ bs, q.2 = .ok bs → (leNat bs / 2 ^ 32 % 2 ^ 32 ≠ 0 ∨ 65535 < leNat bs % 2 ^ 32 → fails i .illegal a) ∧
          (leNat bs / 2 ^ 32 % 2 ^ 32 = 0 → leNat bs % 2 ^ 32 ≤ 65535 →
            goes i (fun k => k.ext = [leNat bs] ∧ k.staged = [] ∧ k.asks = 0) (fun _ => True))) ∧
      ∀ h, m.ext = [h] →
        let at' := a + 8 + 32 * (m.prog / 2 ^ 32 % 2 ^ 16)
        let q := v.gReadVa c at' 32 ans pol
        let y := q.1.ctxOf c
        let envs := y.envRngs m.b.toNat ++ if m.c = 0 then [] else y.envRngs m.c.toNat
        let inside (r : Rng) : Prop := ∃ e ∈ envs, e.buf = r.buf ∧ e.lo ≤ r.lo % 2 ^ 24 ∧ r.hi % 2 ^ 24 ≤ e.hi
        (∀ cls ad, q.2 = .error (cls, ad) → fails i cls ad) ∧
        ∀ bs, q.2 = .ok bs →
          let d (k : Nat) : Nat := leNat ((bs.drop (8 * k)).take 8)
          let m1 : Cmd := { m with ext := [h, 0, d 0, d 1, d 2, d 3] }
          let formed : Prop := d 0 % 2 ^ 32 = 0 ∧ d 0 / 2 ^ 59 % 2 ^ 5 = 0
          (¬ formed ∨ m1.move = none → fails i .illegal at') ∧
          ∀ o, formed → m1.move = some o →
            (∀ cls ad, q.1.chkMove c y o = .error (cls, ad) → fails i cls ad) ∧
            ∀ rs ws, q.1.chkMove c y o = .ok (rs, ws) →
              (¬ (∀ r ∈ rs ++ ws, inside r) → fails i .buffer at') ∧
              ((∀ r ∈ rs ++ ws, inside r) → q.1.entryHeld c m o = false →
                goes i (fun k => k.move = some o ∧ k.staged = [] ∧ k.due = s.now + y.moveTime o) (fun _ => True))) ∧
    (m.due ≤ s.now →
      let comp := Instr.xeCommandComplete r
      let fl := (m.res.toNat / 2 ^ 32 % 2 ^ 5) * 2 ^ 32
      let n := m.c.toNat
      (m.ins = .xmap e → done comp 1 (fun _ => True)) ∧
      (m.ins = .xpub e → m.eff = true → done comp 1 (fun _ => True)) ∧
      (∀ o, m.move = some o → x.units o ≤ m.unit →
        (m.ins = .xfill e ∨ m.ins = .xmcast e → done comp (n + fl) (fun _ => True)) ∧
        (m.ins = .xtrans e → done comp ((n % 2 ^ 8 + 1) * (n / 2 ^ 8 % 2 ^ 8 + 1) + fl) (fun _ => True)) ∧
        (m.ins = .xcopy e ∨ m.ins = .xget e ∨ m.ins = .xput e → done comp (cntH n * cntN n % 2 ^ 32 + fl) (fun _ => True))) ∧
      (∀ h, m.ins = .xlist e → m.ext = [h] → h % 2 ^ 32 ≤ m.prog / 2 ^ 32 % 2 ^ 16 → done comp (m.prog / 2 ^ 32 + fl) (fun _ => True))) ∧
    (m.ins = .xpub e → m.eff = false → m.start + 2 ≤ s.now → a < 8 →
      let k := bufKey c .ab (a * 0x30000)
      ∃ t, exec (.publishSwap r) s = .next t ∧ t.goesOn r (fun q => q.eff = true ∧ q.due = s.now + 2) ∧ bytesBut s t c k 0x30000 ∧
        (∀ j, j < 0x18000 → t.mem.get (k + j) = s.mem.get (k + 0x18000 + j) ∧ t.mem.get (k + 0x18000 + j) = s.mem.get (k + j)) ∧
        ∀ i : Fin 8, (t.ctxOf c).xmaps[i] =
          if x.xmaps[i].toNat % 8 = 2 ∧ x.xmaps[i].toNat / 2 ^ 8 % 2 ^ 24 = a * 0x30000 then x.xmaps[i] ^^^ 8 else x.xmaps[i]) ∧
    (∀ out : Fin 4,
      let n := m.b.toNat % 2 ^ 32
      let ext : Extent := { win := a / 2 ^ 8 % 2 ^ 3, start := a / 2 ^ 16 % 2 ^ 19, count := n, fn := x.fn.val }
      let word := (if out.val = 0 then n else 0) + out.val * 2 ^ 37
      let found := s.fwExts.find? (fun f => f.core == c && f.seq == r.seq)
      let leaves (ext : Extent) (t : State) : Prop :=
        ∀ y, y ∈ t.exts ↔ y ∈ s.exts ∧ ¬ (y.win = ext.win ∧ ext.start ≤ y.start ∧ y.start + y.count ≤ ext.start + ext.count)
      (found = none → m.ins = .xextAdd e → done (.firmwareExtentAnswer r out) word
        (fun t => t.exts = if out.val = 0 then s.exts ++ [ext] else s.exts)) ∧
      (found = none → m.ins = .xextRelease e → (out.val = 0 → s.inUse ext.holds = false) → done (.firmwareExtentAnswer r out) word (fun t =>
        (out.val = 0 → leaves ext t) ∧ (out.val ≠ 0 → t.exts = s.exts))) ∧
      -- one whose context a reset discarded
      ∀ f, found = some f → (out.val = 0 → f.add = false → s.inUse f.ext.holds = false) →
        ∃ t, exec (.firmwareExtentAnswer r out) s = .next t ∧ t.cores = s.cores ∧ t.mem = s.mem ∧ (∀ g, g ∈ t.fwExts ↔ g ∈ s.fwExts ∧ g ≠ f) ∧
          (out.val ≠ 0 → t.exts = s.exts) ∧ (out.val = 0 → f.add = true → t.exts = s.exts ++ [f.ext]) ∧
          (out.val = 0 → f.add = false → leaves f.ext t))

/-- R11, R41, R84, R106, R288, R320, R402, R424, R433, R438: commands start once nothing holds them; a bundle is fetched; the evaluation
of checked mode; an engine reports its fault; writes and reads of registers that stand as events. The model's readings: a fill takes no
cycle of its own (DESIGN CHOICE, log entry 39), and the evaluation of checked mode runs the meanings (DEDUCED, log entry 55). -/
def Obligations.IssueEvents : Prop :=
  ∀ (s : State) (r : CmdRef) (m : Cmd) (e : Ecmd) (c : CoreId) (q : RegR) (w : RegW) (b : Bundle) (bits256 : BitVec 256),
    let x := s.ctxOf r.core
    (s.cmd? r = some m → m.faulted = false → m.fail = none → m.inb = none → (s.core r.core).busy = true → (s.core r.core).stop = none → s.trip = false →
      (x.mayStart m = false → exec (.scoreboardRelease r) s = .next s) ∧
      (x.mayStart m = true →
        let starts (due : Nat) (P : State → Cmd → Prop) : Prop := ∃ t, exec (.scoreboardRelease r) s = .next t ∧
          t.goesOn r (fun k => k.started = true ∧ k.start = s.now ∧ k.due = due ∧ P t k) ∧ (t.ctxOf r.core).s = x.s
        let a := m.a.toNat
        (m.eng = .me →
          (m.ins = .mld e → starts (s.now + loadTime (x.fmtAt .wb a).ty m.b.toNat false) (fun _ k => k.asks = 0)) ∧
          (m.ins = .mldsp e → starts (s.now + loadTime (x.fmtAt .wb a).ty m.b.toNat true) (fun _ k => k.asks = 0)) ∧
          (m.ins = .mstrr e → starts (s.now + 32) (fun _ k => k.staged = [])) ∧
          (m.ins = .mstr e → starts (s.now + 32) (fun _ k => k.staged = [] ∧ k.asks = m.prog)) ∧
          (m.ins = .mzero e → starts (s.now + 4 + (m.b.toNat + 1023) / 1024) (fun _ k => k.asks = 0)) ∧
          (m.ins = .mpip e → starts (s.now + 8) (fun t k => let o := x.arr (e.m 0); let n := (t.ctxOf r.core).arr (e.m 0)
            k.asks = 0 ∧ k.res = BitVec.ofNat 64 o.pips ∧ (e.m 1 = false → n = o) ∧
            (e.m 1 = true → n.pips = 0 ∧ n.rows = 0 ∧ n.cycles = 0 ∧ n.sat = false) ∧
            ∃ g, k.staged = [g] ∧ g.data.length = 64 + 64 * o.grp.length ∧
              let rd (j : Nat) : Nat := leNat ((g.data.drop j).take 8)
              rd 0 = o.pips % 2 ^ 64 ∧ rd 8 = o.rows % 2 ^ 64 ∧ rd 16 = o.cycles % 2 ^ 64 ∧
              rd 24 = (o.gw + b2n o.ftz * 4 + b2n o.pw * 8) % 2 ^ 64 ∧ rd 32 = m.seq.toNat ∧ rd 40 = b2n o.sat ∧
              ∀ i q, o.grp[i]? = some q → rd (64 + 64 * i) = q.pips % 2 ^ 64 ∧ rd (72 + 64 * i) = q.steps % 2 ^ 64 ∧
                rd (80 + 64 * i) = q.busy % 2 ^ 64 ∧ rd (88 + 64 * i) = q.wait % 2 ^ 64 ∧ rd (96 + 64 * i) = q.zskip % 2 ^ 64)) ∧
          (m.ins = .mdrain e → starts (s.now + 8) (fun _ _ => True)) ∧ (m.ins = .mabort e → starts s.now (fun _ _ => True)) ∧
          (m.ins = .mcfg e → starts (s.now + 4) (fun t k => let o := x.arr (e.m 0); let n := (t.ctxOf r.core).arr (e.m 0)
            n.gw = a % 4 ∧ n.ftz = a.testBit 2 ∧ n.pw = a.testBit 3 ∧ (a.testBit 4 = true → n.pips = 0 ∧ n.rows = 0 ∧ n.cycles = 0 ∧ n.sat = false) ∧
            (a.testBit 4 = false → n.pips = o.pips ∧ n.rows = o.rows ∧ n.cycles = o.cycles) ∧
            k.res = BitVec.ofNat 64 (o.gw + b2n o.ftz * 4 + b2n o.pw * 8)))) ∧
        (m.eng = .xe → m.ins = .xmap e → starts (s.now + 4) (fun t _ =>
          slotSet x.xmaps (t.ctxOf r.core).xmaps (a / 16 % 8) (BitVec.ofNat 64 (a % 8 + (a / 2 ^ 8 % 2 ^ 24) * 2 ^ 8 + (a / 2 ^ 32 % 2 ^ 24) * 2 ^ 32)))) ∧
        (m.eng = .xe → m.ins = .xpub e → starts (s.now + 4) (fun _ _ => True)))) ∧
    (s.cmd? r = some m → m.started = true → m.faulted = false → m.fail.isSome = true →
      ∃ t, exec (.engineFault r) s = .next t ∧ t.goesOn r (fun k => k.faulted = true) ∧
        (t.ctxOf r.core).engFaults = x.engFaults ++ [m.seq] ∧ (t.ctxOf r.core).pc = x.pc) ∧
    ((s.core c).runs = true → (s.ctxOf c).wait = none → (s.core c).word = none →
      let u := { s with cur := c }.xlate c (s.ctxOf c).pc.toNat 32 .fetch
      ∀ pa, u.2 = .ok pa → u.1.fetch (s.ctxOf c).fn.val pa = .ok bits256 →
        ∃ t, exec (.ibufFill c) s = .next t ∧ (t.core c).ibuf = (((s.ctxOf c).pc, bits256) :: (s.core c).ibuf).take 2048 ∧
          (t.core c).ctx = (s.core c).ctx ∧ t.mem = s.mem ∧ (t.core c).word = some bits256) ∧
    (∀ t0, (s.core c).runs = true → (s.ctxOf c).chk = some t0 → t0 ≤ s.now → (s.ctxOf c).chkOk = false → (s.core c).word = some bits256 →
      decodeBundle bits256.toNat = .ok b →
      let ps := { s with cur := c }.checkedOf b
      ((∀ p ∈ ps, (s.ctxOf c).enabled p.2.2.1 = false) →
        exec (.checkedModeEval c) s = .next (s.setCtxOf c { s.ctxOf c with chkOk := true })) ∧
      ((∀ p ∈ ps, p.2.1.sq = false) → (∃ p ∈ ps, (s.ctxOf c).enabled p.2.2.1 = true) → (s.ctxOf c).trapvec.getLsbD 0 = false →
        ∃ t st v, exec (.checkedModeEval c) s = .next t ∧ (t.core c).stop = some st ∧ st.rcd = some v ∧ v.cls = .arith ∧
          v.pc = (s.ctxOf c).pc ∧ (t.ctxOf c).flight = ((s.ctxOf c).settle s.now).flight)) ∧
    ((s.core w.core).busy = true →
      let k := s.core w.core
      (∀ i : Fin 16, w.reg = 0x20 + i.val → k.ctx.fmtHeld w.reg = false → fmtOk w.v = true → ∃ t, exec (.formatRegWrite w) s = .next t ∧
        slotSet k.ctx.wfmt (t.ctxOf w.core).wfmt i.val (w.v.setWidth 32) ∧ (t.ctxOf w.core).afmt = k.ctx.afmt) ∧
      (∀ i : Fin 16, w.reg = 0x30 + i.val → k.ctx.fmtHeld w.reg = false → fmtOk w.v = true → ∃ t, exec (.formatRegWrite w) s = .next t ∧
        slotSet k.ctx.afmt (t.ctxOf w.core).afmt i.val (w.v.setWidth 32) ∧ (t.ctxOf w.core).wfmt = k.ctx.wfmt) ∧
      (w.reg = 0x90 → w.v &&& ~~~0x10F = 0 → ∃ t, exec (.trctlWrite w) s = .next t ∧ (t.core w.core).trctl = w.v ∧
        (t.core w.core).trptr = k.trptr &&& 0x0000FFFF00000000 ∧ (t.core w.core).ctx = k.ctx) ∧
      (∀ i : Fin 4, w.reg = 0x80 + i.val → bpcOk k.bpc[i] k.bpv[i] w.v = true → ∃ t, exec (.bpcWrite w) s = .next t ∧ ∃ v : Word,
        slotSet k.bpc (t.core w.core).bpc i.val v ∧ (t.core w.core).ctx = k.ctx ∧
        ∀ j, j < 64 → v.getLsbD j = if j = 18 then decide (w.v.toNat / 2 ^ 32 = k.ctx.ctxid.toNat) else w.v.getLsbD j)) ∧
    (let y := s.ctxOf q.core
     let f (v : Word) : List Flight := y.flight ++ [{ fin := s.now + 1, born := s.now, code := sCode q.d, slot := .e, val := v }]
     ((s.core q.core).busy = true →
       exec (.xstatRead q) s = .next (s.setCtxOf q.core { y with flight := f y.xstat, xstat := y.xstat &&& 0x1F })) ∧
     exec (.fistatRead q) s = .next (s.setCtxOf q.core { y with flight := f y.fistat, fistat := 0 }))

/-- R314, R315, R316, R320 to R324, R327 to R333: what happens on the fabric. A request from another node performs here and is answered, a
once-only one once; an answer reaches the command that asked; packets are trimmed and sent again; fibres fail over; time-outs; blocks at
an inbound queue. The model's readings: a response is kept until it is acknowledged (DEDUCED, log entry 28), and the units of an `rld` or
`rst` go in one packet (DEDUCED, log entry 110). -/
def Obligations.FabricEvents : Prop :=
  ∀ (s : State) (r : FiReq) (p : PktId) (q : Pkt) (d : Fin 12) (n : FiName) (y : RenqReq) (k : CmdRef) (m : Cmd) (e : Ecmd) (c : CoreId)
    (g : GAcc) (bs : List Byte) (cls : TrapClass) (idx : Nat), s.mem.wf = true →
    let a := paKey r.addr
    let answers (i : Instr) (z : RespK) (P : State → Prop) : Prop := ∃ t, exec i s = .next t ∧
      t.held = s.held.filter (fun h => !(h.whom == reqName r && h.idx == r.idx)) ++ [{ whom := reqName r, idx := r.idx, k := z }] ∧ P t
    let fi := Instr.fiRequestArrive r
    let fits (n : Nat) : Prop := paKind r.addr = 0 ∧ paOff r.addr + n ≤ 2 ^ 39 ∧ s.sound a n
    (r.node ≠ s.nodeId →
      (paNode r.addr = s.nodeId →
        (∀ z, r.op = .read z → fits z → answers fi (.ans (.ok (s.mem.read a z))) (fun t => t.mem = s.mem)) ∧
        (∀ z, r.op = .write z → fits z.length → answers fi (.ans (.ok [])) (fun t => bytesKept s t a z.length ∧
          ∀ j, j < z.length → t.mem.get (a + j) = z.getD j 0)) ∧
        (∀ op u dw b v o, r.op = .atom o u dw b v → AOp.num op = o → u ≠ .i4 → u ≠ .n4 → ((op = .fadd ∨ op = .fmax) → accW u dw = 4) →
          let w := accW u dw
          let old := s.mem.num a w
          fits w →
            (s.reply? (reqName r) = none → s.replies.length < 1024 →
              answers fi (.ans (.ok (leBytes (extended u dw old).toNat 8))) (fun t => t.mem.num a w = rmw op w old b.toNat v.toNat % 256 ^ w ∧
                bytesKept s t a w ∧ t.replies = s.replies ++ [{ nm := reqName r, old := extended u dw old, fn := r.fn }])) ∧
            (s.reply? (reqName r) = none → 1024 ≤ s.replies.length → answers fi .refused (fun t => t.mem = s.mem ∧ t.replies = s.replies)) ∧
            (∀ v, s.reply? (reqName r) = some v → answers fi (.ans (.ok (leBytes v.toNat 8))) (fun t => t.mem = s.mem ∧ t.replies = s.replies)))) ∧
      (∀ op f v, r.op = .flag op f v → f < 512 →
        let old := s.flags.toList.getD f 0
        let gives (z : Nat) (v : BitVec 32) : Prop := answers fi (.ans (.ok (leBytes z 8))) (fun t =>
          (∀ j, j < 512 → t.flags.toList.getD j 0 = if j = f then v else s.flags.toList.getD j 0) ∧ t.mem = s.mem)
        (s.flagOk r.fn f = false → (op = 1 → s.reply? (reqName r) = none ∧ s.replies.length < 1024) →
          answers fi (.ans (.fail .access)) (fun t => t.flags = s.flags)) ∧
        (s.flagOk r.fn f = true → (op = 0 → gives old.toNat (v.setWidth 32)) ∧ (op = 2 → gives old.toNat 0) ∧
          (op = 1 → s.reply? (reqName r) = none → s.replies.length < 1024 →
            gives (old.toNat + (if (fincValue old v).2 then 2 ^ 32 else 0)) (fincValue old v).1))) ∧
      (∀ z b, r.op = .write z → paKind r.addr = 3 → paNode r.addr = s.nodeId → paOff r.addr < 2 ^ 32 → bits (paOff r.addr) 24 1 = 0 →
        bits (paOff r.addr) 18 2 = 0 →
        let cr := lbCore r.addr
        let num := lbNum r.addr
        let o := bits (paOff r.addr) 0 18
        let x := s.ctxOf cr
        let lu := Instr.linkUnitArrive r
        (x.lbufs.toList.getD num none = none → s.savedHolds cr num = false → answers lu (.ans (.fail .access)) (fun t => t.mem = s.mem)) ∧
        (x.lbufs.toList.getD num none = some b →
          (regLen b.region < o + z.length → answers lu (.ans (.fail .access)) (fun t => t.mem = s.mem)) ∧
          (o + z.length ≤ regLen b.region → b.st ≠ 0 → answers lu .refused (fun t => t.mem = s.mem)) ∧
          (o + z.length ≤ regLen b.region → b.st = 0 → answers lu (.ans (.ok [])) (fun t =>
            let k := bufKey cr .ab (regOff b.region + o)
            let fill := b.fill ||| 2 ^ (o / 64)
            let all := fill = 2 ^ (regLen b.region / 64) - 1
            bytesKept s t k z.length ∧ (∀ j, j < z.length → t.mem.get (k + j) = z.getD j 0) ∧
            (∃ st, (t.ctxOf cr).lbufs.toList.getD num none = some { b with fill, st } ∧ (all → st = 1) ∧ (¬ all → st = 0)) ∧
            ∀ f, bits b.bind.toNat 32 9 = f → s.flagOk x.fn.val f = true → f < 512 →
              t.flags.toList.getD f 0 = if all ∧ b.bind.getLsbD 41 = true then (fincValue (s.flags.toList.getD f 0) 1).1
                else s.flags.toList.getD f 0))))) ∧
    (s.runs k m → m.eng = .fi → idx < m.fiUnits → (∀ h ∈ m.staged, h.idx ≠ idx) → s.onWay (.cmd k.core k.seq idx) = true → m.late = [] →
      let arr (z : Answer) : Instr := .fiResponseArrive (.cmd { core := k.core, seq := k.seq, idx, ans := z })
      let word (n : Nat) : Word := BitVec.ofNat 64 (n + min 255 m.retry * 2 ^ 32)
      let done (z : Answer) (v : Word) (P : State → Prop) : Prop := ∃ t, exec (arr z) s = .next t ∧ completed s t k.core m v ∧ P t
      let more (P : State → Prop) : Prop := ∃ t, exec (arr (.ok bs)) s = .next t ∧ P t ∧
        t.goesOn k (fun z => ∃ w, z.staged = m.staged ++ [w] ∧ w.idx = idx)
      ((m.ins = .lbufBind e ∨ m.ins = .lbufRelease e) → m.due ≤ s.now → done (.ok bs) (word 1) (fun _ => True)) ∧
      (s.fiAway m idx = true →
        (m.ins = .rst e → (m.staged.length + 1 ≠ m.fiUnits → more (fun _ => True)) ∧
          (m.staged.length + 1 = m.fiUnits → done (.ok bs) (word m.c.toNat) (fun _ => True))) ∧
        (m.ins = .rld e → bs.length = 64 →
          let o := (s.ctxOf k.core).wrapOff .ab (LocW.of m.b.toNat).off ((LocW.of m.b.toNat).off + 64 * idx)
          let z := bufKey k.core .ab o
          o + 64 ≤ Space.size .ab →
            let wrote (t : State) : Prop := bytesBut s t k.core z 64 ∧ ((s.core k.core).ring = none → ∀ j, j < 64 → t.mem.get (z + j) = bs.getD j 0)
            (m.staged.length + 1 ≠ m.fiUnits → more wrote) ∧
            (m.staged.length + 1 = m.fiUnits → done (.ok bs) (word m.c.toNat) wrote)) ∧
        (m.ins = .renq e → done (.ok bs) (word (bits (leNat (m.pay.take 8)) 0 3)) (fun _ => True)) ∧
        (((ratomOf m.ins).isSome = true ∨ (rflagOf m.ins).isSome = true) → done (.ok bs) (BitVec.ofNat 64 (leNat (bs.take 8))) (fun _ => True)) ∧
        (((ratomOf m.ins).isSome = true ∨ (rflagOf m.ins).isSome = true ∨ m.ins = .rld e ∨ m.ins = .rst e ∨ m.ins = .renq e) →
          (reachCls cls = true → ∃ t, exec (arr (.fail cls)) s = .next t ∧ t.goesOn k (fun z => ∃ ad w, z.fail = some (cls, ad, w))) ∧
          ∃ t, exec (.fiResponseArrive (.refused k idx)) s = .next t ∧ (∃ h, t.pkt? (.cmd k.core k.seq idx) = some h ∧ h.phase = .refused) ∧
            bits (t.ctxOf k.core).fistat.toNat 16 16 = min 0xFFFF (bits (s.ctxOf k.core).fistat.toNat 16 16 + 1)))) ∧
    (n.node ≠ s.nodeId →
      (∃ t, exec (.fiResponseArrive (.ack n idx)) s = .next t ∧ t.held = s.held.filter (fun h => !(h.whom == n && h.idx == idx)) ∧ t.mem = s.mem) ∧
      exec (.replyRelease n) s = .next { s with replies := s.replies.filter (fun h => h.nm != n) }) ∧
    (s.waitsOn p = true → s.hasPayload p = true → s.onWay p = true →
      (∀ c k i m, p = .cmd c k i → s.cmd? { core := c, seq := k } = some m → (isBulk m.ins = false → s.partAway c m i = true) ∧
        (isBulk m.ins = true → (∃ j, j < m.fiUnits ∧ s.fiAway m j = true) ∧ ∀ g ∈ m.staged, s.fiAway m g.idx = false)) →
      ∃ t h, exec (.packetTrim p) s = .next t ∧ t.pkt? p = some h ∧ h.phase = .trimmed ∧ t.onWay p = false ∧ t.mem = s.mem ∧ t.cores = s.cores) ∧
    (s.pkt? p = some q →
      (q.phase = .trimmed → ∃ t, exec (.resendRequest p) s = .next t ∧ t.cores = s.cores ∧
        t.pkt? p = some { q with phase := .backoff, at_ := s.now + 3000 * 2 ^ min 6 q.n }) ∧
      (q.phase = .backoff → q.at_ ≤ s.now → ∃ t, exec (.resendBackoffExpiry p) s = .next t ∧ t.pkt? p = some { q with phase := .sent, n := q.n + 1 } ∧
        (∀ sl v i, p = .block sl v i → t.sent = s.sent ++
          (s.sends.filter (fun b => b.pkt.slot == sl && b.rcv == v && i == b.j * (s.slots[sl]).k + b.k)).map (fun b => CMsg.block b.pkt)) ∧
        ∀ c i, p = .acc c i → bits (t.ctxOf c).fistat.toNat 32 16 = min 0xFFFF (bits (s.ctxOf c).fistat.toNat 32 16 + 1)) ∧
      (p = .cmd k.core k.seq idx → s.cmd? k = some m → q.phase = .refused → s.fiAway m idx = true →
        (isBulk m.ins = true → ∀ j, j < m.fiUnits → s.fiAway m j = true) → ∃ t, exec (.readyNotice p) s = .next t ∧
        t.pkt? p = some { q with phase := .sent } ∧ t.cores = s.cores)) ∧
    exec (.flitCrcFail d) s = .next s ∧
    (∃ t u, exec (.fibreFail d) s = .next t ∧ exec (.spareSwitchDone d) s = .next u ∧
      t.spares = (if s.fibres[d] = 0 then s.spares else s.spares - 1) ∧
      (∀ i : Fin 12, t.fibres[i] = if i = d then s.fibres[i] - 1 else s.fibres[i]) ∧
      (∀ i : Fin 12, t.swaps[i] = if i = d ∧ s.fibres[i] ≠ 0 ∧ s.spares ≠ 0 then s.swaps[i] + 1 else s.swaps[i]) ∧
      (∀ i : Fin 12, u.fibres[i] = if i = d ∧ s.swaps[i] ≠ 0 then s.fibres[i] + 1 else s.fibres[i]) ∧
      (∀ i : Fin 12, u.swaps[i] = if i = d then s.swaps[i] - 1 else s.swaps[i])) ∧
    ((s.ctxOf c).gacc.find? (fun h => h.id == g.id) = some g → paNode g.pa ≠ s.nodeId → g.born + 30 * s.ftmo ≤ s.now →
      ∃ t z, exec (.fabricTimeout (.acc c g.id)) s = .next t ∧ (t.ctxOf c).pend = (s.ctxOf c).pend ++ [z] ∧ z.cls = .timeout ∧ z.pc = g.pc ∧
        z.seq = g.seq ∧ z.addr = g.va ∧ (∀ h ∈ (t.ctxOf c).gacc, h.id ≠ g.id) ∧
        ((∃ x, g.ins = .stg x) → z.store = true ∧ z.tok = 0) ∧ ((∀ x, g.ins ≠ .stg x) → z.tok = g.tok ∧ z.store = false ∧ g.tok ∉ (t.ctxOf c).toks)) ∧
    (s.runs k m → m.eng = .fi → isFabric m.ins = true → m.late = [] → idx < m.fiUnits → (∀ h ∈ m.staged, h.idx ≠ idx) → s.fiAway m idx = true →
      s.sentAt (.cmd k.core k.seq idx) + 30 * s.ftmo ≤ s.now →
      ∃ t, exec (.fabricTimeout (.cmd k.core k.seq idx)) s = .next t ∧ t.goesOn k (fun z => ∃ ad w, z.fail = some (.timeout, ad, w))) ∧
    (y.node ≠ s.nodeId →
      let eng := Eng.ofCode (y.eng.val + 1)
      let nm : FiName := { node := y.node, core := y.core, seq := y.seq }
      let answers (z : RespK) (P : State → Prop) : Prop := ∃ t, exec (.renqArrive y) s = .next t ∧
        t.held = s.held.filter (fun h => h.whom != nm) ++ [{ whom := nm, idx := 0, k := z }] ∧ P t
      let full := 4 ≤ ((s.core y.tgt).inq.filter (fun b => b.eng == eng)).length
      ((s.func y.fn).cores.getLsbD y.tgt.val = false → answers (.ans (.fail .access)) (fun t => t.cores = s.cores)) ∧
      ((s.func y.fn).cores.getLsbD y.tgt.val = true → full → answers .refused (fun t => t.cores = s.cores)) ∧
      ((s.func y.fn).cores.getLsbD y.tgt.val = true → ¬ full → answers (.ans (.ok [])) (fun t =>
        (t.core y.tgt).inq = (s.core y.tgt).inq ++ [{ node := y.node, core := y.core, seq := y.seq, fn := y.fn, eng, data := y.data }] ∧
        (t.core y.tgt).ctx = (s.core y.tgt).ctx))) ∧
    (∀ (z : Fin 4) b, (s.core c).inq.find? (fun b => b.eng == Eng.ofCode (z.val + 1)) = some b →
      let x := s.ctxOf c
      (s.core c).busy = true → (s.core c).stop = none → x.issuing = false → x.ended = none → x.fn.val = b.fn → x.inbox.getLsbD 0 = true →
      x.inFlight < 32 → b.data.length ≤ 256 →
      ∃ t w, exec (.inboxDequeue c z) s = .next t ∧ (t.ctxOf c).cmds = x.cmds ++ [w] ∧ w.seq = x.nextSeq ∧ w.eng = Eng.ofCode (z.val + 1) ∧
        w.pay = b.data ∧ w.inb = some b ∧ w.started = false ∧ (t.ctxOf c).nextSeq = x.nextSeq + 1 ∧ (t.core c).inq = (s.core c).inq.erase b ∧
        ∀ j, j < b.data.length → t.mem.get (bufKey c .jb (0x2000 + x.nextSeq.toNat % 32 * 256 + j)) = b.data.getD j 0)

/-- R339, R343, R345, R346, R348 to R350, R353 to R359, R363: the coded collectives at work. A slot opens; sends begin; blocks arrive,
plain or decoded from a fork and held blocks, and are written once; acknowledgements; misses; announcements; completion. The model's
readings: the bits of the maps (DESIGN CHOICE, log entry 33), a command without a decode buffer (DEDUCED, log entry 83), and the spaces of
its requests (`State.cmReach`: DEDUCED, log entry 111). -/
def Obligations.CodedEvents : Prop :=
  ∀ (s : State) (r : CmdRef) (m : Cmd) (e : Ecmd) (x : CSlot), s.mem.wf = true → m.eng = .fi → m.inb = none → s.cmd? r = some m →
    let c := r.core
    let i := s.cmSlot c m
    let a := m.a.toNat
    let word (n fall miss out : Nat) : Word := BitVec.ofNat 64 (n % 2 ^ 32 + min 255 fall * 2 ^ 32 + min 255 miss * 2 ^ 40 + out * 2 ^ 48)
    let done (j : Instr) (v : Word) (P : State → Prop) : Prop := ∃ t, exec j s = .next t ∧ completed s t c m v ∧ P t
    let on (j : Instr) (P : State → Cmd → Prop) : Prop := ∃ t, exec j s = .next t ∧ t.goesOn r (P t)
    let B := blockB x.z
    let resp (idx : Nat) (z : Answer) : Instr := .fiResponseArrive (.cmd { core := c, seq := r.seq, idx, ans := z })
    let others (t : State) (k : Nat) : Prop := ∀ j, j ≠ k → j < 128 → t.slot j = s.slot j
    -- the routers' acknowledgement of an entry counts also while the command stands faulted
    (∀ idx z, m.ins = .cmheld e → idx ∈ m.ext → (m.faulted = true ∨ m.fail.isSome = true ∨ m.started = false) → Answer.legal z = true →
      on (resp idx z) (fun t k => k.ext = m.ext.filter (· != idx) ∧ k.prog = m.prog ∧ t.slots = s.slots)) ∧
    -- the start of a command of a slot
    (m.started = false → m.faulted = false → m.fail = none → (s.core c).busy = true → (s.core c).stop = none → s.trip = false →
      (s.ctxOf c).mayStart m = true →
      let starts (due : Nat) (P : State → Cmd → Prop) : Prop := on (.scoreboardRelease r) (fun t k => k.started = true ∧ k.start = s.now ∧ k.due = due ∧ P t k)
      let ends (due : Nat) (v : Word) (P : State → Prop) : Prop := starts due (fun t k => k.eff = true ∧ k.res = v ∧ P t)
      (s.mySlot c i = none → isCoded m.ins = true → (∀ e, m.ins ≠ .cmset e) → ends (s.now + 4) (word 0 0 0 3) (fun t => t.slots = s.slots)) ∧
      (s.mySlot c i = some x →
        (x.dec = none → needsDec m.ins = true → ends (s.now + 4) (word 0 0 0 3) (fun t => t.slots = s.slots)) ∧
        (m.ins = .cmsetClose e → ends s.now (word 0 0 0 0) (fun t => (t.slot i).owner = none ∧ others t i ∧
          t.sends = s.sends.filter (fun b => b.pkt.slot.val != i % 128))) ∧
        (m.ins = .cmdecRel e → ends (s.now + 4) (word 0 0 0 0) (fun t => t.slot i = { x with dec := none, held := [] } ∧ others t i)) ∧
        (m.ins = .cmdec e →
          let b := m.b.toNat
          let q := (bits b 0 4, bits b 8 24, bits b 32 24)
          let used := s.slots.toList.foldl (fun n y => n + (match y.dec with | some (_, _, l) => l | none => 0)) 0
          (16 * 2 ^ 20 < used + q.2.2 → ends (s.now + 4) (word 0 0 0 1) (fun t => t.slots = s.slots)) ∧
          (used + q.2.2 ≤ 16 * 2 ^ 20 → s.inDec (q.1 * 2 ^ 23 + q.2.1) q.2.2 = true → ends (s.now + 4) (word 0 0 0 2) (fun t => t.slots = s.slots)) ∧
          (used + q.2.2 ≤ 16 * 2 ^ 20 → s.inDec (q.1 * 2 ^ 23 + q.2.1) q.2.2 = false →
            ends (s.now + 4 + x.area / 256) (word q.2.2 0 0 0) (fun t => t.slot i = { x with dec := some q, held := [] } ∧ others t i ∧
              ∀ j, j < x.area → t.mem.get (key 1 (q.1 * 2 ^ 23 + q.2.1 + j)) = 0))) ∧
        (m.ins = .cmstat e →
          let clr := fiSub e % 2 == 1
          ends (s.now + 4) (word (if clr then 0 else (x.cnt.toList.getD 0 0).toNat) 0 0 0) (fun t =>
            t.slot i = (if clr then { x with cnt := Vector.replicate 8 0 } else x) ∧ others t i ∧
            t.goesOn r (fun k => ∃ g, k.staged = [g] ∧ g.data = (x.cnt.toList.map (fun (w : Word) => leBytes w.toNat 8)).flatten))))) ∧
    (m.started = true → m.faulted = false → m.fail = none →
    (∀ (o : Fin 3) l, m.ins = .cmset e → m.ext = 1 :: l →
      let w := m.c.toNat
      ((s.slot i).owner = none → o = 0 → done (.cmsetMatch r o) (word (bits a 8 6 + 1) 0 0 0) (fun t => others t i ∧
        (t.slot i).owner = some (c, (s.ctxOf c).ctxid) ∧ (t.slot i).p = bits a 8 6 + 1 ∧ (t.slot i).rank = bits a 16 6 ∧
        (t.slot i).tag = bits a 32 16 ∧ (t.slot i).k = bits w 8 16 ∧ (t.slot i).z = bits w 0 3 ∧ (t.slot i).r = bits w 28 2 + 1 ∧
        (t.slot i).list = l ∧ (t.slot i).held = [] ∧ (t.slot i).dec = none ∧ (t.slot i).policy = 0)) ∧
      ((s.slot i).owner = none → o ≠ 0 → done (.cmsetMatch r o) (word 0 0 0 o.val) (fun t => t.slots = s.slots)) ∧
      ((s.slot i).owner.isSome = true → done (.cmsetMatch r o) (word 0 0 0 1) (fun t => t.slots = s.slots))) ∧
    (∀ z v u es, m.ins = .cmset e → m.ext = [] → m.eff = false → Answer.legal z = true →
      s.cmReach c m (tagOf 0 0) m.b.toNat (4 * (bits a 8 6 + 1)) .rd = (v, true) → v.listRead c m.b.toNat (bits a 8 6 + 1) z = (u, es, none) →
      let shape : Prop := (∀ n ∈ es, bits n.1 19 13 = 0) ∧ (es.map (fun n => n.1 % 2 ^ 12)).Nodup ∧
        ∀ n ∈ es, n.2 = bits a 16 6 → n.1 % 2 ^ 12 = u.nodeId ∧ n.1 / 2 ^ 12 % 2 ^ 7 = c.val
      let near (n : Nat × Nat) : Prop := u.reachable (u.ctxOf c).fn.val (n.1 % 2 ^ 12) = true
      (¬ shape → on (resp 0 z) (fun _ k => ∃ w, k.fail = some (.illegal, m.b.toNat, w))) ∧
      (shape → (∃ n ∈ es, ¬ near n) → on (resp 0 z) (fun _ k => ∃ w, k.fail = some (.peer, m.b.toNat, w))) ∧
      (shape → (∀ n ∈ es, near n) →
        ((u.slot i).owner.isSome = true ∨ u.claimed c i = true → done (resp 0 z) (word 0 0 0 1) (fun _ => True)) ∧
        ((u.slot i).owner = none → u.claimed c i = false → on (resp 0 z) (fun _ k => k.ext = 1 :: es.map Prod.fst ∧ k.fail = none)))) ∧
    (∀ idx z, isCoded m.ins = true → m.eff = true → m.due ≤ s.now → Answer.legal z = true →
      (m.staged = [] → done (resp idx z) m.res (fun t => t.slots = s.slots)) ∧
      (∀ g, m.staged = [g] →
        let o := (s.ctxOf c).wrapOff .ab m.b.toNat m.b.toNat
        o + g.data.length ≤ 0x100000 → done (resp idx z) m.res (fun t => t.slots = s.slots ∧
          ((s.core c).ring = none → ∀ j, j < g.data.length → t.mem.get (bufKey c .ab o + j) = g.data.getD j 0)))) ∧
    (∀ idx z, m.ins = .cmheldClr e → m.eff = false → Answer.legal z = true → done (resp idx z) m.res (fun t => t.slots = s.slots)) ∧
    (s.mySlot c i = some x → m.eff = false →
      (∀ idx z, m.ins = .cmpol e → m.due ≤ s.now → Answer.legal z = true →
        done (resp idx z) m.res (fun t => t.slot i = { x with policy := bits a 8 2 } ∧ others t i)) ∧
      (∀ idx z, m.ins = .cmheld e → bits m.c.toNat 0 32 ≤ m.prog → (m.ext = [] ∨ m.ext = [idx]) → Answer.legal z = true →
        done (resp idx z) (word m.res.toNat 0 0 0) (fun t => t.slots = s.slots)) ∧
      ((m.ins = .cmgath e ∨ m.ins = .cmshuf e) →
        (m.run.phase = 0 → on (.codedBarrier r) (fun t k => k.run = { m.run with phase := 1 } ∧ t.slots = s.slots)) ∧
        (∀ idx z, m.run.phase ≠ 0 → (s.delivered x).length = x.total → s.allAcked x = true → Answer.legal z = true →
          done (resp idx z) (word x.total m.run.fall m.run.miss 0) (fun t => t.slots = s.slots)) ∧
        (∀ f, m.run.phase = 1 → f ∈ m.run.gone → (∀ g ∈ m.run.gone, f ≤ g) → f < 2 ^ 32 → s.allAcked x = true →
          (s.delivered x).length + m.run.gone.length = x.total →
          let q := x.srcOf (isShuf m.ins) f
          on (.codedSettle r) (fun _ k => k.fail = some (.decodeMiss, m.c.toNat + f * B, q.2 + q.1 * 2 ^ 32 + min 255 m.run.gone.length * 2 ^ 40))) ∧
        (let sl : Fin 128 := Fin.ofNat 128 i
          -- block `idx` of the bytes `d` is delivered from the state `v`, whose slot is `y`
          let takes (j : Instr) (v : State) (y : CSlot) (idx : Nat) (d : List Byte) : Prop :=
            ∀ w u, v.cmReach c m (tagOf 3 idx) (m.c.toNat + idx * B) B .wr = (w, true) →
              w.gWriteVa c (m.c.toNat + idx * B) d (.ok []) cmPol = (u, none) → x.decKey (idx / 8) < key 2 0 → u.mem.wf = true →
              on j (fun t k => k.prog = m.prog + 1 ∧ k.run.gone = m.run.gone.filter (· != idx) ∧ t.mapBit x idx = true ∧ t.slot i = y ∧ others t i ∧
                ∀ b, b ≠ x.decKey (idx / 8) → (b < bufKey c .jb 0 ∨ bufKey c .jb 0 + 0x4000 ≤ b) → t.mem.get b = u.mem.get b)
          (s.running i = some r → m.run.phase ≠ 0 → ∀ idx z, idx < x.total →
            let q := x.srcOf (isShuf m.ins) idx
            let j (z : Answer) : Instr := .codedBlockArrive { slot := sl, src := q.1, idx, ans := z }
            (s.mapBit x idx = true → q.1 ≠ x.rank →
              exec (j (.ok z)) s = .next { s with sent := s.sent ++ [.ack i (x.prong (isShuf m.ins) (s.ctxOf c).fn.val q.1 x.rank idx)] }) ∧
            (s.mapBit x idx = false → q.1 ≠ x.rank → z.length = B → takes (j (.ok z)) s x idx z) ∧
            (∀ v d w, s.mapBit x idx = false → q.1 = x.rank → Answer.legal w = true →
              s.cmRead c m (tagOf 1 idx) (x.ownSrc (isShuf m.ins) m.b.toNat q.2) B w = (v, some (.ok d)) →
              v.mapBit x idx = false → v.slots = s.slots → takes (j w) v x idx d)) ∧
          (∀ q j k,
            let ack : CAck := { slot := sl, rcv := q, j, k }
            let isIt (b : CSend) : Bool := b.pkt.slot == sl && b.rcv == q && b.j == j && b.k == k
            (s.gathOf i (fun n => n.run.phase != 0) = some r →
              (s.sends.any isIt = true → x.decKey (x.ackIx q j k / 8) < key 2 0 → on (.blockAckArrive ack) (fun t w => w.due = s.now ∧
                t.mapBit x (x.ackIx q j k) = true ∧ t.sends = s.sends.filter (fun b => !(isIt b)) ∧ t.slots = s.slots)) ∧
              (s.sends.any isIt = false → exec (.blockAckArrive ack) s = .next s)) ∧
            (s.sends.any isIt = false → exec (.fallbackRequest ack) s = .next s) ∧
            (∀ b, s.sends.find? isIt = some b → ∃ t, exec (.fallbackRequest ack) s = .next t ∧ t.sent = s.sent ++ [.block { b.pkt with answer := true }] ∧
              t.sends = s.sends.map (fun b => if isIt b then { b with pkt := { b.pkt with answer := true } } else b) ∧ t.slots = s.slots ∧ t.mem = s.mem)) ∧
          (s.running i = some r → m.run.phase ≠ 0 → ∀ (f : ForkPkt) p, f.slot = sl → f.prongs[f.own]? = some p → p.rcv = x.rank → p.idx < x.total →
            -- `w` is the state in which the copy arrives
            let arrives (j : Instr) (w : State) : Prop :=
              let y := x.count 2 1
              let rest := (f.prongs.zip (List.range f.prongs.length)).filter (fun q => q.2 != f.own)
              (s.mapBit x p.idx = true → exec j s = .next (if f.trimmed then w else { w with sent := w.sent ++ [.ack i p] })) ∧
              (s.mapBit x p.idx = false → f.trimmed = true → on j (fun t k => k.run = { m.run with fall := m.run.fall + 1 } ∧
                t.slot i = (x.count 4 1).count 5 1 ∧ others t i)) ∧
              (s.mapBit x p.idx = false → f.trimmed = false → s.ecc = [] →
                ((∃ q ∈ rest, ∀ h ∈ x.held, h.id ≠ q.1.id) →
                  (x.policy ≠ 1 → m.run.miss < 3 → on j (fun t k => k.run = { m.run with miss := m.run.miss + 1, fall := m.run.fall + 1 } ∧
                    t.slot i = ((x.count 2 1).count 3 1).count 4 1 ∧ others t i)) ∧
                  ((x.policy = 1 ∨ 3 ≤ m.run.miss) → on j (fun t k =>
                    k.run = { m.run with miss := m.run.miss + 1, gone := m.run.gone.filter (· != p.idx) ++ [p.idx] } ∧
                    t.slot i = (x.count 2 1).count 3 1 ∧ others t i))) ∧
                (∀ hs : List Held, rest.map (fun q => x.held.find? (fun h => h.id == q.1.id)) = hs.map some →
                  let d := hs.foldl (fun d h => xorBytes d (s.mem.read (x.placeKey h.place) B)) (padTo B f.data)
                  let y := { y with held := x.held.map (fun h => if h ∈ hs then { h with used := s.now } else h) }
                  takes j (w.setSlot i y) y p.idx d))
            arrives (.forkCopyArrive f) s ∧
            (p.dst = s.nodeId → (∀ k q, k < f.own → f.prongs[k]? = some q → q.dst ≠ s.nodeId) →
              arrives (.forkSplit f) { s with sent := s.sent ++
                ((f.prongs.zip (List.range f.prongs.length)).filter (fun q => q.1.dst != s.nodeId)).map (fun q => .fork { f with own := q.2 }) }))))) ∧
    (isCoded m.ins = true → max m.start m.due + 30 * s.ftmo ≤ s.now →
      on (.codedTimeout r) (fun _ k => ∃ w, k.fail = some (.timeout, a, w)))) ∧
    (∀ (o : Fin 6) (p q : CPkt) (ps : List CPkt),
      let k := p.slot.val
      (s.outOf p = o.val → s.codable [p] = true → s.codable [p, q] = true → (s.slot k).owner.isSome = true → ∃ t, exec (.routerFork o [p, q]) s = .next t ∧ others t k ∧
        t.slot k = ((s.slot k).count 0 1).count 1 1 ∧
        t.sent = s.sent ++ [.fork { slot := p.slot, prongs := [p.p, q.p], data := xorBytes p.data q.data }]) ∧
      ((s.pickFork (ps.filter (fun z => s.outOf z == o.val))).length < 2 → exec (.routerFork o ps) s = .next s)) ∧
    (∀ (j : Fin 128) (z : Ann) (rank : Nat),
      let y := s.slot z.slot.val
      let mine := s.sideInfo.filter (fun w => w.1 == z.slot.val)
      let ent := (z.slot.val, z.id, z.rank)
      (s.stores z = false → exec (.announceStore z) s = .next s) ∧
      (s.stores z = true →
        let sent := s.sent ++ [.taken z.slot.val z.rank]
        (ent ∈ s.sideInfo → exec (.announceStore z) s = .next { s with sent }) ∧
        (ent ∉ s.sideInfo → mine.length < 4096 → exec (.announceStore z) s = .next { s with sideInfo := s.sideInfo ++ [ent], sent }) ∧
        (ent ∉ s.sideInfo → 4096 ≤ mine.length → y.owner.isSome = true → ∃ t, exec (.announceStore z) s = .next t ∧ t.sideInfo = s.sideInfo ∧
          t.slot z.slot.val = y.count 7 1 ∧ others t z.slot.val)) ∧
      exec (.announcementWithdraw j rank) s = .next
        { s with sideInfo := s.sideInfo.filter (fun w => !(w.1 == j.val && w.2.2 == rank)), sent := s.sent ++ [.taken j.val rank] })

/-- R366 to R376, R380 to R394, R398, R415, R448: the launch of records, the walker's grants, contexts placed and retired, joins, the task
commands as they perform, lap boundaries, ages and egress records. A join's FIRST with no failure is log entry 24, the comparison of an
image with what the save wrote entry 46, and that lends from other nodes wait for the lap entry 47 (the model's choices). -/
def Obligations.TaskEvents : Prop :=
  ∀ (s : State) (r : CmdRef) (m : Cmd) (e : Ecmd) (c : CoreId) (id : Fin 16) (w : CtlW) (n : Nest), s.mem.wf = true →
    let x := s.ctxOf c
    let flagUp (t : State) (f : Nat) : Prop := t.flags.toList.getD f 0 = (fincValue (s.flags.toList.getD f 0) 1).1
    -- the contexts that a record of MODE 0 makes, last among those on no core
    let made (t : State) (l : LRec) (lq : Nat) : Prop := ∃ vs : List Saved, t.saved = s.saved ++ vs ∧ vs.map Saved.core = coreList l.cores ∧
      ∀ v ∈ vs, v.phase = .ready ∧ v.fresh = true ∧ v.since = s.now ∧ v.ctx.pc = BitVec.ofNat 64 l.entry ∧ v.ctx.fn.val = l.fn % 16 ∧
        v.ctx.pri.val = l.prio % 8 ∧ v.ctx.lq.val = lq % 64 ∧ (∀ k, k < 4 → v.ctx.s.toList.getD (k + 1) 0 = l.args.getD k 0) ∧
        v.ctx.s.toList.getD 5 0 = BitVec.ofNat 64 (popcount (l.cores.toNat % 2 ^ v.core.val) 128) ∧
        v.ctx.s.toList.getD 6 0 = BitVec.ofNat 64 (popcount l.cores.toNat 128) ∧
        v.ctx.sp = BitVec.ofNat 64 (8 * (if l.spoff = 0 then 0x1000 else l.spoff)) ∧ v.ctx.rpt = l.rpt ∧ v.ctx.den = l.den ∧ v.ctx.dflag = l.dflag
    (let q := w.idx % 64
     let l := s.lq q
     (s.boot < 5 → exec (.tailWrite w) s = .next s) ∧ (5 ≤ s.boot → Who.mayUse w.who s (l.qctl.toNat % 16) = true →
      (l.qctl.getLsbD 7 = true → l.tail.toNat < w.v.toNat → w.v.toNat ≤ l.head.toNat + 64 →
        exec (.tailWrite w) s = .next (s.setLq q { l with tail := w.v, arr := l.arr ++ [(w.v.toNat, s.now)] })) ∧
      (l.qctl.getLsbD 7 = false ∨ w.v.toNat ≤ l.tail.toNat ∨ l.head.toNat + 64 < w.v.toNat → exec (.tailWrite w) s = .next s))) ∧
    (s.now % 8 ≠ 0 → exec .launchTake s = .next s) ∧
    (∀ q l, s.now % 8 = 0 → s.nextQueue = some (q, l) → q < 64 →
      let moved (t : State) : Prop := (t.lq q).head = (s.lq q).head + 1
      (∀ p k, p < 64 → s.takeable p = some k → max k.prio (s.lend p) ≤ max l.prio (s.lend q)) ∧
      (s.recErr q l ≠ 0 → ∃ t, exec .launchTake s = .next t ∧ moved t ∧ t.saved = s.saved ∧ t.nests = s.nests ∧
        bits (t.lq q).qctl.toNat 8 8 = s.recErr q l) ∧
      (s.recErr q l = 0 → l.isNest = false → ∃ t, exec .launchTake s = .next t ∧ moved t ∧ made t l q) ∧
      (∀ bs en ls, s.recErr q l = 0 → l.isNest = true → s.fnRead (bits (s.lq q).qctl.toNat 0 4) l.nest 64 false = .ok bs → nestOf bs = some (en, ls) →
        (∃ i : Fin 16, s.nests[i] = none) → ∃ t, exec .launchTake s = .next t ∧ moved t ∧ ∃ (i : Fin 16) (k : Nest), s.nests[i] = none ∧
          t.nests[i] = some k ∧ k.entry = en ∧ k.levels = ls ∧ k.total = ls.foldl (fun t l => t * ((l.1 + l.2 - 1) / l.2)) 1 ∧ k.cores = l.cores ∧
          k.lq = q ∧ ∀ j : Fin 16, j ≠ i → t.nests[j] = s.nests[j])) ∧
    (∀ p t0, (s.core c).busy = false → s.bestWork c = some { prio := p, since := t0, ref := .nest id } → s.nests[id] = some n →
      let granted (lo hi : Nat) (cs : List NestCtx) : Prop := ∃ t k, exec (.nestGrant id c) s = .next t ∧ (t.core c).busy = true ∧
        (t.ctxOf c).pc = n.entry ∧ (t.ctxOf c).rs 54 = BitVec.ofNat 64 hi ∧ (t.ctxOf c).rs 55 = BitVec.ofNat 64 (id.val + lo * 2 ^ 32) ∧
        (t.ctxOf c).nestOf = some id.val ∧ t.nests[id] = some k ∧ k.ctxs = cs ++ [{ serial := s.serials + 1, cur := lo + 1, fin := hi }]
      (n.ctxs = [] → granted 0 n.total []) ∧
      (∀ l1 v l2, n.ctxs = l1 ++ v :: l2 → (∀ u ∈ l1, u.fin - u.cur < v.fin - v.cur) → (∀ u ∈ l2, u.fin - u.cur ≤ v.fin - v.cur) → v.cur < v.fin →
        let mid := v.cur + (v.fin - v.cur) / 2
        granted mid v.fin (n.ctxs.map (fun (u : NestCtx) => if u.serial = v.serial then { u with fin := mid } else u)))) ∧
    (s.nests[id] = some n → n.ctxs ≠ [] → (∀ u ∈ n.ctxs, u.fin ≤ u.cur ∧ u.living = false) → ∃ t, exec (.nestComplete id) s = .next t ∧
      t.nests[id] = none ∧ (∀ j : Fin 16, j ≠ id → t.nests[j] = s.nests[j]) ∧ (n.den = true → n.dflag < 512 → flagUp t n.dflag)) ∧
    (∀ v, x.ended = some v → (s.core c).busy = true → x.issuing = false → (s.core c).stop = none → (∀ k ∈ x.cmds, k.done = true) → x.toks = [] →
      x.gacc = [] → x.tokDue = [] → x.portQ = [] → x.trapDue = none → x.pend = [] → x.engFaults = [] → x.hits = [] → ∃ t, exec (.contextRetire c) s = .next t ∧
        (t.core c).busy = false ∧ (t.core c).ctx = {} ∧ t.saved.length = s.saved.length ∧
        (x.nestOf = none → x.den = true → x.dflag < 512 → flagUp t x.dflag)) ∧
    (∀ (j : Fin 16) tok strict, (s.core c).busy = true → x.joinTok.find? (fun p => p.1 == j.val) = some (j.val, tok, strict) → tok ≠ 0 → x.joins[j].pend = 0 →
      let k := x.joins[j]
      let v : Word := BitVec.ofNat 64 (k.ok + k.flt * 2 ^ 10 + k.kill * 2 ^ 20 + k.first.toNat * 2 ^ 32)
      ∃ t, exec (.joinReady c j) s = .next t ∧ (t.ctxOf c).joins[j] = {} ∧ (∀ p ∈ (t.ctxOf c).joinTok, p.1 ≠ j.val) ∧ tok ∉ (t.ctxOf c).toks ∧
        (strict = false ∨ k.flt + k.kill = 0 → (t.ctxOf c).rs tok = v ∧ (t.ctxOf c).pend = x.pend) ∧
        (strict = true → k.flt + k.kill ≠ 0 → (t.ctxOf c).rs tok = x.rs tok ∧
          ∃ p, (t.ctxOf c).pend = x.pend ++ [p] ∧ p.cls = .childFault ∧ p.tok = tok ∧ p.syl = v)) ∧
    -- a context saved while it stalls on join tokens is ready once none of them is still pending
    (∀ (j : Fin 16) (i : Nat) (v : Saved) ts, s.saved[i]? = some v → v.core = c → v.phase = .join ts →
      ∃ (t : State) (u : Saved), exec (.joinReady c j) s = .next t ∧ t.saved[i]? = some u ∧ u.ctx = v.ctx.joinEnd j.val ∧
        ((∀ k ∈ ts, ∀ p ∈ u.ctx.joinTok, p.2.1 ≠ k) → u.phase = .ready ∧ u.since = s.now) ∧
        ((∃ k ∈ ts, ∃ p ∈ u.ctx.joinTok, p.2.1 = k) → u.phase = v.phase ∧ u.since = v.since)) ∧
    (s.runs r m → m.eng = .fi → r.core = c → x.released m = true →
      let a := m.a.toNat
      let b := m.b.toNat
      let perf := Instr.releasePerform r
      let done (v : Nat) (P : State → Prop) : Prop := ∃ t, exec perf s = .next t ∧ completed s t c m (BitVec.ofNat 64 v) ∧ P t
      let fails (cls : TrapClass) : Prop := ∃ t, exec perf s = .next t ∧ t.goesOn r (fun k => ∃ ad w, k.fail = some (cls, ad, w))
      let q := s.eq a
      let tree (k : Nat) : Tree := s.trees.toList.getD k {}
      (m.ins = .egput e → a < 32 →
        (q.put.toNat - q.head.toNat < 256 → done q.put.toNat (fun t => (t.eq a).put = q.put + 1 ∧
          (t.eq a).rel = (if q.ctl.getLsbD 1 then q.rel else q.put + 1) ∧
          ((s.core c).ring = none →
            let k := key 5 (0x100000 + a * 0x8000 + 64 * (q.put.toNat % 256))
            t.mem.num k 8 = q.put.toNat ∧ t.mem.num (k + 8) 4 = x.ctxid.toNat ∧ t.mem.num (k + 12) 4 = 0 ∧
            ∀ j, j < 48 → t.mem.get (k + 16 + j) = m.pay.getD j 0))) ∧
        (256 ≤ q.put.toNat - q.head.toNat → m.t0 + 30 * s.ftmo ≤ s.now → ∃ t, exec (.egputTimeout r) s = .next t ∧
          t.goesOn r (fun k => ∃ w, k.fail = some (.timeout, a, w)))) ∧
      ((m.ins = .egrel e ∨ m.ins = .egdrop e) → a < 32 →
        (bits q.ctl.toNat 8 32 ≠ x.ctxid.toNat → fails .access) ∧
        (bits q.ctl.toNat 8 32 = x.ctxid.toNat → q.put.toNat ≤ b → fails .illegal) ∧
        (bits q.ctl.toNat 8 32 = x.ctxid.toNat → b < q.put.toNat → b < q.rel.toNat → done 0 (fun t => t.eqs = s.eqs)) ∧
        (bits q.ctl.toNat 8 32 = x.ctxid.toNat → b < q.put.toNat → q.rel.toNat ≤ b → done (b + 1 - q.rel.toNat) (fun t =>
          t.eq a = { q with rel := BitVec.ofNat 64 (b + 1) } ∧
          ((s.core c).ring = none → q.put.toNat ≤ q.rel.toNat + 256 → ∀ j, q.rel.toNat ≤ j → j ≤ b →
            let k := key 5 (0x100000 + a * 0x8000 + 64 * (j % 256))
            if m.ins = .egdrop e then t.mem.get (k + 15) = s.mem.get (k + 15) ||| 0x80 ∧ ∀ i, i < 48 → t.mem.get (k + 16 + i) = 0
            else ∀ i, i < 64 → t.mem.get (k + i) = s.mem.get (k + i))))) ∧
      (m.ins = .ecinit e →
        let k := a % 16
        let f := a / 2 ^ 8 % 2 ^ 7
        let old := (tree k).c.toList.getD f 0
        (2 ^ 32 ≤ old + b → fails .illegal) ∧
        (old + b < 2 ^ 32 → done (old + b) (fun t => ∀ j i, j < 16 → i < 128 → (t.trees.toList.getD j {}).c.toList.getD i 0 =
          if j = k ∧ i = f then old + b else (tree j).c.toList.getD i 0))) ∧
      (m.ins = .ecdone e →
        let k := a % 16
        let old := (tree k).c.toList.getD c.val 0
        (old < b → fails .illegal) ∧
        (b ≤ old → done (old - b) (fun t => (∀ j i, j < 16 → i < 128 → (t.trees.toList.getD j {}).c.toList.getD i 0 =
            if j = k ∧ i = c.val then old - b else (tree j).c.toList.getD i 0) ∧
          (1 ≤ b → (tree k).flag < 512 → (tree k).fen = true → (∀ i, i < 128 → i ≠ c.val → (tree k).c.toList.getD i 0 = 0) → old = b → flagUp t (tree k).flag)))) ∧
      (m.ins = .spawn e →
        let l := LRec.of m.pay
        let k := popcount l.cores.toNat 128
        l.isNest = false →
          (b.testBit 4 = true → 1023 < (x.joins.toList.getD (b % 16) {}).pend + k → fails .illegal) ∧
          (b.testBit 4 = true → (x.joins.toList.getD (b % 16) {}).pend + k ≤ 1023 → done k (fun t => made t l x.lq.val ∧
            ((t.ctxOf c).joins.toList.getD (b % 16) {}).pend = (x.joins.toList.getD (b % 16) {}).pend + k)) ∧
          (b.testBit 4 = false → done k (fun t => made t l x.lq.val ∧ (t.ctxOf c).joins = x.joins)))) ∧
    (s.now % 2048 ≠ 0 → exec .schedLapBoundary s = .next s) ∧
    (s.now % 2048 = 0 → ∃ t, exec .schedLapBoundary s = .next t ∧ (∀ f a, s.limNew = some (f, a) → t.ftmo = f ∧ t.age = a) ∧ t.limNew = none ∧
      (s.limNew = none → t.ftmo = s.ftmo ∧ t.age = s.age) ∧ t.lendIn = [] ∧ (∀ v ∈ t.saved, v.ctx.spri = v.ctx.pri.val) ∧
      ∀ k : CoreId, (t.ctxOf k).spri = (s.ctxOf k).pri.val ∧
        (s.works k = [] → (t.ctxOf k).status = (s.ctxOf k).status) ∧
        ((s.core k).busy = true → (s.core k).stop = none → (s.ctxOf k).ended = none → (s.ctxOf k).wait.isSome = true → s.works k ≠ [] →
          (t.ctxOf k).status.getLsbD 3 = true)) ∧
    (∀ p t0 i v, (s.core c).busy = false → s.bestWork c = some { prio := p, since := t0, ref := .ctx i } → s.saved[i]? = some v →
      ∃ t, exec (.corePlace c) s = .next t ∧ t.saved = s.saved.eraseIdx i ∧ (t.core c).busy = true ∧ (t.core c).placed = s.now ∧
        (v.fresh = true → (t.core c).stop = none ∧ (t.ctxOf c).pc = v.ctx.pc ∧ (t.ctxOf c).s = v.ctx.s ∧ (t.ctxOf c).serial = v.ctx.serial ∧
          (s.images = [] → (s.core c).ring = none → ∀ j, j < 0x40000 → t.mem.get (bufKey c .jb j) = 0)) ∧
        (v.fresh = false →
          -- the image that the save wrote, as memory now holds it
          let u := s.restoreCells v.core v.cells
          let at_ (o : Nat) : Nat := key 0 (bits (s.func v.ctx.fn.val).imgbase.toNat 12 28 * 4096 + o)
          let hit : Prop := ∃ o, v.img = some o ∧ (eccHit u.ecc (at_ o.1) o.2).isSome = true
          let same : Prop := (v.img = none ∧ v.bytes = []) ∨ ∃ o, v.img = some o ∧ cellsFrom 0 (u.load (at_ o.1) o.2) = v.bytes
          ∃ st, (t.core c).stop = some st ∧ st.why = .loading ∧ st.since = v.t0 ∧
            (¬ hit → same → (t.core c).ctx = v.ctx ∧ st.rcd = none) ∧
            (hit → ∃ p, st.rcd = some p ∧ p.cls = .ecc ∧ p.fatal = true))) ∧
    (∀ (q : Fin 64) (p : Lend), exec (.lendMessage q p) s = .next { s with lendIn := s.lendIn ++ [(q.val, p.prio.val, p.links.val)] }) ∧
    (∀ i v, s.saved[i]? = some v → v.phase = .ready → v.since + 30 * s.age ≤ s.now →
      exec (.ageExpiry (.ctx i)) s = .next { s with saved := s.saved.set i { v with aged := true } }) ∧
    (s.nests[id] = some n → (n.ctxs = [] ∨ ∃ u ∈ n.ctxs, u.cur < u.fin) → n.since + 30 * s.age ≤ s.now →
      exec (.ageExpiry (.nest id)) s = .next { s with nests := s.nests.set id (some { n with aged := true }) }) ∧
    (∀ (y : Who) (q : Fin 32) (z : Fin 256), ∃ t, exec (.egressSlotRead y q z) s = .next t ∧ t.hostData.length = 64 ∧ t.mem = s.mem ∧
      let k := s.eq q.val
      let mine := (∀ c, y ≠ .ctx c) ∧ Who.mayUse y s (bits k.ctl.toNat 40 4) = true
      let heldBack := ∃ j, j < 256 ∧ k.rel.toNat + j < k.put.toNat ∧ (k.rel.toNat + j) % 256 = z.val
      ∀ j, j < 64 → (¬ mine ∨ heldBack → t.hostData.getD j 0 = 0) ∧
        (mine → ¬ heldBack → t.hostData.getD j 0 = s.mem.get (key 5 (0x100000 + q.val * 0x8000 + 64 * z.val + j))))

/-- R36, R105, R223, R288, R320, R400 to R404, R407, R409, R410, R423, R424, R429, R430, R433, R438: a precise trap is taken within the
context or reported; `trap` and `bkpt` take theirs after the bundle; `rte` returns; `sysrd` and `syswr` act on each control register;
`trace` and `jrd`. The model's choices: the transfer of a bundle with `trap` or `bkpt` stands pending (DESIGN CHOICE, log entry 86), and
what the frame has no place for (DESIGN CHOICE, log entry 30). -/
def Obligations.SystemSyllables : Prop :=
  ∀ (s : State) (x : Eimm) (g : Guard) (r : SysRd) (w : SysWr) (y : Trc) (j : Edst) (p : Pre), s.mem.wf = true →
    let c := s.ctx
    let k := s.core s.cur
    let jb := bufKey s.cur .jb 0
    (∀ sl cls a, g.sq = false ∨ c.kpos = none → s.trapped (s.precise g sl cls a) s.cur c
      { cls, slot := sl, pc := c.pc, seq := c.nextSeq - 1, addr := BitVec.ofNat 64 a, rpc := c.pc } s.now) ∧
    (c.guard x.g = true →
      let z := if c.issuing then c.advance else c
      -- taken at once, or, while the next bundle is held (R157), once it could issue
      let takes (i : Instr) (z : Ctx) (cls : TrapClass) : Prop :=
        (k.holdUntil ≤ s.now + 1 → ∃ t, exec i s = .next t ∧ s.trapped t s.cur z
          { cls, slot := .e, pc := c.pc, seq := c.nextSeq - 1, addr := x.imm.setWidth 64, rpc := z.pc } (s.now + 1)) ∧
        (s.now + 1 < k.holdUntil → ∃ q, exec i s = .next (s.setCtx { z with trapDue := some q }) ∧ q.cls = cls ∧ q.slot = .e ∧ q.pc = c.pc ∧
          q.seq = c.nextSeq - 1 ∧ q.addr = x.imm.setWidth 64)
      takes (.trap x) z .trap ∧ (c.status.getLsbD 2 = true → c.hits = [] → takes (.bkpt x) z .bkpt) ∧
      (c.status.getLsbD 2 = false → exec (.bkpt x) s = .next s)) ∧
    (c.guard g = true →
      let num (o n : Nat) : Nat := s.mem.num (jb + 0x4000 + o) n
      let returns (i : Instr) : Prop := ∃ t, exec i s = .next t ∧ t.ctx.pc.toNat = num 0x40 8 ∧ t.ctx.status = c.status &&& ~~~1 ∧
        (t.core s.cur).holdUntil = s.now + 16 ∧ (∀ n : Fin 8, t.ctx.p[n] = (n != 0 && (num 0x58 1).testBit n.val)) ∧
        (∀ n : Fin 4, t.ctx.lx[n].toNat = num (0x60 + 8 * n.val) 8) ∧
        t.ctx.loops.length = num 0xE4 1 % 8 ∧ (∀ n e, t.ctx.loops[n]? = some e →
          e.start.toNat = num (0x80 + 24 * n) 8 ∧ e.fin.toNat = num (0x88 + 24 * n) 8 ∧ e.count = num (0x90 + 24 * n) 8) ∧
        (t.ctx.xfer = if (num 0x50 1).testBit 2 then some { tgt := BitVec.ofNat 64 (num 0x48 8), left := num 0x50 1 % 4, pops := c.framePops } else none) ∧
        (∀ d, d ≠ s.cur → t.core d = s.core d) ∧ ((∀ f ∈ c.flight, f.born = s.now) → t.ctx.o = c.o ∧ t.ctx.rows = c.rows ∧
          ∀ n : Fin 64, (∀ m ∈ c.cmds, m.tok ≠ n) → t.ctx.rs n = c.rs n)
      ((g.sq = false ∨ c.kpos = none) → c.status.getLsbD 0 = false →
        exec (.rte g) s = .next (s.precise g .e .illegal 0) ∧ exec (.rteDrop g) s = .next (s.precise g .e .illegal 0)) ∧
      (c.status.getLsbD 0 = true → s.sound (jb + 0x4000) 0x3A40 → (∀ m ∈ c.cmds, m.faulted = false) → returns (.rte g)) ∧
      (c.status.getLsbD 0 = true → s.sound (jb + 0x4000) 0x3A40 → k.ring = none → num 0 8 / 2 ^ 10 % 2 ^ 3 ≠ 0 →
        returns (.rteDrop g) ∧ ∀ m, c.cmds.find? (fun m => m.seq == BitVec.ofNat 32 (num 16 4) && !m.done) = some m → c.flight = [] →
          (∀ q ∈ c.cmds, q.seq ≠ m.seq → q.faulted = false) → ∃ t, exec (.rteDrop g) s = .next t ∧ (∀ q ∈ t.ctx.cmds, q.seq = m.seq → q.done = true) ∧
            (m.tok ≠ 0 → t.ctx.rs m.tok = 0 ∧ m.tok ∉ t.ctx.toks)) ∧
      (c.status.getLsbD 0 = true → num 0 8 / 2 ^ 10 % 2 ^ 3 = 0 → exec (.rteDrop g) s = .next (s.precise g .e .illegal 0))) ∧
    (c.guard r.g = true → r.g.sq = false → c.pre = some p →
      let n := r.reg.toNat
      let reads (v : Word) : Prop := ∃ t, exec (.sysrd r) s = .next t ∧ s.regsKept t ∧ t.mem = s.mem ∧
        t.ctx.flight = c.flight ++ [{ fin := s.now + 1, born := s.now, code := sCode r.d, slot := .e, val := v }] ∧
        t.ctx.xstat = (if n = 0x012 then c.xstat &&& 0x1F else c.xstat) ∧ t.ctx.fistat = (if n = 0x013 then 0 else c.fistat)
      (∀ q ∈ [((0x000 : Nat), c.status), (0x001, c.trapvec), (0x002, c.trapinfo), (0x003, BitVec.ofNat 64 c.ctxidWord),
          (0x004, BitVec.ofNat 64 (s.funcWord c.fn.val)), (0x005, p.fp), (0x006, p.sp), (0x007, c.ttb)] ++
          [((0x008 : Nat), p.loopst), (0x009, c.flgext), (0x00A, c.inbox), (0x00B, if p.act then 1 else 0), (0x00C, p.sm), (0x00D, p.am0),
          (0x00E, p.am1), (0x00F, c.mstat), (0x010, BitVec.ofNat 64 c.pipWord), (0x011, c.chstat), (0x012, c.xstat), (0x013, c.fistat)] ++
          [((0x014 : Nat), c.dumpstat), (0x015, BitVec.ofNat 64 (s.now / 30)), (0x088, k.bphit), (0x090, k.trctl), (0x091, k.trbase),
          (0x092, k.trptr), (0x0A0, c.cyc), (0x0A1, c.nrg)], n = q.1 → reads q.2) ∧
      (∀ i : Fin 16, (n = 0x020 + i.val → reads (c.wfmt[i].setWidth 64)) ∧ (n = 0x030 + i.val → reads (c.afmt[i].setWidth 64))) ∧
      (∀ i : Fin 8, n = 0x040 + i.val → reads c.xmaps[i]) ∧
      (∀ i : Fin 4, (n = 0x080 + i.val → reads k.bpc[i]) ∧ (n = 0x084 + i.val → reads k.bpv[i])) ∧
      ((0x016 ≤ n ∧ n < 0x020) ∨ (0x048 ≤ n ∧ n < 0x080) ∨ (0x089 ≤ n ∧ n < 0x090) ∨ (0x093 ≤ n ∧ n < 0x0A0) ∨ 0x0A2 ≤ n →
        exec (.sysrd r) s = .next (s.precise r.g .e .illegal 0))) ∧
    (c.guard w.g = true →
      let n := w.reg.toNat
      let v := c.src w.a
      let sets (reg : Nat) (mask : Word) (z : Ctx) : Prop := n = reg →
        (v &&& ~~~mask = 0 → exec (.syswr w) s = .next (s.setCtx z)) ∧ (v &&& ~~~mask ≠ 0 → exec (.syswr w) s = .next (s.precise w.g .e .illegal 0))
      sets 0x000 0x1F { c with status := (c.status &&& ~~~20#64) ||| (v &&& 20#64) } ∧
      sets 0x001 0x01FFFFFFFFFFFFE1 { c with trapvec := v } ∧ sets 0x006 0x3FFF8 { c with sp := v } ∧ sets 0x00A 1 { c with inbox := v } ∧
      sets 0x00F 0x3F { c with mstat := c.mstat &&& ~~~v } ∧
      sets 0x011 0xFFFFFFFF00000FEF { c with chstat := c.chstat &&& ~~~(v &&& 0x1EF) } ∧
      sets 0x012 0x0000FFFFFFFF001F { c with xstat := c.xstat &&& ~~~(v &&& 0x1F) } ∧
      sets 0x014 0xE1FFFFFFFFFFFFFF { c with dumpstat := c.dumpstat &&& ~~~(v &&& 0xC000000000000000) } ∧
      (v.toNat % 2 ^ 9 + v.toNat / 2 ^ 16 % 2 ^ 10 ≤ 512 → sets 0x009 0x03FF01FF { c with flgext := v }) ∧
      (n = 0x009 → 512 < v.toNat % 2 ^ 9 + v.toNat / 2 ^ 16 % 2 ^ 10 → exec (.syswr w) s = .next (s.precise w.g .e .illegal 0)) ∧
      (c.flight = [] →
        (c.raised = 0 → sets 0x005 0x1F003F { c with fpstat := (c.fpstat &&& ~~~v &&& 0x3F) ||| (v &&& 0x1F0000) }) ∧
        (c.raisedSm = 0 → sets 0x00C 7 { c with smstat := c.smstat &&& ~~~v }) ∧
        (c.raisedAm = none → sets 0x00D (BitVec.allOnes 64) { c with smam0 := c.smam0 &&& ~~~v } ∧
          sets 0x00E (BitVec.allOnes 64) { c with smam1 := c.smam1 &&& ~~~v })) ∧
      (∀ i : Fin 16, (n = 0x020 + i.val → fmtOk v = true → ∃ t, exec (.syswr w) s = .next t ∧ slotSet c.wfmt t.ctx.wfmt i.val (v.setWidth 32) ∧ s.regsKept t) ∧
        (n = 0x030 + i.val → fmtOk v = true → ∃ t, exec (.syswr w) s = .next t ∧ slotSet c.afmt t.ctx.afmt i.val (v.setWidth 32) ∧ s.regsKept t)) ∧
      (∀ i : Fin 4, (n = 0x084 + i.val → bpvOk (k.bpc[i].toNat % 2 ^ 3) v = true → ∃ t, exec (.syswr w) s = .next t ∧
          slotSet k.bpv (t.core s.cur).bpv i.val v ∧ s.regsKept t) ∧
        (n = 0x080 + i.val → bpcOk k.bpc[i] k.bpv[i] v = true → ∃ t u, exec (.syswr w) s = .next t ∧ slotSet k.bpc (t.core s.cur).bpc i.val u ∧
          s.regsKept t ∧ ∀ b, b < 64 → u.getLsbD b = if b = 18 then decide (v.toNat / 2 ^ 32 = c.ctxid.toNat) else v.getLsbD b)) ∧
      (n = 0x088 → v &&& ~~~0xF = 0 → exec (.syswr w) s = .next (s.setCore s.cur { k with bphit := k.bphit &&& ~~~v })) ∧
      (n = 0x090 → v &&& ~~~0x10F = 0 →
        exec (.syswr w) s = .next (s.setCore s.cur { k with trctl := v, trptr := k.trptr &&& 0x0000FFFF00000000 })) ∧
      (n ∈ [0x002, 0x003, 0x004, 0x007, 0x008, 0x00B, 0x010, 0x013, 0x015, 0x091, 0x092, 0x0A0, 0x0A1] ∨ (0x040 ≤ n ∧ n < 0x080) →
        exec (.syswr w) s = .next (s.precise w.g .e .illegal 0))) ∧
    (c.guard y.g = true →
      (c.status.getLsbD 4 = false ∨ k.ring = none → exec (.trace y) s = .next s) ∧
      (∀ base cap, c.status.getLsbD 4 = true → k.ring = some (base, cap) → k.trctl.getLsbD 8 = false → s.ecc = [] → c.conf = false →
        let next := k.trptr.toNat % 2 ^ 32
        -- no record of this cycle goes after a software record
        s.traceBack base cap 3 next 8 = 0 →
        let a := base + 64 * (next % cap)
        ∃ t, exec (.trace y) s = .next t ∧ t.mem.num a 8 = 1 + s.cur.val * 2 ^ 8 + c.ctxid.toNat * 2 ^ 32 ∧ t.mem.num (a + 8) 8 = c.pc.toNat ∧
          t.mem.num (a + 16) 8 = (c.nextSeq - 1).toNat ∧ t.mem.num (a + 24) 8 = (s.now / 30 * 32 + s.now % 30) % 2 ^ 64 ∧
          t.mem.num (a + 32) 8 = (c.src y.a).toNat ∧ t.mem.num (a + 40) 8 = (c.src y.b).toNat % 2 ^ 16 ∧ t.mem.num (a + 48) 16 = 0 ∧
          bytesKept s t a 64 ∧ s.regsKept t ∧
          (t.core s.cur).trptr.toNat = (next + 1) % 2 ^ 32 + k.trptr.toNat / 2 ^ 32 % 2 ^ 16 * 2 ^ 32)) ∧
    (c.guard j.g = true →
      let off := 8 * ((c.src j.a).toNat % 2 ^ 12)
      let base := if j.sub then 0x4000 else 0
      (0x4000 ≤ off → exec (.jrd j) s = .next (s.precise j.g .e .buffer (base + off))) ∧
      (off < 0x4000 → j.g.sq = false →
        let o := s.portOp .e .jb (.load (base + off) 8 .f32 true)
        exec (.jrd j) s = .next (s.queuing o 1 [{ fin := s.now + 4, born := s.now, code := sCode j.d, slot := .e, val := 0, pid := c.nextPort }]) ∧
        ∀ (u : State) (f : Flight), u.mem.wf = true → u.performs s.cur o → (u.ctxOf s.cur).frameFl = [] → (u.ctxOf s.cur).flight = [f] →
          f.pid = o.pid → o.pid ≠ 0 → u.sound (jb + base + off) 8 →
          ((u.portStep s.cur).ctxOf s.cur).flight = [{ f with val := BitVec.ofNat 64 (u.mem.num (jb + base + off) 8), row := none }]))

/-- R139, R402, R403, R407, R410, R412, R415 to R417, R420, R425 to R428, R434 to R436, R440, R446, R447, R449: pre-emption, traps and
hits at boundaries, saves and resumptions, the trap queue's commands, function-level reset, invalidation, droop samples, and images and
dumps at a program's request. The model's choices: reserved bits of `inval` are masked (log entry 20), the image's layout and place (35,
40), ENG and SLOT of a hit's record (42), the copy that a resume takes up (46), the cycles of `ctxsave`, `ctxrest` and `dump` (51), the
two passes of `ctxrest` (52), the order of a dump's writes (53), what a handler puts off (69), ILLEGAL before ALIGN (84), the steps of a
reset in one event (118), the extent changes that it leaves (123). -/
def Obligations.SaveEvents : Prop :=
  ∀ (s : State) (c : CoreId) (w : CtlW) (who : Who) (slot : Fin 64) (f : Fin 16) (x : CtxOp), s.mem.wf = true →
    let k := s.core c
    let y := k.ctx
    let t0 := s.now
    (k.busy = false → exec (.preemptRequest c) s = .next (s.setCore c { k with preOut := some 1 })) ∧
    (k.busy = true → exec (.preemptRequest c) s =
      .next (s.setCore c { k with ctx := { y with status := y.status ||| 8, preHeld := false }, preOut := none })) ∧
    (y.status.getLsbD 3 = false → exec (.preemptTake c) s = .next s) ∧
    (k.busy = true → y.status.getLsbD 3 = true → y.preHeld = false → k.stop = none → y.issuing = false → y.ended = none → y.rest = none →
      y.trapDue = none → k.holdUntil ≤ s.now → y.engFaults = [] → (y.hits = [] ∨ y.status.getLsbD 0 = true) → exec (.preemptTake c) s =
        .next (s.setCore c { k with ctx := { y with thaw := none }, stop := some { why := .preempt, rcd := none, since := t0 } })) ∧
    (k.busy = true → (y.engFaults ≠ [] ∨ y.trapDue.isSome = true ∨ (y.hits ≠ [] ∧ y.status.getLsbD 0 = false)) → exec (.preemptTake c) s = .next s) ∧
    (k.busy = true → k.stop = none → y.issuing = false → y.wait = none → y.rest = none → k.holdUntil ≤ s.now →
      (∀ q, y.trapDue = some q → ∃ t, exec (.trapTake c) s = .next t ∧ s.trapped t c { y with trapDue := none }
        { cls := q.cls, slot := q.slot, eng := q.eng, pc := q.pc, seq := q.seq, addr := q.addr, rpc := y.pc } t0) ∧
      (y.trapDue = none →
      (∀ m cls ad e, y.engFaults = [m.seq] → y.cmds.find? (fun z => z.seq == m.seq) = some m → m.fail = some (cls, ad, e) →
        ∃ t, exec (.trapTake c) s = .next t ∧ s.trapped t c { y with engFaults := [] }
          { cls, slot := .e, eng := m.eng, pc := m.pc, seq := m.seq, addr := BitVec.ofNat 64 ad, rpc := y.pc } t0) ∧
      (∀ p, y.engFaults = [] → y.pendNow s.now k.nextBundle = some p → p.cls ≠ .childFault → ∃ t, exec (.trapTake c) s = .next t ∧
        s.trapped t c { y with pend := y.pend.erase p }
          { cls := p.cls, slot := p.slot, pc := p.pc, seq := BitVec.ofNat 32 p.seq, addr := BitVec.ofNat 64 p.addr, rpc := y.pc } t0) ∧
      (y.engFaults = [] → y.pendNow s.now k.nextBundle = none → exec (.trapTake c) s = .next s) ∧
      (∀ h, y.engFaults = [] → y.hits = [h] →
        (y.status.getLsbD 0 = false → ∃ t, exec (.breakpointHit c) s = .next t ∧ s.trapped t c { y with hits := [] }
          { cls := .bkpt, slot := .e, pc := h.pc, seq := h.seq, addr := BitVec.ofNat 64 (2 ^ 32 + h.n), rpc := y.pc } t0) ∧
        (y.status.getLsbD 0 = true → exec (.breakpointHit c) s = .next s)))) ∧
    (∀ st, k.stop = some st → y.gacc = [] → y.tokDue = [] → y.portQ = [] → (∀ m ∈ y.cmds, m.started = false ∨ m.done = true) →
      let saves (ph : Phase) (rdy : Nat) (P : State → Prop) : Prop := ∃ t v, exec (.contextSaved c) s = .next t ∧ (t.core c).busy = false ∧
        (t.core c).ctx = {} ∧ t.saved.length = s.saved.length + 1 ∧ t.saved.getLast? = some v ∧ v.core = c ∧ v.phase = ph ∧ v.since = rdy ∧
        v.t0 = st.since ∧ v.fresh = false ∧ v.img.isSome = true ∧ v.ctx.pc = y.pc ∧ v.ctx.o = y.o ∧ v.ctx.p = y.p ∧ v.ctx.lx = y.lx ∧
        v.ctx.cmds = y.cmds ∧ v.ctx.flight = y.flight ∧ (∀ i : Fin 64, v.ctx.s[i] = if y.liveS.getLsbD i then y.s[i] else 0) ∧
        (∀ i : Fin 128, v.ctx.rows[i] = if y.liveT.getLsbD (i.val / 8) then y.rows[i] else 0) ∧ P t
      (st.why = .preempt → st.rcd = none → (s.restCmds c).hasRoom c st.since = true → saves k.phase st.since (fun t =>
        y.status.getLsbD 3 = true → (t.core c).preOut = some 0)) ∧
      (st.why = .yield → st.rcd = none → (s.restCmds c).hasRoom c st.since = true → saves .ready st.at_ (fun _ => True)) ∧
      (st.why = .preempt → st.rcd = none → (s.restCmds c).hasRoom c st.since = false → ∃ t, exec (.contextSaved c) s = .next t ∧ (t.core c).stop = none ∧
        (t.ctxOf c).pc = y.pc ∧ (t.ctxOf c).s = y.s ∧ (t.ctxOf c).status = y.status &&& ~~~8 ∧ (y.status.getLsbD 3 = true → (t.core c).preOut = some 3)) ∧
      (∀ r, (st.why = .report ∨ st.why = .full) → st.rcd = some r →
        (∀ i, s.tqPlace r.fatal = some i → r.fatal = false → (s.restCmds c).hasRoom c st.since = true → saves (.trapped i) st.since (fun t =>
          t.tq.toList.getD i none = some r)) ∧
        (∀ i, s.tqPlace r.fatal = some i → r.fatal = true → (s.restCmds c).hasRoom c st.since = true → ∃ t, exec (.contextSaved c) s = .next t ∧
          (t.core c).busy = false ∧ t.tq.toList.getD i none = some r ∧ t.saved.length = s.saved.length ∧ t.deadImgs.length = s.deadImgs.length + 1) ∧
        (∀ i, s.tqPlace r.fatal = some i → (s.restCmds c).hasRoom c st.since = false → ∃ t, exec (.contextSaved c) s = .next t ∧
          t.tq.toList.getD i none = some { r with inpl := true } ∧ ∃ q, (t.core c).stop = some q ∧ q.why = .inplace ∧
            (t.core c).ctx = (let z := (s.restCmds c).ctxOf c; if r.fatal then z else { z with status := z.status &&& ~~~8 })) ∧
        (s.tqPlace r.fatal = none → ∃ t q, exec (.contextSaved c) s = .next t ∧ (t.core c).stop = some q ∧ q.rcd = some r ∧ (t.core c).ctx = y ∧
          q.why = (if r.fatal then .check else .full) ∧ t.mchecks = (if r.fatal then s.mchecks + 1 else s.mchecks)))) ∧
    (∀ st, k.stop = some st → st.why = .loading → st.rcd = none → ∃ t, exec (.contextResume c) s = .next t ∧ (t.core c).stop = none ∧
      (t.ctxOf c).pc = y.pc ∧ (t.ctxOf c).s = y.s ∧ (t.ctxOf c).o = y.o ∧ (t.ctxOf c).p = y.p ∧ (t.ctxOf c).rows = y.rows ∧ (t.ctxOf c).cmds = y.cmds ∧
      (t.ctxOf c).flight.map Flight.fin = y.flight.map (fun g => g.fin + (s.now + 1) - st.since) ∧ (t.core c).holdUntil = max k.holdUntil (s.now + 1)) ∧
    (let q := slot.val
     let word (cmd : Nat) (err : Bool) : Word := BitVec.ofNat 64 (cmd + q * 2 ^ 16 + if err then 2 ^ 31 else 0)
     let cmds (i1 i2 i3 i4 : Instr) : Prop :=
      (who ≠ .pf → who ≠ .fw → exec i1 s = .next s ∧ exec i2 s = .next s ∧ exec i3 s = .next s ∧ exec i4 s = .next s) ∧
      (who = .pf ∨ who = .fw →
        (s.tq[slot] = none → exec i1 s = .next { s with tqcmd := word 1 true } ∧ exec i2 s = .next { s with tqcmd := word 2 true } ∧
          exec i3 s = .next { s with tqcmd := word 3 true } ∧ exec i4 s = .next { s with tqcmd := word 4 true }) ∧
        ∀ r, s.tq[slot] = some r →
          let gone (t : State) : Prop := ∀ j : Fin 64, t.tq[j] = if j = slot then none else s.tq[j]
          (r.fatal = true → exec i1 s = .next { s with tqcmd := word 1 true } ∧ exec i2 s = .next { s with tqcmd := word 2 true } ∧
            exec i3 s = .next { s with tqcmd := word 3 true } ∧
            (s.inPlace? r = none → ∃ t, exec i4 s = .next t ∧ gone t ∧ t.tqcmd = word 4 false ∧ t.deadImgs = s.deadImgs.filter (fun d => d.place != q))) ∧
          (r.fatal = false → exec i4 s = .next { s with tqcmd := word 4 true } ∧
            ∀ i v, s.trapped? q = some (i, v) →
              ((∀ m ∈ v.ctx.cmds, m.faulted = false) → ∃ t u, exec i1 s = .next t ∧ gone t ∧ t.tqcmd = word 1 false ∧ t.saved[i]? = some u ∧
                u.core = v.core ∧ u.ctx = v.ctx ∧ u.since = s.now ∧ u.phase = if v.ctx.wait.isSome then .wait else .ready) ∧
              (r.eng ≠ .seq → ∃ t u, exec i2 s = .next t ∧ gone t ∧ t.tqcmd = word 2 false ∧ t.saved[i]? = some u ∧ u.core = v.core ∧
                (u.phase = .wait ∨ u.phase = .ready) ∧ ∀ m ∈ u.ctx.cmds, m.seq = r.seq → m.done = true) ∧
              (r.eng = .seq → exec i2 s = .next { s with tqcmd := word 2 true }) ∧
              ∃ t, exec i3 s = .next t ∧ gone t ∧ t.tqcmd = word 3 false ∧ t.saved.length + 1 = s.saved.length))
     cmds (.tqcmdResume who slot) (.tqcmdResumeDrop who slot) (.tqcmdKill who slot) (.tqcmdRelease who slot)) ∧
    (let fn := w.idx % 16
     let z := s.func fn
     (w.who = .pf ∨ w.who = .fw ∨ w.who = .vf (Fin.ofNat 16 fn)) →
      (w.v.getLsbD 0 = true → z.frst.getLsbD 0 = false → ∃ t, exec (.frst w) s = .next t ∧ (t.func fn).frst = 7 ∧
        (∀ q ∈ t.tracks, q.fn = fn → q.src = .gone fn ∧ q.served.isSome = true) ∧ (∀ q ∈ t.walks, q.fn ≠ fn) ∧
        t.fwExts = s.fwExts ++ s.extsInHand fn ∧
        (∀ c, (s.core c).busy = true → (s.ctxOf c).fn.val = fn → (t.core c).busy = false ∧ (t.core c).ctx = {}) ∧
        (∀ c, (s.ctxOf c).fn.val ≠ fn → (t.core c).busy = (s.core c).busy ∧ (t.core c).ctx = (s.core c).ctx) ∧
        (∀ v ∈ t.saved, v.ctx.fn.val ≠ fn) ∧ (∀ i : Fin 64, ∀ r, t.tq[i] = some r → r.fn ≠ fn) ∧ (∀ i : Fin 16, ∀ n, t.nests[i] = some n → n.fn ≠ fn) ∧
        (∀ q, q < 64 → z.lq.getLsbD q = true → (t.lq q).head = (s.lq q).tail ∧ (t.lq q).qctl.getLsbD 7 = false) ∧
        (∀ e, e < 32 → z.eq.getLsbD e = true → (t.eq e).put = (s.eq e).rel ∧ (t.eq e).ctl.getLsbD 0 = false)) ∧
      (z.inval.getLsbD 3 = false →
        let v := w.v &&& 0x01FFFFFFFFFFFFF3
        exec (.inval w) s = .next (s.setFunc fn { z with inval := if v.toNat % 4 = 0 then v else v ||| 8 }))) ∧
    (let z := s.func f.val
     (z.frst = 7 ∨ z.frst = 9 → s.trip = true → (∀ r ∈ s.tracks, r.src ≠ .gone f.val) →
       exec (.flrDrainDone f) s = .next (s.setFunc f.val { z with frst := 9 })) ∧
     ((∃ r ∈ s.tracks, r.src = .gone f.val) → exec (.flrDrainDone f) s = .next s) ∧
     (z.frst = 7 ∨ z.frst = 9 → s.trip = false → (∀ r ∈ s.tracks, r.src ≠ .gone f.val) → ∃ t, exec (.flrDrainDone f) s = .next t ∧ (t.func f.val).frst = 0 ∧
       (t.func f.val).inval = z.inval &&& ~~~8 ∧
       (∀ i : Fin 512, t.flags[i] = if s.flagOk f.val i.val then 0 else s.flags[i]) ∧
       (∀ c, ∀ e ∈ (t.core c).tlb, e.fn ≠ f.val) ∧ (∀ i : Fin 16, ∀ e ∈ t.clusterTlb[i], e.fn ≠ f.val) ∧
       (∀ c, z.cores.getLsbD c.val = true → (s.core c).busy = false → (t.core c).ctx = {} ∧ ∀ a, inBufs c a = true → t.mem.get a = 0) ∧
       (∀ i : Fin 16, t.trees[i] = if z.trees.getLsbD i then {} else s.trees[i])) ∧
     (z.frst ≠ 7 → z.frst ≠ 9 → exec (.flrDrainDone f) s = .next s) ∧
     (z.inval.getLsbD 3 = false ∨ z.frst.getLsbD 0 = true → exec (.invalComplete f) s = .next s) ∧
     (z.inval.getLsbD 3 = true → z.frst.getLsbD 0 = false → (∀ c, (s.ctxOf c).gacc = [] ∧ (s.ctxOf c).cmds = []) → ∃ t, exec (.invalComplete f) s = .next t ∧
       (t.func f.val).inval = z.inval &&& ~~~8 ∧ (∀ c, (t.core c).tlb = (s.core c).tlb.filter (fun e => !(invalHits z.inval.toNat f.val e))) ∧
       (∀ i : Fin 16, t.clusterTlb[i] = s.clusterTlb[i].filter (fun e => !(invalHits z.inval.toNat f.val e))) ∧ t.mem = s.mem)) ∧
    (∀ depth : Fin 256,
      let a := key 5 (0xA00000 + 192 * (s.droops % 1024))
      ((∀ z, s.droopAt[f] = some z → z + 3000 ≤ s.now) → ∃ t, exec (.droopDetect f depth) s = .next t ∧ t.droops = s.droops + 1 ∧
        t.droopAt = s.droopAt.set f (some s.now) ∧ bytesKept s t a 192 ∧ t.mem.num a 8 = f.val + depth.val * 2 ^ 8 ∧
        t.mem.num (a + 8) 8 = (s.now / 30 * 32 + s.now % 30) % 2 ^ 64 ∧
        ∀ i, i < 8 → ((s.core (Fin.ofNat 128 (8 * f.val + i))).busy = false → t.mem.num (a + 64 + 16 * i) 16 = 0) ∧
          ((s.core (Fin.ofNat 128 (8 * f.val + i))).busy = true → (s.ctxOf (Fin.ofNat 128 (8 * f.val + i))).conf = false →
            t.mem.num (a + 64 + 16 * i) 8 = (s.ctxOf (Fin.ofNat 128 (8 * f.val + i))).pc.toNat)) ∧
      (∀ z, s.droopAt[f] = some z → s.now < z + 3000 → exec (.droopDetect f depth) s = .next { s with drops := s.drops.set f (s.drops[f] + 1) })) ∧
    (s.ctx.guard x.g = true →
      let c := s.ctx
      let a := (c.src x.a).toNat
      let b := (c.src x.b).toNat
      let res (v : Nat) : Flight := { fin := s.now + 1, born := s.now, code := sCode x.d, slot := .e, val := BitVec.ofNat 64 v }
      let gives (u : State) (v : Nat) : State := u.setCtx { u.ctx with flight := u.ctx.flight ++ [res v] }
      let len := s.imageLen s.cur ({ c with flight := c.flight ++ [res 0] }).advance (s.now + 1)
      (b % 64 ≠ 0 → exec (.ctxsave x) s = .next (s.precise x.g .e .illegal 0)) ∧
      (b % 64 = 0 → a % 64 ≠ 0 → exec (.ctxsave x) s = .next (s.precise x.g .e .align a)) ∧
      (x.g.sq = false → b % 64 = 0 → a % 64 = 0 → (b < len → exec (.ctxsave x) s = .next (gives s (len + 2 ^ 63))) ∧
        (len ≤ b → c.conf = false →
          let img := s.image s.cur ({ c with flight := c.flight ++ [res len] }).advance (s.now + 1)
          rdOf img 0 8 = 1 + c.fn.val * 2 ^ 36 ∧ rdOf img 8 8 = c.ctxidWord ∧
          (∀ u, s.sysPuts [(a, leBytes 0 8), (a + 8, img.drop 8), (a, img.take 8)] = (u, none) → exec (.ctxsave x) s = .next (gives u len)) ∧
          ∀ u cls va, s.sysPuts [(a, leBytes 0 8), (a + 8, img.drop 8), (a, img.take 8)] = (u, some (cls, va)) →
            exec (.ctxsave x) s = .next (u.precise x.g .e cls va))) ∧
      ((c.status.getLsbD 0 = true ∨ c.chain.isSome = true) → exec (.ctxrest x) s = .next (s.precise x.g .e .illegal 0)) ∧
      (c.status.getLsbD 0 = false → c.chain = none → a % 64 ≠ 0 → exec (.ctxrest x) s = .next (s.precise x.g .e .align a)) ∧
      (c.status.getLsbD 0 = false → c.chain = none → a % 64 = 0 →
        -- a fault of the checking pass is precise, and an uncorrectable error in the image is fatal when it is reported
        let bad (u : State) (cls : TrapClass) (va : Nat) : Prop :=
          exec (.ctxrest x) s = .next (if cls = .ecc then u.preciseFatal x.g .e .ecc va else u.precise x.g .e cls va)
        (∀ u cls va, s.sysGet a 256 = (u, .error (cls, va)) → bad u cls va) ∧
        (∀ u h, s.sysGet a 256 = (u, .ok h) →
          (c.headerOk h = false → exec (.ctxrest x) s = .next (u.precise x.g .e .illegal 0)) ∧
          (∀ v cls va, c.headerOk h = true → u.sysGet (a + 256) (rdOf h 16 8 - 256) = (v, .error (cls, va)) → bad v cls va) ∧
          (∀ v ct, c.headerOk h = true → c.conf = false → u.sysGet (a + 256) (rdOf h 16 8 - 256) = (v, .ok ct) →
            exec (.ctxrest x) s = .next (v.setCtx { v.ctx with rest := some { a, pc := c.pc, seq := c.lastSeq, syl := (v.core v.cur).syllable .e } })))) ∧
      -- the loading pass, in the next cycle
      (∀ r, c.rest = some r →
        let u := s.setCtx { c with rest := none }
        ∀ h u1, u.sysRun r.a 256 = (u1, h, none) →
          (∀ v got cls va, u.sysRun r.a (rdOf h 16 8) = (v, got, some (cls, va)) →
            ∃ st p, ((s.restLoad s.cur).core s.cur).stop = some st ∧ st.why = .report ∧ st.rcd = some p ∧ p.fatal = true ∧
              p.cls = (if cls = .ecc then .ecc else .page) ∧ p.prog = BitVec.ofNat 64 got.length ∧ p.addr = BitVec.ofNat 64 va ∧ p.pc = r.pc) ∧
          (∀ v img, c.conf = false → u.sysRun r.a (rdOf h 16 8) = (v, img, none) →
            let q := secOf img 0
            let t := (s.restLoad s.cur).ctx
            t.rest = none ∧ t.pc.toNat = rdOf img 24 8 ∧ t.ctxid = c.ctxid ∧ t.fn = c.fn ∧ t.cmds = c.cmds ∧
            (∀ i : Fin 64, i ≠ 0 → (t.rs i).toNat = rdOf q (8 * (i.val - 1)) 8) ∧ (∀ i : Fin 8, t.o[i].toNat = rdOf q (0x200 + 8 * i.val) 8) ∧
            (∀ i : Fin 4, t.lx[i].toNat = rdOf q (0x240 + 8 * i.val) 8) ∧ t.sp.toNat = rdOf q 0x268 8 ∧
            t.trapvec.toNat = rdOf q 0x3C8 8 ∧ t.fpstat.toNat = rdOf q 0x3E8 8)) ∧
      (b % 64 ≠ 0 ∨ b < 64 → exec (.dump x) s = .next (s.precise x.g .e .illegal 0)) ∧
      (b % 64 = 0 → 64 ≤ b → a % 64 ≠ 0 → exec (.dump x) s = .next (s.precise x.g .e .align a)) ∧
      (b % 64 = 0 → 64 ≤ b → a % 64 = 0 → x.g.sq = false → c.conf = false →
        let body := s.dumpBody s.cur c (s.now + 1)
        let need := 64 + body.length
        let written := min need b
        let head := dumpHeader need written c.ctxidWord (decide (b < need)) false [] []
        ∀ u, s.sysPuts [(a + 64, body.take (b - 64)), (a, head)] = (u, none) → exec (.dump x) s =
          .next (u.setCtx { u.ctx with flight := u.ctx.flight ++ [res written], dumpstat := if b < need then 0x4000000000000000 else 0 })))

/-- R142, R287, R316, R366, R367, R369, R392, R432, R433, R443 to R462, R475: what the host, firmware and the supply do to the node:
limits and owner maps, the torus and partitions, the flag window, grants, queues, mailboxes, pool links, the watchdog, bring-up, power,
heat and soft errors, and the other registers. What each of the host and firmware reads. The model's choices: reserved bits of LIMITS,
TORUS and PBOX are masked (log entry 20), the cryptography (34), owner bytes (56), an enabled function (57), one bring-up step for each
event (58), what a watchdog restart keeps (59), ELF64 (60), the offsets of the power block (61), debug writes of the host (62), TAIL under
a QCTL write (63), a low .buf.jb (88), `down` (108), reads as a function of the state (113), constants of the part (114), the patrol's
addresses (117), one entry of D (122), what is visible at which step (125). -/
def Obligations.HostEvents : Prop :=
  ∀ (s : State) (w : CtlW) (who : Who) (f : Fin 16) (m : Fin 17), s.mem.wf = true →
    let v := w.v
    let n := v.toNat
    let fn := w.idx % 16
    let fw := w.who = .fw
    let idle := ∀ x ∈ s.living, x.fn.val ≠ fn
    -- limits, owner maps, the torus, partitions
    (fw → 1 ≤ n % 2 ^ 20 → n % 2 ^ 20 ≤ 1000000 → 1 ≤ n / 2 ^ 20 % 2 ^ 20 → n / 2 ^ 20 % 2 ^ 20 ≤ 1000000 →
      exec (.limitsWrite w) s = .next { s with limNew := some (n / 2 ^ 20 % 2 ^ 20, n % 2 ^ 20) }) ∧
    (¬ fw → exec (.limitsWrite w) s = .next s ∧ exec (.ownerMapWrite w) s = .next s ∧ exec (.torusWrite w) s = .next s ∧
      exec (.pboxWrite w) s = .next s ∧ exec (.lqWrite w) s = .next s ∧ exec (.eqWrite w) s = .next s ∧ exec (.grantWrite w) s = .next s) ∧
    (fw → (∀ i, i < 16 → (s.func i).cores = 0) →
      let ch := w.idx % 512
      let lo := w.off % 64 / 8 * 8
      let b (i : Nat) : Nat := n / 2 ^ (8 * i) % 2 ^ 8
      let new := (s.ownersNext ch).filter (fun o => !(decide (lo ≤ o.1) && decide (o.1 < lo + 8))) ++
        (List.range 8).filterMap (fun i => if b i < 128 then some (lo + i, Fin.ofNat 128 (b i)) else none)
      (∀ i, i < 8 → b i < 128 ∨ b i = 255) → new.length ≤ 60 →
      exec (.ownerMapWrite w) s = .next { s with pendOwners := s.pendOwners.filter (fun p => p.1 != ch) ++ [(ch, new)] }) ∧
    (fw → s.boot ≤ 3 → n / 2 ^ 16 % 2 ^ 4 ≤ n % 2 ^ 4 → n / 2 ^ 20 % 2 ^ 4 ≤ n / 2 ^ 4 % 2 ^ 4 → n / 2 ^ 24 % 2 ^ 4 ≤ n / 2 ^ 8 % 2 ^ 4 →
      exec (.torusWrite w) s = .next { s with torus := v &&& 0x0FFF0FFF }) ∧
    (fw → 3 < s.boot → exec (.torusWrite w) s = .next s) ∧
    (fw → idle → n / 2 ^ 16 % 2 ^ 4 < s.dims.1 → n / 2 ^ 20 % 2 ^ 4 < s.dims.2.1 → n / 2 ^ 24 % 2 ^ 4 < s.dims.2.2 →
      exec (.pboxWrite w) s = .next (s.setFunc fn { s.func fn with pbox := v &&& 0x8FFF0FFF })) ∧
    (let z := s.func f.val
     (∃ t, exec (.phltClear .fw f) s = .next t ∧ (t.func f.val).phlt = 0 ∧ (t.func f.val).down = true ∧
       t.replies = s.replies.filter (fun r => !(r.fn == f.val && s.inBox z.pbox r.nm.node)) ∧
       ∀ c, (s.core c).busy = true → (s.ctxOf c).fn = f → ∀ g ∈ (t.ctxOf c).gacc, paNode g.pa = s.nodeId ∨ s.inBox z.pbox (paNode g.pa) = false) ∧
     exec (.phltSet .fw f) s = .next (s.setFunc f.val { z with phlt := 1, down := false }) ∧
     (who ≠ .fw → exec (.phltClear who f) s = .next s ∧ exec (.phltSet who f) s = .next s)) ∧
    -- the flag window
    (let k := w.idx % 512
     let old := s.flags.toList.getD k 0
     let mine := (∀ g, w.who = .vf g → s.flagOk g.val k = true) ∧ ∀ c, w.who ≠ .ctx c
     let sets (i : Instr) (z : BitVec 32) : Prop := ∃ t, exec i s = .next t ∧ t.mem = s.mem ∧
       ∀ j, j < 512 → t.flags.toList.getD j 0 = if j = k then z else s.flags.toList.getD j 0
     (mine → n / 2 ^ 32 = 0 → sets (.flagWindowSet w) (v.setWidth 32)) ∧ (mine → n / 2 ^ 32 = 1 → sets (.flagWindowInc w) (fincValue old (v &&& 0xFFFFFFFF)).1) ∧
     (mine → n / 2 ^ 32 = 2 → sets (.flagWindowClr w) 0) ∧
     (¬ mine → exec (.flagWindowSet w) s = .next s ∧ exec (.flagWindowInc w) s = .next s ∧ exec (.flagWindowClr w) s = .next s)) ∧
    -- grants
    (fw → idle →
      let z := s.func fn
      ((∀ i, i < 16 → i ≠ fn → (s.func i).lq &&& v = 0) → ∃ t, exec (.lqWrite w) s = .next t ∧ t.func fn = { z with lq := v } ∧
        ∀ q, q < 64 → (v.getLsbD q = true → (t.lq q).qctl.toNat % 16 = fn) ∧
          (v.getLsbD q = false → z.lq.getLsbD q = true → (t.lq q).qctl.getLsbD 7 = false) ∧
          (v.getLsbD q = false → z.lq.getLsbD q = false → t.lq q = s.lq q)) ∧
      ((∃ i, i < 16 ∧ i ≠ fn ∧ (s.func i).lq &&& v ≠ 0) → exec (.lqWrite w) s = .next s) ∧
      ((∀ i, i < 16 → i ≠ fn → (s.func i).eq &&& v &&& 0xFFFFFFFF = 0) → ∃ t, exec (.eqWrite w) s = .next t ∧
        t.func fn = { z with eq := v &&& 0xFFFFFFFF } ∧
        ∀ e, e < 32 → (v.getLsbD e = true → bits (t.eq e).ctl.toNat 40 4 = fn) ∧
          (v.getLsbD e = false → z.eq.getLsbD e = true → (t.eq e).ctl.getLsbD 0 = false)) ∧
      (let gives (off : Nat) (y : Func) : Prop := w.off = off → exec (.grantWrite w) s = .next (s.setFunc fn y)
       gives 0x000 { z with cores := BitVec.ofNat 128 (z.cores.toNat / 2 ^ 64 * 2 ^ 64 + n) } ∧
       gives 0x008 { z with cores := BitVec.ofNat 128 (z.cores.toNat % 2 ^ 64 + n * 2 ^ 64) } ∧
       (n % 2 ^ 9 + n / 2 ^ 16 % 2 ^ 10 ≤ 512 → gives 0x010 { z with flags := v &&& 0x03FF01FF }) ∧ gives 0x018 { z with trees := v &&& 0xFFFF } ∧
       gives 0x060 { z with pool := v &&& 0xFF } ∧ gives 0x068 { z with root := v &&& 0x01FFFFFFFFFFF000 } ∧
       gives 0x070 { z with imgbase := v &&& 0x01FFFFFFFFFFF000 } ∧ (n % 4096 = 0 → gives 0x078 { z with imglen := v }))) ∧
    -- egress queues
    (let e := w.idx % 32
     let q := s.eq e
     let mine := Who.mayUse w.who s (bits q.ctl.toNat 40 4) = true
     (mine → n / 2 ^ 44 = 0 → n / 2 ^ 3 % 2 ^ 5 = 0 → (v.getLsbD 1 = q.ctl.getLsbD 1 ∨ q.put = q.rel) → ∃ t, exec (.eqctlWrite w) s = .next t ∧
       bits (t.eq e).ctl.toNat 8 32 = n / 2 ^ 8 % 2 ^ 32 ∧ (t.eq e).ctl.getLsbD 1 = v.getLsbD 1 ∧ (t.eq e).ctl.getLsbD 0 = q.ctl.getLsbD 0 ∧
       bits (t.eq e).ctl.toNat 40 24 = bits q.ctl.toNat 40 24 ∧ (t.eq e).put = q.put ∧ (t.eq e).rel = q.rel) ∧
     (¬ mine ∨ n / 2 ^ 44 ≠ 0 ∨ n / 2 ^ 3 % 2 ^ 5 ≠ 0 → exec (.eqctlWrite w) s = .next s) ∧
     (mine → (∀ c, w.who ≠ .ctx c) →
       (w.off = 0 → q.head.toNat < n → n ≤ q.rel.toNat → ∃ t, exec (.headWrite w) s = .next t ∧ (t.eq e).head = v ∧ (t.eq e).ctl.getLsbD 2 = false ∧
         (t.eq e).put = q.put ∧ (t.eq e).rel = q.rel) ∧
       (w.off ≠ 0 ∨ n ≤ q.head.toNat ∨ q.rel.toNat < n → ∃ t, exec (.headWrite w) s = .next t ∧ (t.eq e).head = q.head ∧ (t.eq e).ctl.getLsbD 2 = true)) ∧
     (¬ mine ∨ (∃ c, w.who = .ctx c) → exec (.headWrite w) s = .next s)) ∧
    -- mailboxes
    (let b := s.mbox[m]
     let q := s.load (key 5 (0xC00000 + 0x1000 * m.val) + 0x40) b.len.toNat
     let g := rdOf q 0 1
     let answers (i : Instr) (st : Nat) (resp : List Byte) (t0 : State) : Prop :=
       exec i s = .next { t0 with mbox := t0.mbox.set m { b with answer := some (st, resp) } }
     let asks (op len : Nat) : Prop := b.cmd.getLsbD 31 = true ∧ b.cmd.toNat % 2 ^ 8 = op ∧ b.answer = none ∧ s.mbFirst m = true ∧ q.length = len
     let may := g < 16 ∧ rdOf q 0 8 / 2 ^ 8 = 0 ∧ (m.val = 16 ∨ m.val = g) ∧ (s.func g).cores ≠ 0
     (asks 1 142 → may →
       (rdOf q 8 1 < 8 → (sec1 (sub q 9 133)).isSome = true → answers (.key m) 0 [] { s with
         keys := (g, rdOf q 8 1, sub q 9 133) :: s.keys.filter (fun e => !(e.1 == g && e.2.1 == rdOf q 8 1)) }) ∧
       (8 ≤ rdOf q 8 1 ∨ sec1 (sub q 9 133) = none → answers (.key m) 1 [] s)) ∧
     (asks 1 142 → g < 16 → rdOf q 0 8 / 2 ^ 8 = 0 → ((m.val ≠ 16 ∧ m.val ≠ g) ∨ (s.func g).cores = 0) → answers (.key m) 2 [] s) ∧
     (∀ (out : Fin 3) k sg, asks 2 (32 + 16 * rdOf q 28 4) → may → 1 ≤ rdOf q 28 4 → rdOf q 28 4 ≤ 64 → rdOf q 24 1 < 8 → rdOf q 25 3 = 0 →
       let pa := rdOf q 8 8
       let e := s.load (paKey pa) (rdOf q 16 8)
       let ranges := (List.range (rdOf q 28 4)).map (fun i => (rdOf q (32 + 16 * i) 8, rdOf q (40 + 16 * i) 8))
       (∀ r ∈ ranges, r.1 % 4096 = 0 ∧ r.2 % 4096 = 0) → s.keys.find? (fun k => k.1 == g && k.2.1 == rdOf q 24 1) = some k →
       secNamed (elfSecs e) ".ipd.sig" = some sg → s.ecc = [] → paNode pa = s.nodeId → plainKind (paKind pa) = true →
       let rest := e.take sg.off ++ e.drop (sg.off + sg.size)
       (ecdsaOk k.2.2 (sha512 rest) (sub e sg.off sg.size) = false → answers (.admitImg m out) 3 [] s) ∧
       (ecdsaOk k.2.2 (sha512 rest) (sub e sg.off sg.size) = true →
         -- bytes for the system area of JB (R130)
         let low := ∃ j, secNamed (elfSecs e) ".buf.jb" = some j ∧ j.size ≠ 0 ∧ j.addr < 0x8000
         (out = 1 ∨ low → answers (.admitImg m out) 4 [] s) ∧ (out = 2 → ¬ low → answers (.admitImg m out) 5 [] s) ∧
         (out = 0 → ¬ low → ∃ im t, answers (.admitImg m out) 0 (leBytes (s.lastImage + 1) 8) t ∧ t = { s with images := s.images ++ [im], lastImage := s.lastImage + 1 } ∧
           im.id = s.lastImage + 1 ∧ im.fn = g ∧ im.ranges = ranges ∧ im.digest = sha512 rest ∧ im.users = []))) ∧
     (asks 3 16 → may →
       (s.images.find? (fun i => i.fn == g && i.id == rdOf q 8 8) = none → answers (.withdraw m) 6 [] s) ∧
       (∀ i, s.images.find? (fun i => i.fn == g && i.id == rdOf q 8 8) = some i → (i.users ≠ [] → answers (.withdraw m) 4 [] s) ∧
         (i.users = [] → answers (.withdraw m) 0 [] { s with images := s.images.filter (fun j => j.id != i.id) }))) ∧
     (asks 4 206 → may → rdOf q 72 1 = 0 → (∀ x ∈ sub q 73 133, x = 0) → ∃ resp, answers (.attest m) 0 resp { s with free := s.free + 1 } ∧
       let head := leBytes (1 + g * 2 ^ 8) 8 ++ sub q 8 64 ++ sha512 (Config.fwBody ++ Config.fwSig) ++
         sha512 (((s.images.filter (fun i => i.fn == g)).map Image.digest).flatten) ++ leBytes Config.fuses.toNat 16 ++ List.replicate 134 0
       resp = head ++ ecdsaSign s.identity (Config.sigNonce s.free) (sha512 head)) ∧
     (∀ out : Fin 4,
       let a := rdOf q 8 8
       let c := rdOf q 16 8
       let ext : Extent := { win := bits a 8 3, start := bits a 16 19, count := c, fn := g }
       asks 5 24 → may → (a % 4 = 1 ∨ a % 4 = 2) → bits a 2 6 = 0 → bits a 11 5 = 0 → a / 2 ^ 35 = 0 → 1 ≤ c → ext.start + c ≤ 2 ^ 19 →
       (out = 0 → a % 4 = 2 → s.inUse ext.holds = false) →
       ((s.func g).pool.getLsbD ext.win = false → answers (.extent m out) 2 [] s) ∧
       ((s.func g).pool.getLsbD ext.win = true → (out ≠ 0 → answers (.extent m out) 0 (leBytes out.val 8) s) ∧
         (out = 0 → a % 4 = 1 → answers (.extent m out) 0 (leBytes 0 8) { s with exts := s.exts ++ [ext] }) ∧
         (out = 0 → a % 4 = 2 → answers (.extent m out) 0 (leBytes 0 8) { s with exts := s.exts.filter (fun y =>
           !(decide (y.win = ext.win ∧ ext.start ≤ y.start ∧ y.start + y.count ≤ ext.start + ext.count))) }))) ∧
     (∀ st resp, b.answer = some (st, resp) → b.cmd.getLsbD 31 = true → ∃ t, exec (.mailboxDone m) s = .next t ∧
       t.mbox[m] = { b with cmd := BitVec.ofNat 64 (b.cmd.toNat % 2 ^ 8 + st * 2 ^ 8), rlen := BitVec.ofNat 64 resp.length, answer := none } ∧
       let k := key 5 (0xC00000 + 0x1000 * m.val) + 0x40
       bytesKept s t k resp.length ∧ ∀ j, j < resp.length → t.mem.get (k + j) = resp.getD j 0)) ∧
    -- pool links, the watchdog, bring-up, power and heat, soft errors
    (∀ p : Fin 2,
      (∃ t, exec (.poolLinkDown p) s = .next t ∧ t.poolUp = s.poolUp.set p false ∧ ∀ c, ∀ g ∈ (t.ctxOf c).gacc,
        ¬ (0x10 ≤ paKind g.pa ∧ paKind g.pa ≤ 0x17 ∧ (paKind g.pa - 0x10) % 2 = p.val ∧ paNode g.pa = s.nodeId)) ∧
      exec (.poolLinkUp p) s = .next { s with poolUp := s.poolUp.set p true }) ∧
    exec (.watchdogWrite .fw) s = .next { s with wdog := s.now } ∧ (who ≠ .fw → exec (.watchdogWrite who) s = .next s) ∧
    (s.wdog + 30000000 ≤ s.now → exec .watchdogExpiry s = .next { s with wdog := s.now, mbox := s.mbox.map (fun (b : Mbox) => { b with answer := none }) }) ∧
    (s.now < s.wdog + 30000000 → exec .watchdogExpiry s = .next s) ∧
    -- bring-up: the ROM's checks at step 1, the identity key at step 2, flags and typed buffers zero at step 4
    ((romAccepts = true ↔ sha512 Config.fwKey = Config.romDigest ∧ ecdsaOk Config.fwKey (sha512 Config.fwBody) Config.fwSig = true ∧
        Config.fuses.toNat % 2 ^ 64 ≤ Config.fwVersion.toNat) ∧
      (s.boot = 1 → romAccepts = true → exec .powerGood s = .next { s with boot := 2, romFail := false, identity := Config.identityKey }) ∧
      (s.boot = 1 → romAccepts = false → exec .powerGood s = .next { s with romFail := true }) ∧
      (s.boot = 0 ∨ s.boot = 2 ∨ s.boot = 4 → exec .powerGood s = .next { s with boot := s.boot + 1 }) ∧ (5 ≤ s.boot → exec .powerGood s = .next s) ∧
      (s.boot = 3 → ∃ t, exec .powerGood s = .next t ∧ t.boot = 4 ∧ (∀ j, t.flag j = 0) ∧
        ∀ a, t.mem.get a = if key 2 0 ≤ a ∧ a < key 3 0 then 0 else s.mem.get a) ∧
      (s.boot = 1 → (s.pfStatus = .failed ↔ s.romFail = true)) ∧ (s.memoryActive = true ↔ 5 ≤ s.boot)) ∧
    (∀ (d : Fin 4) (k : Fin 17),
      let since (th : BitVec 4) (k : Nat) : List (Nat × BitVec 4 × Nat) := (s.now, th, k) :: s.slow
      let hot := s.thermal ||| (1 : BitVec 4) <<< d.val
      let cool := s.thermal &&& ~~~((1 : BitVec 4) <<< d.val)
      exec (.thermalThrottle (some d) k) s = .next { s with thermal := hot, slow := since hot s.capK } ∧
      exec (.thermalThrottle none k) s = .next { s with capK := k.val, slow := since s.thermal k.val } ∧
      exec (.throttleRelease (some d)) s = .next { s with thermal := cool, slow := since cool s.capK } ∧
      exec (.throttleRelease none) s = .next { s with capK := 0, slow := since s.thermal 0 }) ∧
    exec .trip s = .next { s with trip := true, mchecks := s.mchecks + 1 } ∧ exec .tripRelease s = .next { s with trip := false } ∧
    exec (.clusterWake f) s = .next { s with gated := s.gated &&& ~~~((1 : BitVec 16) <<< f.val), wakeAt := s.wakeAt.set f none } ∧
    (∀ a, a < 2 ^ 39 → ∃ t, exec (.patrolScrub a) s = .next t ∧ t.scrubbed = s.scrubbed + 1 ∧ t.mem = s.mem ∧
      ∀ x, x ∈ t.ecc ↔ x ∈ s.ecc ∨ x = a / 8 * 8) ∧
    (∀ a u, eccUnit (a / 8 * 8 % 2 ^ 48) = some u →
      (2 ^ 39 ≤ a → a < 2 ^ 48 → ∃ t, exec (.patrolScrub a) s = .next t ∧ t.mem = s.mem ∧ ∀ x, x ∈ t.ecc ↔ x ∈ s.ecc ∨ x = a / 8 * 8) ∧
      (2 ^ 48 ≤ a → a < 2 ^ 49 → exec (.patrolScrub a) s = .next { s with corrected := s.corrected.set u (s.corrected[u] + 1) })) ∧
    -- the other registers
    (let i := Instr.registerWrite w
     let o := w.off
     let isD (k : Nat) (t : State) : Prop := t.dtab = s.dtab ∧ t.pendD.find? (fun d => d.1 == k) = some (k, n % 2 ^ 16)
     -- with `idx` 2, one entry of D
     (fw → w.idx = 2 → ∀ ch c, ch < 512 → c < 128 → o = 0x380000 + 2 * (512 * c + ch) → ∃ t, exec i s = .next t ∧ isD (512 * c + ch) t) ∧
     (o % 8 ≠ 0 → w.idx ≠ 2 → exec i s = .next s) ∧ (w.idx ≠ 2 →
     (fw → o = 0xB00000 → n ≤ 1800 → exec i s = .next { s with cap := n }) ∧
     (fw → o = 0xB00008 → exec i s = .next { s with wdog := s.now }) ∧
     (fw → o = 0xB00010 → (∀ c : CoreId, v.getLsbD (c.val / 8) = true → (s.core c).busy = false) → exec i s = .next { s with gated := v.setWidth 16 }) ∧
     (fw → o = 0xB00018 → n ≤ 1 → s.living = [] → exec i s = .next { s with off := n == 1 }) ∧
     (fw → ∀ j : Fin 16, o = 0xB00080 + 8 * j.val → exec i s = .next { s with droopTh := s.droopTh.set j v }) ∧
     (fw → ∀ j : Fin 16, o = 0xB00100 + 8 * j.val → n % 0x20000 = 0 → n < 2 ^ 23 → exec i s = .next { s with logAt := s.logAt.set j n }) ∧
     (fw → ∀ ch c, ch < 512 → c < 128 → o = 0x380000 + 2 * (512 * c + ch) → ch % 4 = 0 → ∃ t, exec i s = .next t ∧ t.dtab = s.dtab ∧
       ∀ j, j < 4 → t.pendD.find? (fun d => d.1 == 512 * c + ch + j) = some (512 * c + ch + j, n / 2 ^ (16 * j) % 2 ^ 16)) ∧
     (∀ q, q < 64 → fw → o = 0x4000 * q + 0x2010 → (v.getLsbD 7 = false ∨ ∃ f, f < 16 ∧ (s.func f).lq.getLsbD q = true) → ∃ t, exec i s = .next t ∧
       (t.lq q).qctl.getLsbD 7 = v.getLsbD 7 ∧ bits (t.lq q).qctl.toNat 4 3 = n / 2 ^ 4 % 2 ^ 3 ∧ (t.lq q).tail = (s.lq q).tail) ∧
     ((w.who = .pf ∨ fw) → ∀ c : CoreId, ∀ r, o = 0x600000 + 0x400 * c.val + 8 * r →
       (r = 8 → v &&& ~~~0xF = 0 → exec i s = .next (s.setCore c { s.core c with bphit := (s.core c).bphit &&& ~~~v })) ∧
       (r = 16 → v &&& ~~~0x10F = 0 → exec i s = .next (s.setCore c { s.core c with trctl := v, trptr := (s.core c).trptr &&& 0x0000FFFF00000000 })) ∧
       (r = 17 → v &&& ~~~0x01FFFFFFFFFFF00F = 0 → n % 16 ≤ 12 → exec i s = .next (s.setCore c { s.core c with trbase := v, trptr := 0 }))) ∧
     ((w.who = .pf ∧ m.val = 16 ∨ (∃ g : Fin 16, w.who = .vf g ∧ g.val = m.val)) →
       let b := s.mbox[m]
       (b.cmd.getLsbD 31 = true → o / 0x1000 = 0xC00 + m.val → exec i s = .next s) ∧
       (b.cmd.getLsbD 31 = false → o = 0xC00000 + 0x1000 * m.val →
         exec i s = .next { s with mbox := s.mbox.set m { b with cmd := (v &&& 0xFF) ||| 0x80000000, answer := none, arr := s.mbNext } }) ∧
       (b.cmd.getLsbD 31 = false → o = 0xC00000 + 0x1000 * m.val + 8 → 8 ≤ n → n ≤ 4032 →
         exec i s = .next { s with mbox := s.mbox.set m { b with len := v } }) ∧
       (∀ k, b.cmd.getLsbD 31 = false → k < 504 → o = 0xC00000 + 0x1000 * m.val + 0x40 + 8 * k → ∃ t, exec i s = .next t ∧
         t.mem.num (key 5 o) 8 = n ∧ bytesKept s t (key 5 o) 8)))) ∧
    -- reads
    (let reads (o : Nat) (ok : Prop) (x : Word) : Prop :=
       (ok → s.hostRead who o 8 = leBytes x.toNat 8) ∧ (¬ ok → s.hostRead who o 8 = List.replicate 8 0)
     let rules := who = .pf ∨ who = .fw
     (∀ k, k < 512 → reads (0xD00000 + 8 * k) (rules ∨ ∃ g : Fin 16, who = .vf g ∧ s.flagOk g.val k = true) ((s.flag k).setWidth 64)) ∧
     (let b := 0x200000 + 0x1000 * f.val
      let z := s.func f.val
      let may := rules ∨ who = .vf f
      reads b may (z.cores.setWidth 64) ∧ reads (b + 8) may ((z.cores >>> 64).setWidth 64) ∧ reads (b + 0x10) may z.flags ∧
        reads (b + 0x18) may z.trees ∧ (∀ j : Fin 8, reads (b + 0x20 + 8 * j.val) may z.cache[j]) ∧ reads (b + 0x60) may z.pool ∧
        reads (b + 0x68) may z.root ∧ reads (b + 0x70) may z.imgbase ∧ reads (b + 0x78) may z.imglen ∧ reads (b + 0x80) may z.lq ∧
        reads (b + 0x88) may z.eq ∧ reads (b + 0x100) may z.frst ∧ reads (b + 0x108) may z.inval ∧ reads (b + 0x110) may 0) ∧
     (let b := 0xC00000 + 0x1000 * m.val
      let z := s.mbox[m]
      let may := who = .fw ∨ (who = .pf ∧ m.val = 16) ∨ ∃ g : Fin 16, who = .vf g ∧ g.val = m.val
      reads b may z.cmd ∧ reads (b + 8) may z.len ∧ reads (b + 0x10) may z.rlen ∧
        ∀ k, k < 504 → reads (b + 0x40 + 8 * k) may (BitVec.ofNat 64 (s.mem.num (key 5 (b + 0x40 + 8 * k)) 8))) ∧
     reads 0x400000 rules s.limitsWord ∧ reads 0x400008 rules s.torus ∧ reads (0x400100 + 16 * f.val) rules (s.func f.val).pbox ∧
     reads (0x400108 + 16 * f.val) rules (s.func f.val).phlt ∧ reads 0x400010 rules 0 ∧ reads 0x501000 rules s.tqcmd ∧
     (∀ c : CoreId, (s.core c).busy = false → ∀ k, 0x20 ≤ k → k < 0x80 → reads (0x600000 + 0x400 * c.val + 8 * k) rules 0) ∧
     (∀ c : CoreId, reads (0x600000 + 0x400 * c.val + 0x80) rules (s.core c).trctl ∧ reads (0x600000 + 0x400 * c.val + 0x40) rules (s.core c).bphit))

/-- What the tables of the spec give for reset: every control register that names one reads 0 (R35, R40, R124, R134, R245, R267,
R299, R371, R404 to R406, R424, R433, R437), flags and typed buffers are 0 (R115, R456), LIMITS hold 100,000 (R448), the registers of
R367, R392, R446, R447, R449, R475 are 0, the clock is at 0, no core is busy. -/
def Obligations.ResetValues : Prop :=
  let s := State.reset
  s.now = 0 ∧ s.ftmo = 100000 ∧ s.age = 100000 ∧ s.torus = 0 ∧ s.tqcmd = 0 ∧
  (∀ c : CoreId, (s.core c).busy = false ∧ ∀ n v, n < 0x0A0 → s.regRead (s.core c) (s.core c).ctx n = some v → v = 0) ∧
  (∀ n, s.flag n = 0) ∧
  (∀ n, (s.func n).frst = 0 ∧ (s.func n).inval = 0 ∧ (s.func n).pbox = 0 ∧ (s.func n).phlt = 0 ∧ (s.lq n).qctl = 0 ∧ (s.eq n).ctl = 0) ∧
  (∀ (c : CoreId) (sp : Space) (off : Nat), sp ≠ .g → off < Space.size sp → s.mem.get (bufKey c sp off) = 0) ∧
  s.ecc = [] ∧ s.saved = []

/-- The memory of the node at reset stands in canonical form. -/
def Obligations.ResetIsCanonical : Prop := State.reset.MemOk

/-- R52, R80, R105, R106: a step is the head of the agenda (log entry 2), or the current core's part of a cycle. There, when nothing
holds the bundle at the pc (R106) and its bytes decode, its four syllables execute in slot order, and around them the state moves past
the bundle (`Ctx.issued`, by AfterABundle), the own-buffer ports are taken, waits end, and the engines of the core act; then it is the
next core's turn, and after the last core the node's and the next cycle. Bytes that do not decode are a precise ILLEGAL of the slot
that fails (R63). -/
def Obligations.StepRuns : Prop :=
  (∀ (s : State) i r, s.agenda = i :: r → step s = exec i { s with agenda := r }) ∧
  ∀ (s : State) (w : BitVec 256), s.agenda = [] → (s.core s.cur).busy = true → s.ctx.wait = none →
    let u := s.boundary.countCycle
    let k := u.core u.cur
    let x := k.ctx
    k.runs = true → u.clockHeld u.cur = false → k.holdUntil ≤ u.now → k.word = some w →
    let ends (t : State) : State :=
      let t := ((t.did (execWaitEnd s.cur)).did (execWaitTimeout s.cur)).autoCore s.cur
      if s.cur.val = 127 then { t.autoNode with now := t.autoNode.now + 1, cur := 0, sent := [] } else { t with cur := Fin.ofNat 128 (s.cur.val + 1) }
    (∀ b t1 t2 t3 t4, decodeBundle w.toNat = .ok b → x.endOnly = false → u.holds b = false → u.xlateHeld b = none →
      (∀ va n, u.sysSpan b = some (va, n) → u.sysHeld va n 1024 = none) → u.checkedHeld b = (u, true) →
      let s0 := u.setCore u.cur { k with ctx := x.toIssue, xlat := none }
      let s1 := (s0.setCtx { s0.ctx with lastPc := x.pc, lastQ := x.lastSeq }).hit u.cur 1 x.pc x.lastSeq (fun n => k.bpv[n] == x.pc)
      exec b.a s1 = .next t1 → exec b.m t1 = .next t2 → exec b.v t2 = .next t3 → exec b.e t3 = .next t4 →
      (∀ t ∈ [t1, t2, t3, t4], t.trapsOf = u.trapsOf) →
      let use := (x.live b).filterMap (fun f => f.port.map (fun p => (p.1, u.now + 1 + p.2)))
      let t5 := t4.setCtx { t4.ctx with portUse := t4.ctx.portUse.filter (fun p => decide (u.now < p.2)) ++ use }
      step s = .next (ends (t5.setCtx t5.ctx.issued))) ∧
    (∀ sl r, decodeBundle w.toNat = .error (sl, r) →
      let t := (u.setCtx x.toIssue).precise {} sl .illegal 0
      step s = .next (ends (t.setCtx t.ctx.issued)))

/-- R52, R54, R56, R59: words written out from the encodings decode to the instructions they stand for. -/
def Obligations.DecodedWords : Prop :=
  decodeA 0x8080000005056100 = .ok (.add { g := { sq := true }, slot := .a, d := .s 5, a := .s 5, b := .imm 1 }) ∧
  decodeA 0x00C8012A00000064 = .ok (.cmpi { g := {}, slot := .a, src := .s 9, p := 2, cond := 2, imm := 100 }) ∧
  decodeA 0x1400000000000004 = .ok (.br { g := { pred := 1 }, disp := 4 }) ∧
  decodeM 0x0100000003010200 = .ok (.mul { g := {}, slot := .m, d := .s 3, a := .s 1, b := .s 2 }) ∧
  decodeM 0x0200C08006070040 = .ok (.ld { g := {}, t := .i32, dw := false, pi := false, oc := 0, sp := .ab, d := .s 6, a := .s 7, off := 0x40 }) ∧
  decodeM 0x0220C08006406100 = .ok (.aadd { g := {}, t := .i32, dw := false, oc := 0, sp := .ab, tok := 6, a := .o 0, b := .imm 1, c := .s 0 }) ∧
  decodeV 0x3880000090808800 = .ok (.vadd { g := { pred := 3, neg := true }, t := .f32, rm := .rne, ftz := false, sat := false, d := 16, a := 0, b := .row 8 }) ∧
  decodeE 0x0284004009040506 = .ok (.xget { g := {}, t := .f32, md := 0x40, tok := 9, a := .s 4, b := .s 5, c := .s 6 }) ∧
  decodeE 0x0384000005000000 = .ok (.sysrd { g := {}, d := .s 5, reg := 0 }) ∧
  decodeA 0x0000000000000001 ≠ .ok (.nop .a)

/-- R52 to R63: every instruction that a syllable can hold decodes from its encoding to itself, alone in its bundle, whatever its
operands; and a decoded bundle holds well-formed instructions only. -/
def Obligations.RoundTrip : Prop :=
  (∀ (i : Instr) (n : Nat), encode i = some n →
    ∃ b, decodeBundle n = .ok b ∧ Bundle.slots b = [Instr.nop .a, .nop .m, .nop .v, .nop .e].set (Slot.num i.slotOf) i) ∧
  (∀ (i : Instr), i.wf = true → (encode i).isSome = true) ∧
  (∀ (n : Nat) (b : Bundle), decodeBundle n = .ok b → ∀ i ∈ Bundle.slots b, i.wf = true)

/-- R400: every trap of the part is taken as a next state, so that the node always has one. -/
def Obligations.EveryStepAnswers : Prop :=
  (∀ (i : Instr) (s : State), ∃ t, exec i s = .next t) ∧ ∀ s : State, s.Goes

/-- Every step keeps the canonical form of the node's memory and of what saved contexts keep of theirs, whatever it stores. -/
def Obligations.MemoryStaysCanonical : Prop :=
  (∀ (i : Instr) (s t : State), s.MemOk → exec i s = .next t → t.MemOk) ∧ ∀ s t : State, s.MemOk → step s = .next t → t.MemOk
end

