-- ==== Sys2Proof/Laws/Memory.lean ====
section
/-! SUPPORT. The canonical form of memory: what it says of a list, and that the operations on memory keep it. -/

namespace Sys2Proof.Machine

/-- Every entry lies at `lo` or above, strictly rising, and none is unlisted. -/
def Memory.from_ (lo : Nat) : Memory → Prop
  | [] => True
  | e :: r => lo ≤ e.1 ∧ e.2 ≠ unlisted ∧ Memory.from_ (e.1 + 1) r

theorem Memory.wfFrom_some (m : Memory) : ∀ a, Memory.wfFrom (some a) m = true ↔ Memory.from_ (a + 1) m := by
  induction m with
  | nil => intro a; simp [Memory.wfFrom, Memory.from_]
  | cons e r ih =>
    intro a
    simp only [Memory.wfFrom, Memory.from_, Bool.and_eq_true, decide_eq_true_eq, bne_iff_ne, ih, and_assoc]
    constructor <;> rintro ⟨h, k⟩ <;> exact ⟨by omega, k⟩
/-- The canonical form, as a proposition. -/
theorem Memory.wf_iff (m : Memory) : m.wf = true ↔ Memory.from_ 0 m := by
  cases m with
  | nil => simp [Memory.wf, Memory.wfFrom, Memory.from_]
  | cons e r => simp [Memory.wf, Memory.wfFrom, Memory.from_, Memory.wfFrom_some]
theorem Memory.from_mono (m : Memory) {a b : Nat} (h : a ≤ b) (k : Memory.from_ b m) : Memory.from_ a m := by
  cases m with
  | nil => trivial
  | cons e r => exact ⟨by have := k.1; omega, k.2⟩
theorem Memory.from_filter (p : Host.Cell → Bool) (m : Memory) : ∀ a, Memory.from_ a m → Memory.from_ a (m.filter p) := by
  induction m with
  | nil => intro a _; trivial
  | cons e r ih =>
    intro a h
    have hr := ih _ h.2.2
    by_cases q : p e = true
    · simp only [List.filter, q]; exact ⟨h.1, h.2.1, hr⟩
    · simp only [List.filter, q]; exact Memory.from_mono _ (by have := h.1; omega) hr
theorem cellsFrom_from (bs : List Byte) : ∀ a, Memory.from_ a (cellsFrom a bs) := by
  induction bs with
  | nil => intro a; trivial
  | cons v r ih =>
    intro a
    by_cases q : v = unlisted
    · simp only [cellsFrom, q, beq_self_eq_true, if_true]; exact Memory.from_mono _ (by omega) (ih (a + 1))
    · simp only [cellsFrom, beq_iff_eq, q, if_false]; exact ⟨Nat.le_refl _, q, ih (a + 1)⟩
theorem cellsFrom_lt (bs : List Byte) : ∀ a, ∀ e ∈ cellsFrom a bs, a ≤ e.1 ∧ e.1 < a + bs.length := by
  induction bs with
  | nil => intro a e h; simp [cellsFrom] at h
  | cons v r ih =>
    intro a e h
    by_cases q : v = unlisted
    · simp only [cellsFrom, q, beq_self_eq_true, if_true] at h
      have := ih _ e h; simp; omega
    · simp only [cellsFrom, beq_iff_eq, q, if_false, List.mem_cons] at h
      rcases h with rfl | h
      · simp
      · have := ih _ e h; simp; omega
theorem Memory.from_append (m n : Memory) : ∀ a b, Memory.from_ a m → (∀ e ∈ m, e.1 < b) → a ≤ b → Memory.from_ b n →
    Memory.from_ a (m ++ n) := by
  induction m with
  | nil => intro a b _ _ hab hn; exact Memory.from_mono _ hab hn
  | cons e r ih =>
    intro a b hm hl hab hn
    refine ⟨hm.1, hm.2.1, ih _ b hm.2.2 (fun x hx => hl x (List.mem_cons_of_mem _ hx)) ?_ hn⟩
    have := hl e (List.mem_cons_self ..); omega
theorem Memory.from_above (m : Memory) (b : Nat) : ∀ a, Memory.from_ a m →
    Memory.from_ b (m.filter (fun e => decide (b ≤ e.1))) := by
  induction m with
  | nil => intro a _; trivial
  | cons e r ih =>
    intro a h
    by_cases q : b ≤ e.1
    · simp only [List.filter, q, decide_true]
      exact ⟨q, h.2.1, Memory.from_filter _ _ _ h.2.2⟩
    · simp only [List.filter, q, decide_false]; exact ih _ h.2.2
/-- A write keeps the canonical form. -/
theorem Memory.write_wf (m : Memory) (a : Nat) (bs : List Byte) (h : m.wf = true) : (m.write a bs).wf = true := by
  rw [Memory.wf_iff] at h ⊢
  unfold Memory.write
  rw [List.append_assoc]
  refine Memory.from_append _ _ 0 a (Memory.from_filter _ _ _ h) (fun e he => ?_) (Nat.zero_le _) ?_
  · simpa using (List.mem_filter.1 he).2
  · refine Memory.from_append _ _ a (a + bs.length) (cellsFrom_from bs a) (fun e he => (cellsFrom_lt bs a e he).2) (by omega) ?_
    exact Memory.from_above m _ _ h
/-- So does leaving entries out. -/
theorem Memory.filter_wf (m : Memory) (p : Host.Cell → Bool) (h : m.wf = true) : Memory.wf (m.filter p) = true := by
  rw [Memory.wf_iff] at h ⊢
  exact Memory.from_filter _ _ _ h
theorem Memory.put_wf (m : Memory) (a : Nat) (v : Byte) (h : m.wf = true) : (m.put a v).wf = true :=
  Memory.write_wf m a [v] h
theorem Memory.writeN_wf (m : Memory) (a n v : Nat) (h : m.wf = true) : (m.writeN a n v).wf = true :=
  Memory.write_wf m a _ h
theorem Memory.nil_wf : Memory.wf [] = true := rfl

theorem leBytes_length (v : Nat) : ∀ n, (leBytes v n).length = n := by
  intro n
  induction n generalizing v with
  | zero => rfl
  | succ n ih => simp [leBytes, ih]
/-- Little-endian bytes read back. -/
theorem leNat_leBytes (n : Nat) : ∀ v, leNat (leBytes v n) = v % 256 ^ n := by
  induction n with
  | zero => intro v; simp [leBytes, leNat, Nat.mod_one]
  | succ n ih =>
    intro v
    simp only [leBytes, leNat, ih, BitVec.toNat_ofNat]
    have h : 256 ^ (n + 1) = 256 * 256 ^ n := by rw [Nat.pow_succ, Nat.mul_comm]
    rw [h, Nat.mod_mul]

end Sys2Proof.Machine
end

