-- ==== Sys2Proof/Laws/Bytes.lean ====
section
/-! SUPPORT. Bytes of memory one by one: what reads and writes of several bytes say of each. -/

namespace Sys2Proof.Machine

@[simp] theorem Memory.get_nil (b : Nat) : Memory.get [] b = unlisted := rfl
theorem Memory.get_cons (e : Host.Cell) (r : Memory) (b : Nat) : Memory.get (e :: r) b = if e.1 = b then e.2 else Memory.get r b := by
  by_cases h : e.1 = b
  · simp [Memory.get, List.find?, h]
  · have : (e.1 == b) = false := by simpa using h
    simp [Memory.get, List.find?, h, this]
theorem Memory.get_of_all_ne (m : Memory) (b : Nat) (h : ∀ e ∈ m, e.1 ≠ b) : Memory.get m b = unlisted := by
  induction m with
  | nil => rfl
  | cons e r ih =>
    rw [Memory.get_cons, if_neg (h e (List.mem_cons_self ..)), ih (fun x hx => h x (List.mem_cons_of_mem _ hx))]
theorem Memory.get_append (m n : Memory) (b : Nat) (h : ∀ e ∈ m, e.1 ≠ b) : Memory.get (m ++ n) b = Memory.get n b := by
  induction m with
  | nil => rfl
  | cons e r ih =>
    rw [List.cons_append, Memory.get_cons, if_neg (h e (List.mem_cons_self ..)), ih (fun x hx => h x (List.mem_cons_of_mem _ hx))]
theorem Memory.get_append_left (m n : Memory) (b : Nat) (h : ∀ e ∈ n, e.1 ≠ b) : Memory.get (m ++ n) b = Memory.get m b := by
  induction m with
  | nil => exact Memory.get_of_all_ne n b h
  | cons e r ih => rw [List.cons_append, Memory.get_cons, Memory.get_cons, ih]
theorem Memory.get_filter (p : Host.Cell → Bool) (m : Memory) (b : Nat) (h : ∀ e ∈ m, e.1 = b → p e = true) :
    Memory.get (m.filter p) b = Memory.get m b := by
  induction m with
  | nil => rfl
  | cons e r ih =>
    have ih := ih (fun x hx => h x (List.mem_cons_of_mem _ hx))
    by_cases q : p e = true
    · simp only [List.filter, q, Memory.get_cons, ih]
    · have : e.1 ≠ b := fun k => q (h e (List.mem_cons_self ..) k)
      simp only [List.filter, q, Memory.get_cons, ih, if_neg this]
theorem Memory.get_filter_none (p : Host.Cell → Bool) (m : Memory) (b : Nat) (h : ∀ e ∈ m, e.1 = b → p e = false) :
    Memory.get (m.filter p) b = unlisted := by
  refine Memory.get_of_all_ne _ b (fun e he k => ?_)
  have := List.mem_filter.1 he
  rw [h e this.1 k] at this
  exact absurd this.2 (by simp)
theorem cellsFrom_get (bs : List Byte) : ∀ a i, (h : i < bs.length) → Memory.get (cellsFrom a bs) (a + i) = bs[i] := by
  induction bs with
  | nil => intro a i h; simp at h
  | cons v r ih =>
    intro a i h
    have tail : ∀ j, (hj : j < r.length) → Memory.get (cellsFrom (a + 1) r) (a + (j + 1)) = r[j] := by
      intro j hj
      have := ih (a + 1) j hj
      rwa [show a + 1 + j = a + (j + 1) by omega] at this
    by_cases q : v = unlisted
    · simp only [cellsFrom, q, beq_self_eq_true, if_true]
      cases i with
      | zero =>
        refine Memory.get_of_all_ne _ _ (fun e he k => ?_)
        have := cellsFrom_lt r (a + 1) e he; omega
      | succ j => exact tail j (by simpa using h)
    · simp only [cellsFrom, beq_iff_eq, q, if_false, Memory.get_cons]
      cases i with
      | zero => simp
      | succ j => rw [if_neg (by omega)]; exact tail j (by simpa using h)
/-- A byte that a write covers. -/
theorem Memory.get_write_in (m : Memory) (a : Nat) (bs : List Byte) (i : Nat) (h : i < bs.length) :
    (m.write a bs).get (a + i) = bs[i] := by
  unfold Memory.write
  rw [List.append_assoc, Memory.get_append _ _ _ (fun e he => ?_), Memory.get_append_left _ _ _ (fun e he => ?_), cellsFrom_get]
  · have := (List.mem_filter.1 he).2; simp at this; omega
  · have := (List.mem_filter.1 he).2; simp at this; omega
/-- A byte outside a write. -/
theorem Memory.get_write_out (m : Memory) (a : Nat) (bs : List Byte) (b : Nat) (h : b < a ∨ a + bs.length ≤ b) :
    (m.write a bs).get b = m.get b := by
  unfold Memory.write
  rcases h with h | h
  · rw [List.append_assoc, Memory.get_append_left _ _ _ (fun e he => ?_), Memory.get_filter _ _ _ (fun e he k => by simp; omega)]
    rcases List.mem_append.1 he with he | he
    · have := cellsFrom_lt bs a e he; omega
    · have := (List.mem_filter.1 he).2; simp at this; omega
  · rw [Memory.get_append _ _ _ (fun e he => ?_), Memory.get_filter _ _ _ (fun e he k => by simp; omega)]
    rcases List.mem_append.1 he with he | he
    · have := (List.mem_filter.1 he).2; simp at this; omega
    · have := cellsFrom_lt bs a e he; omega
theorem Memory.span_get (n : Nat) : ∀ (m : Memory) (a : Nat), Memory.from_ a m →
    Memory.span m a n = (List.range n).map (fun i => Memory.get m (a + i)) := by
  induction n with
  | zero => intro m a _; simp [Memory.span]
  | succ n ih =>
    intro m a h
    rw [List.range_succ_eq_map, List.map_cons, List.map_map]
    have step : ∀ r : Memory, Memory.from_ (a + 1) r → (∀ i, Memory.get m (a + (i + 1)) = Memory.get r (a + (i + 1))) →
        (List.range n).map ((fun i => Memory.get m (a + i)) ∘ Nat.succ) = Memory.span r (a + 1) n := by
      intro r hr he
      rw [ih r (a + 1) hr]
      refine List.map_congr_left (fun i _ => ?_)
      show Memory.get m (a + (i + 1)) = _
      rw [he i, show a + 1 + i = a + (i + 1) by omega]
    cases m with
    | nil => simp only [Memory.span]; rw [step [] trivial (fun _ => rfl)]; rfl
    | cons e r =>
      obtain ⟨k, v⟩ := e
      by_cases q : k = a
      · subst q
        simp only [Memory.span, beq_self_eq_true, if_true]
        rw [step r h.2.2 (fun i => by rw [Memory.get_cons, if_neg (by simp)])]
        simp [Memory.get_cons]
      · have hk : a + 1 ≤ k := by have := h.1; simp at this; omega
        simp only [Memory.span, beq_iff_eq, q, if_false]
        rw [step ((k, v) :: r) ⟨hk, h.2⟩ (fun _ => rfl)]
        rw [Memory.get_of_all_ne ((k, v) :: r) (a + 0)]
        intro x hx
        rcases List.mem_cons.1 hx with rfl | hx
        · exact fun e => q e
        · intro e
          have : ∀ (m : Memory) (c : Nat), Memory.from_ c m → ∀ x ∈ m, c ≤ x.1 := by
            intro m
            induction m with
            | nil => intro c _ x hx; simp at hx
            | cons y ys ih2 =>
              intro c hc x hx
              rcases List.mem_cons.1 hx with rfl | hx
              · exact hc.1
              · have := ih2 _ hc.2.2 x hx; have := hc.1; omega
          have := this r (k + 1) h.2.2 x hx
          omega
/-- A read gives each byte. -/
theorem Memory.read_get (m : Memory) (a n : Nat) (h : m.wf = true) :
    m.read a n = (List.range n).map (fun i => m.get (a + i)) := by
  rw [Memory.wf_iff] at h
  have hf : Memory.from_ a (m.filter (fun e => decide (a ≤ e.1) && decide (e.1 < a + n))) := by
    have h2 := Memory.from_filter (fun e => decide (e.1 < a + n)) _ _ (Memory.from_above m a 0 h)
    rw [List.filter_filter] at h2
    exact (List.filter_congr (fun x _ => Bool.and_comm _ _)) ▸ h2
  unfold Memory.read
  rw [Memory.span_get n _ a hf]
  refine List.map_congr_left (fun i hi => ?_)
  have := List.mem_range.1 hi
  exact Memory.get_filter _ _ _ (fun e he k => by simp; omega)
theorem Memory.num_read (m : Memory) (n : Nat) : ∀ a, leNat ((List.range n).map (fun i => m.get (a + i))) = m.num a n := by
  induction n with
  | zero => intro a; rfl
  | succ n ih =>
    intro a
    rw [List.range_succ_eq_map, List.map_cons, List.map_map, leNat, Memory.num, ← ih (a + 1)]
    simp only [Nat.add_zero]
    congr 3
    refine List.map_congr_left (fun i _ => ?_)
    show m.get (a + (i + 1)) = _
    rw [show a + (i + 1) = a + 1 + i by omega]
/-- The number that a read gives. -/
theorem Memory.readN_num (m : Memory) (a n : Nat) (h : m.wf = true) : m.readN a n = m.num a n := by
  unfold Memory.readN; rw [Memory.read_get m a n h, Memory.num_read]

end Sys2Proof.Machine
end

