-- ==== Sys2Proof/Laws/State.lean ====
section
/-! SUPPORT. What each update of the state leaves: one lemma for each field of the node, and one for each core and context. -/

namespace Sys2Proof.Machine

/- A core is replaced. -/
@[simp] theorem State.core_setCore (s : State) (c : CoreId) (k : Core) : (s.setCore c k).core c = k := by
  simp [State.core, State.setCore]
theorem State.core_setCore_ne (s : State) (c d : CoreId) (k : Core) (h : d ≠ c) : (s.setCore c k).core d = s.core d := by
  have : c.val ≠ d.val := fun e => h (Fin.ext e.symm)
  simp [State.core, State.setCore, this]
@[simp] theorem State.setCore_setCore (s : State) (c : CoreId) (k l : Core) : (s.setCore c k).setCore c l = s.setCore c l := by
  simp [State.setCore]
@[simp] theorem State.setCore_core (s : State) (c : CoreId) : s.setCore c (s.core c) = s := by
  simp [State.core, State.setCore]
@[simp] theorem State.setCore_now (s : State) (c : CoreId) (k : Core) : (s.setCore c k).now = s.now := rfl
@[simp] theorem State.setCore_cur (s : State) (c : CoreId) (k : Core) : (s.setCore c k).cur = s.cur := rfl
@[simp] theorem State.setCore_mem (s : State) (c : CoreId) (k : Core) : (s.setCore c k).mem = s.mem := rfl
@[simp] theorem State.setCore_ecc (s : State) (c : CoreId) (k : Core) : (s.setCore c k).ecc = s.ecc := rfl
@[simp] theorem State.setCore_agenda (s : State) (c : CoreId) (k : Core) : (s.setCore c k).agenda = s.agenda := rfl
@[simp] theorem State.setCore_flags (s : State) (c : CoreId) (k : Core) : (s.setCore c k).flags = s.flags := rfl
@[simp] theorem State.setCore_setters (s : State) (c : CoreId) (k : Core) : (s.setCore c k).setters = s.setters := rfl
@[simp] theorem State.setCore_funcs (s : State) (c : CoreId) (k : Core) : (s.setCore c k).funcs = s.funcs := rfl
@[simp] theorem State.setCore_saved (s : State) (c : CoreId) (k : Core) : (s.setCore c k).saved = s.saved := rfl
@[simp] theorem State.setCore_free (s : State) (c : CoreId) (k : Core) : (s.setCore c k).free = s.free := rfl
@[simp] theorem State.setCore_tq (s : State) (c : CoreId) (k : Core) : (s.setCore c k).tq = s.tq := rfl
@[simp] theorem State.setCore_lqs (s : State) (c : CoreId) (k : Core) : (s.setCore c k).lqs = s.lqs := rfl
@[simp] theorem State.setCore_eqs (s : State) (c : CoreId) (k : Core) : (s.setCore c k).eqs = s.eqs := rfl
@[simp] theorem State.setCore_replies (s : State) (c : CoreId) (k : Core) : (s.setCore c k).replies = s.replies := rfl
@[simp] theorem State.setCore_slots (s : State) (c : CoreId) (k : Core) : (s.setCore c k).slots = s.slots := rfl
@[simp] theorem State.setCore_nests (s : State) (c : CoreId) (k : Core) : (s.setCore c k).nests = s.nests := rfl
@[simp] theorem State.setCore_trees (s : State) (c : CoreId) (k : Core) : (s.setCore c k).trees = s.trees := rfl
@[simp] theorem State.setCore_clusterTlb (s : State) (c : CoreId) (k : Core) : (s.setCore c k).clusterTlb = s.clusterTlb := rfl
@[simp] theorem State.setCore_torus (s : State) (c : CoreId) (k : Core) : (s.setCore c k).torus = s.torus := rfl
@[simp] theorem State.setCore_exts (s : State) (c : CoreId) (k : Core) : (s.setCore c k).exts = s.exts := rfl
@[simp] theorem State.setCore_poolUp (s : State) (c : CoreId) (k : Core) : (s.setCore c k).poolUp = s.poolUp := rfl
@[simp] theorem State.setCore_walks (s : State) (c : CoreId) (k : Core) : (s.setCore c k).walks = s.walks := rfl
@[simp] theorem State.setCore_winUnits (s : State) (c : CoreId) (k : Core) : (s.setCore c k).winUnits = s.winUnits := rfl
@[simp] theorem State.setCore_waitN (s : State) (c : CoreId) (k : Core) : (s.setCore c k).waitN = s.waitN := rfl
@[simp] theorem State.setCore_owners (s : State) (c : CoreId) (k : Core) : (s.setCore c k).owners = s.owners := rfl
@[simp] theorem State.setCore_pendOwners (s : State) (c : CoreId) (k : Core) : (s.setCore c k).pendOwners = s.pendOwners := rfl
@[simp] theorem State.setCore_dtab (s : State) (c : CoreId) (k : Core) : (s.setCore c k).dtab = s.dtab := rfl
@[simp] theorem State.setCore_tracks (s : State) (c : CoreId) (k : Core) : (s.setCore c k).tracks = s.tracks := rfl
@[simp] theorem State.setCore_turn (s : State) (c : CoreId) (k : Core) : (s.setCore c k).turn = s.turn := rfl
@[simp] theorem State.setCore_ftmo (s : State) (c : CoreId) (k : Core) : (s.setCore c k).ftmo = s.ftmo := rfl
@[simp] theorem State.setCore_age (s : State) (c : CoreId) (k : Core) : (s.setCore c k).age = s.age := rfl
@[simp] theorem State.setCore_held (s : State) (c : CoreId) (k : Core) : (s.setCore c k).held = s.held := rfl
@[simp] theorem State.setCore_pkts (s : State) (c : CoreId) (k : Core) : (s.setCore c k).pkts = s.pkts := rfl
@[simp] theorem State.setCore_fibres (s : State) (c : CoreId) (k : Core) : (s.setCore c k).fibres = s.fibres := rfl
@[simp] theorem State.setCore_spares (s : State) (c : CoreId) (k : Core) : (s.setCore c k).spares = s.spares := rfl
@[simp] theorem State.setCore_swaps (s : State) (c : CoreId) (k : Core) : (s.setCore c k).swaps = s.swaps := rfl
@[simp] theorem State.setCore_logAt (s : State) (c : CoreId) (k : Core) : (s.setCore c k).logAt = s.logAt := rfl
@[simp] theorem State.setCore_pendD (s : State) (c : CoreId) (k : Core) : (s.setCore c k).pendD = s.pendD := rfl
@[simp] theorem State.setCore_fwExts (s : State) (c : CoreId) (k : Core) : (s.setCore c k).fwExts = s.fwExts := rfl
@[simp] theorem State.setCore_romFail (s : State) (c : CoreId) (k : Core) : (s.setCore c k).romFail = s.romFail := rfl
@[simp] theorem State.setCore_identity (s : State) (c : CoreId) (k : Core) : (s.setCore c k).identity = s.identity := rfl
@[simp] theorem State.setCore_wakeAt (s : State) (c : CoreId) (k : Core) : (s.setCore c k).wakeAt = s.wakeAt := rfl
@[simp] theorem State.setCore_off (s : State) (c : CoreId) (k : Core) : (s.setCore c k).off = s.off := rfl
@[simp] theorem State.setCore_droopTh (s : State) (c : CoreId) (k : Core) : (s.setCore c k).droopTh = s.droopTh := rfl
@[simp] theorem State.setCore_corrected (s : State) (c : CoreId) (k : Core) : (s.setCore c k).corrected = s.corrected := rfl
@[simp] theorem State.setCore_sends (s : State) (c : CoreId) (k : Core) : (s.setCore c k).sends = s.sends := rfl
@[simp] theorem State.setCore_sent (s : State) (c : CoreId) (k : Core) : (s.setCore c k).sent = s.sent := rfl
@[simp] theorem State.setCore_sideInfo (s : State) (c : CoreId) (k : Core) : (s.setCore c k).sideInfo = s.sideInfo := rfl
@[simp] theorem State.setCore_tqcmd (s : State) (c : CoreId) (k : Core) : (s.setCore c k).tqcmd = s.tqcmd := rfl
@[simp] theorem State.setCore_deadImgs (s : State) (c : CoreId) (k : Core) : (s.setCore c k).deadImgs = s.deadImgs := rfl
@[simp] theorem State.setCore_lent (s : State) (c : CoreId) (k : Core) : (s.setCore c k).lent = s.lent := rfl
@[simp] theorem State.setCore_lendIn (s : State) (c : CoreId) (k : Core) : (s.setCore c k).lendIn = s.lendIn := rfl
@[simp] theorem State.setCore_limNew (s : State) (c : CoreId) (k : Core) : (s.setCore c k).limNew = s.limNew := rfl
@[simp] theorem State.setCore_hostData (s : State) (c : CoreId) (k : Core) : (s.setCore c k).hostData = s.hostData := rfl
@[simp] theorem State.setCore_serials (s : State) (c : CoreId) (k : Core) : (s.setCore c k).serials = s.serials := rfl
@[simp] theorem State.setCore_images (s : State) (c : CoreId) (k : Core) : (s.setCore c k).images = s.images := rfl
@[simp] theorem State.setCore_lastImage (s : State) (c : CoreId) (k : Core) : (s.setCore c k).lastImage = s.lastImage := rfl
@[simp] theorem State.setCore_mbox (s : State) (c : CoreId) (k : Core) : (s.setCore c k).mbox = s.mbox := rfl
@[simp] theorem State.setCore_keys (s : State) (c : CoreId) (k : Core) : (s.setCore c k).keys = s.keys := rfl
@[simp] theorem State.setCore_seals (s : State) (c : CoreId) (k : Core) : (s.setCore c k).seals = s.seals := rfl
@[simp] theorem State.setCore_boot (s : State) (c : CoreId) (k : Core) : (s.setCore c k).boot = s.boot := rfl
@[simp] theorem State.setCore_wdog (s : State) (c : CoreId) (k : Core) : (s.setCore c k).wdog = s.wdog := rfl
@[simp] theorem State.setCore_cap (s : State) (c : CoreId) (k : Core) : (s.setCore c k).cap = s.cap := rfl
@[simp] theorem State.setCore_thermal (s : State) (c : CoreId) (k : Core) : (s.setCore c k).thermal = s.thermal := rfl
@[simp] theorem State.setCore_capK (s : State) (c : CoreId) (k : Core) : (s.setCore c k).capK = s.capK := rfl
@[simp] theorem State.setCore_slow (s : State) (c : CoreId) (k : Core) : (s.setCore c k).slow = s.slow := rfl
@[simp] theorem State.setCore_trip (s : State) (c : CoreId) (k : Core) : (s.setCore c k).trip = s.trip := rfl
@[simp] theorem State.setCore_gated (s : State) (c : CoreId) (k : Core) : (s.setCore c k).gated = s.gated := rfl
@[simp] theorem State.setCore_mchecks (s : State) (c : CoreId) (k : Core) : (s.setCore c k).mchecks = s.mchecks := rfl
@[simp] theorem State.setCore_droops (s : State) (c : CoreId) (k : Core) : (s.setCore c k).droops = s.droops := rfl
@[simp] theorem State.setCore_droopAt (s : State) (c : CoreId) (k : Core) : (s.setCore c k).droopAt = s.droopAt := rfl
@[simp] theorem State.setCore_drops (s : State) (c : CoreId) (k : Core) : (s.setCore c k).drops = s.drops := rfl
@[simp] theorem State.setCore_scrubbed (s : State) (c : CoreId) (k : Core) : (s.setCore c k).scrubbed = s.scrubbed := rfl
@[simp] theorem State.setCore_lost (s : State) (c : CoreId) (k : Core) : (s.setCore c k).lost = s.lost := rfl

/- A context is replaced. -/
@[simp] theorem State.ctxOf_setCore (s : State) (c : CoreId) (k : Core) : (s.setCore c k).ctxOf c = k.ctx := by
  simp [State.ctxOf]
@[simp] theorem State.ctxOf_setCtxOf (s : State) (c : CoreId) (x : Ctx) : (s.setCtxOf c x).ctxOf c = x := by
  simp [State.ctxOf, State.setCtxOf]
theorem State.ctxOf_setCtxOf_ne (s : State) (c d : CoreId) (x : Ctx) (h : d ≠ c) : (s.setCtxOf c x).ctxOf d = s.ctxOf d := by
  simp [State.ctxOf, State.setCtxOf, State.core_setCore_ne _ _ _ _ h]
@[simp] theorem State.setCtxOf_setCtxOf (s : State) (c : CoreId) (x y : Ctx) : (s.setCtxOf c x).setCtxOf c y = s.setCtxOf c y := by
  simp [State.setCtxOf]
@[simp] theorem State.setCtxOf_ctxOf (s : State) (c : CoreId) : s.setCtxOf c (s.ctxOf c) = s :=
  State.setCore_core s c
@[simp] theorem State.setCtxOf_cur (s : State) (c : CoreId) (x : Ctx) : (s.setCtxOf c x).cur = s.cur := rfl
@[simp] theorem State.setCtxOf_now (s : State) (c : CoreId) (x : Ctx) : (s.setCtxOf c x).now = s.now := rfl
@[simp] theorem State.setCtxOf_mem (s : State) (c : CoreId) (x : Ctx) : (s.setCtxOf c x).mem = s.mem := rfl
@[simp] theorem State.setCtxOf_ecc (s : State) (c : CoreId) (x : Ctx) : (s.setCtxOf c x).ecc = s.ecc := rfl
@[simp] theorem State.setCtxOf_saved (s : State) (c : CoreId) (x : Ctx) : (s.setCtxOf c x).saved = s.saved := rfl
@[simp] theorem State.setCtxOf_flags (s : State) (c : CoreId) (x : Ctx) : (s.setCtxOf c x).flags = s.flags := rfl
@[simp] theorem State.ctx_setCtx (s : State) (x : Ctx) : (s.setCtx x).ctx = x := by
  simp [State.ctx, State.setCtx]
@[simp] theorem State.setCtx_setCtx (s : State) (x y : Ctx) : (s.setCtx x).setCtx y = s.setCtx y := by
  simp [State.setCtx]
@[simp] theorem State.setCtx_ctx (s : State) : s.setCtx s.ctx = s :=
  State.setCore_core s s.cur
@[simp] theorem State.setCtx_cur (s : State) (x : Ctx) : (s.setCtx x).cur = s.cur := rfl
@[simp] theorem State.setCtx_now (s : State) (x : Ctx) : (s.setCtx x).now = s.now := rfl
@[simp] theorem State.setCtx_mem (s : State) (x : Ctx) : (s.setCtx x).mem = s.mem := rfl
@[simp] theorem State.setCtx_ecc (s : State) (x : Ctx) : (s.setCtx x).ecc = s.ecc := rfl
@[simp] theorem State.setCtx_flags (s : State) (x : Ctx) : (s.setCtx x).flags = s.flags := rfl
@[simp] theorem State.setCtx_saved (s : State) (x : Ctx) : (s.setCtx x).saved = s.saved := rfl
@[simp] theorem State.core_setCtx (s : State) (x : Ctx) : (s.setCtx x).core s.cur = { s.core s.cur with ctx := x } := by
  simp [State.setCtx, State.setCtxOf]

@[simp] theorem State.setCtxOf_agenda (s : State) (c : CoreId) (x : Ctx) : (s.setCtxOf c x).agenda = s.agenda := rfl
@[simp] theorem State.setCtxOf_free (s : State) (c : CoreId) (x : Ctx) : (s.setCtxOf c x).free = s.free := rfl
@[simp] theorem State.setCtxOf_clusterTlb (s : State) (c : CoreId) (x : Ctx) : (s.setCtxOf c x).clusterTlb = s.clusterTlb := rfl
@[simp] theorem State.setCtxOf_setters (s : State) (c : CoreId) (x : Ctx) : (s.setCtxOf c x).setters = s.setters := rfl
@[simp] theorem State.setCtxOf_funcs (s : State) (c : CoreId) (x : Ctx) : (s.setCtxOf c x).funcs = s.funcs := rfl
@[simp] theorem State.setCtxOf_eqs (s : State) (c : CoreId) (x : Ctx) : (s.setCtxOf c x).eqs = s.eqs := rfl
@[simp] theorem State.setCtxOf_lqs (s : State) (c : CoreId) (x : Ctx) : (s.setCtxOf c x).lqs = s.lqs := rfl
@[simp] theorem State.setCtxOf_torus (s : State) (c : CoreId) (x : Ctx) : (s.setCtxOf c x).torus = s.torus := rfl
@[simp] theorem State.setCtxOf_exts (s : State) (c : CoreId) (x : Ctx) : (s.setCtxOf c x).exts = s.exts := rfl
@[simp] theorem State.setCtxOf_poolUp (s : State) (c : CoreId) (x : Ctx) : (s.setCtxOf c x).poolUp = s.poolUp := rfl
@[simp] theorem State.setCtxOf_walks (s : State) (c : CoreId) (x : Ctx) : (s.setCtxOf c x).walks = s.walks := rfl
@[simp] theorem State.setCtxOf_winUnits (s : State) (c : CoreId) (x : Ctx) : (s.setCtxOf c x).winUnits = s.winUnits := rfl
@[simp] theorem State.setCtxOf_waitN (s : State) (c : CoreId) (x : Ctx) : (s.setCtxOf c x).waitN = s.waitN := rfl
@[simp] theorem State.setCtxOf_owners (s : State) (c : CoreId) (x : Ctx) : (s.setCtxOf c x).owners = s.owners := rfl
@[simp] theorem State.setCtxOf_pendOwners (s : State) (c : CoreId) (x : Ctx) : (s.setCtxOf c x).pendOwners = s.pendOwners := rfl
@[simp] theorem State.setCtxOf_dtab (s : State) (c : CoreId) (x : Ctx) : (s.setCtxOf c x).dtab = s.dtab := rfl
@[simp] theorem State.setCtxOf_tracks (s : State) (c : CoreId) (x : Ctx) : (s.setCtxOf c x).tracks = s.tracks := rfl
@[simp] theorem State.setCtxOf_turn (s : State) (c : CoreId) (x : Ctx) : (s.setCtxOf c x).turn = s.turn := rfl
@[simp] theorem State.setCtxOf_ftmo (s : State) (c : CoreId) (x : Ctx) : (s.setCtxOf c x).ftmo = s.ftmo := rfl
@[simp] theorem State.setCtxOf_age (s : State) (c : CoreId) (x : Ctx) : (s.setCtxOf c x).age = s.age := rfl
@[simp] theorem State.setCtxOf_held (s : State) (c : CoreId) (x : Ctx) : (s.setCtxOf c x).held = s.held := rfl
@[simp] theorem State.setCtxOf_pkts (s : State) (c : CoreId) (x : Ctx) : (s.setCtxOf c x).pkts = s.pkts := rfl
@[simp] theorem State.setCtxOf_replies (s : State) (c : CoreId) (x : Ctx) : (s.setCtxOf c x).replies = s.replies := rfl
@[simp] theorem State.setCtxOf_fibres (s : State) (c : CoreId) (x : Ctx) : (s.setCtxOf c x).fibres = s.fibres := rfl
@[simp] theorem State.setCtxOf_spares (s : State) (c : CoreId) (x : Ctx) : (s.setCtxOf c x).spares = s.spares := rfl
@[simp] theorem State.setCtxOf_swaps (s : State) (c : CoreId) (x : Ctx) : (s.setCtxOf c x).swaps = s.swaps := rfl
@[simp] theorem State.setCtxOf_logAt (s : State) (c : CoreId) (x : Ctx) : (s.setCtxOf c x).logAt = s.logAt := rfl
@[simp] theorem State.setCtxOf_pendD (s : State) (c : CoreId) (x : Ctx) : (s.setCtxOf c x).pendD = s.pendD := rfl
@[simp] theorem State.setCtxOf_fwExts (s : State) (c : CoreId) (x : Ctx) : (s.setCtxOf c x).fwExts = s.fwExts := rfl
@[simp] theorem State.setCtxOf_romFail (s : State) (c : CoreId) (x : Ctx) : (s.setCtxOf c x).romFail = s.romFail := rfl
@[simp] theorem State.setCtxOf_identity (s : State) (c : CoreId) (x : Ctx) : (s.setCtxOf c x).identity = s.identity := rfl
@[simp] theorem State.setCtxOf_wakeAt (s : State) (c : CoreId) (x : Ctx) : (s.setCtxOf c x).wakeAt = s.wakeAt := rfl
@[simp] theorem State.setCtxOf_off (s : State) (c : CoreId) (x : Ctx) : (s.setCtxOf c x).off = s.off := rfl
@[simp] theorem State.setCtxOf_droopTh (s : State) (c : CoreId) (x : Ctx) : (s.setCtxOf c x).droopTh = s.droopTh := rfl
@[simp] theorem State.setCtxOf_corrected (s : State) (c : CoreId) (x : Ctx) : (s.setCtxOf c x).corrected = s.corrected := rfl
@[simp] theorem State.setCtxOf_slots (s : State) (c : CoreId) (x : Ctx) : (s.setCtxOf c x).slots = s.slots := rfl
@[simp] theorem State.setCtxOf_sends (s : State) (c : CoreId) (x : Ctx) : (s.setCtxOf c x).sends = s.sends := rfl
@[simp] theorem State.setCtxOf_sent (s : State) (c : CoreId) (x : Ctx) : (s.setCtxOf c x).sent = s.sent := rfl
@[simp] theorem State.setCtxOf_sideInfo (s : State) (c : CoreId) (x : Ctx) : (s.setCtxOf c x).sideInfo = s.sideInfo := rfl
@[simp] theorem State.setCtxOf_nests (s : State) (c : CoreId) (x : Ctx) : (s.setCtxOf c x).nests = s.nests := rfl
@[simp] theorem State.setCtxOf_trees (s : State) (c : CoreId) (x : Ctx) : (s.setCtxOf c x).trees = s.trees := rfl
@[simp] theorem State.setCtxOf_tq (s : State) (c : CoreId) (x : Ctx) : (s.setCtxOf c x).tq = s.tq := rfl
@[simp] theorem State.setCtxOf_tqcmd (s : State) (c : CoreId) (x : Ctx) : (s.setCtxOf c x).tqcmd = s.tqcmd := rfl
@[simp] theorem State.setCtxOf_deadImgs (s : State) (c : CoreId) (x : Ctx) : (s.setCtxOf c x).deadImgs = s.deadImgs := rfl
@[simp] theorem State.setCtxOf_lent (s : State) (c : CoreId) (x : Ctx) : (s.setCtxOf c x).lent = s.lent := rfl
@[simp] theorem State.setCtxOf_lendIn (s : State) (c : CoreId) (x : Ctx) : (s.setCtxOf c x).lendIn = s.lendIn := rfl
@[simp] theorem State.setCtxOf_limNew (s : State) (c : CoreId) (x : Ctx) : (s.setCtxOf c x).limNew = s.limNew := rfl
@[simp] theorem State.setCtxOf_hostData (s : State) (c : CoreId) (x : Ctx) : (s.setCtxOf c x).hostData = s.hostData := rfl
@[simp] theorem State.setCtxOf_serials (s : State) (c : CoreId) (x : Ctx) : (s.setCtxOf c x).serials = s.serials := rfl
@[simp] theorem State.setCtxOf_images (s : State) (c : CoreId) (x : Ctx) : (s.setCtxOf c x).images = s.images := rfl
@[simp] theorem State.setCtxOf_lastImage (s : State) (c : CoreId) (x : Ctx) : (s.setCtxOf c x).lastImage = s.lastImage := rfl
@[simp] theorem State.setCtxOf_mbox (s : State) (c : CoreId) (x : Ctx) : (s.setCtxOf c x).mbox = s.mbox := rfl
@[simp] theorem State.setCtxOf_keys (s : State) (c : CoreId) (x : Ctx) : (s.setCtxOf c x).keys = s.keys := rfl
@[simp] theorem State.setCtxOf_seals (s : State) (c : CoreId) (x : Ctx) : (s.setCtxOf c x).seals = s.seals := rfl
@[simp] theorem State.setCtxOf_boot (s : State) (c : CoreId) (x : Ctx) : (s.setCtxOf c x).boot = s.boot := rfl
@[simp] theorem State.setCtxOf_wdog (s : State) (c : CoreId) (x : Ctx) : (s.setCtxOf c x).wdog = s.wdog := rfl
@[simp] theorem State.setCtxOf_cap (s : State) (c : CoreId) (x : Ctx) : (s.setCtxOf c x).cap = s.cap := rfl
@[simp] theorem State.setCtxOf_thermal (s : State) (c : CoreId) (x : Ctx) : (s.setCtxOf c x).thermal = s.thermal := rfl
@[simp] theorem State.setCtxOf_capK (s : State) (c : CoreId) (x : Ctx) : (s.setCtxOf c x).capK = s.capK := rfl
@[simp] theorem State.setCtxOf_slow (s : State) (c : CoreId) (x : Ctx) : (s.setCtxOf c x).slow = s.slow := rfl
@[simp] theorem State.setCtxOf_trip (s : State) (c : CoreId) (x : Ctx) : (s.setCtxOf c x).trip = s.trip := rfl
@[simp] theorem State.setCtxOf_gated (s : State) (c : CoreId) (x : Ctx) : (s.setCtxOf c x).gated = s.gated := rfl
@[simp] theorem State.setCtxOf_mchecks (s : State) (c : CoreId) (x : Ctx) : (s.setCtxOf c x).mchecks = s.mchecks := rfl
@[simp] theorem State.setCtxOf_droops (s : State) (c : CoreId) (x : Ctx) : (s.setCtxOf c x).droops = s.droops := rfl
@[simp] theorem State.setCtxOf_droopAt (s : State) (c : CoreId) (x : Ctx) : (s.setCtxOf c x).droopAt = s.droopAt := rfl
@[simp] theorem State.setCtxOf_drops (s : State) (c : CoreId) (x : Ctx) : (s.setCtxOf c x).drops = s.drops := rfl
@[simp] theorem State.setCtxOf_scrubbed (s : State) (c : CoreId) (x : Ctx) : (s.setCtxOf c x).scrubbed = s.scrubbed := rfl
@[simp] theorem State.setCtxOf_lost (s : State) (c : CoreId) (x : Ctx) : (s.setCtxOf c x).lost = s.lost := rfl
@[simp] theorem State.setCtx_agenda (s : State) (x : Ctx) : (s.setCtx x).agenda = s.agenda := rfl
@[simp] theorem State.setCtx_free (s : State) (x : Ctx) : (s.setCtx x).free = s.free := rfl
@[simp] theorem State.setCtx_clusterTlb (s : State) (x : Ctx) : (s.setCtx x).clusterTlb = s.clusterTlb := rfl
@[simp] theorem State.setCtx_setters (s : State) (x : Ctx) : (s.setCtx x).setters = s.setters := rfl
@[simp] theorem State.setCtx_funcs (s : State) (x : Ctx) : (s.setCtx x).funcs = s.funcs := rfl
@[simp] theorem State.setCtx_eqs (s : State) (x : Ctx) : (s.setCtx x).eqs = s.eqs := rfl
@[simp] theorem State.setCtx_lqs (s : State) (x : Ctx) : (s.setCtx x).lqs = s.lqs := rfl
@[simp] theorem State.setCtx_torus (s : State) (x : Ctx) : (s.setCtx x).torus = s.torus := rfl
@[simp] theorem State.setCtx_exts (s : State) (x : Ctx) : (s.setCtx x).exts = s.exts := rfl
@[simp] theorem State.setCtx_poolUp (s : State) (x : Ctx) : (s.setCtx x).poolUp = s.poolUp := rfl
@[simp] theorem State.setCtx_walks (s : State) (x : Ctx) : (s.setCtx x).walks = s.walks := rfl
@[simp] theorem State.setCtx_winUnits (s : State) (x : Ctx) : (s.setCtx x).winUnits = s.winUnits := rfl
@[simp] theorem State.setCtx_waitN (s : State) (x : Ctx) : (s.setCtx x).waitN = s.waitN := rfl
@[simp] theorem State.setCtx_owners (s : State) (x : Ctx) : (s.setCtx x).owners = s.owners := rfl
@[simp] theorem State.setCtx_pendOwners (s : State) (x : Ctx) : (s.setCtx x).pendOwners = s.pendOwners := rfl
@[simp] theorem State.setCtx_dtab (s : State) (x : Ctx) : (s.setCtx x).dtab = s.dtab := rfl
@[simp] theorem State.setCtx_tracks (s : State) (x : Ctx) : (s.setCtx x).tracks = s.tracks := rfl
@[simp] theorem State.setCtx_turn (s : State) (x : Ctx) : (s.setCtx x).turn = s.turn := rfl
@[simp] theorem State.setCtx_ftmo (s : State) (x : Ctx) : (s.setCtx x).ftmo = s.ftmo := rfl
@[simp] theorem State.setCtx_age (s : State) (x : Ctx) : (s.setCtx x).age = s.age := rfl
@[simp] theorem State.setCtx_held (s : State) (x : Ctx) : (s.setCtx x).held = s.held := rfl
@[simp] theorem State.setCtx_pkts (s : State) (x : Ctx) : (s.setCtx x).pkts = s.pkts := rfl
@[simp] theorem State.setCtx_replies (s : State) (x : Ctx) : (s.setCtx x).replies = s.replies := rfl
@[simp] theorem State.setCtx_fibres (s : State) (x : Ctx) : (s.setCtx x).fibres = s.fibres := rfl
@[simp] theorem State.setCtx_spares (s : State) (x : Ctx) : (s.setCtx x).spares = s.spares := rfl
@[simp] theorem State.setCtx_swaps (s : State) (x : Ctx) : (s.setCtx x).swaps = s.swaps := rfl
@[simp] theorem State.setCtx_logAt (s : State) (x : Ctx) : (s.setCtx x).logAt = s.logAt := rfl
@[simp] theorem State.setCtx_pendD (s : State) (x : Ctx) : (s.setCtx x).pendD = s.pendD := rfl
@[simp] theorem State.setCtx_fwExts (s : State) (x : Ctx) : (s.setCtx x).fwExts = s.fwExts := rfl
@[simp] theorem State.setCtx_romFail (s : State) (x : Ctx) : (s.setCtx x).romFail = s.romFail := rfl
@[simp] theorem State.setCtx_identity (s : State) (x : Ctx) : (s.setCtx x).identity = s.identity := rfl
@[simp] theorem State.setCtx_wakeAt (s : State) (x : Ctx) : (s.setCtx x).wakeAt = s.wakeAt := rfl
@[simp] theorem State.setCtx_off (s : State) (x : Ctx) : (s.setCtx x).off = s.off := rfl
@[simp] theorem State.setCtx_droopTh (s : State) (x : Ctx) : (s.setCtx x).droopTh = s.droopTh := rfl
@[simp] theorem State.setCtx_corrected (s : State) (x : Ctx) : (s.setCtx x).corrected = s.corrected := rfl
@[simp] theorem State.setCtx_slots (s : State) (x : Ctx) : (s.setCtx x).slots = s.slots := rfl
@[simp] theorem State.setCtx_sends (s : State) (x : Ctx) : (s.setCtx x).sends = s.sends := rfl
@[simp] theorem State.setCtx_sent (s : State) (x : Ctx) : (s.setCtx x).sent = s.sent := rfl
@[simp] theorem State.setCtx_sideInfo (s : State) (x : Ctx) : (s.setCtx x).sideInfo = s.sideInfo := rfl
@[simp] theorem State.setCtx_nests (s : State) (x : Ctx) : (s.setCtx x).nests = s.nests := rfl
@[simp] theorem State.setCtx_trees (s : State) (x : Ctx) : (s.setCtx x).trees = s.trees := rfl
@[simp] theorem State.setCtx_tq (s : State) (x : Ctx) : (s.setCtx x).tq = s.tq := rfl
@[simp] theorem State.setCtx_tqcmd (s : State) (x : Ctx) : (s.setCtx x).tqcmd = s.tqcmd := rfl
@[simp] theorem State.setCtx_deadImgs (s : State) (x : Ctx) : (s.setCtx x).deadImgs = s.deadImgs := rfl
@[simp] theorem State.setCtx_lent (s : State) (x : Ctx) : (s.setCtx x).lent = s.lent := rfl
@[simp] theorem State.setCtx_lendIn (s : State) (x : Ctx) : (s.setCtx x).lendIn = s.lendIn := rfl
@[simp] theorem State.setCtx_limNew (s : State) (x : Ctx) : (s.setCtx x).limNew = s.limNew := rfl
@[simp] theorem State.setCtx_hostData (s : State) (x : Ctx) : (s.setCtx x).hostData = s.hostData := rfl
@[simp] theorem State.setCtx_serials (s : State) (x : Ctx) : (s.setCtx x).serials = s.serials := rfl
@[simp] theorem State.setCtx_images (s : State) (x : Ctx) : (s.setCtx x).images = s.images := rfl
@[simp] theorem State.setCtx_lastImage (s : State) (x : Ctx) : (s.setCtx x).lastImage = s.lastImage := rfl
@[simp] theorem State.setCtx_mbox (s : State) (x : Ctx) : (s.setCtx x).mbox = s.mbox := rfl
@[simp] theorem State.setCtx_keys (s : State) (x : Ctx) : (s.setCtx x).keys = s.keys := rfl
@[simp] theorem State.setCtx_seals (s : State) (x : Ctx) : (s.setCtx x).seals = s.seals := rfl
@[simp] theorem State.setCtx_boot (s : State) (x : Ctx) : (s.setCtx x).boot = s.boot := rfl
@[simp] theorem State.setCtx_wdog (s : State) (x : Ctx) : (s.setCtx x).wdog = s.wdog := rfl
@[simp] theorem State.setCtx_cap (s : State) (x : Ctx) : (s.setCtx x).cap = s.cap := rfl
@[simp] theorem State.setCtx_thermal (s : State) (x : Ctx) : (s.setCtx x).thermal = s.thermal := rfl
@[simp] theorem State.setCtx_capK (s : State) (x : Ctx) : (s.setCtx x).capK = s.capK := rfl
@[simp] theorem State.setCtx_slow (s : State) (x : Ctx) : (s.setCtx x).slow = s.slow := rfl
@[simp] theorem State.setCtx_trip (s : State) (x : Ctx) : (s.setCtx x).trip = s.trip := rfl
@[simp] theorem State.setCtx_gated (s : State) (x : Ctx) : (s.setCtx x).gated = s.gated := rfl
@[simp] theorem State.setCtx_mchecks (s : State) (x : Ctx) : (s.setCtx x).mchecks = s.mchecks := rfl
@[simp] theorem State.setCtx_droops (s : State) (x : Ctx) : (s.setCtx x).droops = s.droops := rfl
@[simp] theorem State.setCtx_droopAt (s : State) (x : Ctx) : (s.setCtx x).droopAt = s.droopAt := rfl
@[simp] theorem State.setCtx_drops (s : State) (x : Ctx) : (s.setCtx x).drops = s.drops := rfl
@[simp] theorem State.setCtx_scrubbed (s : State) (x : Ctx) : (s.setCtx x).scrubbed = s.scrubbed := rfl
@[simp] theorem State.setCtx_lost (s : State) (x : Ctx) : (s.setCtx x).lost = s.lost := rfl

/- Bytes are stored: memory and marks alone change. -/
@[simp] theorem State.store_agenda (s : State) (a : Nat) (bs : List Byte) : (s.store a bs).agenda = s.agenda := rfl
@[simp] theorem State.store_free (s : State) (a : Nat) (bs : List Byte) : (s.store a bs).free = s.free := rfl
@[simp] theorem State.store_clusterTlb (s : State) (a : Nat) (bs : List Byte) : (s.store a bs).clusterTlb = s.clusterTlb := rfl
@[simp] theorem State.store_setters (s : State) (a : Nat) (bs : List Byte) : (s.store a bs).setters = s.setters := rfl
@[simp] theorem State.store_funcs (s : State) (a : Nat) (bs : List Byte) : (s.store a bs).funcs = s.funcs := rfl
@[simp] theorem State.store_eqs (s : State) (a : Nat) (bs : List Byte) : (s.store a bs).eqs = s.eqs := rfl
@[simp] theorem State.store_lqs (s : State) (a : Nat) (bs : List Byte) : (s.store a bs).lqs = s.lqs := rfl
@[simp] theorem State.store_torus (s : State) (a : Nat) (bs : List Byte) : (s.store a bs).torus = s.torus := rfl
@[simp] theorem State.store_exts (s : State) (a : Nat) (bs : List Byte) : (s.store a bs).exts = s.exts := rfl
@[simp] theorem State.store_poolUp (s : State) (a : Nat) (bs : List Byte) : (s.store a bs).poolUp = s.poolUp := rfl
@[simp] theorem State.store_walks (s : State) (a : Nat) (bs : List Byte) : (s.store a bs).walks = s.walks := rfl
@[simp] theorem State.store_winUnits (s : State) (a : Nat) (bs : List Byte) : (s.store a bs).winUnits = s.winUnits := rfl
@[simp] theorem State.store_waitN (s : State) (a : Nat) (bs : List Byte) : (s.store a bs).waitN = s.waitN := rfl
@[simp] theorem State.store_owners (s : State) (a : Nat) (bs : List Byte) : (s.store a bs).owners = s.owners := rfl
@[simp] theorem State.store_pendOwners (s : State) (a : Nat) (bs : List Byte) : (s.store a bs).pendOwners = s.pendOwners := rfl
@[simp] theorem State.store_dtab (s : State) (a : Nat) (bs : List Byte) : (s.store a bs).dtab = s.dtab := rfl
@[simp] theorem State.store_tracks (s : State) (a : Nat) (bs : List Byte) : (s.store a bs).tracks = s.tracks := rfl
@[simp] theorem State.store_turn (s : State) (a : Nat) (bs : List Byte) : (s.store a bs).turn = s.turn := rfl
@[simp] theorem State.store_ftmo (s : State) (a : Nat) (bs : List Byte) : (s.store a bs).ftmo = s.ftmo := rfl
@[simp] theorem State.store_age (s : State) (a : Nat) (bs : List Byte) : (s.store a bs).age = s.age := rfl
@[simp] theorem State.store_held (s : State) (a : Nat) (bs : List Byte) : (s.store a bs).held = s.held := rfl
@[simp] theorem State.store_pkts (s : State) (a : Nat) (bs : List Byte) : (s.store a bs).pkts = s.pkts := rfl
@[simp] theorem State.store_replies (s : State) (a : Nat) (bs : List Byte) : (s.store a bs).replies = s.replies := rfl
@[simp] theorem State.store_fibres (s : State) (a : Nat) (bs : List Byte) : (s.store a bs).fibres = s.fibres := rfl
@[simp] theorem State.store_spares (s : State) (a : Nat) (bs : List Byte) : (s.store a bs).spares = s.spares := rfl
@[simp] theorem State.store_swaps (s : State) (a : Nat) (bs : List Byte) : (s.store a bs).swaps = s.swaps := rfl
@[simp] theorem State.store_logAt (s : State) (a : Nat) (bs : List Byte) : (s.store a bs).logAt = s.logAt := rfl
@[simp] theorem State.store_pendD (s : State) (a : Nat) (bs : List Byte) : (s.store a bs).pendD = s.pendD := rfl
@[simp] theorem State.store_fwExts (s : State) (a : Nat) (bs : List Byte) : (s.store a bs).fwExts = s.fwExts := rfl
@[simp] theorem State.store_romFail (s : State) (a : Nat) (bs : List Byte) : (s.store a bs).romFail = s.romFail := rfl
@[simp] theorem State.store_identity (s : State) (a : Nat) (bs : List Byte) : (s.store a bs).identity = s.identity := rfl
@[simp] theorem State.store_wakeAt (s : State) (a : Nat) (bs : List Byte) : (s.store a bs).wakeAt = s.wakeAt := rfl
@[simp] theorem State.store_off (s : State) (a : Nat) (bs : List Byte) : (s.store a bs).off = s.off := rfl
@[simp] theorem State.store_droopTh (s : State) (a : Nat) (bs : List Byte) : (s.store a bs).droopTh = s.droopTh := rfl
@[simp] theorem State.store_corrected (s : State) (a : Nat) (bs : List Byte) : (s.store a bs).corrected = s.corrected := rfl
@[simp] theorem State.store_slots (s : State) (a : Nat) (bs : List Byte) : (s.store a bs).slots = s.slots := rfl
@[simp] theorem State.store_sends (s : State) (a : Nat) (bs : List Byte) : (s.store a bs).sends = s.sends := rfl
@[simp] theorem State.store_sent (s : State) (a : Nat) (bs : List Byte) : (s.store a bs).sent = s.sent := rfl
@[simp] theorem State.store_sideInfo (s : State) (a : Nat) (bs : List Byte) : (s.store a bs).sideInfo = s.sideInfo := rfl
@[simp] theorem State.store_nests (s : State) (a : Nat) (bs : List Byte) : (s.store a bs).nests = s.nests := rfl
@[simp] theorem State.store_trees (s : State) (a : Nat) (bs : List Byte) : (s.store a bs).trees = s.trees := rfl
@[simp] theorem State.store_tq (s : State) (a : Nat) (bs : List Byte) : (s.store a bs).tq = s.tq := rfl
@[simp] theorem State.store_tqcmd (s : State) (a : Nat) (bs : List Byte) : (s.store a bs).tqcmd = s.tqcmd := rfl
@[simp] theorem State.store_deadImgs (s : State) (a : Nat) (bs : List Byte) : (s.store a bs).deadImgs = s.deadImgs := rfl
@[simp] theorem State.store_lent (s : State) (a : Nat) (bs : List Byte) : (s.store a bs).lent = s.lent := rfl
@[simp] theorem State.store_lendIn (s : State) (a : Nat) (bs : List Byte) : (s.store a bs).lendIn = s.lendIn := rfl
@[simp] theorem State.store_limNew (s : State) (a : Nat) (bs : List Byte) : (s.store a bs).limNew = s.limNew := rfl
@[simp] theorem State.store_hostData (s : State) (a : Nat) (bs : List Byte) : (s.store a bs).hostData = s.hostData := rfl
@[simp] theorem State.store_serials (s : State) (a : Nat) (bs : List Byte) : (s.store a bs).serials = s.serials := rfl
@[simp] theorem State.store_images (s : State) (a : Nat) (bs : List Byte) : (s.store a bs).images = s.images := rfl
@[simp] theorem State.store_lastImage (s : State) (a : Nat) (bs : List Byte) : (s.store a bs).lastImage = s.lastImage := rfl
@[simp] theorem State.store_mbox (s : State) (a : Nat) (bs : List Byte) : (s.store a bs).mbox = s.mbox := rfl
@[simp] theorem State.store_keys (s : State) (a : Nat) (bs : List Byte) : (s.store a bs).keys = s.keys := rfl
@[simp] theorem State.store_seals (s : State) (a : Nat) (bs : List Byte) : (s.store a bs).seals = s.seals := rfl
@[simp] theorem State.store_boot (s : State) (a : Nat) (bs : List Byte) : (s.store a bs).boot = s.boot := rfl
@[simp] theorem State.store_wdog (s : State) (a : Nat) (bs : List Byte) : (s.store a bs).wdog = s.wdog := rfl
@[simp] theorem State.store_cap (s : State) (a : Nat) (bs : List Byte) : (s.store a bs).cap = s.cap := rfl
@[simp] theorem State.store_thermal (s : State) (a : Nat) (bs : List Byte) : (s.store a bs).thermal = s.thermal := rfl
@[simp] theorem State.store_capK (s : State) (a : Nat) (bs : List Byte) : (s.store a bs).capK = s.capK := rfl
@[simp] theorem State.store_slow (s : State) (a : Nat) (bs : List Byte) : (s.store a bs).slow = s.slow := rfl
@[simp] theorem State.store_trip (s : State) (a : Nat) (bs : List Byte) : (s.store a bs).trip = s.trip := rfl
@[simp] theorem State.store_gated (s : State) (a : Nat) (bs : List Byte) : (s.store a bs).gated = s.gated := rfl
@[simp] theorem State.store_mchecks (s : State) (a : Nat) (bs : List Byte) : (s.store a bs).mchecks = s.mchecks := rfl
@[simp] theorem State.store_droops (s : State) (a : Nat) (bs : List Byte) : (s.store a bs).droops = s.droops := rfl
@[simp] theorem State.store_droopAt (s : State) (a : Nat) (bs : List Byte) : (s.store a bs).droopAt = s.droopAt := rfl
@[simp] theorem State.store_drops (s : State) (a : Nat) (bs : List Byte) : (s.store a bs).drops = s.drops := rfl
@[simp] theorem State.store_scrubbed (s : State) (a : Nat) (bs : List Byte) : (s.store a bs).scrubbed = s.scrubbed := rfl
@[simp] theorem State.store_lost (s : State) (a : Nat) (bs : List Byte) : (s.store a bs).lost = s.lost := rfl
@[simp] theorem State.store_mem (s : State) (a : Nat) (bs : List Byte) : (s.store a bs).mem = s.mem.write a bs := rfl
@[simp] theorem State.store_cores (s : State) (a : Nat) (bs : List Byte) : (s.store a bs).cores = s.cores := rfl
@[simp] theorem State.store_core (s : State) (a : Nat) (bs : List Byte) (c : CoreId) : (s.store a bs).core c = s.core c := rfl
@[simp] theorem State.store_ctxOf (s : State) (a : Nat) (bs : List Byte) (c : CoreId) : (s.store a bs).ctxOf c = s.ctxOf c := rfl
@[simp] theorem State.store_cur (s : State) (a : Nat) (bs : List Byte) : (s.store a bs).cur = s.cur := rfl
@[simp] theorem State.store_now (s : State) (a : Nat) (bs : List Byte) : (s.store a bs).now = s.now := rfl
@[simp] theorem State.store_saved (s : State) (a : Nat) (bs : List Byte) : (s.store a bs).saved = s.saved := rfl
@[simp] theorem State.store_flags (s : State) (a : Nat) (bs : List Byte) : (s.store a bs).flags = s.flags := rfl
@[simp] theorem State.bufStore_mem (s : State) (c : CoreId) (sp : Space) (o : Nat) (bs : List Byte) :
    (s.bufStore c sp o bs).mem = s.mem.write (bufKey c sp o) bs := by
  unfold State.bufStore; dsimp only; split <;> rfl
@[simp] theorem State.bufStore_now (s : State) (c : CoreId) (sp : Space) (o : Nat) (bs : List Byte) :
    (s.bufStore c sp o bs).now = s.now := by
  unfold State.bufStore; dsimp only; split <;> rfl
@[simp] theorem State.bufStore_cur (s : State) (c : CoreId) (sp : Space) (o : Nat) (bs : List Byte) :
    (s.bufStore c sp o bs).cur = s.cur := by
  unfold State.bufStore; dsimp only; split <;> rfl
@[simp] theorem State.bufStore_saved (s : State) (c : CoreId) (sp : Space) (o : Nat) (bs : List Byte) :
    (s.bufStore c sp o bs).saved = s.saved := by
  unfold State.bufStore; dsimp only; split <;> rfl

end Sys2Proof.Machine
end

