-- ==== Sys2Proof/Laws/Finish.lean ====
section
/-! SUPPORT. What the shared end of every fixed-latency syllable can do (R36, R80, R105, R108). -/

namespace Sys2Proof.Machine

@[simp] theorem Ctx.enabled_zero (c : Ctx) : c.enabled 0 = false := by simp [Ctx.enabled]
/-- A syllable that acts and raises no enabled flag puts its result in flight. -/
theorem State.finish_gives {s : State} {g : Guard} {lat : Nat} (slot : Slot) (code : Nat) (v : Word) (r : Option Row) {fl : Fl}
    (h : s.ctx.acts g lat) (e : s.ctx.enabled fl = false) :
    s.finish g slot lat code v r fl = .next (s.gives g slot lat code v r fl) := by
  obtain ⟨h1, h2⟩ := h
  cases hs : g.sq <;>
    simp [State.finish, h1, h2, e, Ctx.resultFl, hs, Ctx.fly, State.gives, Ctx.raise, Ctx.orFlags]
/-- Without flags. -/
theorem State.finish_plain {s : State} {g : Guard} {lat : Nat} (slot : Slot) (code : Nat) (v : Word) (r : Option Row)
    (h : s.ctx.acts g lat) : s.finish g slot lat code v r 0#6 = .next (s.gives g slot lat code v r 0#6) :=
  State.finish_gives slot code v r h (Ctx.enabled_zero s.ctx)
/-- A syllable whose guard reads false, or that a taken transfer kills, does nothing. -/
theorem State.finish_still {s : State} {g : Guard} {lat : Nat} (slot : Slot) (code : Nat) (v : Word) (r : Option Row) (fl : Fl)
    (h : ¬ s.ctx.acts g lat) : s.finish g slot lat code v r fl = .next s := by
  unfold Ctx.acts at h
  unfold State.finish
  cases h1 : s.ctx.guard g <;> simp_all
/-- An enabled flag raised by a syllable that acts: ARITH. -/
theorem State.finish_arith {s : State} {g : Guard} {lat : Nat} (slot : Slot) (code : Nat) (v : Word) (r : Option Row) {fl : Fl}
    (h : s.ctx.acts g lat) (e : s.ctx.enabled fl = true) :
    s.finish g slot lat code v r fl = .next (s.arith g slot fl) := by
  obtain ⟨h1, h2⟩ := h
  simp [State.finish, h1, h2, e]
/-- It always answers a next state. -/
theorem State.finish_next (s : State) (g : Guard) (slot : Slot) (lat code : Nat) (v : Word) (r : Option Row) (fl : Fl) :
    ∃ t, s.finish g slot lat code v r fl = .next t := by
  unfold State.finish; split <;> (try split) <;> (try split) <;> exact ⟨_, rfl⟩

end Sys2Proof.Machine
end

