-- ==== Sys2Proof/Laws/Moves.lean ====
section
/-! SUPPORT. The operations that move bytes between places of memory keep its canonical form (R303, R419). -/

namespace Sys2Proof.Machine

theorem Memory.from_lower (m : Memory) {a b : Nat} (h : Memory.from_ a m) (k : ∀ e ∈ m, b ≤ e.1) : Memory.from_ b m := by
  cases m with
  | nil => trivial
  | cons e r => exact ⟨k e (List.mem_cons_self ..), h.2⟩
/-- Exchanging two ranges, the first below the second, keeps the canonical form. -/
theorem Memory.swap_wf (m : Memory) (a b n : Nat) (hab : a + n ≤ b) (h : m.wf = true) : (m.swap a b n).wf = true := by
  rw [Memory.wf_iff] at h ⊢
  have seg : ∀ p : Host.Cell → Bool, ∀ lo, (∀ e, p e = true → lo ≤ e.1) → Memory.from_ lo (m.filter p) := fun p lo hp =>
    Memory.from_lower _ (Memory.from_filter p m 0 h) (fun e he => hp e (List.mem_filter.1 he).2)
  have moved : ∀ (p : Host.Cell → Bool) (from_ to_ : Nat), (∀ e, p e = true → from_ ≤ e.1) →
      Memory.from_ to_ ((m.filter p).map (fun e => (e.1 - from_ + to_, e.2))) := by
    intro p fr tw hp
    have key : ∀ (r : Memory) c, Memory.from_ c r → (∀ e ∈ r, fr ≤ e.1) →
        Memory.from_ (c - fr + tw) (r.map (fun e => (e.1 - fr + tw, e.2))) := by
      intro r
      induction r with
      | nil => intro c _ _; trivial
      | cons e t ih =>
        intro c hc hl
        have h1 := hc.1
        have h2 := hl e (List.mem_cons_self ..)
        refine ⟨by simp; omega, hc.2.1, ?_⟩
        have := ih (e.1 + 1) hc.2.2 (fun x hx => hl x (List.mem_cons_of_mem _ hx))
        exact Memory.from_mono _ (by simp; omega) this
    have := key (m.filter p) fr (seg p fr hp) (fun e he => hp e (List.mem_filter.1 he).2)
    simpa using this
  unfold Memory.swap
  simp only [List.append_assoc]
  refine Memory.from_append _ _ 0 a (Memory.from_filter _ m 0 h) (fun e he => by simpa using (List.mem_filter.1 he).2) (Nat.zero_le _) ?_
  refine Memory.from_append _ _ a (a + n) (moved _ b a (fun e he => by simp at he; omega)) ?_ (by omega) ?_
  · intro e he
    obtain ⟨x, hx, rfl⟩ := List.mem_map.1 he
    have := (List.mem_filter.1 hx).2
    simp at this ⊢; omega
  refine Memory.from_append _ _ (a + n) b (seg _ _ (fun e he => by simp at he; omega)) ?_ hab ?_
  · intro e he; have := (List.mem_filter.1 he).2; simp at this; omega
  refine Memory.from_append _ _ b (b + n) (moved _ a b (fun e he => by simp at he; omega)) ?_ (by omega) ?_
  · intro e he
    obtain ⟨x, hx, rfl⟩ := List.mem_map.1 he
    have := (List.mem_filter.1 hx).2
    simp at this ⊢; omega
  exact seg _ _ (fun e he => by simp at he; omega)
/-- A context's kept bytes, in canonical form, come back into memory in canonical form. -/
theorem State.restoreCells_wf (s : State) (c : CoreId) (cells : Memory) (h : s.mem.wf = true) (k : cells.wf = true) :
    (s.restoreCells c cells).mem.wf = true := by
  rw [Memory.wf_iff] at h k ⊢
  have seg : ∀ (m : Memory) (p : Host.Cell → Bool) lo, Memory.from_ 0 m → (∀ e, p e = true → lo ≤ e.1) → Memory.from_ lo (m.filter p) :=
    fun m p lo hm hp => Memory.from_lower _ (Memory.from_filter p m 0 hm) (fun e he => hp e (List.mem_filter.1 he).2)
  unfold State.restoreCells
  simp only [List.append_assoc]
  refine Memory.from_append _ _ 0 _ (Memory.from_filter _ _ 0 h) (fun e he => by simpa using (List.mem_filter.1 he).2) (Nat.zero_le _) ?_
  refine Memory.from_append _ _ _ (bufKey c .wb 0 + 2 ^ 25) (seg _ _ _ k (fun e he => by simp [inBufs] at he; omega)) ?_ (by omega) ?_
  · intro e he; have := (List.mem_filter.1 he).2; simp [inBufs] at this; omega
  exact seg _ _ _ h (fun e he => by simp at he; omega)

end Sys2Proof.Machine
end

