-- ==== Sys2Proof/Laws/Push.lean ====
section
/-! SUPPORT. What pushing a command can do (R117), and the shared shape of the command syllables. -/

namespace Sys2Proof.Machine

theorem State.traceRec_none (s : State) (c : CoreId) (ty eng : Nat) (pc : Word) (seq : BitVec 32) (p0 p1 : Word)
    (h : (s.core c).ring = none) : s.traceRec c ty eng pc seq p0 p1 = s := by
  unfold State.traceRec; simp only [h]
/-- A trace record changes the ring's pointer alone in the core, and nothing in another. -/
theorem State.traceRec_core (s : State) (c : CoreId) (ty eng : Nat) (pc : Word) (seq : BitVec 32) (p0 p1 : Word) :
    ∃ v, (s.traceRec c ty eng pc seq p0 p1).core c = { s.core c with trptr := v } ∧
      ∀ d, d ≠ c → (s.traceRec c ty eng pc seq p0 p1).core d = s.core d := by
  unfold State.traceRec
  dsimp only
  split
  · exact ⟨_, rfl, fun _ _ => rfl⟩
  · split
    · exact ⟨_, rfl, fun _ _ => rfl⟩
    · split
      · exact ⟨_, State.core_setCore _ _ _, fun d h => State.core_setCore_ne _ _ _ _ h⟩
      · exact ⟨_, State.core_setCore _ _ _, fun d h => by rw [State.core_setCore_ne _ _ _ _ h]; rfl⟩
/-- Hits change BPHIT of the core and the hits of the context alone. -/
theorem Core.hit_shape (k : Core) (x : Ctx) (kind : Nat) (pc : Word) (seq : BitVec 32) (p : Fin 4 → Bool) :
    ∃ b h, k.hit x kind pc seq p = ({ k with bphit := b }, { x with hits := h }) := by
  have : ∀ (ns : List (Fin 4)) (k' : Core) (x' : Ctx), (∃ b h, (k', x') = (({ k with bphit := b } : Core), ({ x with hits := h } : Ctx))) →
      ∃ b h, ns.foldl (fun (a : Core × Ctx) n =>
        if k.watches x kind n && p n then
          ({ a.1 with bphit := a.1.bphit ||| (1 : Word) <<< n.val },
           if x.ih || a.2.hits.any (fun h => h.n == n.val) then a.2 else { a.2 with hits := a.2.hits ++ [{ n := n.val, pc, seq }] })
        else a) (k', x') = ({ k with bphit := b }, { x with hits := h }) := by
    intro ns
    induction ns with
    | nil => intro k' x' h; exact h
    | cons n ns ih =>
      rintro k' x' ⟨b, h, e⟩
      rw [List.foldl_cons]
      cases e
      by_cases q : (k.watches x kind n && p n) = true
      · rw [if_pos q]
        refine ih _ _ ?_
        by_cases r : (x.ih || h.any (fun h => h.n == n.val)) = true
        · exact ⟨_, _, by simp only [r]; rfl⟩
        · exact ⟨_, _, by simp only [r]; rfl⟩
      · rw [if_neg q]; exact ih _ _ ⟨b, h, rfl⟩
  exact this [0, 1, 2, 3] k x ⟨k.bphit, x.hits, rfl⟩
/-- Hits of the current core's context. -/
theorem State.hit_core (s : State) (c : CoreId) (kind : Nat) (pc : Word) (seq : BitVec 32) (p : Fin 4 → Bool) :
    ∃ b h, (s.hit c kind pc seq p) = s.setCore c { s.core c with ctx := { s.ctxOf c with hits := h }, bphit := b } := by
  obtain ⟨b, h, e⟩ := Core.hit_shape (s.core c) (s.ctxOf c) kind pc seq p
  refine ⟨b, h, ?_⟩
  unfold State.hit
  rw [e]
theorem Ctx.tokenPend_toks (c : Ctx) (t : Tok) : ∃ ts, c.tokenPend t = { c with toks := ts } ∧ (t ≠ 0 → t ∈ ts) := by
  unfold Ctx.tokenPend
  by_cases h : (t == 0 || c.toks.contains t) = true
  · rw [if_pos h]
    refine ⟨c.toks, rfl, fun n => ?_⟩
    simpa [n] using h
  · rw [if_neg h]
    exact ⟨_, rfl, fun _ => by simp⟩
theorem Cmd.entry_length (m : Cmd) : m.entry.length = 64 := by
  simp [Cmd.entry, leBytes_length]
/-- A buffer's bytes lie one after another. -/
theorem bufKey_add (c : CoreId) (sp : Space) (o : Nat) : bufKey c sp o = bufKey c sp 0 + o := by
  simp only [bufKey, Machine.key]; omega
/-- The core and the memory that a push leaves. -/
theorem State.push_shape (s : State) (m : Cmd) (h : s.ctx.inFlight < 32) :
    ∃ ts hi b v, (m.tok ≠ 0 → m.tok ∈ ts) ∧
      (s.push m).core s.cur = { s.core s.cur with
        ctx := { s.ctx with
          toks := ts
          cmds := s.ctx.cmds ++ [{ m with seq := s.ctx.nextSeq, pc := s.ctx.pc, syl := (s.core s.cur).syllable .e, born := s.now }]
          nextSeq := s.ctx.nextSeq + 1
          hits := hi }
        bphit := b, trptr := v } ∧
      (∀ d, d ≠ s.cur → (s.push m).core d = s.core d) ∧ (s.push m).cur = s.cur ∧ (s.push m).now = s.now ∧
      ((s.core s.cur).ring = none → (s.push m).mem =
        (let j := s.mem.write (bufKey s.cur .jb (s.ctx.nextSeq.toNat % 128 * 64))
          (Cmd.entry { m with seq := s.ctx.nextSeq, pc := s.ctx.pc, syl := (s.core s.cur).syllable .e, born := s.now })
         if m.pay.isEmpty then j else j.write (bufKey s.cur .jb (0x2000 + s.ctx.nextSeq.toNat % 32 * 256)) (m.pay.take 256))) := by
  obtain ⟨ts, et, ht⟩ := Ctx.tokenPend_toks s.ctx m.tok
  have hx : (s.core s.cur).ctx = s.ctx := rfl
  have hn : ¬ 32 ≤ s.ctx.inFlight := by omega
  obtain ⟨m1, em⟩ : ∃ m1 : Cmd, m1 = { m with seq := s.ctx.nextSeq, pc := s.ctx.pc, syl := (s.core s.cur).syllable .e, born := s.now } :=
    ⟨_, rfl⟩
  obtain ⟨x1, ex⟩ : ∃ x1 : Ctx, x1 = { s.ctx.tokenPend m.tok with cmds := s.ctx.cmds ++ [m1], nextSeq := s.ctx.nextSeq + 1 } := ⟨_, rfl⟩
  obtain ⟨s1, e3⟩ : ∃ s1, s1 = (s.setCtx x1).journal s.cur m1 := ⟨_, rfl⟩
  have cur1 : s1.cur = s.cur := by rw [e3]; rfl
  have E : s.push m =
      (let s2 := s1.traceRec s.cur 2 (Eng.code m1.eng) m1.pc m1.seq m1.syl 0
       let s3 := s2.hit s2.cur 2 m1.pc m1.seq
         (fun n => !bit (s.core s.cur).bpc[n].toNat 17 && bits (s.core s.cur).bpv[n].toNat 0 32 == m1.seq.toNat)
       if m1.pay.isEmpty then s3
       else { s3 with mem := s3.mem.write (bufKey s3.cur .jb (0x2000 + m1.seq.toNat % 32 * 256)) (m1.pay.take 256) }) := by
    subst em ex e3
    exact if_neg hn
  rw [E]
  have e1 : m1.seq = s.ctx.nextSeq := by rw [em]
  have e2 : m1.pay = m.pay := by rw [em]
  have c1 : s1.core s.cur = { s.core s.cur with ctx := x1 } := by
    rw [e3]; exact State.core_setCtx s x1
  have c1' : ∀ d, d ≠ s.cur → s1.core d = s.core d := by
    intro d hd; rw [e3]; exact State.core_setCore_ne _ _ _ _ hd
  have r1 : (s1.core s.cur).ring = (s.core s.cur).ring := by rw [c1]; rfl
  have now1 : s1.now = s.now := by rw [e3]; rfl
  have m1' : s1.mem = s.mem.write (bufKey s.cur .jb (m1.seq.toNat % 128 * 64)) m1.entry := by rw [e3]; rfl
  obtain ⟨v, c2, c2'⟩ := State.traceRec_core s1 s.cur 2 (Eng.code m1.eng) m1.pc m1.seq m1.syl 0
  have cur2 : (s1.traceRec s.cur 2 (Eng.code m1.eng) m1.pc m1.seq m1.syl 0).cur = s.cur := by
    rw [← cur1]; unfold State.traceRec; dsimp only; (repeat' split) <;> rfl
  have now2 : (s1.traceRec s.cur 2 (Eng.code m1.eng) m1.pc m1.seq m1.syl 0).now = s.now := by
    rw [← now1]; unfold State.traceRec; dsimp only; (repeat' split) <;> rfl
  have mem2 : (s.core s.cur).ring = none → (s1.traceRec s.cur 2 (Eng.code m1.eng) m1.pc m1.seq m1.syl 0).mem = s1.mem := by
    intro q; rw [State.traceRec_none _ _ _ _ _ _ _ _ (r1.trans q)]
  generalize es2 : s1.traceRec s.cur 2 (Eng.code m1.eng) m1.pc m1.seq m1.syl 0 = s2 at *
  dsimp only
  rw [cur2]
  obtain ⟨b, hi, e4⟩ := State.hit_core s2 s.cur 2 m1.pc m1.seq
    (fun n => !bit (s.core s.cur).bpc[n].toNat 17 && bits (s.core s.cur).bpv[n].toNat 0 32 == m1.seq.toNat)
  have x2 : s2.ctxOf s.cur = x1 := by show (s2.core s.cur).ctx = x1; rw [c2, c1]
  refine ⟨ts, hi, b, v, ht, ?_, ?_, ?_, ?_, ?_⟩
  · have : ∀ t : State, t.cores = (s2.setCore s.cur { s2.core s.cur with ctx := { x1 with hits := hi }, bphit := b }).cores →
        t.core s.cur = { s.core s.cur with ctx := { x1 with hits := hi }, bphit := b, trptr := v } := by
      intro t ht
      show t.cores[s.cur.val] = _
      rw [ht]
      show (s2.setCore s.cur _).core s.cur = _
      rw [State.core_setCore, c2, c1]
    have h2 := fun t ht => this t ht
    rw [e4, x2]
    have fin : ({ s.core s.cur with ctx := { x1 with hits := hi }, bphit := b, trptr := v } : Core) =
        { s.core s.cur with
          ctx := { s.ctx with toks := ts, cmds := s.ctx.cmds ++ [m1], nextSeq := s.ctx.nextSeq + 1, hits := hi }
          bphit := b, trptr := v } := by rw [ex, et]
    rw [← em, ← fin]
    split
    · exact h2 _ rfl
    · exact h2 _ rfl
  · intro d hd
    rw [e4]
    have : ∀ t : State, t.cores = (s2.setCore s.cur { s2.core s.cur with ctx := { s2.ctxOf s.cur with hits := hi }, bphit := b }).cores →
        t.core d = s.core d := by
      intro t ht
      show t.cores[d.val] = _
      rw [ht]
      show (s2.setCore s.cur _).core d = _
      rw [State.core_setCore_ne _ _ _ _ hd, c2' d hd, c1' d hd]
    split
    · exact this _ rfl
    · exact this _ rfl
  · rw [e4]; split <;> exact cur2
  · rw [e4]; split <;> exact now2
  · intro q
    have q1 := mem2 q
    have w : ∀ (a b : Memory) (k l : Nat) (p : List Byte), a = b → k = l → a.write k p = b.write l p := by
      rintro a _ k _ p rfl rfl; rfl
    have j1 : s2.mem = s.mem.write (bufKey s.cur .jb (s.ctx.nextSeq.toNat % 128 * 64)) m1.entry := by rw [q1, m1', e1]
    rw [e4, ← em]
    by_cases hp : m.pay.isEmpty = true
    · rw [if_pos (e2 ▸ hp), if_pos hp]; exact j1
    · rw [if_neg (e2 ▸ hp), if_neg hp, e2, e1]
      exact w _ _ _ _ _ j1 (by rw [show (s2.setCore s.cur _).cur = s.cur from cur2])
/-- The push of a command (R117): everything that claims say of it. -/
theorem State.push_pushed (s : State) (m : Cmd) (h : s.ctx.inFlight < 32) (hs : m.started = false) (hd : m.done = false)
    (hf : m.faulted = false) : s.pushed (s.push m) m.eng m.ins m.tok := by
  obtain ⟨ts, hi, b, v, ht, hc, ho, hcur, hnow, hm⟩ := State.push_shape s m h
  have hx : (s.push m).ctx = { s.ctx with
      toks := ts
      cmds := s.ctx.cmds ++ [{ m with seq := s.ctx.nextSeq, pc := s.ctx.pc, syl := (s.core s.cur).syllable .e, born := s.now }]
      nextSeq := s.ctx.nextSeq + 1
      hits := hi } := by
    show ((s.push m).core (s.push m).cur).ctx = _; rw [hcur, hc]
  have key : ∀ o, bufKey s.cur .jb 0 + o = bufKey s.cur .jb o := fun o => (bufKey_add s.cur .jb o).symm
  have b1 : s.ctx.nextSeq.toNat % 128 < 128 := Nat.mod_lt _ (by omega)
  have b2 : s.ctx.nextSeq.toNat % 32 < 32 := Nat.mod_lt _ (by omega)
  have pl : (m.pay.take 256).length ≤ 256 := by simp
  have journal : (s.core s.cur).ring = none → ∀ j, j < 64 →
      (s.push m).mem.get (bufKey s.cur .jb 0 + s.ctx.nextSeq.toNat % 128 * 64 + j) =
        (Cmd.entry { m with seq := s.ctx.nextSeq, pc := s.ctx.pc, syl := (s.core s.cur).syllable .e, born := s.now }).getD j 0 := by
    intro q j hj
    rw [hm q]
    have in1 := Memory.get_write_in s.mem (bufKey s.cur .jb (s.ctx.nextSeq.toNat % 128 * 64))
      (Cmd.entry { m with seq := s.ctx.nextSeq, pc := s.ctx.pc, syl := (s.core s.cur).syllable .e, born := s.now }) j
      (by rw [Cmd.entry_length]; exact hj)
    have k1 : bufKey s.cur .jb 0 + s.ctx.nextSeq.toNat % 128 * 64 + j = bufKey s.cur .jb (s.ctx.nextSeq.toNat % 128 * 64) + j := by
      rw [key]
    have rhs : (Cmd.entry { m with seq := s.ctx.nextSeq, pc := s.ctx.pc, syl := (s.core s.cur).syllable .e, born := s.now }).getD j 0 =
        (Cmd.entry { m with seq := s.ctx.nextSeq, pc := s.ctx.pc, syl := (s.core s.cur).syllable .e, born := s.now })[j]'(by
          rw [Cmd.entry_length]; exact hj) := by
      rw [List.getD_eq_getElem?_getD, List.getElem?_eq_getElem]; rfl
    dsimp only
    split
    · rw [k1, rhs]; exact in1
    · rw [k1, rhs, Memory.get_write_out _ _ _ _ (Or.inl ?_)]
      · exact in1
      · rw [bufKey_add s.cur .jb (0x2000 + _), bufKey_add s.cur .jb (_ * 64)]; omega
  have regs : s.regsKept (s.push m) := by
    refine ⟨by rw [hx], by rw [hx], by rw [hx], by rw [hx], by rw [hx], by rw [hx], by rw [hx], by rw [hx], by rw [hx], by rw [hx],
      by rw [hx], by rw [hx], ho⟩
  refine ⟨⟨_, congrArg Ctx.cmds hx, rfl, rfl, rfl, rfl, rfl, hs, hd, hf, rfl, journal⟩, by rw [hx], fun n => by rw [hx]; exact ht n, regs, by rw [hx], fun q a ha => ?_⟩
  · rw [hm q]
    have o1 := Memory.get_write_out s.mem (bufKey s.cur .jb (s.ctx.nextSeq.toNat % 128 * 64))
      (Cmd.entry { m with seq := s.ctx.nextSeq, pc := s.ctx.pc, syl := (s.core s.cur).syllable .e, born := s.now }) a
      (by rw [Cmd.entry_length, bufKey_add]; omega)
    dsimp only
    split
    · exact o1
    · rw [Memory.get_write_out _ _ _ _ ?_, o1]
      rw [bufKey_add]; omega

end Sys2Proof.Machine
end

