-- ==== Sys2Proof/Tests/Slice0.lean ====
section
/-! SUPPORT. Tests: words of the spec, the checks of `Instr.wf`, single steps, and for each statement with hypotheses a state and
operands that meet them (`wit_<statement>`). Expected values are the spec's examples, or worked out by hand from its rules. -/

namespace Sys2Proof.Tests
set_option maxRecDepth 100000
set_option Elab.async false
open Sys2Proof Sys2Proof.Machine

/- Decoding: words written out from the encodings of the spec, for every family. -/
theorem test_decode_scalar :
    decodeA 0x8080000005056100 = .ok (.add { g := { sq := true }, slot := .a, d := .s 5, a := .s 5, b := .imm 1 }) ∧
    decodeA 0x00C8012A00000064 = .ok (.cmpi { g := {}, slot := .a, src := .s 9, p := 2, cond := 2, imm := 100 }) ∧
    decodeM 0x0100000003010200 = .ok (.mul { g := {}, slot := .m, d := .s 3, a := .s 1, b := .s 2 }) ∧
    decodeA 0x1400000000000004 = .ok (.br { g := { pred := 1 }, disp := 4 }) := by decide +kernel
theorem test_decode_movl :
    (decodeBundle 0x100E0012000000040).toOption.map Bundle.first = some (.movl { g := {}, d := .s 9, imm := 0x100000040 }) ∧
    (decodeBundle 0x10000000100E0012000000040).toOption = none := by decide +kernel
theorem test_decode_memory :
    decodeM 0x0200C08006070040 = .ok (.ld { g := {}, t := .i32, dw := false, pi := false, oc := 0, sp := .ab, d := .s 6, a := .s 7, off := 0x40 }) ∧
    decodeM 0x0200C09003400004 = .ok (.ld { g := {}, t := .i32, dw := false, pi := true, oc := 0, sp := .ab, d := .s 3, a := .o 0, off := 4 }) ∧
    decodeM 0x0220C08006406100 = .ok (.aadd { g := {}, t := .i32, dw := false, oc := 0, sp := .ab, tok := 6, a := .o 0, b := .imm 1, c := .s 0 }) ∧
    decodeM 0x0260000900000006 = .ok (.fence { g := {}, scope := 2, order := 1, mask := 6 }) := by decide +kernel
theorem test_decode_vector :
    decodeV 0x3880000090808800 = .ok (.vadd { g := { pred := 3, neg := true }, t := .f32, rm := .rne, ftz := false, sat := false, d := 16, a := 0, b := .row 8 }) ∧
    decodeV 0x008648009980058A = .ok (.vfma { g := {}, t := .bf16, rm := .rtz, ftz := false, sat := false, d := 25, a := 0, b := .sc (.s 5), c := 10 }) ∧
    decodeV 0x01200080B0070200 = .ok (.vld { g := {}, t := .f32, oc := 0, sp := .ab, pi := false, acc := 0, d := 48, a := .s 7, off := 0x200 }) ∧
    decodeV 0x01800400A2880000 = .ok (.vexp2 { g := {}, rm := .rne, ftz := true, sat := false, d := 34, a := .row 8 }) ∧
    decodeV 0x01C2008080064A00 = .ok (.vsexp { g := {}, ftz := false, mask := some 0, d := 0, a := .s 6, b := .lx 2, c := .s 0 }) := by decide +kernel
theorem test_decode_arrays :
    decodeE 0x0204000809040506 = .ok (.mstr { g := {}, t := .f32, md := 8, tok := 9, a := .s 4, b := .s 5, c := .s 6 }) ∧
    decodeE 0x020706010A040506 = .ok (.mstrr { g := {}, t := .i8, md := 0x601, tok := 10, a := .s 4, b := .s 5, c := .s 6 }) ∧
    decodeE 0x0242000009040506 = .ok (.chkv { g := {}, t := .f32, md := 0, tok := 9, a := .s 4, b := .s 5, c := .s 6 }) ∧
    decodeE 0x024050400A010203 = .ok (.chbind { g := {}, t := .bf16, md := 0x1040, tok := 10, a := .s 1, b := .s 2, c := .s 3 }) ∧
    decodeE 0x024E000100A0A1A2 = .ok (.chstat { g := {}, sel := 1, tok := 0, ta := 32, tb := 33, tc := some 34 }) := by decide +kernel
theorem test_decode_transfer_and_fabric :
    decodeE 0x0084000300610007 = .ok (.finc { g := {}, q := 3, tok := 0, a := .imm 1, flag := 7 }) ∧
    decodeE 0x0284004009040506 = .ok (.xget { g := {}, t := .f32, md := 0x40, tok := 9, a := .s 4, b := .s 5, c := .s 6 }) ∧
    decodeE 0x028C00000A070000 = .ok (.xpub { g := {}, t := .f32, md := 0, tok := 10, a := .s 7, b := .s 0, c := .s 0 }) ∧
    decodeE 0x02C0020009040506 = .ok (.rld { g := {}, t := .f32, md := 0x200, tok := 9, a := .s 4, b := .s 5, c := .s 6 }) ∧
    decodeE 0x02C8004100070800 = .ok (.rflagInc { g := {}, t := .f32, md := 0x41, tok := 0, a := .s 7, b := .s 8, c := .s 0 }) ∧
    decodeE 0x0306020009040506 = .ok (.cmgath { g := {}, t := .f32, md := 0x200, tok := 9, a := .s 4, b := .s 5, c := .s 6 }) ∧
    decodeE 0x0300000100010000 = .ok (.cmsetClose { g := {}, t := .f32, md := 1, tok := 0, a := .s 1, b := .s 0, c := .s 0 }) := by decide +kernel
theorem test_decode_tasks_and_system :
    decodeE 0x0340000007000000 = .ok (.nest { g := {}, t := .f32, md := 0, tok := 7, a := .s 0, b := .s 0, c := .s 0 }) ∧
    decodeE 0x034400010A060000 = .ok (.join { g := {}, t := .f32, md := 1, tok := 10, a := .s 6, b := .s 0, c := .s 0 }) ∧
    decodeE 0x0350000003020000 = .ok (.prio { g := {}, sub := false, d := .s 3, a := .s 2 }) ∧
    decodeE 0x0380000000000009 = .ok (.trap { g := {}, imm := 9 }) ∧ decodeE 0x0382000100000000 = .ok (.rteDrop {}) ∧
    decodeE 0x0384000005000000 = .ok (.sysrd { g := {}, d := .s 5, reg := 0 }) ∧
    decodeE 0x0386000000410001 = .ok (.syswr { g := {}, a := .o 1, reg := 1 }) ∧
    decodeE 0x0392000142600000 = .ok (.jrd { g := {}, sub := true, d := .o 2, a := .imm 0 }) := by decide +kernel
/-- R63: reserved opcodes, types, modifiers and operands are refused. -/
theorem test_decode_refuses :
    (decodeA 1).toOption = none ∧ (decodeA 0x0880000005056100).toOption = none ∧ (decodeA 0x0080000005056101).toOption = none ∧
    (decodeA 0x0080200005056100).toOption = none ∧ (decodeA 0x0080000105056100).toOption = none ∧ (decodeA 0x0080000005566100).toOption = none ∧
    (decodeM 0x0201408006070040).toOption = none ∧ (decodeV 0x0080A00090808800).toOption = none ∧ (decodeE 0x0394000000000000).toOption = none := by decide +kernel

/- Well-formedness: a good term of a family is let through, and an ill-formed one for each check is refused. -/
def bin : Bin := { g := {}, slot := .a, d := .s 1, a := .s 2, b := .s 3 }
def ecmd : Ecmd := { g := {}, t := .f32, md := 0, tok := 1, a := .s 1, b := .s 2, c := .s 3 }
def neg0 : Guard := { neg := true }
def sq1 : Guard := { sq := true }
theorem test_wf_scalar :
    ([.add bin, .add { bin with sat := true, slot := .m }, .bfx { g := {}, slot := .a, d := .s 1, a := .s 2, pos := 60, len := 4 },
      .cmp { g := {}, slot := .m, d := .p 1, a := .s 2, b := .s 3, cond := 11 }, .mul { bin with slot := .m }] : List Instr).all Instr.wf = true ∧
    ([.add { bin with g := neg0 }, .add { bin with slot := .v }, .and { bin with sat := true }, .mul bin, .mulh { bin with slot := .m, sat := true },
      .clz { g := {}, slot := .a, d := .s 1, a := .s 2, sat := true }, .bfx { g := {}, slot := .a, d := .s 1, a := .s 2, pos := 0, len := 0 },
      .bfxn { g := {}, slot := .a, d := .s 1, a := .s 2, pos := 60, len := 5 }, .bfi { g := {}, slot := .a, d := .s 1, a := .s 2, b := .s 3, pos := 63, len := 2 },
      .sel { g := {}, slot := .e, d := .s 1, a := .s 2, b := .s 3, p := 1 }, .cmp { g := {}, slot := .a, d := .p 1, a := .s 2, b := .s 3, cond := 12 },
      .lea { g := {}, slot := .v, d := .s 1, a := .s 2, b := .s 3, sh := 0, c := .s 4 }, .addi { g := neg0, slot := .a, d := .s 1, zx := false, imm := 0 },
      .cmpi { g := {}, slot := .a, src := .imm 1, p := 1, cond := 0, imm := 0 }, .movl { g := neg0, d := .s 1, imm := 0 }] : List Instr).all
      (fun i => !i.wf) = true := by decide +kernel
def fbin : FBin := { g := {}, t := .f32, rm := .rne, ftz := false, sat := false, d := .s 1, a := .s 2, b := .s 3 }
def load : Load := { g := {}, t := .i32, dw := false, pi := false, oc := 0, sp := .ab, d := .s 1, a := .s 2, off := 0 }
def store : Store := { g := {}, t := .i32, dw := false, pi := false, oc := 0, sp := .ab, d := .s 1, a := .s 2, off := 0 }
def gload : GLoad := { g := {}, t := .i32, dw := false, oc := 0, tok := 1, a := .s 2, off := 0 }
def atom : Atom := { g := {}, t := .i32, dw := false, oc := 0, sp := .ab, tok := 1, a := .s 2, b := .s 3, c := .s 0 }
theorem test_wf_float_and_memory :
    ([.fadd fbin, .fmin fbin, .ld load, .ld { load with pi := true }, .st store, .ldg gload, .prf { gload with t := .f32, tok := 0 }, .aadd atom,
      .acas { atom with c := .s 4 }, .stg { store with sp := .g }] : List Instr).all Instr.wf = true ∧
    ([.fadd { fbin with t := .i32 }, .fmin { fbin with rm := .rtz }, .fmax { fbin with sat := true },
      .ffma { g := {}, t := .n8, rm := .rne, ftz := false, sat := false, d := .s 1, a := .s 2, b := .s 3, c := .s 4 },
      .fsqrt { g := {}, t := .lg6, rm := .rne, ftz := false, sat := false, d := .s 1, a := .s 2 },
      .fclass { g := {}, t := .f8a, rm := .rne, ftz := true, sat := false, d := .s 1, a := .s 2 },
      .fcmp { g := {}, t := .f8a, ftz := false, cond := 0, d := .p 1, a := .s 2, b := .s 3 },
      .fcvt { g := neg0, t := .f32, src := .f16, rm := .rne, ftz := false, sat := false, d := .s 1, a := .s 2 },
      .ld { load with t := .i4 }, .ld { load with dw := true }, .ld { load with sp := .g }, .ld { load with a := .imm 0 },
      .ld { load with pi := true, a := .s 0 }, .ldn { load with pi := true, d := .s 2 }, .st { store with g := sq1 }, .st { store with sp := .g },
      .stg store, .stg { store with sp := .g, pi := true }, .ldg { gload with tok := 0 }, .prf gload, .aadd { atom with t := .f32 },
      .amin { atom with t := .n32 }, .afadd { atom with t := .f32, dw := true }, .aadd { atom with c := .s 1 }, .axchg { atom with a := .lx 0, t := .i8 },
      .pushm { g := {}, f := 0, n := 1 }, .popm { g := {}, f := 1, n := 0 }, .pushm { g := {}, f := 0x47, n := 2 },
      .fence { g := {}, scope := 5, order := 0, mask := 1 }, .fence { g := {}, scope := 0, order := 0, mask := 0 }] : List Instr).all
      (fun i => !i.wf) = true := by decide +kernel
def vbin : VBin := { g := {}, t := .f32, rm := .rne, ftz := false, sat := false, d := 1, a := 2, b := .row 3 }
def vmem : VMem := { g := {}, t := .f32, oc := 0, sp := .ab, pi := false, acc := 0, d := 1, a := .s 2, off := 0 }
def vcvt : VCvt := { g := {}, t := .f16, src := .f32, rm := .rne, ftz := false, sat := false, part := 0, d := 1, a := 2, c := some 3 }
theorem test_wf_vector :
    ([.vadd vbin, .vwadd { vbin with t := .n8, part := 3 }, .vld vmem, .vldt { vmem with acc := 2 }, .vldm { vmem with acc := 63 }, .vcvt vcvt] : List Instr).all
      Instr.wf = true ∧
    ([.vadd { vbin with part := 1 }, .vadd { vbin with t := .i8, rm := .rtz }, .vmul { vbin with t := .i4 }, .vwadd { vbin with t := .f16, part := 2 }, .vwmul vbin,
      .vfma { g := {}, t := .i32, rm := .rne, ftz := false, sat := false, d := 1, a := 2, b := .row 3, c := 4 }, .vabs { g := {}, t := .f32, sat := true, d := 1, a := 2 },
      .vneg { g := {}, t := .n8, d := 1, a := 2 }, .vpopc { g := {}, t := .i32, d := 1, a := 2 }, .vtbl { g := {}, t := .n8, sat := true, d := 1, a := 2 },
      .vand { g := {}, t := .i32, d := 1, a := 2, b := .row 3 }, .vshl { g := {}, t := .f32, d := 1, a := 2, b := .row 3 },
      .vcmp { g := {}, t := .f32, cond := 8, d := 1, a := 2, b := .row 3 }, .vcmp { g := {}, t := .i32, cond := 6, d := 1, a := 2, b := .row 3 },
      .viota { g := {}, t := .f32, d := 1, a := .s 2 }, .vcvt { vcvt with c := none }, .vcvt { vcvt with part := 2 }, .vcvt { vcvt with t := .f32 },
      .vquant { g := {}, t := .f16, rm := .rne, ftz := false, part := 0, d := 1, a := 2, b := .s 3, c := 4 },
      .vdequant { g := {}, t := .i8, rm := .rne, ftz := false, sat := false, part := 4, d := 1, a := 2, b := .s 3 },
      .vscan { g := {}, t := .f16, op := 0, d := 1, a := 2 }, .vred { g := {}, t := .i32, op := 3, d := .s 1, a := 2 },
      .vshuf { g := {}, t := .i32, pat := 4, d := 1, a := 2, b := some 3 }, .vshuf { g := {}, t := .i32, pat := 0, d := 1, a := 2, b := none },
      .vld { vmem with t := .i32 }, .vld { vmem with acc := 1 }, .vld { vmem with pi := true, a := .lx 0 }, .vst { vmem with g := sq1 },
      .vldt { vmem with acc := 1 }, .vldt { vmem with acc := 16 }, .vstt { vmem with t := .n4, acc := 2 }, .vldm { vmem with pi := true }, .vstm { vmem with sp := .g },
      .vtbld { g := sq1, part := 0, a := 1 }, .vtbsw sq1, .vsmax { g := neg0, ftz := false, mask := none, d := .s 1, a := 1, b := .s 2 },
      .vpart { g := {}, key := 2, d := 1, a := 2, b := .s 3 },
      .vgath { g := {}, t := .i4, oc := 0, sp := .ab, d := 1, a := .s 2, b := 3, c := .s 4 },
      .vscat { g := {}, t := .i8, oc := 0, sp := .g, d := 1, a := .s 2, b := 3, c := .s 4 }] : List Instr).all (fun i => !i.wf) = true := by decide +kernel
theorem test_wf_control :
    ([.br { g := {}, disp := 1 }, .loopi { g := {}, n := 1, disp := 1 }, .wait { g := {}, d := .s 1, all := false, tt := false, n := 3, a := 60, b := .s 2 },
      .liveR { g := {}, sp := .cb, a := .s 1, b := .s 2 }] : List Instr).all Instr.wf = true ∧
    ([.br { g := sq1, disp := 1 }, .jr { g := {}, a := .imm 0 }, .callr { g := {}, link := .s 1, a := .imm 0 }, .loopi { g := {}, n := 0, disp := 1 },
      .pand { g := neg0, na := false, nb := false, d := 1, a := 2, b := 3 }, .pnot { g := {}, na := false, d := 1, a := .sc (.s 1) },
      .pmov { g := {}, na := true, d := 1, a := .sc (.s 1) }, .wait { g := {}, d := .s 1, all := false, tt := false, n := 3, a := 61, b := .s 2 },
      .wait { g := {}, d := .s 1, all := false, tt := false, n := 0, a := 0, b := .s 2 }, .waitQ { g := {}, q := 0, n := 0, all := false, tok := 1, a := 1 },
      .waitQ { g := {}, q := 5, n := 0, all := false, tok := 1, a := 1 }, .fset { g := {}, q := 5, tok := 1, a := .s 1, flag := 0 },
      .fget { g := {}, q := 1, tok := 1, flag := 0 }, .eseq { g := {}, sel := 5, d := .s 1 }, .liveS { g := sq1, a := .s 1 },
      .liveR { g := {}, sp := .jb, a := .s 1, b := .s 2 }, .endCtx { g := sq1, a := .s 1 }, .liveAll neg0] : List Instr).all (fun i => !i.wf) = true := by decide +kernel
theorem test_wf_commands :
    ([.mstr { ecmd with md := 0x19 }, .mldsp { ecmd with md := 0x20 }, .mstrr { ecmd with t := .i4, md := 0x101 }, .ratomCas { ecmd with t := .n32, md := 9 }, .xfill ecmd,
      .chstat { g := {}, sel := 1, tok := 0, ta := 1, tb := 2, tc := some 3 }, .cmsetClose { ecmd with md := 1, b := .s 0, c := .s 0 }] : List Instr).all Instr.wf = true ∧
    ([.mstr { ecmd with g := sq1 }, .mstrr { ecmd with t := .n4, md := 0x101 }, .xget { ecmd with md := 0x100 }, .mstr { ecmd with t := .f16 }, .mstr { ecmd with md := 2 }, .mld ecmd, .mldsp ecmd, .mldsp { ecmd with md := 0xE0 },
      .mabort { ecmd with md := 5, a := .s 0, b := .s 0, c := .s 0 }, .mcfg { ecmd with c := .s 0 }, .chfin { ecmd with b := .s 0, c := .s 0 },
      .ratomAdd { ecmd with t := .i32, md := 1, c := .s 0 }, .ratomMin { ecmd with t := .n32, md := 4, c := .s 0 },
      .ratomFadd { ecmd with md := 0x10A, c := .s 0 }, .ratomAdd { ecmd with t := .i32 }, .rflagSet { ecmd with md := 0x50, c := .s 0 },
      .rflagInc { ecmd with c := .s 0 }, .cmset { ecmd with md := 1 }, .nest { ecmd with tok := 0, a := .s 0, b := .s 0, c := .s 0 }, .nest ecmd,
      .xtrans { ecmd with t := .i4 }, .xextRelease { ecmd with c := .s 0 }, .chstat { g := {}, sel := 3, tok := 0, ta := 1, tb := 2, tc := some 3 },
      .chstat { g := {}, sel := 0, tok := 0, ta := 1, tb := 1, tc := none }, .chstat { g := {}, sel := 0, tok := 0, ta := 1, tb := 2, tc := some 3 },
      .chstat { g := {}, sel := 2, tok := 0, ta := 1, tb := 2, tc := some 2 }] : List Instr).all (fun i => !i.wf) = true ∧
    ([.prio { g := {}, sub := true, d := .s 1, a := .s 2 }, .yield { g := {}, sub := false, d := .s 1, a := .s 2 }, .trap { g := sq1, imm := 0 },
      .jrd { g := neg0, sub := false, d := .s 1, a := .s 2 }, .sysrd { g := sq1, d := .s 1, reg := 0 }, .syswr { g := sq1, a := .s 1, reg := 0 },
      .ctxrest { g := {}, oc := 0, d := .s 1, a := .s 2, b := .s 0 }, .dump { g := neg0, oc := 0, d := .s 1, a := .s 2, b := .s 3 },
      .trace { g := sq1, a := .s 1, b := .s 2 }, .rte sq1, .rteDrop neg0, .trip, .launchTake, .powerGood] : List Instr).all (fun i => !i.wf) = true := by decide +kernel

/- Small states. -/
def regs (l : List Word) : Vector Word 64 := Vector.ofFn fun i => l.getD i.val 0
/-- A running context on core 0, with s1 to s8 = 5, 7, -1, the most negative word, 0x40, 0x8000, FP32 1.0, FP32 2.0. -/
def c0 : Ctx := { s := regs [0, 5, 7, 0xFFFFFFFFFFFFFFFF, 0x8000000000000000, 0x40, 0x8000, 0x3F800000, 0x40000000] }
def st (x : Ctx) : State := State.reset.setCore 0 { ctx := x, busy := true }
def s0 : State := st c0
/-- What holds of a next state. -/
def goes (o : Out) (p : State → Bool) : Bool := match o with | .next t => p t | _ => false
/-- The values of the results in flight. -/
def vals (o : Out) : List Word := match o with | .next t => t.ctx.flight.map Flight.val | _ => [0xBAD]
/-- The state two cycles later, after the port cycle of core 0. -/
def ported (o : Out) : State := match o with | .next t => ({ t with now := t.now + 2 } : State).portStep 0 | _ => State.reset
/-- The class of the trap that was reported on core 0. -/
def trapOf (o : Out) : Option TrapClass := match o with | .next t => (t.core 0).stop.bind (fun x => x.rcd.map TrapRec.cls) | _ => none
def ab (a b : Fin 64) : Bin := { g := {}, slot := .m, d := .s 9, a := .s a, b := .s b }
def fb (a b : Fin 64) : FBin := { g := {}, t := .f32, rm := .rne, ftz := false, sat := false, d := .s 9, a := .s a, b := .s b }

/- Single steps, with results worked out by hand from the rules. -/
theorem test_integer : vals (exec (.add (ab 1 2)) s0) = [12] ∧ vals (exec (.sub (ab 1 2)) s0) = [0xFFFFFFFFFFFFFFFE] ∧
    vals (exec (.add { ab 4 3 with sat := true }) s0) = [0x8000000000000000] ∧ vals (exec (.andn (ab 2 1)) s0) = [2] ∧
    vals (exec (.sra (ab 4 1)) s0) = [0xFC00000000000000] ∧ vals (exec (.shl (ab 1 5)) s0) = [0] ∧ vals (exec (.min (ab 1 3)) s0) = [0xFFFFFFFFFFFFFFFF] ∧
    vals (exec (.minn (ab 1 3)) s0) = [5] := by decide +kernel
theorem test_products : vals (exec (.mulh (ab 4 3)) s0) = [0] ∧ vals (exec (.mulhn (ab 4 3)) s0) = [0x7FFFFFFFFFFFFFFF] ∧
    vals (exec (.div (ab 3 2)) s0) = [0] ∧ vals (exec (.rem (ab 3 2)) s0) = [0xFFFFFFFFFFFFFFFF] ∧ vals (exec (.div (ab 4 3)) s0) = [0x8000000000000000] ∧
    vals (exec (.divn (ab 2 0)) s0) = [0] ∧ vals (exec (.remn (ab 2 0)) s0) = [7] := by decide +kernel
theorem test_float : vals (exec (.fadd (fb 7 8)) s0) = [0x40400000] ∧ vals (exec (.fsub (fb 7 7)) s0) = [0] ∧
    vals (exec (.fdiv (fb 7 8)) s0) = [0x3F000000] ∧ vals (exec (.fdiv (fb 7 0)) s0) = [0x7F800000] := by decide +kernel
theorem test_guard_false : goes (exec (.add { ab 1 2 with g := { pred := 1 } }) s0) (fun t => t.ctx.flight == [] && t.ctx.fpstat == 0 && t.mem == []) = true := by decide +kernel
theorem test_branch : goes (exec (.br { g := {}, disp := 4 }) s0) (fun t => t.ctx.xfer == some { tgt := 128, left := 2, pops := true }) = true := by decide +kernel
theorem test_store_then_load :
    (let t := ported (exec (.st { g := {}, t := .i8, dw := false, pi := false, oc := 0, sp := .ab, d := .s 3, a := .s 5, off := 1 }) s0)
     let gets (ty : ETy) : List Word :=
       vals (.next (ported (exec (.ld { g := {}, t := ty, dw := false, pi := false, oc := 0, sp := .ab, d := .s 9, a := .s 5, off := 1 }) t)))
     t.mem == [(bufKey 0 .ab 0x41, 0xFF)] && gets .i8 == [0xFFFFFFFFFFFFFFFF] && gets .n8 == [0xFF]) = true := by decide +kernel
theorem test_misaligned : trapOf (exec (.ld { g := {}, t := .i32, dw := false, pi := false, oc := 0, sp := .ab, d := .s 9, a := .s 1, off := 0 }) s0) = some .align := by
  decide +kernel
theorem test_store_to_wb : trapOf (exec (.st { g := {}, t := .i8, dw := false, pi := false, oc := 0, sp := .wb, d := .s 9, a := .s 1, off := 0 }) s0) = some .buffer := by
  decide +kernel
theorem test_trap : trapOf (exec (.trap { g := {}, imm := 9 }) s0) = some .trap ∧ trapOf (exec (.rte {}) s0) = some .illegal := by decide +kernel
theorem test_sysrd : vals (exec (.sysrd { g := {}, d := .s 9, reg := 0x3FF }) s0) = [] ∧
    trapOf (exec (.sysrd { g := {}, d := .s 9, reg := 0x3FF }) s0) = some .illegal ∧
    vals (exec (.sysrd { g := {}, d := .s 9, reg := 0x006 }) (st { c0 with sp := 0x8000 })) = [0x8000] := by decide +kernel
theorem test_flag_push : goes (exec (.fset { g := {}, q := 4, tok := 9, a := .s 1, flag := 0 }) (s0.setFunc 0 { flags := 0x10000 })) (fun t =>
    t.ctx.cmds.map (fun (m : Cmd) => (m.a, m.tok, m.seq)) == [(5, 9, 0)] && t.ctx.toks == [9]) = true := by decide +kernel
theorem test_step_runs_add : goes (step (State.reset.withFetchWord 64 0x8080000005056100)) (fun t =>
    (t.ctxOf 0).flight.map Flight.val == [1] && (t.ctxOf 0).pc == 32 && t.cur == 1) = true := by decide +kernel

/- Witnesses: states and operands that meet the hypotheses of each statement, clause by clause. -/
theorem wit_IntegerResults : s0.ctx.acts {} 1 ∧ s0.ctx.acts sq1 1 := by unfold Ctx.acts; decide +kernel
theorem wit_SaturatingResults : s0.ctx.acts {} 1 ∧ s0.ctx.acts {} 3 ∧ s0.ctx.enabled (satFlag true (2 ^ 63)) = false ∧
    s0.ctx.enabled (satFlag true (-2 ^ 63 - 1)) = false ∧ satFlag true (2 ^ 63) = Fl.sv := by unfold Ctx.acts; decide +kernel
theorem wit_BitFieldResults : s0.ctx.acts {} 1 ∧ 1 ≤ (64 : Fin 128).val ∧ (0 : Fin 64).val + (64 : Fin 128).val ≤ 64 ∧
    (63 : Fin 64).val + (1 : Fin 128).val ≤ 64 := by unfold Ctx.acts; decide +kernel
theorem wit_CompareResults : s0.ctx.acts {} 1 ∧ (11 : Fin 16).val < 12 ∧ condTrue 2 (s0.ctx.src (.s 1)) (s0.ctx.src (.s 2)) ∧
    ¬ condTrue 2 (s0.ctx.src (.s 2)) (s0.ctx.src (.s 1)) ∧ condTrue 11 (s0.ctx.src (.s 1)) 0 ∧ ¬ condTrue 10 (s0.ctx.src (.s 1)) 0 := by
  refine ⟨by unfold Ctx.acts; decide, by decide +kernel, ?_, ?_, ?_, ?_⟩ <;> simp only [condTrue] <;> decide +kernel
theorem wit_ImmediateResults : s0.ctx.acts {} 1 := by unfold Ctx.acts; decide +kernel
theorem wit_ProductsAndQuotients : s0.ctx.acts {} 3 ∧ s0.ctx.acts {} 14 ∧ s0.ctx.src (.s 1) ≠ 0 ∧ s0.ctx.src (.s 0) = 0 ∧ s0.ctx.enabled Fl.dz = false := by
  unfold Ctx.acts; decide +kernel
theorem wit_FloatArithmetic : s0.ctx.acts {} 4 ∧ s0.ctx.acts {} 14 ∧
    s0.ctx.enabled (fWord (fAddX .rne (s0.ctx.fsrc .f32 false (.s 7)) (s0.ctx.fsrc .f32 false (.s 8))) .f32 .rne false false).2 = false ∧
    s0.ctx.enabled (fWord (fFmaX .rne (s0.ctx.fsrc .f32 false (.s 7)) (s0.ctx.fsrc .f32 false (.s 8)) (s0.ctx.fsrc .f32 false (.s 7))) .f32 .rne false false).2 = false ∧
    s0.ctx.enabled (fWord (fSqrtX (s0.ctx.fsrc .f32 false (.s 8))) .f32 .rne false false).2 = false := by unfold Ctx.acts; decide +kernel
/-- FP32: signalling NaN, quiet NaN, +inf, -inf, -0, 1.0. -/
def cf : Ctx := { s := regs [0, 0x7F800001, 0x7FC00000, 0x7F800000, 0xFF800000, 0x80000000, 0x3F800000] }
def fv (i : Fin 64) : Ex := cf.fsrc .f32 false (.s i)
theorem wit_FloatSpecialCases : ETy.f3 .f32 = true ∧ cf.acts {} 4 ∧ cf.acts {} 14 ∧ cf.enabled Fl.nv = false ∧ cf.enabled 0 = false ∧ (fv 1).isSig = true ∧
    ((fv 2).isSig = false ∧ (fv 6).isSig = false ∧ (fv 2).isNan = true) ∧ (fv 3 = .inf false ∧ fv 4 = .inf true) ∧ fv 0 = .zero false ∧ fv 5 = .zero true ∧
    (match fv 6 with | .fin _ => true | _ => false) = true ∧ cf.enabled Fl.dz = false := by unfold Ctx.acts; decide +kernel
theorem wit_FloatSelectCompareConvert : cf.acts {} 2 ∧ cf.acts {} 4 ∧ (fv 1).isSig = true ∧ ((fv 2).isSig = false ∧ (fv 2).isNan = true ∧ (fv 6).isNan = false) ∧
    ((fv 5).cmp (fv 6) = .lt ∧ (fv 5).cmp (fv 0) = .eq) ∧ cf.enabled (fcondFlag 2 (fv 5) (fv 6)) = false ∧
    fcondTrue 2 (fv 5) (fv 6) ∧ ¬ fcondTrue 2 (fv 6) (fv 5) := by unfold Ctx.acts; simp only [fcondTrue]; decide +kernel
theorem wit_EncodeRounds : ∃ q : Q, q.n ≠ 0 ∧ q.d ≠ 0 ∧ q.r = 0 ∧ roundR30 q.rat .f32 .rne = q.rat ∧
    |roundR30 q.rat .f32 .rne| ≤ ((decodeEl (ETy.maxBits .f32) .f32).rat.getD 0) := by
  refine ⟨{ n := 1, d := 1, e := 0, r := 0 }, by decide +kernel, by decide +kernel, rfl, ?_⟩
  have h : roundR30 (({ n := 1, d := 1, e := 0, r := 0 } : Q).rat) .f32 .rne = 1 := by
    norm_num [roundR30, Q.rat, ETy.emin, ETy.mant]
  have k : decodeEl (ETy.maxBits .f32) .f32 = .fin { n := 16777215, d := 1, e := 104, r := 0 } := by decide +kernel
  refine ⟨by rw [h]; norm_num [Q.rat], ?_⟩
  rw [h, k]; norm_num [Ex.rat, Q.rat]
theorem wit_ExactBeforeRounding : ∃ p q : Q, p.n ≠ 0 ∧ q.n ≠ 0 ∧ p.d ≠ 0 ∧ q.d ≠ 0 ∧ p.r = 0 ∧ q.r = 0 ∧ p.rat + q.rat = 0 :=
  ⟨{ n := 1, d := 1, e := 0, r := 0 }, { n := -1, d := 1, e := 0, r := 0 }, by decide +kernel, by decide +kernel, by decide +kernel, by decide +kernel, rfl, rfl, by norm_num [Q.rat]⟩
theorem wit_PredicateResults : s0.ctx.acts {} 1 ∧ (4 : Fin 8).val ≤ 4 ∧ (4 : Fin 8).val = (3 : Fin 4).val + 1 := by unfold Ctx.acts; decide +kernel
theorem wit_GuardFalseDoesNothing : (facts (.add { ab 1 2 with g := { pred := 1 } })).map (fun (f : Facts) => s0.ctx.guard f.g) = some false ∧
    (facts (.mld { ecmd with g := { pred := 1 } })).map (fun (f : Facts) => s0.ctx.guard f.g) = some false := by decide +kernel
theorem wit_ResultFrame : resultOnly (.add (ab 1 2)) = true ∧ goes (exec (.add (ab 1 2)) s0) (fun t => (t.core 0).traps == (s0.core 0).traps) = true := by decide +kernel
theorem wit_EnabledFlagRaisesArith : let s := st { c0 with fpstat := 0x80000 }
    s.ctx.acts {} 14 ∧ s.ctx.faultKills {} = false ∧ s.ctx.src (.s 0) = 0 ∧ s.ctx.fpstat.getLsbD 19 = true ∧ s.ctx.raised = 0 ∧
    s.ctx.trapvec.getLsbD 0 = false := by unfold Ctx.acts; decide +kernel
theorem may_c0 : c0.mayTransfer := ⟨fun x h => by simp [c0] at h, fun e h => by simp [c0] at h⟩
theorem wit_Transfers : s0.ctx.mayTransfer ∧ s0.ctx.acts {} 1 ∧ (s0.ctx.bundleAt 4).toNat % 32 = 0 ∧ (s0.ctx.src (.s 5)).toNat % 32 = 0 :=
  ⟨may_c0, by unfold Ctx.acts; decide, by decide +kernel, by decide +kernel⟩
/-- In the first delay bundle of a transfer. -/
def cd : Ctx := { c0 with xfer := some { tgt := 64, left := 2 } }
theorem wit_TransferTraps : s0.ctx.guard {} = true ∧ (s0.ctx.src (.s 1)).toNat % 32 ≠ 0 ∧ (cd.bundleAt 4).toNat % 32 = 0 ∧ ¬ cd.mayTransfer :=
  ⟨by decide +kernel, by decide +kernel, by decide +kernel, fun h => absurd (h.1 _ rfl) (by decide +kernel)⟩
def l1 : LoopEnt := { start := 32, fin := 64, count := 3 }
theorem wit_LoopsOpen : s0.ctx.guard {} = true ∧ 1 ≤ (1#16).toInt ∧ s0.ctx.loops.length < 4 ∧ s0.ctx.loops.head? = none ∧
    ((s0.ctx.src (.s 1)).setWidth 32).toNat ≠ 0 ∧ ((s0.ctx.src (.s 0)).setWidth 32).toNat = 0 ∧ s0.ctx.mayTransfer ∧
    ¬ (1 ≤ (0#16).toInt) ∧ ¬ (({ c0 with loops := [l1, l1, l1, l1] } : Ctx).loops.length < 4) ∧ ¬ ((c0.bundleAt 3).toNat ≤ l1.fin.toNat) :=
  ⟨by decide +kernel, by decide +kernel, by decide +kernel, by decide +kernel, by decide +kernel, by decide +kernel, may_c0,
   by decide +kernel, by decide +kernel, by decide +kernel⟩
theorem wit_AfterABundle : c0.ended = none ∧ cd.xfer = some { tgt := 64, left := 2 } ∧ ({ cd with kpos := some 0 } : Ctx).kpos = some 0 ∧ cd.kpos ≠ some 0 ∧
    (c0.xfer = none ∧ c0.loops = []) ∧ (let x : Ctx := { c0 with loops := [l1] }; x.pc ≠ l1.fin) ∧
    (let x : Ctx := { c0 with loops := [l1], pc := 64 }; x.pc = l1.fin ∧ 1 < l1.count) := by decide +kernel
def fl1 : Flight := { fin := 3, code := 9, slot := .m, val := 5 }
theorem wit_ResultsLand : let s := st { c0 with flight := [fl1] }
    (s.core 0).stop = none ∧ (s.ctxOf 0).flight = [fl1] ∧ (s.ctxOf 0).tokDue = [] ∧ fl1.landed = false ∧ s.now < fl1.fin ∧ fl1.fin ≤ 3 ∧ 3 < fl1.fin + 2 ∧
    fl1.fin + 2 ≤ 5 ∧ ({ fl1 with code := 0x47 } : Flight).code = 0x40 + (7 : Fin 8).val ∧ ({ fl1 with code := 0x5F } : Flight).code = 0x58 + (7 : Fin 8).val ∧
    ({ fl1 with code := 0xFF, row := some 1 } : Flight).code = 0x80 + (127 : Fin 128).val ∧
    ((s.setCore 0 { s.core 0 with stop := some { why := .report, rcd := none, since := 0 } }).core 0).stop.isSome = true := by decide +kernel
theorem wit_ReadAfterWrite : Memory.wf [(3, 7), (4, 1)] = true := by decide +kernel

/-- The port cycle of `act`, on AB of core 0, with the results `fs` of number 1 in flight and the words `ecc` marked. -/
def portAct (act : PortAct) : PortOp := { pid := 1, at_ := 2, sp := .ab, act, slot := .m, pc := 0, seq := 0, syl := 0 }
def atPort (act : PortAct) (fs : List Flight) (ecc : List Nat) : State := { st { c0 with portQ := [portAct act], flight := fs } with ecc, now := 2 }
def fly1 : Flight := { fin := 4, code := 9, slot := .m, val := 0, pid := 1 }
def mark : List Nat := [bufKey 0 .ab 0x40]
theorem wit_portCycles :
    ([.load 0x40 4 .i32 false, .pop 0x40 1, .row 32 [(0x40, 4, 0)], .store true [wholePiece 0x40 4 7], .atom .fmax 0x40 4 1 2 .f32 false 9].all
      (fun act => let s := atPort act [fly1] []
        s.mem.wf && (s.ctxOf 0).portQ == [portAct act] && decide ((portAct act).at_ ≤ s.now) && (s.ctxOf 0).frameFl == [] && (s.ctxOf 0).flight == [fly1] && (s.ctxOf 0).undo == []) = true) ∧
    fly1.pid = (portAct (.pop 0x40 1)).pid ∧ (portAct (.pop 0x40 1)).pid ≠ 0 ∧
    (atPort (.load 0x40 4 .i32 false) [fly1] []).sound (bufKey 0 .ab 0x40) 4 ∧ ¬ (atPort (.load 0x40 4 .i32 false) [fly1] mark).sound (bufKey 0 .ab 0x40) 4 := by
  unfold State.sound; decide +kernel
theorem wit_LocalLoads : s0.mem.wf = true ∧ s0.ctx.acts {} 4 ∧ s0.ctx.letsIn .ab 0x40 4 false ∧ s0.ctx.letsIn .wb 0x17FFFC 4 false ∧
    s0.ctx.letsIn .jb 0x8000 8 false ∧ s0.sound (bufKey 0 .ab 0x40) 4 ∧ accAddr (s0.ctx.src (.s 5)) 0 true = 0x40 := by
  unfold Ctx.acts Ctx.letsIn State.sound; decide +kernel
theorem wit_LocalAccessTraps : s0.ctx.guard {} = true ∧ (accAddr (s0.ctx.src (.s 1)) 0 false) % accW .i32 false ≠ 0 ∧ ¬ s0.ctx.letsIn .ab 0x180000 4 false ∧
    ¬ s0.ctx.letsIn .wb 0x40 4 true ∧ ¬ s0.ctx.letsIn .jb 0x7FFC 4 false ∧ s0.ctx.kills {} 4 = false := by unfold Ctx.letsIn; decide +kernel
/-- The state after `i`, two cycles later: what it asked of the port is performed. -/
def later (i : Instr) : State := match exec i s0 with | .next t => { t with now := 2 } | _ => s0
theorem wit_LocalStores : s0.ctx.acts {} 1 ∧ s0.ctx.letsIn .cb 0xBFFFC 4 true ∧ s0.ctx.letsIn .jb 0x8000 8 true ∧
    (let u := later (.st { store with sp := .jb, a := .s 6 })
     u.mem.wf = true ∧ u.performs 0 (s0.portOp .m .jb (.store true [wholePiece 0x8000 4 (s0.ctx.src (.s 1)).toNat]))) := by
  unfold Ctx.acts Ctx.letsIn State.performs; decide +kernel
theorem wit_StackMultiple : s0.ctx.guard {} = true ∧ (0x47 : Fin 256).val + (1 : Fin 128).val ≤ 0x48 ∧ (1 : Fin 256).val + (0x47 : Fin 128).val ≤ 0x48 ∧
    0x3FFF0 + 8 * 1 ≤ 0x3FFF8 ∧ 0x8000 + 8 * 1 ≤ 0x8008 ∧ 0x8000 + 8 * 0x47 ≤ 0x8238 ∧ 0x7FF8 % 8 = 0 ∧ 0x3FFF8 < 0x3FFF8 + 8 * 1 ∧
    (let act : PortAct := .store false [wholePiece 0x8000 8 5]
     let u := { st { c0 with portQ := [{ portAct act with sp := .jb }] } with now := 2 }
     u.mem.wf = true ∧ u.performs 0 { portAct act with sp := .jb }) := by unfold State.performs; decide +kernel
theorem wit_LocalAtomics : s0.mem.wf = true ∧ s0.ctx.guard {} = true ∧ s0.ctx.letsIn .ab 0x40 4 true ∧ s0.ctx.letsIn .cb 0x40 8 true ∧
    s0.sound (bufKey 0 .ab 0x40) 4 ∧ accW .f32 false = 4 := by unfold Ctx.letsIn State.sound; decide +kernel
/-- The page of 4 KiB at `pa` stands at virtual 0, readable and writable, in the core's TLB. -/
def paged (x : Ctx) (pa : Nat) : State :=
  State.reset.setCore 0 { ctx := x, busy := true, tlb := [{ va := 0, size := 4096, pa, fn := 0, asid := 0, g := false, cf := false, x := true, w := true, r := true }] }
theorem wit_GlobalAccesses : let s := paged c0 0x5000
    s.ctx.guard {} = true ∧ (s.gCheck 0x40 4 .rd).2.toOption = some 0x5040 ∧ (s.gCheck 0x40 4 .wr).2.toOption = some 0x5040 ∧
    (s.gCheck 0x40 8 .at).2.toOption = some 0x5040 ∧ (s.gCheck 5 1 .rd).2.toOption = some 0x5005 ∧
    (s.xlate 0 5 1 .rd).2.toOption = some 0x5005 ∧ (s.xlate 0 0x1000 1 .rd).2 = .error .page ∧ (s.gCheck 5 4 .rd).2 = .error .align ∧ (s.gCheck 0x1000 4 .wr).2 = .error .page ∧ (s.gCheck 0x1000 1 .rd).2 = .error .page := by decide +kernel
def far : Nat := 2 ^ 45
def gacc (i : Instr) (pa : Nat) : GAcc := { id := 1, ins := i, pc := 0, seq := 0, va := 0x40, pa, cls := 0, tok := 9, width := 4, b := 7 }
def withAcc (g : GAcc) : State := st { c0 with gacc := [g], nextAcc := 2, toks := [9] }
def ans (x : Answer) : AccAns := { core := 0, id := 1, ans := x }
theorem wit_GlobalReturns :
    (withAcc (gacc (.ldg gload) 0x40)).acc? (ans (.ok [])) = some (gacc (.ldg gload) 0x40) ∧
    (withAcc (gacc (.ldg gload) 0x40)).gRead 0x40 4 (.ok []) = .ok [0, 0, 0, 0] ∧
    (withAcc (gacc (.ldg gload) far)).gRead far 4 (.fail .peer) = .error .peer ∧
    (withAcc (gacc (.stg store) 0x40)).acc? (ans (.ok [])) = some (gacc (.stg store) 0x40) ∧ paNode 0x40 = (withAcc (gacc (.stg store) 0x40)).nodeId ∧
    paKind 0x40 < 2 ∧ paNode far ≠ (withAcc (gacc (.stg store) far)).nodeId ∧ (atomOf (.aadd atom)).isSome = true := by decide +kernel
def req (own : Bool) : TrackReq := { core := 0, src := .acc 1, chan := 3, ready := 0, borrowed := !own }
theorem wit_TracksAndWindows :
    (let s := { s0 with owners := [(3, 0, 0)], tracks := [req true] }
     s.now % 4 = 0 ∧ s.ownerOf 3 s.space = some 0 ∧ s.firstReq 3 0 false = some 0) ∧
    (let s := { s0 with tracks := [req false] }
     s.ownerOf 3 s.space = none ∧ s.nextBorrower 3 = some (0, 0)) ∧
    (let s := { s0 with pendOwners := [(3, [(63, 127)])] }; s.now % 256 = 0) ∧
    (let s := { s0 with tracks := [{ req false with served := some 4 }] }
     (s.tracks[0]?.map (fun (r : TrackReq) => (r.served, r.due, r.src))) = some (some 4, none, .acc 1) ∧ (63 : Fin 64) ≠ 0) ∧
    (let u : WinUnit := { core := 0, src := .gone 3, clu := 0, mask := 3, buf := .ab, off := 0x40, data := List.replicate 64 (some 1), due := some 0 }
     let s := { s0 with winUnits := [u] }
     s.winUnits[0]? = some u ∧ s.winHeld u = false ∧ s.winRefused u = false ∧ u.data.length = 64 ∧ u.off + 64 ≤ Space.size u.buf ∧ (1 : CoreId) ∈ u.targets) ∧
    (let w : Walk := { page := 0, fn := 0, asid := 0, root := 0, n := 5 }
     let s := { s0.setCore 0 { s0.core 0 with xlat := some (0, none) } with walks := [w] }
     s.walks[0]? = some w ∧ s.walkOver w = true ∧ (s.core 0).busy = true ∧ (s.ctxOf 0).tfn = w.fn ∧ (s.ctxOf 0).asid = w.asid ∧ (s.core 0).xlat = some (w.page, none)) := by
  decide +kernel
/-- Condition words in s1 and s2: flag 0 = 0 and token register s9; a malformed one (KIND 7) in s3. Flags 0 to 511 are granted. -/
def cw : Ctx := { s := regs [0, 0, 0x20000009, 0xE0000000] }
def sw : State := (st cw).setFunc 0 { flags := 0x2000000 }
theorem wit_WaitsBegin : sw.ctx.guard {} = true ∧ (sw.ctx.condWords 1 1).all condOk = true ∧
    (sw.ctx.condWords 1 1).all (fun w => condKind w != 0 || sw.flagOk sw.ctx.fn.val (condObj w)) = true ∧ (sw.ctx.condWords 3 0).any (fun w => !condOk w) = true ∧
    ((st cw).ctx.condWords 1 0).any (fun w => condKind w == 0 && !((st cw).flagOk 0 (condObj w))) = true := by decide +kernel
theorem wit_ConditionsHold : sw.cond 0 0 = true ∧ sw.cond 0 (BitVec.ofNat 64 (511 + 1 * 2 ^ 26)) = false ∧ sw.cond 0 (BitVec.ofNat 64 (63 + 1 * 2 ^ 29)) = true ∧
    sw.cond 0 (BitVec.ofNat 64 (4 + 2 * 2 ^ 29)) = true ∧ sw.cond 0 (BitVec.ofNat 64 (15 + 3 * 2 ^ 29)) = true ∧
    sw.cond 0 (BitVec.ofNat 64 (31 + 4 * 2 ^ 29)) = false := by decide +kernel
def waitOn (w : Word) (tt : Bool) (dl : Nat) : WaitSt := { conds := [w], all := false, tt, deadline := dl, d := .s 9, pc := 0, seq := 0, syl := 0, start := 0 }
theorem wit_WaitsEnd :
    (let s := (st { cw with wait := some (waitOn 0 false 9) }).setFunc 0 {}; (s.ctxOf 0).wait.isSome = true ∧ s.condBits 0 [0] ≠ 0) ∧
    (let s := st { cw with wait := some (waitOn (1 <<< 26) true 0) }
     (s.core 0).stop = none ∧ s.condBits 0 [1 <<< 26] = 0 ∧ (0 : Nat) ≤ s.now ∧ (s.ctxOf 0).trapvec.getLsbD 0 = false ∧ (s.core 0).holdUntil ≤ s.now + 1 ∧
       s.saved = [] ∧ s.now < 9) ∧
    (let s := (State.reset.setCore 0 { ctx := { cw with wait := some (waitOn 0 false 9) }, busy := true, stop := some { why := .preempt, rcd := none, since := 0 } }).setFunc 0 {}
     (s.core 0).stop.isSome = true ∧ s.condBits 0 [0] ≠ 0) := by decide +kernel
theorem wit_FlagCommandsPush : sw.ctx.inFlight < 32 ∧ sw.ctx.guard {} = true ∧ sw.flagOk sw.ctx.fn.val 511 = true ∧ (st cw).flagOk 0 0 = false ∧
    (sw.ctx.condWords 1 0).all (fun c => condOk c && condKind c == 0) = true ∧ (sw.ctx.condWords 1 0).any (fun c => !sw.ctx.forwarded (condObj c)) = true ∧
    (Ctx.condWords { cw with setmap := 1 } 1 0).all (fun c => ({ cw with setmap := 1 } : Ctx).forwarded (condObj c)) = true := by decide +kernel
/-- One command of core 0, with the number 0. -/
def cmd (e : Eng) (i : Instr) (a b c : Word) : Cmd := { eng := e, ins := i, a, b, c, tok := 9, started := true }
def one (x : Ctx) (m : Cmd) : State := st { x with cmds := [m], toks := [9], nextSeq := 1 }
def r0 : CmdRef := { core := 0, seq := 0 }
def flagCmd : FlagOp := { g := {}, q := 4, tok := 9, a := .s 1, flag := 511 }
def waitQ1 : WaitQ := { g := {}, q := 4, n := 0, all := false, tok := 9, a := 1 }
theorem wit_FlagOperationsPerform :
    (let m := cmd .fi (.fset flagCmd) 5 0 0; let s := one c0 m; s.cmd? r0 = some m ∧ m.inb = none ∧ ((s.ctxOf 0).earlier m).all (fun e => e.eng != m.eng) = true) ∧
    (let m := { cmd .fi (.waitQ waitQ1) 0 0 0 with ext := [0] }
     let s := one c0 m
     s.cmd? r0 = some m ∧ m.started = true ∧ s.condBits 0 (m.ext.map (BitVec.ofNat 64)) ≠ 0) := by decide +kernel

/-- Row 1 begins with FP32 +infinity, row 2 with a NaN, row 3 (t1's) holds 1.0 in its element 0, row 64 (t8's) enables element 0 and 1;
s7 = 1.0 and s9 = NaN in FP32, s10 = 2.0, s5 = 0x40, s6 = 0x8000. -/
def rv : Ctx :=
  { s := regs [0, 5, 7, 0xFFFFFFFFFFFFFFFF, 0x8000000000000000, 0x40, 0x8000, 0x3F800000, 0x40000000, 0x7FC00000],
    rows := Vector.ofFn fun i => match i.val with
      | 1 => 0x7F800000 | 2 => 0x7FC00000 | 3 => 0x3F800000 | 64 => 0x0000000100000001 | _ => 0 }
def sv : State := st rv
theorem wit_VectorArithmetic : (sv.ctx.acts {} 2 ∧ sv.ctx.acts {} 3 ∧ sv.ctx.acts {} 4) ∧ (ETy.f3 vbin.t = true ∧ ETy.isInt .i8 = true ∧ ETy.isInt .n32 = true) ∧
    (∀ fl : Fin 64, sv.ctx.enabled (BitVec.ofNat 6 fl.val) = false) ∧ (7 : Fin 16).val < 8 ∧ (5 : Fin 16).val < 6 ∧
    (32 ∈ [4, 8, 16, 32] ∧ 127 < 4096 / 32) ∧ ETy.sw .i4 = 4 ∧ 1023 < 4096 / 4 := by unfold Ctx.acts; decide +kernel
theorem wit_VectorMovesAndReductions : (sv.ctx.acts {} 2 ∧ sv.ctx.acts {} 3 ∧ sv.ctx.acts {} 4 ∧ sv.ctx.acts {} 6) ∧ sv.ctx.enabled 0 = false ∧
    (ETy.sw .f16 ≤ ETy.sw .f32 ∧ (1 : Fin 8).val < ETy.sw .f32 / ETy.sw .f16) ∧
    (ETy.sw .f16 < ETy.sw .f32 ∧ vcvt.part.val < ETy.sw .f32 / ETy.sw .f16 ∧ vcvt.c = some 3) ∧
    (128 * ((7 : Fin 8).val + 1) ≤ 4096 / ETy.sw .n4 ∧ 128 * ((3 : Fin 8).val + 1) ≤ 4096 / ETy.sw .f8a) ∧
    (128 * ((1 : Fin 8).val + 1) ≤ 4096 / ETy.sw .bf16 ∧ 128 * ((3 : Fin 8).val + 1) ≤ 4096 / ETy.sw .n8) ∧
    (ETy.f3 .bf16 = true ∧ ETy.isInt .i4 = true) ∧ (0, 1) ∈ (List.range 128).zip ((List.range 128).map (· + 1)) := by
  unfold Ctx.acts; decide +kernel
def vfold (a : Fin 128) (b : SSrc) (mask : Option (Fin 64)) : VFold := { g := {}, ftz := false, mask, d := .s 9, a, b }
theorem wit_VectorFunctions :
    (sv.ctx.acts {} 4 ∧ sv.ctx.acts {} 6 ∧ sv.ctx.acts {} 8 ∧ sv.ctx.guard {} = true ∧ sv.ctx.plain {} ∧ sv.ctx.enabled 0 = false) ∧
    (let q : Q := { n := 3, d := 2, e := 1, r := 0 }; q.n ≠ 0 ∧ q.d ≠ 0 ∧ q.r = 0) ∧
    -- `vsmax`: +infinity enabled and no NaN; a NaN; neither
    (decodeEl (el (sv.ctx.row 1) 32 0) .f32 = .inf false ∧ sv.ctx.lets (some 0) 32 0 = true ∧
      (∀ k : Fin 128, (decodeEl (el (sv.ctx.row 1) 32 k.val) .f32).isNan = false) ∧ (decodeEl (sv.ctx.src (.s 7)).toNat .f32).isNan = false) ∧
    ((decodeEl (el (sv.ctx.row 2) 32 0) .f32).isNan = true ∧ sv.ctx.lets (some 0) 32 2 = false ∧
      (∀ k : Fin 128, decodeEl (el (sv.ctx.row 2) 32 k.val) .f32 ≠ .inf false)) ∧
    -- `vsdiv` by a NaN, by zero, and by 2
    ((decodeEl (sv.ctx.src (.s 9)).toNat .f32).isNan = true ∧ (decodeEl (sv.ctx.src (.s 0)).toNat .f32).isZero = true ∧
      (decodeEl (sv.ctx.src (.s 8)).toNat .f32).isNan = false ∧ (decodeEl (sv.ctx.src (.s 8)).toNat .f32).isZero = false) := by
  unfold Ctx.acts Ctx.plain; decide +kernel
def vgs : VGs := { g := {}, t := .f32, oc := 0, sp := .ab, d := 4, a := .s 5, b := 64, c := .s 1 }
theorem wit_VectorMemory : sv.mem.wf = true ∧ sv.ctx.plain {} ∧
    -- the last row of AB, a row of 128 columns, and the address of the access
    (sv.ctx.letsRow .ab (0x180000 - 512) 64 true (0x180000 - 512) 512 ∧ sv.sound (bufKey 0 .ab 0x40) 512 ∧
      sv.ctx.rowAddr { vmem with a := .s 5 } = 0x40) ∧
    (ETy.sw .f32 / 8 ≤ 2 ^ (2 : Fin 64).val ∧ ETy.sw .f32 ≠ 4 ∧
      (∀ e : Fin 128, sv.ctx.letsRow .ab 0x40 4 true (0x40 + e.val * 4) 4 ∧ sv.sound (bufKey 0 .ab (0x40 + e.val * 4)) 4)) ∧
    -- masked by t8, which lets two elements through
    (sv.ctx.lets (some 0) 32 0 = true ∧ sv.ctx.lets (some 0) 32 1 = true ∧ sv.ctx.lets (some 0) 32 2 = false) ∧
    -- five indices of row 64
    (min ((sv.ctx.src vgs.c).toNat % 2 ^ 32) 128 = 5 ∧ (sv.ctx.src vgs.a).toNat % 4 = 0 ∧
      ∀ e : Fin 5, sv.ctx.letsRow vgs.sp 0x40 4 true (0x40 + el (sv.ctx.row vgs.b) 32 e.val * 4) 4 ∧
        sv.sound (bufKey 0 vgs.sp (0x40 + el (sv.ctx.row vgs.b) 32 e.val * 4)) 4) ∧
    (sv.ctx.guard {} = true ∧ sv.ctx.rowAddr { vmem with a := .s 1 } % 64 ≠ 0) := by
  unfold Ctx.plain Ctx.letsRow State.sound; decide +kernel

/- Operand words in s1, s2, s3 of `ecmd`, in a context whose banks hold BF16, whose arrays hold 4 rows of 4, and so on. -/
def rec4 : Shape := { valid := true, ty := .bf16, kc := 4, n := 4 }
def wx (a b w : Word) : Ctx :=
  { s := regs [0, a, b, w], wfmt := Vector.replicate 16 2, afmt := Vector.replicate 16 2, saRec := rec4, vaRec := rec4 }
/-- The same, with a chain bound in mode 3 and link buffer 0. -/
def wb (a b w : Word) : Ctx :=
  { wx a b w with chRec := { bound := true, mode := 3, qty := .bf16, d := 4 }, lbRec := Vector.replicate 16 (some (0x20200, 0x100000000000)) }
def okE {α ε : Type} (x : Except ε α) : Bool := match x with | .ok _ => true | .error _ => false
def bfc : Ecmd := { ecmd with t := .bf16 }
theorem wit_ArrayCommandsPush : (wx 0 0 0).inFlight < 32 ∧ (wx 0 0 0).guard {} = true ∧
    [okE ((wx 0x40 0x10303 0).chkLoad ecmd false), okE ((wx 0x40 0x10303 0x1000).chkLoad ecmd true),
     okE ((wx 0x40 0x80 0x100010001).pushView.chkStream ecmd false), okE ((wx 0x40 0x80 0x100010001).pushView.chkStream bfc true),
     okE ((wx 0x40 64 0).chkZero ecmd), okE ((wx 0 0x40 0x101000001).chkDrain ecmd), okE ((wx 0 0 0).chkCfg ecmd), okE ((wx 0xC0 0 0).chkPip ecmd),
     okE ((wx 0x1030000000000 0x1000000 0).pushView.chkBind ecmd), okE ((wb 0x1010000 0x1020000 0).pushView.chkKv ecmd),
     okE ((wb 0 0x10001000000 0).chkLink ecmd), okE ((wb 0x10000 0 0).chkMask ecmd), okE (wb 0 0 0).chBound,
     okE ((wb 0 0 0).pushView.chkImage ecmd true), okE ((wx 0 0 0).pushView.chkImage ecmd false)].all id = true ∧
    [okE ((wx 1 0x10303 0).chkLoad ecmd false), okE ((wx 0x40 0x80 0).pushView.chkStream ecmd false), okE ((wx 1 64 0).chkZero ecmd),
     okE ((wx 0 0 0).chkDrain ecmd), okE ((wx 3 0 0).chkCfg ecmd), okE ((wx 0xBFFC0 0 0).chkPip ecmd), okE ((wb 0 0 0).pushView.chkBind ecmd),
     okE ((wx 0 0 0).pushView.chkKv ecmd), okE ((wx 0 0 0).chkLink ecmd), okE ((wx 0 0 0).chkMask ecmd), okE (wx 0 0 0).chBound,
     okE ((wx 0 0 0).pushView.chkImage ecmd true)].any id = false ∧
    (wb 0 0 0).chRec.bound = true ∧ (wx 0 0 0).chRec.bound = false := by decide +kernel
/-- Core 0 with the context, its function holding core 0, tree 0, window 0 of the pool and a range of cluster 0's cache; the bytes of a
command block and of a launch record stand in JB. -/
def sx (x : Ctx) : State :=
  { (st x).setFunc 0 { cores := 1, trees := 1, pool := 1, flags := 0x10000, cache := (Vector.replicate 8 0).set 0 0x8000000000001 } with
    mem := [(bufKey 0 .jb 0x8000, 1), (bufKey 0 .jb 0x9010, 1)], eqs := Vector.replicate 32 { ctl := 1 } }
def mv (k : XK) (a b w : Nat) : Bool :=
  okE ((sx (wx 0 0 0)).chkMove 0 (wx 0 0 0).pushView { k, x := if k = .trans then ecmd else bfc, a, b, c := w })
theorem wit_TransferCommandsPush : (sx (wx 0 0 0)).ctx.guard {} = true ∧
    [mv .copy 1 2 32, mv .get 0x40 2 32, mv .put 2 0x40 32, mv .fill 2 0 64, mv .trans 3 0x4003 0, mv .mcast 1 0x101 64, okE ((wx 0 2 0).chkList ecmd),
     okE ((wx 0 0 0).chkMap 0x1800000000002), okE (Ctx.chkPub { wx 0 0 0 with xmRec := (Vector.replicate 8 0).set 0 0x1800000000002 } ecmd),
     okE ((sx (wx 1 1 0)).chkExt ecmd), okE ((sx (wx 2 1 0)).chkExt ecmd)].all id = true ∧
    [mv .copy 0 2 32, mv .get 1 2 32, mv .put 2 1 32, mv .fill 2 0 1, mv .trans 1 1 0, mv .mcast 1 0x100 64, okE ((wx 0 0 0).chkList ecmd),
     okE ((wx 0 0 0).chkMap 3), okE ((wx 0 0 0).chkPub ecmd), okE ((sx (wx 0 1 0)).chkExt ecmd)].any id = false ∧
    (1#64).toNat % 4 = 1 ∧ (2#64).toNat % 4 ≠ 1 := by decide +kernel
theorem wit_FabricCommandsPush : (sx (wx 0 0 0)).ctx.guard {} = true ∧
    [okE ((wx 0 0 0).pushView.chkRemote 0x40 2 64), okE ((wx 0x40 0 0).chkRatom ecmd), okE ((sx (wx 0x1000 0x8000 0)).chkRenq ecmd),
     okE ((sx (wx 0x1FF0000 0 0)).chkRflag ecmd), okE ((wx 0 0x4000000000 0).chkLbind ecmd), okE ((wb 15 0 0).chkLrel ecmd)].all id = true ∧
    [okE ((wx 0 0 0).pushView.chkRemote 0x40 2 32), okE ((wx 1 0 0).chkRatom ecmd), okE ((sx (wx 0 0x8000 0)).chkRenq ecmd),
     okE ((sx (wx 1 0 0)).chkRflag ecmd), okE ((wb 0 0x4000000000 0).chkLbind ecmd), okE ((wx 0 0 0).chkLrel ecmd)].any id = false := by decide +kernel
/-- Slot 0 is open: two ranks of one block, with a decode buffer or without. -/
def wc (a b w : Word) (dec : Option Nat) : Ctx := { wx a b w with cmRec := (Vector.replicate 8 none).set 0 (some { p := 2, k := 1, r := 1, z := 0, dec }) }
theorem wit_CodedCommandsPush : (sx (wx 0 0 0)).ctx.guard {} = true ∧
    [okE ((wx 0x100 0 0x100).chkCmset ecmd), okE ((wc 0 0 0 none).cmOpen 0), okE ((wc 0 0x40 4096 (some 0x80000)).chkHeld ecmd),
     okE ((wc 0 0 0 (some 0x80000)).chkHeldClr ecmd), okE ((sx (wc 0 0x8000000000000 0 none)).chkDec ecmd),
     okE ((wc 0 0x40 0x80 (some 0x80000)).chkGath ecmd true), okE ((wc 0 0x40 0x80 (some 0x80000)).chkGath ecmd false), okE ((wc 0x200 0 0 none).chkPol ecmd),
     okE ((wc 0 0x40 0 none).chkStat ecmd)].all id = true ∧
    [okE ((wc 0x100 0 0x100 none).chkCmset ecmd), okE ((wc 0 0 0 none).cmOpen 1), okE ((wc 0 0x40 4096 none).chkHeld ecmd), okE ((wc 0 0 0 none).chkHeldClr ecmd),
     okE ((sx (wc 0 0 0 none)).chkDec ecmd), okE ((wc 0 1 0 (some 0x80000)).chkGath ecmd true), okE ((wc 0x300 0 0 none).chkPol ecmd),
     okE ((wc 0 1 0 none).chkStat ecmd)].any id = false := by decide +kernel

/-- `m` runs as the first command of a context `x` on core 0: what `State.runs` asks. -/
def runs0 (x : Ctx) (m : Cmd) : Bool := decide ((one x m).cmd? r0 = some m) && m.started && !m.faulted && m.fail.isNone && m.inb.isNone
theorem runs_of_runs0 {x : Ctx} {m : Cmd} (h : runs0 x m = true) : (one x m).runs r0 m := by
  simp [runs0] at h; exact ⟨h.1.1.1.1, h.1.1.1.2, h.1.1.2, h.1.2, h.2⟩
def nestOne : Nest := { entry := 64, levels := [(4, 1)], total := 4, cores := 1, fn := 0, lq := 0, prio := 0, args := [], ctxs := [{ serial := 5, cur := 1, fin := 2 }] }
def withNest (n : Nest) : State := { st { c0 with nestOf := some 15, serial := 5 } with nests := (Vector.replicate 16 none).set 15 (some n) }
def savedOne : Saved := { ctx := { pri := 7, spri := 7, serial := 9 }, core := 0 }
theorem wit_TaskOperations :
    [okE ((sx (wx 0x9000 0x1F 0)).chkSpawn ecmd), okE (ecChk (sx c0) c0 0 1 true), okE (ecChk (sx c0) c0 0 65535 false),
     okE ((sx (wx 31 0x8000 0)).chkEgput ecmd), okE ((sx (wx 31 0 0)).egChk ecmd)].all id = true ∧
    [okE ((sx (wx 0x9001 0 0)).chkSpawn ecmd), okE (ecChk (sx c0) c0 1 1 true), okE (ecChk (sx c0) c0 0 65536 false),
     okE ((sx (wx 31 0x7FF0 0)).chkEgput ecmd), okE ((sx (wx 32 0 0)).egChk ecmd)].any id = false ∧
    (s0.ctx.nestOf = none ∧ (withNest nestOne).ctx.nestOf = some 15 ∧ (withNest nestOne).nests[15] = some nestOne ∧
      nestOne.ctxs.find? (fun f => f.serial == (withNest nestOne).ctx.serial) = some { serial := 5, cur := 1, fin := 2 }) ∧
    ((∀ j ∈ c0.joinTok, j.1 ≠ 15) ∧ (∃ j ∈ ({ c0 with joinTok := [(15, 9, true)] } : Ctx).joinTok, j.1 = 15)) ∧
    -- `prio`: at QCTL's limit, above it, above 7; `yield`: alone, and before a waiting context of priority 7
    (let s := { s0 with lqs := Vector.replicate 64 { qctl := 0x50 }}
     (5#64).toNat ≤ 7 ∧ (s.lq s.ctx.lq.val).qctl.toNat / 16 % 8 = 5 ∧ 7 < (8#64).toNat) ∧
    (s0.works s0.cur = [] ∧ (let s := { s0 with saved := [savedOne] }
      s.works s.cur ≠ [] ∧ ∀ k ∈ s.works s.cur, s.ctx.spri ≤ k.prio ∧ s.lend s.ctx.lq.val ≤ k.prio)) ∧
    (0xBFFC0 + 64 ≤ Space.size .cb ∧ s0.ctx.liveR.length < 8 ∧ Space.size .cb < 0xBFFC0 + 65) := by decide +kernel

/-- Arrays that hold 4 rows of 4 BF16 ones, group width 0; no trace ring; a bound chain of one query of 32. -/
def arr4 : Arr := { sh := rec4, cells := List.replicate 4 (List.replicate 4 { enc := 0x3F80 }) }
def ch1 : Chain :=
  { qty := .bf16, qbs := false, nq := 1, d := 4, oword := 0x1000000, pword := 0, mode := 0, ftz := false, sat := false, ppips := 0, oty := .f32,
    nm := List.replicate 128 false, m := List.replicate 128 0xFF800000, l := List.replicate 128 0, rs := List.replicate 128 0, bmap := List.replicate 128 0,
    q := [List.replicate 4 { enc := 0x3F80 }], o := [List.replicate 4 0] }
def xa : Ctx := { wx 0 0 0 with sa := arr4, va := arr4 }
def late (x : Ctx) (m : Cmd) : State := { one x m with now := 100000 }
def me (i : Instr) (a b w : Word) : Cmd := cmd .me i a b w
def ce (i : Instr) (a b w : Word) : Cmd := cmd .ce i a b w
def chst (tb : Fin 128) : ChStat := { g := {}, sel := 0, tok := 9, ta := 1, tb, tc := none }
theorem wit_ArrayEvents :
    -- a row of a stream, the last of two, at the end of CB
    (let m := { me (.mstr ecmd) 0 0xBFFB0 0x100010002 with staged := [{ idx := 1, data := [0x80, 0x3F, 0x80, 0x3F] }], prog := 1, hist := [[0]] }
     runs0 xa m = true ∧ m.staged.find? (fun g => g.idx == m.prog) = some { idx := 1, data := [0x80, 0x3F, 0x80, 0x3F] } ∧ m.prog < 2 ∧
     (let g : Staged := { idx := 1, data := [0x80, 0x3F, 0x80, 0x3F] }
      let ends := (stepEnds ((late xa m).stepClk 0 (m.start + 16)) m.hist (g.time - (m.start + 16))
        ((stepTimes arr4 (xa.fmtAt .ab 0).ty (unpackEls g.data arr4.sh.keff)).map Prod.fst)).map Prod.snd
      m.start + 32 + ends.foldl max 0 ≤ 100000 ∧ 0xBFFB0 + 64 + 4 * arr4.sh.n ≤ 0xC0000 ∧ (late xa m).ecc = [] ∧ ((late xa m).core 0).stop = none ∧
      (late xa m).cellBad 0 false = false ∧ ((late xa m).takePort 0 [(.cb, true, arr4.sh.n * 4), (.cb, false, arr4.sh.n * 4)]).isSome = true)) ∧
    -- a row of a drain, the last
    (let m := { me (.mdrain ecmd) 0 0x40 0x101000002 with prog := 1 }
     runs0 xa m = true ∧ (late xa m).ecc = [] ∧ m.prog < 2 ∧ m.start + 8 + m.prog + 1 - m.first ≤ 100000 ∧ ETy.bits ecmd.t % 8 = 0 ∧ 0x40 + 64 + 4 ≤ 0xC0000 ∧
       ((late xa m).takePort 0 [(.cb, false, 4), (.cb, true, 4)]).isSome = true) ∧
    -- a row of a remote stream arrives
    (let m := { me (.mstrr bfc) 0 0x40 0x100010001 with asked := [(0, 0)] }
     runs0 xa m = true ∧ m.asked.any (fun p => p.1 == 0) = true ∧ ((one xa m).rowParts 0 m bfc 0).length = 1 ∧ (one xa m).trackReady 0 (.cmd 0) (rowPart 0 0) = true) ∧
    -- commands complete
    ([me (.mld ecmd) 0 0x10303 0, me (.mldsp ecmd) 0 0x10303 0x1000, { me (.mstr ecmd) 0 0 0x100010002 with prog := 2 },
      { me (.mstrr bfc) 0 0 0x100010001 with prog := 1 }, me (.mzero ecmd) 0xBFFC0 64 0, { me (.mdrain ecmd) 0 0 0x101000002 with prog := 2 },
      me (.mcfg ecmd) 0 0 0, me (.mpip ecmd) 0 0 0, me (.mabort ecmd) 0 0 0].all (fun m =>
        let m := { m with asks := 2000 }
        runs0 xa m && (late xa m).meMoved 0 m && decide (m.due ≤ 100000) && decide ((late xa m).abortWork 0 m ecmd = []) && decide (m.start + 32 + m.tEnd ≤ 100000)) = true) ∧
    -- a block while no chain is bound, and with one
    (let m := ce (.chkv bfc) 0x1000000 0x1000000 0; runs0 xa m = true ∧ isBlock m.ins = true ∧ xa.chain = none ∧ (Ctx.earlier { xa with cmds := [m] } m) = []) ∧
    (let m := ce (.chkv bfc) 0x1000000 0x1000000 0
     let x := { xa with chain := some ch1 }
     runs0 x m = true ∧ (match (late x m).blockOf 0 m ch1 with | some (_, none) => true | _ => false) = true ∧ ((late x m).core 0).stop = none ∧
       (match (late x m).runBlock 0 ch1 m with | some b => decide (b.vae + 8 ≤ 100000) | none => false) = true) ∧
    -- the chain's other commands
    (runs0 xa (ce (.chbind bfc) 0x1030000000000 0x1000000 0) = true ∧
     [ce (.chdrop ecmd) 0 0 0, ce (.chsave ecmd) 0 0 0, ce (.chmask ecmd) 0 0 0, ce (.chfin ecmd) 0 0 0, ce (.chstat (chst 2)) 0 0 0].all
       (fun m => runs0 { xa with chain := some ch1 } m && decide ((late xa m).ecc = [])) = true) ∧
    (ecmd.m 0 = false ∧ xa.ringAt 0 = none ∧ (chst 2).ta ≠ (chst 2).tb ∧ (chst 2).tc = none ∧ ((late xa (me (.mcfg ecmd) 0 0 0)).core 0).ring = none ∧
      (ch1.finRow false 0).1.length * 4 ≤ 64 ∧ 1 ≤ ETy.bits ch1.oty / 8 ∧ ETy.bits ch1.oty % 8 = 0) := by decide +kernel

def xe (i : Instr) (a b w : Word) : Cmd := cmd .xe i a b w
def fi (i : Instr) (a b w : Word) : Cmd := cmd .fi i a b w
theorem wit_TransferEvents :
    (let m := { xe (.xget bfc) 0x40 2 32 with asked := [(0, 0)] }
     runs0 xa m = true ∧ m.move.isSome = true ∧ (one xa m).trackReady 0 (.cmd 0) 0 = true ∧ (one xa m).trackOf 0 (.cmd 0) 0 = none ∧ m.staged = [] ∧
       (m.move.bind (fun o => o.gParts[0]?)) = some (0x40, 64) ∧ m.asked.any (fun p => p.1 == 0) = true ∧ (one xa m).onWay (.cmd 0 0 0) = true) ∧
    (let m := { xe (.xget bfc) 0x40 2 32 with asked := [(0, 0)] }
     let q : TrackReq := { core := 0, src := .cmd 0, chan := 3, ready := 0, borrowed := false, served := some 4, due := some 8 }
     let s := { one xa m with tracks := [q], now := 8 }
     s.runs r0 m ∧ s.tracks[0]? = some q ∧ q.due = some 8 ∧ 8 ≤ s.now) ∧
    -- the first and the last unit of a fill of 128 bytes
    (let m := xe (.xfill ecmd) 2 0xAA 128
     runs0 xa m = true ∧ ecmd.m 7 = false ∧ 64 * (m.prog + 1) < 128 ∧ m.start ≤ 100000 ∧ xa.wrapOff .ab 0 (0 + 64 * m.prog) + 64 ≤ Space.size .ab ∧
       ((late xa m).takePort 0 [(.ab, true, 64)]).isSome = true) ∧
    (let m := { xe (.xfill ecmd) 0x17FF8002 0xAA 128 with prog := 1, due := 100004 }
     runs0 xa m = true ∧ 64 * (m.prog + 1) = 128 ∧ m.due ≤ 100000 + 4 ∧ xa.wrapOff .ab 0x17FF80 (0x17FF80 + 64 * m.prog) + 64 ≤ Space.size .ab) ∧
    -- units of a put and of a multicast, good and failed
    ([(xe (.xput bfc) 2 0x40 32), (xe (.xmcast bfc) 1 0x101 64)].all (fun m => [none, some TrapClass.ecc].all (fun f =>
      let m := { m with staged := [{ idx := 0, data := [1], fail := f, addr := 1 }] }
      runs0 xa m && (match m.move with | some o => decide (m.prog < xa.units o) && o.together m.prog == [m.prog] | none => false) && decide (m.due ≤ 100000 + 4) &&
        (m.staged.find? (fun g => g.idx == m.prog)).isSome)) = true) ∧
    -- completions
    ([xe (.xmap ecmd) 0 0 0, { xe (.xpub ecmd) 0 0 0 with eff := true }].all (fun m => runs0 xa m && decide (m.due ≤ 0)) = true) ∧
    ([{ xe (.xfill ecmd) 2 0xAA 128 with prog := 2 }, { xe (.xcopy bfc) 1 2 32 with prog := 1 }, { xe (.xget bfc) 0x40 2 32 with prog := 1 },
      { xe (.xput bfc) 2 0x40 32 with prog := 1 }].all (fun m => runs0 xa m && decide (m.due ≤ 0) &&
        (match m.move with | some o => decide (xa.units o ≤ m.prog) | none => false)) = true) ∧
    (let m := { xe (.xlist ecmd) 0 2 0 with ext := [0], prog := 0 }; runs0 xa m = true ∧ m.ext = [0] ∧ m.due ≤ 0) ∧
    (let m := xe (.xpub ecmd) 7 0 0; runs0 xa m = true ∧ m.eff = false ∧ m.start + 2 ≤ 2 ∧ m.a.toNat < 8) ∧
    (let m := xe (.xextAdd ecmd) 1 1 0; runs0 xa m = true ∧ runs0 xa (xe (.xextRelease ecmd) 2 1 0) = true ∧
       (one xa m).inUse ({ win := 0, start := 0, count := 1, fn := 0 } : Extent).holds = false) := by
  unfold State.runs; decide +kernel

/-- The bundle of one instruction. -/
def wordOf (i : Instr) : BitVec 256 := BitVec.ofNat 256 ((encode i).getD 0)
/-- A core whose buffer holds the bundle of `i` at address 0, in checked mode, with DZ enabled. -/
def chkd (i : Instr) : State :=
  State.reset.setCore 0 { ctx := { c0 with fpstat := 0x80000, chk := some 0 }, busy := true, ibuf := [(0, wordOf i)] }
def mayStart0 (x : Ctx) (m : Cmd) : Bool := ({ x with cmds := [m] } : Ctx).mayStart m
theorem wit_IssueEvents :
    ([me (.mld ecmd) 0 0x10303 0, me (.mldsp ecmd) 0 0x10303 0x1000, me (.mstrr bfc) 0 0 0x100010001, me (.mstr ecmd) 0 0 0x100010001,
      me (.mzero ecmd) 0 64 0, me (.mdrain ecmd) 0 0 0x101000001, me (.mabort ecmd) 0 0 0, me (.mcfg ecmd) 16 0 0, me (.mcfg ecmd) 0 0 0,
      xe (.xmap ecmd) 0 0 0, xe (.xpub ecmd) 0 0 0].all (fun m => mayStart0 xa { m with started := false } && !m.faulted && m.inb.isNone) = true) ∧
    (let m := { me (.mcfg ecmd) 0 0 0 with started := false }
     (one xa m).cmd? r0 = some m ∧ ((one xa m).core 0).busy = true ∧ ((one xa m).core 0).stop = none ∧ mayStart0 xa { m with aside := true } = false) ∧
    (let m := { me (.mcfg ecmd) 0 0 0 with fail := some (.ecc, 0, 0) }
     (one xa m).cmd? r0 = some m ∧ m.started = true ∧ m.faulted = false ∧ m.fail.isSome = true) ∧
    -- the bundle at virtual 0 lies at 0x5000, in an admitted image
    (let s := { paged { c0 with pc := 0 } 0x5000 with images := [{ id := 1, fn := 0, ranges := [(0x5000, 4096)] }] }
     (s.core 0).runs = true ∧ (s.ctxOf 0).wait = none ∧ (s.core 0).word = none ∧ (s.xlate 0 0 32 .fetch).2.toOption = some 0x5000 ∧
     (s.fetch 0 0x5000).toOption.isSome = true) ∧
    -- checked mode: a quotient without a flag, and one by zero
    ([(Instr.fdiv (fb 7 8), false), (.fdiv (fb 7 0), true)].all (fun (i : Instr × Bool) =>
      let s := chkd i.1
      (s.core 0).runs && (s.ctxOf 0).chk == some 0 && !(s.ctxOf 0).chkOk && (s.core 0).word == some (wordOf i.1) && !(s.ctxOf 0).trapvec.getLsbD 0 &&
      (match decodeBundle (wordOf i.1).toNat with
       | .ok b => (s.checkedOf b).all (fun p => !p.2.1.sq) && (s.checkedOf b).length == 1 && ((s.checkedOf b).any (fun p => (s.ctxOf 0).enabled p.2.2.1) == i.2)
       | .error _ => false)) = true) ∧
    (let s := s0; let k := s.core 0
     k.busy = true ∧ k.ctx.fmtHeld 0x2F = false ∧ k.ctx.fmtHeld 0x3F = false ∧ fmtOk 2 = true ∧ bpcOk k.bpc[3] k.bpv[3] 1 = true ∧ (0x10F#64) &&& ~~~0x10F#64 = 0) := by
  decide +kernel

/-- A request of node 1, of function 0. -/
def fr (addr : Nat) (op : FiOp) : FiReq := { node := 1, core := 0, seq := 7, fn := 0, lq := 0, addr, op }
/-- Flags 0 to 511 are granted to function 0. -/
def sf : State := s0.setFunc 0 { flags := 0x2000000, cores := 1 }
def lb0 : LinkBuf := { bind := 0x20000000000, region := 0x8000000000 }
/-- Link buffer 15 of core 0 is bound, in state `z` of 128 bytes. -/
def sl (z : Nat) : State := (st { c0 with lbufs := (Vector.replicate 16 none).set 15 (some { lb0 with st := z, fill := 1 }) }).setFunc 0 { flags := 0x2000000, cores := 1 }
def lbAddr (o : Nat) : Nat := 3 * 2 ^ 40 + 15 * 2 ^ 20 + o
def nm1 : FiName := { node := 1, core := 0, seq := 7 }
def farCmd (i : Instr) (a b w : Word) (n : Nat) : Cmd := { fi i a b w with ext := List.replicate n far }
/-- A block of engine ME for core 0, held in its queue `n` times. -/
def inb1 : Inb := { node := 1, fn := 0, eng := .me, data := [1] }
def inqs (n : Nat) : State := (State.reset.setCore 0 { ctx := { c0 with inbox := 1 }, busy := true, inq := List.replicate n inb1 }).setFunc 0 { cores := 1 }
theorem wit_FabricEvents :
    (1 ≠ s0.nodeId ∧ paNode 0x40 = s0.nodeId ∧ paKind 0x40 = 0 ∧ paOff (2 ^ 39 - 64) + 64 ≤ 2 ^ 39 ∧ s0.ecc = [] ∧ s0.mem.wf = true) ∧
    (AOp.num .fadd < 16 ∧ accW .f32 false = 4 ∧ s0.reply? (reqName (fr 0x40 (.atom 0 .i32 false 1 0))) = none ∧ s0.replies.length < 1024 ∧
      1024 ≤ (List.replicate 1024 ({ nm := nm1, old := 0 } : Reply)).length ∧
      ({ s0 with replies := [{ nm := nm1, old := 5 }] } : State).reply? (reqName (fr 0x40 (.atom 0 .i32 false 1 0))) = some 5) ∧
    (sf.flagOk 0 511 = true ∧ s0.flagOk 0 511 = false) ∧
    -- a unit for link buffer 15: not bound, beyond its region, not in state filling, in it, the last one
    (let a := lbAddr 64
     paKind a = 3 ∧ paNode a = s0.nodeId ∧ paOff a < 2 ^ 32 ∧ bits (paOff a) 24 1 = 0 ∧ bits (paOff a) 18 2 = 0 ∧ lbNum a = 15 ∧ lbCore a = 0 ∧
     (s0.ctxOf 0).lbufs.toList.getD 15 none = none ∧ s0.savedHolds 0 15 = false ∧ (((sl 0).ctxOf 0).lbufs.toList.getD 15 none).isSome = true ∧
     regLen lb0.region = 128 ∧ regLen lb0.region < 65 + 64 ∧ 64 + 64 ≤ regLen lb0.region ∧ (1 : Nat) ||| 2 ^ (64 / 64) = 2 ^ (128 / 64) - 1 ∧
     (sl 0).flagOk 0 (bits lb0.bind.toNat 32 9) = true ∧ lb0.bind.getLsbD 41 = true) ∧
    -- answers to commands, the last unit of them and an earlier one
    ([fi (.lbufBind ecmd) 0 0 0, fi (.lbufRelease ecmd) 0 0 0].all (fun m => runs0 c0 m && decide (m.due ≤ 0) && (one c0 m).onWay (.cmd 0 0 0)) = true) ∧
    ([farCmd (.rst ecmd) 2 0x40 128 2, farCmd (.rld ecmd) 0x40 2 128 2, { farCmd (.rst ecmd) 2 0x40 128 2 with staged := [{ idx := 0, data := [] }] },
      { farCmd (.rld ecmd) 0x40 2 128 2 with staged := [{ idx := 0, data := [] }] }, fi (.renq ecmd) 1 0 0, fi (.rflagInc ecmd) 1 0 0,
      farCmd (.ratomAdd ecmd) 0x40 0 0 2].all (fun m =>
        let i := m.staged.length
        runs0 c0 m && decide (i < m.fiUnits) && (one c0 m).onWay (.cmd 0 0 i) && (one c0 m).fiAway m i && m.late == [] && isFabric m.ins &&
          m.staged.all (fun h => h.idx != i) && decide ((one c0 m).sentAt (.cmd 0 0 i) + 30 * 100000 ≤ 3000000)) = true) ∧
    (c0.wrapOff .ab (LocW.of 2).off ((LocW.of 2).off + 64) + 64 ≤ Space.size .ab ∧ (ratomOf (.ratomAdd ecmd)).isSome = true ∧ (rflagOf (.rflagInc ecmd)).isSome = true) ∧
    -- packets
    (let s := withAcc (gacc (.stg store) far)
     s.waitsOn (.acc 0 1) = true ∧ s.hasPayload (.acc 0 1) = true ∧ s.onWay (.acc 0 1) = true) ∧
    (let m := farCmd (.rst ecmd) 2 0x40 128 2
     let s := one c0 m
     s.waitsOn (.cmd 0 0 1) = true ∧ s.hasPayload (.cmd 0 0 1) = true ∧ s.onWay (.cmd 0 0 1) = true ∧ s.cmd? r0 = some m ∧ s.partAway 0 m 1 = true) ∧
    ([PktPhase.trimmed, .backoff, .refused].all (fun ph =>
      let m := farCmd (.rst ecmd) 2 0x40 128 2
      let s := { one c0 m with pkts := [{ id := .cmd 0 0 0, phase := ph }] }
      s.pkt? (.cmd 0 0 0) == some { id := .cmd 0 0 0, phase := ph } && s.fiAway m 0 && s.cmd? r0 == some m) = true) ∧
    -- fibres: a direction with four, one with none; a switch under way
    (s0.fibres[(0 : Fin 12)] ≠ 0 ∧ s0.spares ≠ 0 ∧ ({ s0 with fibres := Vector.replicate 12 0, swaps := Vector.replicate 12 1 } : State).fibres[(11 : Fin 12)] = 0) ∧
    -- time-outs
    (let g := gacc (.ldg gload) far
     ((withAcc g).ctxOf 0).gacc.find? (fun h => h.id == g.id) = some g ∧ paNode g.pa ≠ (withAcc g).nodeId ∧ g.born + 30 * 100000 ≤ 3000000) ∧
    -- inbound blocks: no core of the function, a full queue, a free place; a block is taken
    ((s0.func 0).cores.getLsbD 0 = false ∧ (sf.func 0).cores.getLsbD 0 = true ∧ 4 ≤ (((inqs 4).core 0).inq.filter (fun b => b.eng == Eng.ofCode 1)).length ∧
      ¬ 4 ≤ (((inqs 3).core 0).inq.filter (fun b => b.eng == Eng.ofCode 1)).length) ∧
    (let k := (inqs 1).core 0
     k.inq.find? (fun b => b.eng == Eng.ofCode ((0 : Fin 4).val + 1)) = some inb1 ∧ k.busy = true ∧ k.stop = none ∧ k.ctx.issuing = false ∧ k.ctx.ended = none ∧
     k.ctx.fn.val = inb1.fn ∧ k.ctx.inbox.getLsbD 0 = true ∧ k.ctx.inFlight < 32 ∧ inb1.data.length ≤ 256) := by
  and_intros <;> decide +kernel

/-- Slot 7: two ranks, of which this core is rank 0, one block of 128 bytes each, a decode buffer in cluster 0's slice; rank 1 is node 1.
Block 9 is held. The page at virtual 0 is the HBM's first; the slot's maps have the byte `map`. -/
def slot7 : CSlot :=
  { owner := some (0, 0), p := 2, k := 1, r := 1, list := [0, 1], dec := some (0, 0, 0x80000), held := [{ id := 9, place := 0, used := 0 }] }
def cw7 (i : Instr) (ext : List Nat) : Cmd := { fi i 7 0 0x800 with ext }
def coded (m : Cmd) (map : Byte) (own : Bool) : State :=
  { paged { c0 with cmds := [m], toks := [9], nextSeq := 1 } 0 with
    mem := if map = 0 then [] else [(key 1 0, map)], slots := (Vector.replicate 128 {}).set 7 (if own then slot7 else {}), torus := 0x333, now := 3000000,
    funcs := Vector.replicate 16 { pbox := 0x83330000, phlt := 1 } }
def runsC (m : Cmd) (s : State) : Bool := decide (s.cmd? r0 = some m) && m.started && !m.faulted && m.fail.isNone && m.inb.isNone && m.eng == .fi && s.mem.wf
def gath (ext : List Nat) : Cmd := cw7 (.cmgath ecmd) ext
def set7 (ext : List Nat) : Cmd := { cw7 (.cmset ecmd) ext with a := 0x107 }
/-- The block that this node has sent and holds: block 0, for rank 1. -/
def sent0 : CPkt := { slot := 7, p := { id := 0, src := 0, rcv := 1, dst := 1, idx := 0 }, data := [1] }
def held0 (s : State) : State := { s with sends := [{ rcv := 1, j := 0, k := 0, pkt := sent0 }] }
theorem wit_CodedEvents :
    -- a slot opens, or is taken
    ([true, false].all (fun own => let s := coded (set7 [1, 0, 1]) 0 own
      runsC (set7 [1, 0, 1]) s && (s.slot 7).owner.isSome == own && s.cmSlot 0 (set7 [1, 0, 1]) == 7) = true) ∧
    -- the list: of two nodes of the partition, the slot free or held; of a node outside it; of the same node twice
    ([(1#8, [(0, 0), (1, 1)], true), (4#8, [(0, 0), (4, 1)], false), (0#8, [(0, 0), (0, 1)], true)].all (fun (b : Byte × List (Nat × Nat) × Bool) =>
      [true, false].all (fun own =>
        let m := { set7 [] with asked := [(tagOf 0 0, 0)] }
        let s := { coded m 0 own with mem := if b.1 = 0 then [] else [(4, b.1)] }
        let v := s.cmReach 0 m (tagOf 0 0) 0 8 .rd
        let q := v.1.listRead 0 0 2 (.ok [])
        runsC m s && !m.eff && v.2 && q.2.1 == b.2.1 && q.2.2.isNone && b.2.1.all (fun n => bits n.1 19 13 == 0 && q.1.reachable 0 (n.1 % 2 ^ 12)) == b.2.2 &&
          decide ((b.2.1.map (fun n => n.1 % 2 ^ 12)).Nodup) == (b.1 != 0) && b.2.1.all (fun n => n.2 != 0 || n.1 % 2 ^ 12 == q.1.nodeId && n.1 / 2 ^ 12 % 2 ^ 7 == 0) &&
          (q.1.slot 7).owner.isSome == own && !(q.1.claimed 0 7))) = true) ∧
    -- effects that are done, and to be done
    (let m := { cw7 (.cmpol ecmd) [] with eff := true }; runsC m (coded m 0 true) = true ∧ isCoded m.ins = true ∧ m.due ≤ 0 ∧ m.staged = []) ∧
    (let m := { cw7 (.cmstat ecmd) [] with eff := true, staged := [{ idx := 0, data := List.replicate 64 1 }] }
     runsC m (coded m 0 true) = true ∧ ((coded m 0 true).ctxOf 0).wrapOff .ab m.b.toNat m.b.toNat + 64 ≤ 0x100000 ∧ ((coded m 0 true).core 0).ring = none) ∧
    (let m := cw7 (.cmheldClr ecmd) []; runsC m (coded m 0 true) = true ∧ m.eff = false) ∧
    -- an acknowledgement for a command that stands faulted
    (let m := { cw7 (.cmheld ecmd) [2] with faulted := true }; (coded m 0 true).cmd? r0 = some m ∧ 2 ∈ m.ext) ∧
    -- commands that may start: of a slot that is not open, of one without a decode buffer, of one with one
    ([.cmpol ecmd, .cmsetClose ecmd, .cmdecRel ecmd, .cmstat ecmd].all (fun i =>
      let m := { cw7 i [] with started := false }
      let s := coded m 0 true
      decide (s.cmd? r0 = some m) && (s.core 0).busy && (s.core 0).stop.isNone && !s.trip && (s.ctxOf 0).mayStart m && decide (s.mySlot 0 7 = some slot7) &&
        (coded m 0 false).mySlot 0 7 == none) = true) ∧
    (let y : CSlot := { slot7 with dec := none }
     let at_ (m : Cmd) : State := (coded m 0 true).setSlot 7 y
     let h := { cw7 (.cmheldClr ecmd) [] with started := false }
     let d (len : Nat) : Cmd := { cw7 (.cmdec ecmd) [] with started := false, b := BitVec.ofNat 64 (len * 2 ^ 32) }
     let big (m : Cmd) : State := (at_ m).setSlot 6 { dec := some (0, 0, 16 * 2 ^ 20) }
     ((at_ h).mySlot 0 7 = some y ∧ needsDec h.ins = true ∧ ((at_ h).ctxOf 0).mayStart h = true) ∧
     (let m := d 0x80000; ((at_ m).ctxOf 0).mayStart m = true ∧ (at_ m).inDec (bits m.b.toNat 0 4 * 2 ^ 23 + bits m.b.toNat 8 24) (bits m.b.toNat 32 24) = false ∧
       ((at_ m).setSlot 6 { dec := some (0, 0, 4096) }).inDec (bits m.b.toNat 0 4 * 2 ^ 23 + bits m.b.toNat 8 24) (bits m.b.toNat 32 24) = true ∧
       16 * 2 ^ 20 < (big m).slots.toList.foldl (fun n y => n + (match y.dec with | some (_, _, l) => l | none => 0)) 0 + bits m.b.toNat 32 24)) ∧
    (let m := cw7 (.cmpol ecmd) []; runsC m (coded m 0 true) = true ∧ m.eff = false ∧ (coded m 0 true).mySlot 0 7 = some slot7) ∧
    (let m := { cw7 (.cmheld ecmd) [] with c := 3, prog := 3 }; runsC m (coded m 0 true) = true ∧ m.eff = false ∧ bits m.c.toNat 0 32 ≤ m.prog ∧ m.ext = []) ∧
    -- a gather and a shuffle begin, and end
    ([gath [0], cw7 (.cmshuf ecmd) [0]].all (fun m => runsC m (coded m 0 true) && m.run.phase == 0 && !m.eff) = true) ∧
    (let m := gath [1]; let s := coded m 11 true
     runsC m s = true ∧ m.run.phase ≠ 0 ∧ (s.delivered slot7).length = slot7.total ∧ s.allAcked slot7 = true) ∧
    (let m := gath [1, 1, 0, 1]; let s := coded m 9 true
     runsC m s = true ∧ m.run.phase = 1 ∧ m.run.gone = [1] ∧ s.allAcked slot7 = true ∧ (s.delivered slot7).length + m.run.gone.length = slot7.total) ∧
    -- blocks: the other rank's, delivered or new; the own one; acknowledgements and requests, of what is held and what is not
    (let m := { gath [1] with asked := [(tagOf 1 0, 0), (tagOf 3 0, 0), (tagOf 3 1, 0)] }; let s := coded m 0 true
     let at_ (s : State) (i : Nat) : State × Bool := s.cmReach 0 m (tagOf 3 i) (0x800 + i * 128) 128 .wr
     s.running 7 = some r0 ∧ (at_ s 1).2 = true ∧ (slot7.srcOf false 1).1 = 1 ∧ (slot7.srcOf false 0).1 = slot7.rank ∧ s.mapBit slot7 1 = false ∧ (coded m 11 true).mapBit slot7 1 = true ∧
     ((at_ s 1).1.gWriteVa 0 (0x800 + 128) (List.replicate 128 1) (.ok []) cmPol).2 = none ∧
     ((at_ s 1).1.gWriteVa 0 (0x800 + 128) (List.replicate 128 1) (.ok []) cmPol).1.mem.wf = true ∧ slot7.decKey (1 / 8) < key 2 0 ∧
     (let q := s.cmRead 0 m (tagOf 1 0) (slot7.ownSrc false 0 0) 128 (.ok [])
      (at_ q.1 0).2 = true ∧ ((at_ q.1 0).1.gWriteVa 0 0x800 (List.replicate 128 1) (.ok []) cmPol).2 = none ∧ (match q.2 with | some (.ok d) => d.length == 128 | _ => false) = true ∧ q.1.mapBit slot7 0 = false ∧ q.1.slots = s.slots)) ∧
    (let s := held0 (coded (gath [1]) 0 true)
     let isIt (q : Nat) (b : CSend) : Bool := b.pkt.slot == 7 && b.rcv == q && b.j == 0 && b.k == 0
     s.gathOf 7 (fun n => n.run.phase != 0) = some r0 ∧ s.sends.any (isIt 1) = true ∧ s.sends.any (isIt 0) = false ∧ slot7.decKey (slot7.ackIx 1 0 0 / 8) < key 2 0) ∧
    -- a fork of blocks 1 and 9, trimmed or not; block 9 held, or block 8 not; a first miss and a fourth
    (let f (id : Nat) (tr : Bool) : ForkPkt := { slot := 7, prongs := [{ id := 1, src := 1, rcv := 0, dst := 0, idx := 1 }, { id, src := 1, rcv := 2, dst := 2, idx := 0 }], data := [], trimmed := tr }
     (f 9 false).prongs[(f 9 false).own]? = some { id := 1, src := 1, rcv := 0, dst := 0, idx := 1 } ∧ (0 : Nat) = slot7.rank ∧ 1 < slot7.total ∧
     (coded (gath [1]) 0 true).ecc = [] ∧
     (let rest := ((f 9 false).prongs.zip (List.range 2)).filter (fun q => q.2 != 0)
      rest.map (fun q => slot7.held.find? (fun h => h.id == q.1.id)) = [({ id := 9, place := 0, used := 0 } : Held)].map some) ∧
     (let rest := ((f 8 false).prongs.zip (List.range 2)).filter (fun q => q.2 != 0)
      rest.any (fun q => slot7.held.all (fun h => h.id != q.1.id)) = true) ∧
     slot7.policy ≠ 1 ∧ (gath [1, 2]).run.miss < 3 ∧ 3 ≤ (gath [1, 3]).run.miss ∧ (f 9 true).trimmed = true ∧ (0 : Nat) = (coded (gath [1]) 0 true).nodeId) ∧
    (max (gath [1]).start (gath [1]).due + 30 * 100000 ≤ (coded (gath [1]) 0 true).now) ∧
    -- the router: two packets that part at the next node, and none; announcements that this router keeps, has, has no room for, and does not see
    (let p : CPkt := { slot := 7, p := { id := 1, src := 0, rcv := 1, dst := 2, idx := 0 }, data := [1] }
     let q : CPkt := { slot := 7, p := { id := 2, src := 0, rcv := 2, dst := 0x11, idx := 0 }, data := [2] }
     let s := { coded (gath [1]) 0 true with sideInfo := [(7, 1, 2), (7, 2, 1)] }
     s.outOf p = 0 ∧ s.codable [p] = true ∧ s.codable [p, q] = true ∧ (s.slot 7).owner.isSome = true ∧ (s.pickFork []).length < 2) ∧
    (let s := coded (gath [1]) 0 true
     s.stores { slot := 7, id := 3, rank := 1, nodes := [0, 1] } = true ∧ s.stores { slot := 7, id := 3, rank := 0, nodes := [0, 1] } = false ∧
     (7, 1, 2) ∈ [(7, 1, 2)] ∧ (s.sideInfo.filter (fun w => w.1 == 7)).length < 4096 ∧
     4096 ≤ (((List.replicate 4096 (7, 0, 0)).filter (fun (w : Nat × Nat × Nat) => w.1 == 7)).length)) := by
  and_intros <;> decide +kernel

/-- Page tables at 0x10000 map function 0's first GiB onto the HBM's; a nest record lies at 0x2000. -/
def tables : Memory := [(0x2000, 0x40), (0x2008, 1), (0x2010, 4), (0x2014, 1), (0x10000, 1), (0x10001, 0x10), (0x10002, 1), (0x11000, 1), (0x11001, 0x20),
  (0x11002, 1), (0x12000, 0x1F)]
/-- Launch queue 63 is enabled and holds one record: of a context, of a nest, or of no core. -/
def lq63 (k : Nat) : State :=
  let at' (o : Nat) : Nat := key 5 (63 * 0x4000 + o)
  { State.reset.setFunc 0 { cores := 1, root := 0x10000, trees := 1, flags := 0x10000 } with
    mem := tables ++ (if k = 0 then [(at' 16, 1)] else if k = 1 then [(at' 8, 1), (at' 16, 1), (at' 33, 0x20)] else [(at' 8, 2)]),
    lqs := (Vector.replicate 64 {}).set 63 { qctl := 0x80, tail := 1, arr := [(1, 0)] } }
def qOf (s : State) : Option (Nat × Nat × Bool) := s.nextQueue.map (fun p => (p.1, s.recErr p.1 p.2, p.2.isNest))
def nestAt (cs : List NestCtx) : State := { (lq63 0) with nests := (Vector.replicate 16 none).set 15 (some { nestOne with ctxs := cs }) }
/-- Core 0 idle, with one context saved for it. -/
def idle (v : Saved) : State := { lq63 0 with saved := [v] }
def ended : Ctx := { c0 with ended := some 3, den := true, dflag := 511 }
def joining (flt : Nat) : Ctx := { c0 with joinTok := [(15, 9, true)], joins := (Vector.replicate 16 {}).set 15 { ok := 1, flt }, toks := [9] }
/-- A task command of core 0 that runs, its function holding trees and egress queues. -/
def task (i : Instr) (a b : Word) (x : Ctx) (q : EgQueue) : State :=
  { late x { fi i a b 0 with ext := [0] } with eqs := Vector.replicate 32 q, funcs := (lq63 0).funcs, trees := Vector.replicate 16 { c := (Vector.replicate 128 0).set 0 5, fen := true }, now := 3000000 }
def rel0 (i : Instr) (a b : Word) (x : Ctx) (q : EgQueue) : Bool :=
  let s := task i a b x q
  match s.cmd? r0 with
  | some m => m.started && !m.faulted && m.fail.isNone && m.inb.isNone && m.eng == .fi && (s.ctxOf 0).released m && decide (m.t0 + 30 * s.ftmo ≤ s.now)
  | none => false
theorem wit_TaskEvents :
    -- TAIL: of an enabled queue, and outside the rules
    (let s := { lq63 0 with boot := 5 }; let l := s.lq 63
     5 ≤ s.boot ∧ s0.boot < 5 ∧ Who.mayUse .pf s 0 = true ∧ s.mem.wf = true ∧ l.qctl.getLsbD 7 = true ∧ l.tail.toNat < 64 ∧ 64 ≤ l.head.toNat + 64 ∧ l.head.toNat + 64 < 65 ∧
       (s.lq 0).qctl.getLsbD 7 = false) ∧
    -- launches
    (qOf (lq63 0) = some (63, 0, false) ∧ qOf (lq63 1) = some (63, 0, true) ∧ qOf (lq63 2) = some (63, 1, false) ∧ (lq63 0).now % 8 = 0 ∧ 7 % 8 ≠ 0) ∧
    (((lq63 1).fnRead 0 0x2000 64 false).toOption.bind nestOf = some (64, [(4, 1)]) ∧ (lq63 1).nests[(0 : Fin 16)] = none) ∧
    -- grants: the first of a nest, and a split of the greatest rest
    ((List.range 2).all (fun i =>
      let cs : List NestCtx := if i = 0 then [] else [{ serial := 1, cur := 1, fin := 2 }, { serial := 2, cur := 0, fin := 4 }, { serial := 3, cur := 0, fin := 4 }]
      let s := nestAt cs
      !(s.core 0).busy && s.bestWork 0 == some { prio := 0, since := 0, ref := .nest 15 } && (match s.nests[(15 : Fin 16)] with | some n => n.ctxs == cs | none => false)) = true) ∧
    ((nestAt [{ serial := 1, cur := 2, fin := 2, living := false }]).nests[(15 : Fin 16)].isSome = true ∧ ([{ serial := 1, cur := 2, fin := 2, living := false }] : List NestCtx) ≠ []) ∧
    -- retirement, joins
    (ended.ended = some 3 ∧ ended.issuing = false ∧ (∀ k ∈ ended.cmds, k.done = true) ∧ ended.toks = [] ∧ ended.gacc = [] ∧ ended.tokDue = [] ∧ ended.portQ = [] ∧ ended.trapDue = none ∧ ended.pend = [] ∧
      ended.engFaults = [] ∧ ended.nestOf = none ∧ ended.den = true ∧ ended.dflag < 512) ∧
    ((List.range 2).all (fun f => (joining f).joinTok.find? (fun p => p.1 == 15) == some (15, 9, true) && (joining f).joins[(15 : Fin 16)].pend == 0 &&
      (joining f).joins[(15 : Fin 16)].flt == f) = true) ∧
    -- task commands perform: egress queues with room and without; releases; counters; contexts spawned
    ([({} : EgQueue), { put := 256 }].all (fun q => rel0 (.egput ecmd) 31 0x8000 c0 q) = true) ∧
    ([(({ ctl := 0x100 } : EgQueue), 0#64), ({}, 0), ({ put := 4, rel := 2 }, 1), ({ put := 4, rel := 2 }, 3)].all (fun q =>
      rel0 (.egrel ecmd) 31 q.2 c0 q.1 && rel0 (.egdrop ecmd) 31 q.2 c0 q.1) = true ∧ bits (0x100#64).toNat 8 32 ≠ c0.ctxid.toNat) ∧
    ([(0xFFFFFFFF#64), 1].all (fun b => rel0 (.ecinit ecmd) 0x7F00 b c0 {}) && [(6#64), 5, 1].all (fun b => rel0 (.ecdone ecmd) 15 b c0 {})) = true ∧
    (((task (.ecdone ecmd) 15 5 c0 {}).trees.toList.getD 15 {}).c.toList.getD 0 0 = 5) ∧
    ([(0x1F#64), 0].all (fun b => rel0 (.spawn ecmd) 0x9000 b c0 {}) = true ∧ (LRec.of (List.replicate 128 0)).isNest = false ∧
      1023 < (({ c0 with joins := Vector.replicate 16 { pend := 1023 } } : Ctx).joins.toList.getD 15 {}).pend + 1 ∧ (c0.joins.toList.getD 15 {}).pend + 1 ≤ 1023) ∧
    -- laps, placement, ages, egress slots
    (2048 % 2048 = 0 ∧ 1 % 2048 ≠ 0 ∧ s0.limNew = none ∧ ({ s0 with limNew := some (5, 6) } : State).limNew = some (5, 6) ∧ s0.works 1 = []) ∧
    (let s := { s0 with cores := s0.cores.set 0 { s0.core 0 with ctx := { c0 with wait := some (waitOn 0 false 9) } }, saved := [savedOne] }
     (s.core 0).busy = true ∧ (s.core 0).stop = none ∧ (s.ctxOf 0).ended = none ∧ (s.ctxOf 0).wait.isSome = true ∧ s.works 0 ≠ []) ∧
    ([savedOne, { savedOne with fresh := true }].all (fun v => (idle v).bestWork 0 == some { prio := 7, since := 0, ref := .ctx 0 } && !((idle v).core 0).busy &&
      (idle v).images == [] && ((idle v).core 0).ring == none) = true) ∧
    (savedOne.phase = .ready ∧ savedOne.since + 30 * 100000 ≤ 3000000 ∧ nestOne.since + 30 * 100000 ≤ 3000000 ∧ ∃ u ∈ nestOne.ctxs, u.cur < u.fin) ∧
    (Who.mayUse (.vf 0) s0 0 = true ∧ Who.mayUse (.vf 1) s0 0 = false ∧ (let k : EgQueue := { put := 4, rel := 2 }
      (∃ j, j < 256 ∧ k.rel.toNat + j < k.put.toNat ∧ (k.rel.toNat + j) % 256 = 3) ∧ (k.rel.toNat + 2) % 256 = 4)) := by
  and_intros <;> decide +kernel

/- Long reads and writes of virtual bytes of one page of the own node go through. -/
def bigPage : TlbEnt := { va := 0, size := 2 ^ 32, pa := 0, fn := 0, asid := 0, g := false, cf := false, x := true, w := true, r := true }
/-- Core 0 has the context `x` and the page in its TLB; no word is marked. -/
def OnPage (x : Ctx) (s : State) : Prop := (s.core 0).tlb = [bigPage] ∧ (s.core 0).ctx = x ∧ s.torus = 0 ∧ s.ecc = [] ∧ s.cur = 0
theorem node_of_low {pa : Nat} (h : pa < 2 ^ 32) : paNode pa = 0 ∧ paKind pa = 0 ∧ paOff pa = pa := by
  simp only [paNode, paKind, paOff, bits]; omega
theorem xlate_onPage {x : Ctx} {s : State} (h : OnPage x s) (hx : x.tfn = 0 ∧ x.asid = 0 ∧ x.conf = false) {va n : Nat} (hv : va + n ≤ 2 ^ 32) (h0 : va < 2 ^ 32)
    (k : AccK) : (s.xlate 0 va n k).2 = .ok va ∧ OnPage x (s.xlate 0 va n k).1 ∧ (s.xlate 0 va n k).1.mem = s.mem := by
  obtain ⟨ht, hc, hn, he, hq⟩ := h
  obtain ⟨pn, pk, po⟩ := node_of_low h0
  have hid : s.nodeId = 0 := by simp [State.nodeId, hn, bits]
  have hit : s.tlbHit 0 va = some bigPage := by
    have : va / 4294967296 = 0 := Nat.div_eq_of_lt (by omega)
    simp [State.tlbHit, State.ctxOf, hc, hx.1, hx.2.1, ht, tlbFind, TlbEnt.hits, bigPage, this]
  have hn' : (s.tlbFill 0 bigPage).nodeId = 0 := by simpa [State.nodeId, State.tlbFill, State.setCore] using hid
  have hp' : (s.tlbFill 0 bigPage).physFault x.fn.val va n = none := by
    have : va + n ≤ 2 ^ 39 := by omega
    simp only [State.physFault, State.reachable, pn, pk, po, hn']; simp; omega
  have hm : va % 2 ^ 32 = va := Nat.mod_eq_of_lt h0
  have hl : leafOk bigPage x.conf k = true := by cases k <;> simp [leafOk, bigPage]
  have hv57 : ¬ 2 ^ 57 ≤ va := by omega
  have e : s.xlate 0 va n k = (s.tlbFill 0 bigPage, .ok va) := by
    have ha : bigPage.pa + va % bigPage.size = va := by simp [bigPage]; omega
    simp only [State.xlate, hv57, if_false, hit, State.ctxOf, hc, hl, ha, hp']
    simp
  refine ⟨by rw [e], ?_⟩
  rw [e]
  refine ⟨⟨?_, ?_, ?_, ?_, hq⟩, rfl⟩
  · have ht' : s.cores[0].tlb = [bigPage] := ht
    simp [State.tlbFill, State.setCore, State.core, tlbAdd, ht']
  · simpa [State.tlbFill, State.setCore, State.core] using hc
  · simpa [State.tlbFill, State.setCore] using hn
  · simpa [State.tlbFill, State.setCore] using he
theorem mem_chunks {va n : Nat} {ch : Nat × Nat} (h : ch ∈ chunks va n) : ch.1 + ch.2 ≤ va + n ∧ ch.1 < va + n := by
  unfold chunks at h
  split at h
  · simp at h
  · rename_i hn
    simp at hn h
    obtain ⟨i, hi, rfl⟩ := h
    simp only; omega
theorem write_onPage {x : Ctx} (hx : x.tfn = 0 ∧ x.asid = 0 ∧ x.conf = false) {s : State} (h : OnPage x s) {va : Nat} {bs : List Byte}
    (hv : va + bs.length ≤ 2 ^ 32) : (s.gWriteVa 0 va bs (.ok []) sysPol).2 = none ∧ OnPage x (s.gWriteVa 0 va bs (.ok []) sysPol).1 := by
  have hs : ∀ ch ∈ chunks va bs.length, ch.1 + ch.2 ≤ 2 ^ 32 ∧ ch.1 < 2 ^ 32 := fun ch hc => by have := mem_chunks hc; omega
  unfold State.gWriteVa
  generalize chunks va bs.length = cs at hs
  generalize hF : (fun (a : State × Option (TrapClass × Nat)) (ch : Nat × Nat) => _) = F
  let P (r : State × Option (TrapClass × Nat)) : Prop := r.2 = none ∧ OnPage x r.1
  suffices H : ∀ (cs : List (Nat × Nat)) (a : State × Option (TrapClass × Nat)), (∀ ch ∈ cs, ch.1 + ch.2 ≤ 2 ^ 32 ∧ ch.1 < 2 ^ 32) → a.2 = none → OnPage x a.1 → P (cs.foldl F a) from
    H cs (s, none) hs rfl h
  intro cs
  induction cs with
  | nil => exact fun a _ h2 h1 => ⟨h2, h1⟩
  | cons ch cs ih =>
    intro a hs h2 h1
    have hc := hs ch List.mem_cons_self
    obtain ⟨e, p, -⟩ := xlate_onPage h1 hx hc.1 hc.2 .wr
    rw [List.foldl_cons]
    refine ih _ (fun c hm => hs c (List.mem_cons_of_mem _ hm)) ?_ ?_
    all_goals
      subst hF
      simp only [h2]
      generalize a.1.xlate 0 ch.1 ch.2 .wr = r at e p
      obtain ⟨u, q⟩ := r
      obtain ⟨pn, pk, po⟩ := node_of_low hc.2
      have hid : u.nodeId = 0 := by
        have := p.2.2.1
        simp only at this
        simp [State.nodeId, this, bits]
      simp only at e
      subst e
      simp [sysPol, plainKind, State.gWrite, pn, pk, hid]
    obtain ⟨a1, a2, a3, a4, a5⟩ := p
    exact ⟨a1, a2, a3, by simp only at a4; simp [State.store, clearEcc, a4], a5⟩
/-- The bytes of virtual addresses of the page. -/
def pageBytes (m : Memory) (va n : Nat) : List Byte := (chunks va n).flatMap (fun ch => m.read (paKey ch.1) ch.2)
theorem read_onPage {x : Ctx} (hx : x.tfn = 0 ∧ x.asid = 0 ∧ x.conf = false) {s : State} (h : OnPage x s) {va n : Nat} (l : List Byte)
    (hv : va + n ≤ 2 ^ 32) : (s.gReadVa 0 va n (.ok l) sysPol).2 = .ok (pageBytes s.mem va n) ∧ OnPage x (s.gReadVa 0 va n (.ok l) sysPol).1 := by
  have hs : ∀ ch ∈ chunks va n, ch.1 + ch.2 ≤ 2 ^ 32 ∧ ch.1 < 2 ^ 32 := fun ch hc => by have := mem_chunks hc; omega
  unfold State.gReadVa pageBytes
  generalize chunks va n = cs at hs
  generalize hF : (fun (a : State × Except (TrapClass × Nat) (List Byte)) (ch : Nat × Nat) => _) = F
  suffices H : ∀ (cs : List (Nat × Nat)) (a : State × Except (TrapClass × Nat) (List Byte)) (got : List Byte),
      (∀ ch ∈ cs, ch.1 + ch.2 ≤ 2 ^ 32 ∧ ch.1 < 2 ^ 32) → a.2 = .ok got → OnPage x a.1 → a.1.mem = s.mem →
      (cs.foldl F a).2 = .ok (got ++ cs.flatMap (fun ch => s.mem.read (paKey ch.1) ch.2)) ∧ OnPage x (cs.foldl F a).1 from H cs (s, .ok []) [] hs rfl h rfl
  intro cs
  induction cs with
  | nil => exact fun a got _ h2 h1 _ => ⟨by simpa using h2, h1⟩
  | cons ch cs ih =>
    intro a got hs h2 h1 h3
    have hc := hs ch List.mem_cons_self
    obtain ⟨e, p, pm⟩ := xlate_onPage h1 hx hc.1 hc.2 .rd
    rw [List.foldl_cons, List.flatMap_cons, ← List.append_assoc]
    refine ih _ _ (fun c hm => hs c (List.mem_cons_of_mem _ hm)) ?_ ?_ ?_
    all_goals
      subst hF
      simp only [h2]
      generalize a.1.xlate 0 ch.1 ch.2 .rd = r at e p pm
      obtain ⟨u, q⟩ := r
      obtain ⟨pn, pk, po⟩ := node_of_low hc.2
      have hid : u.nodeId = 0 := by
        have := p.2.2.1
        simp only at this
        simp [State.nodeId, this, bits]
      have he : u.ecc = [] := p.2.2.2.1
      simp only at e pm
      subst e
      simp [sysPol, plainKind, State.gRead, pn, pk, hid, he, eccHit, State.own, State.load, pm, h3]
    exact p
theorem puts_onPage {x : Ctx} (hx : x.tfn = 0 ∧ x.asid = 0 ∧ x.conf = false) (l : List (Nat × List Byte)) :
    ∀ {s : State}, OnPage x s → (∀ w ∈ l, w.1 + w.2.length ≤ 2 ^ 32) → ∃ u, s.sysPuts l = (u, none) := by
  induction l with
  | nil => exact fun _ _ => ⟨_, rfl⟩
  | cons w l ih =>
    intro s h hl
    have hc := h.2.2.2.2
    obtain ⟨e, p⟩ := write_onPage hx h (hl w List.mem_cons_self)
    obtain ⟨u, hu⟩ := ih p (fun v hv => hl v (List.mem_cons_of_mem _ hv))
    refine ⟨u, ?_⟩
    rw [State.sysPuts, State.sysPut, hc, ← hu]
    generalize s.gWriteVa 0 w.1 w.2 (.ok []) sysPol = r at e
    obtain ⟨v, q⟩ := r
    simp only at e
    subst e
    rfl
theorem get_onPage {x : Ctx} (hx : x.tfn = 0 ∧ x.asid = 0 ∧ x.conf = false) {s : State} (h : OnPage x s) {va n : Nat} (hv : va + n ≤ 2 ^ 32) :
    (s.sysGet va n).2 = .ok (pageBytes s.mem va n) ∧ OnPage x (s.sysGet va n).1 := by
  have hc := h.2.2.2.2
  have hf : OnPage x { s with free := s.free + 1 } := h
  have e : s.sysGet va n = { s with free := s.free + 1 }.gReadVa 0 va n (.ok ((List.range n).map (Config.farByte s.free))) sysPol :=
    congrArg (fun c => { s with free := s.free + 1 }.gReadVa c va n (.ok ((List.range n).map (Config.farByte s.free))) sysPol) hc
  rw [e]
  exact read_onPage hx hf _ hv

theorem leBytes_len (n : Nat) : ∀ v, (leBytes v n).length = n := by
  induction n with
  | zero => intro v; rfl
  | succ n ih => intro v; simp [leBytes, ih]
theorem padTo_len (n : Nat) (l : List Byte) : (padTo n l).length = n := by simp [padTo]; omega
theorem span_len (n : Nat) : ∀ (m : Memory) (a : Nat), (Memory.span m a n).length = n := by
  induction n with
  | zero => intro m a; cases m <;> simp [Memory.span]
  | succ n ih =>
    intro m a
    cases m with
    | nil => simpa [Memory.span] using ih [] (a + 1)
    | cons e r => simp only [Memory.span]; split <;> simp [ih]
theorem bufLoad_len (s : State) (c : CoreId) (sp : Space) (o n : Nat) : (s.bufLoad c sp o n).length = n := by
  simp [State.bufLoad, State.load, Memory.read, span_len]
theorem flat_len {α : Type} (f : α → List Byte) (k : Nat) (h : ∀ a, (f a).length = k) (l : List α) : ((l.map f).flatten).length = l.length * k := by
  induction l with
  | nil => simp
  | cons a l ih => simp only [List.map_cons, List.flatten_cons, List.length_append, ih, h, List.length_cons]; ring
/-- A context with few parts has an image shorter than 1 MiB. -/
structure Plain (x : Ctx) : Prop where
  reg : x.regions = []
  lb : x.lbufs = Vector.replicate 16 none
  ch : x.chain = none
  pe : x.pend = []
  sa : x.sa.grp.length = 16
  va : x.va.grp.length = 16
  fl : x.flight.length ≤ 1
theorem wordBytes_len (w : Word) : (wordBytes w).length = 8 := leBytes_len 8 _
theorem section_len (a : Arr) (seq : Nat) (b : Bool) (h : a.grp.length = 16) : (a.section seq b).length = 66688 := by
  simp [Arr.section, Arr.record, padTo_len, leBytes_len, flat_len _ 512 (fun _ => padTo_len 512 _), Function.comp_def, h]
theorem imageLen_le {s : State} {c : CoreId} {x : Ctx} (h : Plain x) (t0 : Nat) : s.imageLen c x t0 ≤ 0x100000 := by
  have seq : (s.seqSection (s.core c) x false).length ≤ 4096 := by
    have : (xferBytes x.xfer).length = 16 := by cases hx : x.xfer <;> simp [xferBytes, leBytes_len]
    simp [State.seqSection, padTo_len, leBytes_len, flat_len _ 16 (fun _ => leBytes_len 16 _), wordBytes_len, loopBytes, this, Function.comp_def]
  have fl : (flightArea x.flight t0).length = 14656 := by simp [flightArea, padTo_len]
  have wt : (x.waitSection t0).length ≤ 136 := by
    have := h.fl
    simp [Ctx.waitSection, padTo_len, h.pe, flat_len _ 8 (fun _ => leBytes_len 8 _)]
    match hf : x.flight, this with
    | [], _ => simp [frameOrder, sortFin]
    | [f], _ => cases hr : f.row <;> simp [frameOrder, sortFin, insFin, hr]
  have tl : ((((List.range 16).filter (fun t => x.liveT.getLsbD t)).map x.tile).flatten).length ≤ 65536 := by
    have e (t : Nat) : (x.tile t).length = 4096 := by simp [Ctx.tile, flat_len _ 512 (fun _ => leBytes_len 512 _)]
    rw [flat_len _ 4096 e]
    have := List.length_filter_le (fun t => x.liveT.getLsbD t) (List.range 16)
    simp at this ⊢; omega
  have tb : x.tables.length = 2048 := by simp [Ctx.tables, leBytes_len, Function.comp_def]
  have jb : (s.jbSection c x.pages).length ≤ 262152 := by
    simp only [State.jbSection, List.length_append, leBytes_len]
    rw [flat_len _ 4096 (fun p => bufLoad_len s c .jb (4096 * p) 4096)]
    have := List.length_filter_le (fun i => x.pages.getLsbD i) (List.range 64)
    simp [pageList] at this ⊢; omega
  have lk : (s.linkSection c x).length = 0 := by simp [State.linkSection, h.lb]
  simp only [State.imageLen, State.imageSections, h.reg, h.ch, List.map_cons, List.map_nil, List.foldl_cons, List.foldl_nil, section_len, h.sa, h.va, tb, lk, fl]
  generalize (((List.range 16).filter (fun t => x.liveT.getLsbD t)).map x.tile).flatten = tiles at tl
  simp only [List.flatten_nil, List.length_nil]; omega
theorem directory_len (secs : List (List Byte)) : (directory secs).length = 8 * secs.length := by
  unfold directory
  generalize hF : (fun (a : List (List Byte) × Nat) (sec : List Byte) => _) = F
  suffices H : ∀ (l : List (List Byte)) (a : List (List Byte) × Nat), (l.foldl F a).1.flatten.length = a.1.flatten.length + 8 * l.length from by
    have := H secs ([], 256); simpa using this
  intro l
  induction l with
  | nil => simp
  | cons b l ih =>
    intro a
    rw [List.foldl_cons, ih]
    subst hF
    by_cases hb : b.isEmpty <;> simp [hb, leBytes_len] <;> omega
theorem foldl_len (l : List (List Byte)) : ∀ n, (l.map List.length).foldl (· + ·) n = n + l.flatten.length := by
  induction l with
  | nil => simp
  | cons a l ih => intro n; simp only [List.map_cons, List.foldl_cons, ih, List.flatten_cons, List.length_append]; omega
theorem image_len {s : State} {c : CoreId} {x : Ctx} (h : Plain x) (hc : x.conf = false) (t0 : Nat) : (s.image c x t0).length ≤ 0x101000 := by
  have e := imageLen_le (s := s) (c := c) h t0
  rw [State.imageLen, foldl_len] at e
  have d : (s.imageSections c x t0).length = 11 := rfl
  simp only [State.image, hc, if_false, Bool.false_eq_true, List.length_append, padTo_len, leBytes_len, wordBytes_len, directory_len, d, List.length_replicate]
  omega
/-- s1 = 0x1000 and s2 = 0x100000: an image's address and length. -/
def xi : Ctx := { s := regs [0, 0x1000, 0x100000, 1], liveBuf := false }
/-- Core 0 with a page of the own node, and this memory. -/
def onp (m : Memory) : State := { State.reset.setCore 0 { ctx := xi, busy := true, tlb := [bigPage] } with mem := m }
/-- At 0x1000 an image's header: version 1, its length, and the places of its sections (R417). -/
def hdr : Memory :=
  [(4096, 1), (4112, 200), (4113, 83), (4114, 2), (4129, 1), (4133, 8), (4137, 9), (4140, 64), (4141, 57), (4144, 64), (4145, 66), (4148, 128), (4160, 192), (4161, 66), (4165, 8), (4168, 192), (4169, 74), (4172, 8), (4184, 200), (4185, 74), (4188, 128), (4189, 4), (4190, 1), (4192, 72), (4193, 79), (4194, 1), (4196, 128), (4197, 4), (4198, 1)]
theorem onPage_onp (m : Memory) : OnPage xi (onp m) := ⟨rfl, rfl, rfl, rfl, rfl⟩
theorem xi_ok : xi.tfn = 0 ∧ xi.asid = 0 ∧ xi.conf = false := by decide +kernel
/-- What `ctxsave` saves: the context with its own result in flight. -/
def xj (v : Nat) : Ctx := { xi with flight := [{ fin := 1, born := 0, code := sCode (.s 9), slot := .e, val := BitVec.ofNat 64 v }] }
theorem plain_xj (v : Nat) : Plain (xj v).advance := ⟨rfl, rfl, rfl, rfl, rfl, rfl, Nat.le_refl _⟩
theorem pair_of {α β : Type} {r : α × β} {b : β} (h : r.2 = b) : r = (r.1, b) := by subst h; rfl
theorem imageLen_pos (s : State) (c : CoreId) (x : Ctx) (t0 : Nat) : 0 < s.imageLen c x t0 := by unfold State.imageLen; omega
theorem puts_image (img : List Byte) (h : img.length ≤ 0x101000) :
    ∃ u, (onp []).sysPuts [(0x1000, leBytes 0 8), (0x1008, img.drop 8), (0x1000, img.take 8)] = (u, none) := by
  refine puts_onPage xi_ok _ (onPage_onp []) ?_
  intro w hw
  simp only [List.mem_cons, List.not_mem_nil, or_false] at hw
  rcases hw with rfl | rfl | rfl
  · simp [leBytes_len]
  · simp only [List.length_drop]; omega
  · simp only [List.length_take]; omega
theorem puts_dump (body : List Byte) (n w c : Nat) (t : Bool) :
    ∃ u, (onp []).sysPuts [(0x1040, body.take (0x100000 - 64)), (0x1000, dumpHeader n w c t false [] [])] = (u, none) := by
  refine puts_onPage xi_ok _ (onPage_onp []) ?_
  intro w hw
  simp only [List.mem_cons, List.not_mem_nil, or_false] at hw
  rcases hw with rfl | rfl
  · simp only [List.length_take]; omega
  · simp [dumpHeader, leBytes_len, padTo_len]
theorem puts_unmapped (l : List (Nat × List Byte)) : ∃ u, (st xi).sysPuts ((0x1000, leBytes 0 8) :: l) = (u, some (.page, 0x1000)) := by
  have e : ((st xi).sysPut 0x1000 (leBytes 0 8)).2 = some (.page, 0x1000) := by decide +kernel
  refine ⟨((st xi).sysPut 0x1000 (leBytes 0 8)).1, ?_⟩
  rw [State.sysPuts, pair_of e]
theorem xj_conf (v : Nat) : (xj v).advance.conf = false := by
  have h : (xj v).conf = false := by simp only [xj, Ctx.conf]; decide
  rw [← h]; rfl
/-- `ctxsave`: a length that is no multiple of 64, a length too short; an image that is written, and one that is not. -/
theorem wit_SaveEvents_ctxsave : xi.guard {} = true ∧ (1#64).toNat % 64 ≠ 0 ∧ (0x100000#64).toNat % 64 = 0 ∧ 0 < (onp []).imageLen 0 (xj 0).advance 1 ∧
    ((xi.src (.s 2)).toNat = 0x100000 ∧ (onp []).imageLen 0 (xj 0).advance 1 ≤ 0x100000) ∧ xi.conf = false ∧
    (∀ v, ∃ u, (onp []).sysPuts [(0x1000, leBytes 0 8), (0x1008, ((onp []).image 0 (xj v).advance 1).drop 8),
      (0x1000, ((onp []).image 0 (xj v).advance 1).take 8)] = (u, none)) ∧
    (∀ l, ∃ u, (st xi).sysPuts ((0x1000, leBytes 0 8) :: l) = (u, some (.page, 0x1000))) :=
  ⟨by decide +kernel, by decide +kernel, by decide +kernel, imageLen_pos _ _ _ _, ⟨by decide +kernel, imageLen_le (plain_xj 0) _⟩, by decide +kernel,
    fun v => puts_image _ (image_len (plain_xj v) (xj_conf v) _), puts_unmapped⟩
theorem good_header : xi.headerOk (pageBytes hdr 0x1000 256) = true ∧ rdOf (pageBytes hdr 0x1000 256) 16 8 = 152520 := by decide +kernel
theorem bad_header : xi.headerOk (pageBytes [] 0x1000 256) = false := by decide +kernel
theorem gets_image (h : List Byte) (m : Memory) (e : pageBytes m 0x1000 256 = h) (l : rdOf h 16 8 = 152520) : ∃ u v ct, (onp m).sysGet 0x1000 256 = (u, .ok h) ∧
    u.sysGet 0x1100 (rdOf h 16 8 - 256) = (v, .ok ct) := by
  have g := get_onPage xi_ok (onPage_onp m) (va := 0x1000) (n := 256) (by norm_num)
  have hm : (onp m).mem = m := rfl
  rw [hm, e] at g
  have k := (get_onPage xi_ok g.2 (va := 0x1100) (n := rdOf h 16 8 - 256) (by rw [l]; norm_num)).1
  exact ⟨_, _, _, pair_of g.1, pair_of k⟩
/-- `ctxrest`: a header of zeros, and a good one with its sections. -/
theorem wit_SaveEvents_ctxrest : xi.status.getLsbD 0 = false ∧ xi.chain = none ∧ ({ xi with status := 1 } : Ctx).status.getLsbD 0 = true ∧
    (∃ u h, (onp []).sysGet 0x1000 256 = (u, .ok h) ∧ xi.headerOk h = false) ∧
    (∃ h u v ct, (onp hdr).sysGet 0x1000 256 = (u, .ok h) ∧ u.sysGet 0x1100 (rdOf h 16 8 - 256) = (v, .ok ct) ∧ xi.headerOk h = true) := by
  refine ⟨by decide +kernel, by decide +kernel, by decide +kernel, ?_, ?_⟩
  · have g := (get_onPage xi_ok (onPage_onp []) (va := 0x1000) (n := 256) (by norm_num)).1
    exact ⟨_, _, pair_of g, bad_header⟩
  · obtain ⟨u, v, ct, e, k⟩ := gets_image _ hdr rfl good_header.2
    exact ⟨_, u, v, ct, e, k, good_header.1⟩
/-- `dump`: a length that is no multiple of 64 or below 64, an address that is none; a dump that is written. -/
theorem wit_SaveEvents_dump : (63#64).toNat % 64 ≠ 0 ∧ (0#64).toNat < 64 ∧ (0x1001#64).toNat % 64 ≠ 0 ∧
    (∀ x n w c t, ∃ u, (onp []).sysPuts [(0x1040, ((onp []).dumpBody 0 x 1).take (0x100000 - 64)), (0x1000, dumpHeader n w c t false [] [])] = (u, none)) :=
  ⟨by decide, by decide, by decide, fun _ n w c t => puts_dump _ n w c t⟩

/-- A trap frame's area in the JB of core 0 with byte 1 = 4 (engine ME), and a handler that runs. -/
def inHandler (x : Ctx) : State := { st { x with status := 1 } with mem := [(bufKey 0 .jb 0x4001, 4)] }
def pre0 : Pre := { fp := 0, sm := 0, am0 := 0, am1 := 0, sp := 0, loopst := 0, act := false }
/-- A core with a trace ring of 64 records at 0x10000. -/
def ringed : State := State.reset.setCore 0 { ctx := { c0 with status := 0x10 }, busy := true, trbase := 0x10006 }
theorem wit_SystemSyllables :
    (c0.kpos = none ∧ ¬ c0.handles .align ∧ ({ c0 with trapvec := 0x41 } : Ctx).handles .align) ∧
    (c0.guard {} = true ∧ ({ c0 with status := 4 } : Ctx).status.getLsbD 2 = true ∧ c0.hits = [] ∧ c0.status.getLsbD 2 = false ∧ c0.status.getLsbD 0 = false ∧
      (s0.core 0).holdUntil ≤ s0.now + 1 ∧ (let s := s0.setCore 0 { s0.core 0 with holdUntil := 9 }; s.now + 1 < (s.core 0).holdUntil)) ∧
    (let s := inHandler c0
     s.ctx.status.getLsbD 0 = true ∧ s.sound (bufKey 0 .jb 0x4000) 0x3A40 ∧ (∀ m ∈ s.ctx.cmds, m.faulted = false) ∧ (s.core 0).ring = none ∧
     s.mem.num (bufKey 0 .jb 0x4000) 8 / 2 ^ 10 % 2 ^ 3 ≠ 0 ∧ s.mem.wf = true ∧ s.ctx.flight = []) ∧
    (let m := me (.mcfg ecmd) 0 0 0
     let s := inHandler { c0 with cmds := [m] }
     s.ctx.cmds.find? (fun m => m.seq == BitVec.ofNat 32 (s.mem.num (bufKey 0 .jb 0x4010) 4) && !m.done) = some m ∧ m.tok ≠ 0) ∧
    (let s := st { c0 with status := 1 }; s.mem.num (bufKey 0 .jb 0x4000) 8 / 2 ^ 10 % 2 ^ 3 = 0 ∧ s.ctx.status.getLsbD 0 = true) ∧
    -- `sysrd` and `syswr`: a register of each kind, and each mask met and broken
    (({ c0 with pre := some pre0 } : Ctx).pre = some pre0 ∧ (0x0A1#16).toNat = 0x0A1 ∧ (0x02F#16).toNat = 0x020 + (15 : Fin 16).val ∧ (0x016#16).toNat = 0x016 ∧
      (0xFFFF#16).toNat ≥ 0x0A2) ∧
    ((0x1F#64) &&& ~~~0x1F#64 = 0 ∧ (0x20#64) &&& ~~~0x1F#64 ≠ 0 ∧ (BitVec.allOnes 64) &&& ~~~BitVec.allOnes 64 = 0 ∧ (0x1000100#64).toNat % 2 ^ 9 + (0x1000100#64).toNat / 2 ^ 16 % 2 ^ 10 = 512 ∧
      512 < (0x1000101#64).toNat % 2 ^ 9 + (0x1000101#64).toNat / 2 ^ 16 % 2 ^ 10) ∧
    (c0.flight = [] ∧ c0.raised = 0 ∧ c0.raisedSm = 0 ∧ c0.raisedAm = none ∧ fmtOk 11 = true ∧ bpvOk 0 0xFFFF = true ∧ bpcOk 0 0 4 = true) ∧
    -- `trace`: off, and into a ring
    (c0.status.getLsbD 4 = false ∧ ringed.ctx.status.getLsbD 4 = true ∧ (ringed.core 0).ring = some (0x10000, 4096) ∧ (ringed.core 0).trctl.getLsbD 8 = false ∧
      ringed.ecc = [] ∧ ringed.ctx.conf = false ∧ ringed.traceBack 0x10000 4096 3 0 8 = 0) ∧
    -- `jrd` at the end of its area and beyond
    (8 * ((0x7FF#64).toNat % 2 ^ 12) < 0x4000 ∧ 0x4000 ≤ 8 * ((0x800#64).toNat % 2 ^ 12) ∧ s0.sound (bufKey 0 .jb 0 + 0x4000 + 0x3FF8) 8 ∧
      (let u := later (.jrd { g := {}, sub := false, d := .s 9, a := .s 1 })
       u.mem.wf = true ∧ u.performs 0 (s0.portOp .e .jb (.load 40 8 .f32 true)) ∧ (u.ctxOf 0).frameFl = [] ∧ (u.ctxOf 0).flight.map Flight.pid = [s0.ctx.nextPort] ∧
         s0.ctx.nextPort ≠ 0)) := by
  unfold Ctx.handles State.sound State.performs; and_intros <;> decide +kernel

def rcd0 (fatal : Bool) (eng : Eng) : TrapRec := { cls := .ecc, fatal, eng }
def x8 : Ctx := { xi with status := 8 }
/-- Core 0 stopped, with its record; function 0's image area has the length `il`. -/
def stopped (why : StopWhy) (r : Option TrapRec) (il : Word) : State :=
  (State.reset.setCore 0 { ctx := x8, busy := true, stop := some { why, rcd := r, since := 0 } }).setFunc 0 { imglen := il }
theorem plain_x8 : Plain x8 := ⟨rfl, rfl, rfl, rfl, rfl, rfl, Nat.zero_le _⟩
/-- Its commands at rest: it has none. -/
def atRest (il : Word) : State := (stopped .preempt none il).setCtxOf 0 x8
theorem rest_eq (il : Word) : (stopped .preempt none il).restCmds 0 = atRest il := by
  have a : (stopped .preempt none il).runBlocks 0 = [] := rfl
  have b : ((stopped .preempt none il).ctxOf 0).unholdLinks = x8 := by
    show x8.unholdLinks = x8
    simp [Ctx.unholdLinks, x8, xi]
  have d : ((atRest il).ctxOf 0).cmds = [] := rfl
  unfold State.restCmds State.loseBlocks
  rw [a, List.foldl_nil, b]
  exact congrArg (List.foldl _ (atRest il)) d
theorem room_cases (il : Word) : ((stopped .preempt none il).restCmds 0).hasRoom 0 0 = decide ((atRest il).imageLen 0 x8 0 ≤ il.toNat) := by
  rw [rest_eq]
  have a : imgSum ((atRest il).imgList 0) = 0 := rfl
  have b : (atRest il).ctxOf 0 = x8 := rfl
  have d : (atRest il).func 0 = { (State.reset.func 0) with imglen := il } := rfl
  unfold State.hasRoom
  simp only [b]
  show decide (imgSum ((atRest il).imgList 0) + _ ≤ ((atRest il).func 0).imglen.toNat) = _
  rw [a, Nat.zero_add, d]
theorem room_none : ((stopped .preempt none 0).restCmds 0).hasRoom 0 0 = false := by
  rw [room_cases, decide_eq_false_iff_not]
  intro h
  exact absurd (Nat.lt_of_lt_of_le (imageLen_pos (atRest 0) 0 x8 0) h) (by decide)
theorem room_some : ((stopped .preempt none 0x100000).restCmds 0).hasRoom 0 0 = true := by
  rw [room_cases, decide_eq_true_iff]
  exact imageLen_le plain_x8 _
/-- The trap queue's place 63 holds a record, and a saved context waits for its disposal. -/
def queued (fatal : Bool) (eng : Eng) : State :=
  { State.reset with tq := (Vector.replicate 64 none).set 63 (some (rcd0 fatal eng)), saved := [{ savedOne with phase := .trapped 63 }] }
theorem wit_SaveEvents_boundary :
    ((State.reset.core 0).busy = false ∧ (s0.core 0).busy = true ∧ c0.status.getLsbD 3 = false) ∧
    (let y : Ctx := { c0 with status := 8 }
     y.status.getLsbD 3 = true ∧ y.preHeld = false ∧ y.issuing = false ∧ y.ended = none ∧ y.engFaults = [] ∧ y.hits = [] ∧ y.wait = none ∧ (s0.core 0).stop = none ∧
       y.trapDue = none ∧ (s0.core 0).holdUntil ≤ s0.now) ∧
    (let q : TrapRec := { cls := .trap, addr := 9 }; ({ c0 with trapDue := some q } : Ctx).trapDue = some q) ∧
    (let m := { me (.mcfg ecmd) 0 0 0 with fail := some (.ecc, 0, 0) }
     ({ c0 with cmds := [m], engFaults := [0] } : Ctx).engFaults = [m.seq] ∧
       ({ c0 with cmds := [m], engFaults := [0] } : Ctx).cmds.find? (fun z => z.seq == m.seq) = some m ∧ m.fail = some (.ecc, 0, 0)) ∧
    (let p : Pend := { cls := .ecc, pc := 0, slot := .m, seq := 0, addr := 0 }
     ({ c0 with pend := [p] } : Ctx).pendNow 0 none = some p ∧ p.cls ≠ .childFault ∧ c0.pendNow 0 none = none) ∧
    (({ c0 with hits := [{ n := 3, pc := 32, seq := 0 }] } : Ctx).hits = [{ n := 3, pc := 32, seq := 0 }] ∧ c0.status.getLsbD 0 = false) ∧
    (({ xi with status := 8 } : Ctx).gacc = [] ∧ xi.tokDue = [] ∧ xi.portQ = [] ∧ (∀ m ∈ xi.cmds, m.started = false ∨ m.done = true)) ∧
    (((stopped .preempt none 0).restCmds 0).hasRoom 0 0 = false ∧ ((stopped .preempt none 0x100000).restCmds 0).hasRoom 0 0 = true) ∧
    (s0.tqPlace false = some 0 ∧ s0.tqPlace true = some 0 ∧ ({ s0 with tq := Vector.replicate 64 (some (rcd0 false .seq)) } : State).tqPlace true = none ∧
      ({ s0 with tq := (Vector.replicate 64 (some (rcd0 false .seq))).set 63 none } : State).tqPlace true = some 63) ∧
    ([StopWhy.report, .full, .loading].all (fun why => ((stopped why (if why = .loading then none else some (rcd0 false .seq)) 0).core 0).stop.any (fun q => q.why == why)) = true) ∧
    -- the trap queue's commands
    ((queued false .me).tq[(63 : Fin 64)] = some (rcd0 false .me) ∧ (queued true .seq).tq[(63 : Fin 64)] = some (rcd0 true .seq) ∧ s0.tq[(63 : Fin 64)] = none ∧
      ((queued false .me).trapped? 63).map (fun v => v.1) = some 0 ∧ (∀ m ∈ savedOne.ctx.cmds, m.faulted = false) ∧
      (queued true .seq).inPlace? (rcd0 true .seq) = none) ∧
    -- function-level reset and invalidation
    ((1#64).getLsbD 0 = true ∧ (s0.func 15).frst.getLsbD 0 = false ∧ (s0.func 15).inval.getLsbD 3 = false ∧
      (let s := s0.setFunc 15 { frst := 7, inval := 9 }
       (s.func 15).frst = 7 ∧ s.trip = false ∧ (∀ r ∈ s.tracks, r.src ≠ .gone 15) ∧ (s.func 15).inval.getLsbD 3 = true ∧
       (List.finRange 128).all (fun c => (s.ctxOf c).gacc == [] && (s.ctxOf c).cmds == []) = true)) ∧
    -- droop samples: a first one, the earliest and one too soon
    ((∀ z, s0.droopAt[(15 : Fin 16)] = some z → z + 3000 ≤ s0.now) ∧ (let s := { s0 with droopAt := Vector.replicate 16 (some 1), now := 3001 }
      s.droopAt[(15 : Fin 16)] = some 1 ∧ 1 + 3000 ≤ s.now) ∧ (3000 < 1 + 3000) ∧ (s0.core (Fin.ofNat 128 (8 * (0 : Fin 16).val))).busy = true ∧
      (s0.core (Fin.ofNat 128 (8 * (15 : Fin 16).val + 7))).busy = false ∧ c0.conf = false) := by
  refine ⟨?_, ?_, ?_, ?_, ?_, ?_, ?_, ⟨room_none, room_some⟩, ?_, ?_, ?_, ?_, ?_⟩
  all_goals and_intros
  all_goals decide +kernel

/-- An ELF64 file with a signature section: its section table at 0x40, its names at 0xC0, the signature at 0xD0. The key is chosen so that
the signature's r and s are the digest. -/
def digest0 : Nat := 0x740578701635bf4da4e1ff5e4b86ea354e6420b506e7bf079217e3e315948f06fbc8148492dbe7cdfd866c878a18f165de253f77f384e9e2bb7b6139f8ea45e9
def key0 : List Byte := [4] ++ beBytes 0x19fbdcc43cb160cbd0afc63ed3b6b354925c484199ecf849335c9c2491dda39296d39725252e439aa8310911bdb4ec64171a37bf7a747ff4a54bac86dd178a48925 66 ++ beBytes 0x1f2cfbafa7969267088734fdd984a1143947cfdd56dd8e117cfb4ed89052f3c42625dfa242482e17b2f36a207b71f9c9da8fde2acbca933caa48ea40db0672b2a2f 66
def elf0 (good : Bool) : List Byte :=
  padTo 0x28 [0, 0, 0, 0, 1] ++ leBytes 0x40 8 ++ leBytes 0 10 ++ leBytes 64 2 ++ leBytes 2 2 ++ leBytes 0 2 ++
  padTo 0x18 (leBytes 8 4) ++ leBytes 0xC0 8 ++ padTo 0x20 (leBytes 9 8) ++ leBytes 0 0x18 ++ leBytes 0xD0 8 ++ padTo 0x20 (leBytes 132 8) ++
  padTo 16 (ascii ".ipd.sig") ++ beBytes digest0 66 ++ beBytes (if good then digest0 else 0) 66
/-- A mailbox with a request, the file at 0x100000, and the key registered. -/
def mail (m : Fin 17) (op : Nat) (req file : List Byte) (cores : BitVec 128) : State :=
  { State.reset.setFunc 0 { cores, pool := 0x80 } with
    mbox := State.reset.mbox.set m { cmd := BitVec.ofNat 64 (2 ^ 31 + op), len := BitVec.ofNat 64 req.length }
    mem := (cellsFrom 0x100000 file ++ cellsFrom (key 5 (0xC00000 + 0x1000 * m.val) + 0x40) req).filter (fun c => c.2 != 0)
    keys := [(0, 7, key0)] }
/-- What the mailbox statements ask of a request of function 0 in mailbox `m`. -/
def asked (m : Fin 17) (op : Nat) (req file : List Byte) : Bool :=
  let s := mail m op req file 1
  let b := s.mbox[m]
  s.mem.wf && b.cmd.getLsbD 31 && b.cmd.toNat % 2 ^ 8 == op && b.answer.isNone && s.mbFirst m && s.load (key 5 (0xC00000 + 0x1000 * m.val) + 0x40) b.len.toNat == req &&
    rdOf req 0 8 / 2 ^ 8 == 0 && (m.val == 16 || m.val == rdOf req 0 1) && (s.func 0).cores != 0
def admitReq : List Byte := leBytes 0 8 ++ leBytes 0x100000 8 ++ leBytes 340 8 ++ leBytes 7 4 ++ leBytes 1 4 ++ leBytes 0x200000 8 ++ leBytes 0x1000 8
theorem wit_HostEvents_mailboxes :
    -- keys: a point of the curve, and none; a slot beyond 7; not permitted
    (asked 16 1 (leBytes 0 8 ++ [7] ++ key0) [] = true ∧ asked 0 1 (leBytes 0 8 ++ [7] ++ List.replicate 133 0) [] = true ∧ (sec1 key0).isSome = true ∧
      sec1 (List.replicate 133 0) = none ∧ 8 ≤ rdOf (leBytes 0 8 ++ [8] ++ key0) 8 1 ∧ ((1 : Fin 17).val ≠ 16 ∧ (1 : Fin 17).val ≠ 0) ∧ (State.reset.func 0).cores = 0) ∧
    -- admission: the signature verifies, or does not
    (asked 16 2 admitReq (elf0 true) = true ∧ rdOf admitReq 28 4 = 1 ∧ rdOf admitReq 24 1 = 7 ∧ rdOf admitReq 25 3 = 0 ∧ admitReq.length = 32 + 16 * 1 ∧
      (rdOf admitReq 32 8 % 4096 = 0 ∧ rdOf admitReq 40 8 % 4096 = 0)) ∧
    ((mail 16 2 admitReq (elf0 true) 1).load (paKey 0x100000) 340 = elf0 true ∧
      (secNamed (elfSecs (elf0 true)) ".ipd.sig").map (fun (g : Sec) => (g.off, g.size)) = some (0xD0, 132) ∧ paNode 0x100000 = 0 ∧ plainKind (paKind 0x100000) = true) ∧
    (ecdsaOk key0 (sha512 ((elf0 true).take 0xD0)) (sub (elf0 true) 0xD0 132) = true ∧ ecdsaOk key0 (sha512 ((elf0 false).take 0xD0)) (sub (elf0 false) 0xD0 132) = false) ∧
    -- withdrawal: no image of the number, one in use, one free; attestation; extents
    (asked 16 3 (leBytes 0 8 ++ leBytes 5 8) [] = true ∧ asked 16 4 (leBytes 0 206) [] = true ∧ (∀ x ∈ sub (leBytes 0 206) 73 133, x = 0)) ∧
    (let q := leBytes 0 8 ++ leBytes (1 + 7 * 2 ^ 8 + 0x7FFFF * 2 ^ 16) 8 ++ leBytes 1 8
     asked 16 5 q [] = true ∧ rdOf q 8 8 % 4 = 1 ∧ bits (rdOf q 8 8) 2 6 = 0 ∧ bits (rdOf q 8 8) 11 5 = 0 ∧ rdOf q 8 8 / 2 ^ 35 = 0 ∧ rdOf q 16 8 = 1 ∧
     bits (rdOf q 8 8) 16 19 + 1 ≤ 2 ^ 19 ∧ ((mail 16 5 q [] 1).func 0).pool.getLsbD 7 = true ∧ (State.reset.func 0).pool.getLsbD 7 = false) ∧
    ((({ cmd := 0x80000001, answer := some (0, [1]) } : Mbox).answer = some (0, [1]))) := by
  and_intros <;> decide +kernel
def cw' (who : Who) (idx : Nat) (v : Word) : CtlW := { who, idx, v }
theorem wit_HostEvents :
    ((0x1000F4240#64).toNat % 2 ^ 20 = 1000000 ∧ 1 ≤ (0x1000F4240#64).toNat / 2 ^ 20 % 2 ^ 20 ∧ Who.pf ≠ .fw) ∧
    ((List.range 16).all (fun i => (State.reset.func i).cores == 0) = true ∧ (List.range 8).all (fun i => (0xFFFFFFFFFFFFFF7F#64).toNat / 2 ^ (8 * i) % 2 ^ 8 < 128 ||
      (0xFFFFFFFFFFFFFF7F#64).toNat / 2 ^ (8 * i) % 2 ^ 8 == 255) = true ∧ (State.reset.ownersNext 511).length + 8 ≤ 60) ∧
    (State.reset.boot ≤ 3 ∧ 3 < ({ s0 with boot := 4 } : State).boot ∧ (0x01110333#64).toNat / 2 ^ 16 % 2 ^ 4 ≤ (0x01110333#64).toNat % 2 ^ 4) ∧
    ((∀ x ∈ State.reset.living, x.fn.val ≠ 0) ∧ (∀ x ∈ s0.living, x.fn.val ≠ 15) ∧ 0 < State.reset.dims.1 ∧ 0 < State.reset.dims.2.1 ∧ 0 < State.reset.dims.2.2) ∧
    (sf.flagOk 0 511 = true ∧ s0.flagOk 0 511 = false ∧ (0x100000005#64).toNat / 2 ^ 32 = 1 ∧ (0x200000000#64).toNat / 2 ^ 32 = 2) ∧
    ((List.range 16).all (fun i => (State.reset.func i).lq &&& 5 == 0) = true ∧ ((s0.setFunc 3 { lq := 4 }).func 3).lq &&& 5 ≠ 0 ∧
      (0x1000100#64).toNat % 2 ^ 9 + (0x1000100#64).toNat / 2 ^ 16 % 2 ^ 10 ≤ 512 ∧ (0x2000#64).toNat % 4096 = 0) ∧
    (let q : EgQueue := { put := 4, rel := 4, head := 1 }
     Who.mayUse .pf s0 0 = true ∧ Who.mayUse (.vf 1) s0 0 = false ∧ q.put = q.rel ∧ q.head.toNat < 4 ∧ 4 ≤ q.rel.toNat ∧ q.rel.toNat < 5 ∧ (0x8#64).toNat / 2 ^ 3 % 2 ^ 5 ≠ 0) ∧
    (0 + 30000000 ≤ 30000000 ∧ 0xFFF8 < 2 ^ 39) ∧
    (0xB00000 % 8 = 0 ∧ 0xB00004 % 8 ≠ 0 ∧ (1800#64).toNat ≤ 1800 ∧ 0x380000 + 2 * (512 * 127 + 508) < 0x3A0000 ∧ ((s0.setFunc 3 { lq := 4 }).func 3).lq.getLsbD 2 = true ∧
      (0x10F#64) &&& ~~~0x10F#64 = 0 ∧ (0x01FFFFFFFFFFF00C#64) &&& ~~~0x01FFFFFFFFFFF00F#64 = 0 ∧ (0x01FFFFFFFFFFF00C#64).toNat % 16 ≤ 12) ∧
    ((s0.mbox[(16 : Fin 17)]).cmd.getLsbD 31 = false ∧ ((mail 16 1 [] [] 1).mbox[(16 : Fin 17)]).cmd.getLsbD 31 = true ∧ 8 ≤ (4032#64).toNat ∧ 503 < 504) := by
  and_intros <;> decide +kernel

theorem wit_StepRuns : let s := State.reset.withFetchWord 64 0x8080000005056100
    let u := s.boundary.countCycle
    s.agenda = [] ∧ (s.core s.cur).busy = true ∧ s.ctx.wait = none ∧ (u.core u.cur).runs = true ∧ u.clockHeld u.cur = false ∧ (u.core u.cur).holdUntil ≤ u.now ∧
      (match (u.core u.cur).word with
       | some w => (match decodeBundle w.toNat with
         | .ok b => b.a == .add { g := { sq := true }, slot := .a, d := .s 5, a := .s 5, b := .imm 1 } && !(u.core u.cur).ctx.endOnly && !(u.holds b) && (u.xlateHeld b).isNone &&
             (u.checkedHeld b).2 &&
             (let k := u.core u.cur
              let s0 := u.setCore u.cur { k with ctx := k.ctx.toIssue, xlat := none }
              let s1 := (s0.setCtx { s0.ctx with lastPc := k.ctx.pc }).hit u.cur 1 k.ctx.pc k.ctx.lastSeq (fun n => k.bpv[n] == k.ctx.pc)
              goes (exec b.a s1) (fun t1 => t1.trapsOf == u.trapsOf && goes (exec b.m t1) (fun t2 => t2.trapsOf == u.trapsOf &&
                goes (exec b.v t2) (fun t3 => t3.trapsOf == u.trapsOf && goes (exec b.e t3) (fun t4 => t4.trapsOf == u.trapsOf)))))
         | .error _ => false)
       | none => false) = true := by
  decide +kernel
theorem wit_StepRuns_illegal : let s := State.reset.withFetchWord 64 1
    (match ((s.boundary.countCycle).core s.cur).word with
     | some w => (match decodeBundle w.toNat with | .ok _ => false | .error _ => true)
     | none => false) = true := by
  decide +kernel
theorem wit_RoundTrip : (encode (.add (ab 1 2))).isSome = true ∧ (Instr.add (ab 1 2)).wf = true ∧ (decodeBundle 0).toOption.isSome = true := by decide +kernel
theorem wit_MemoryStaysCanonical : Memory.wf (sx c0).mem = true ∧ (∀ v ∈ (sx c0).saved, Memory.wf v.cells = true) ∧
    goes (exec (.st { g := {}, t := .i8, dw := false, pi := false, oc := 0, sp := .jb, d := .s 3, a := .s 6, off := 0 }) (sx c0)) (fun t => t.mem.length == 2) = true := by
  decide +kernel

theorem wit_FloatSpecialCases_ffma : (fv 0).isZero = true ∧ (fv 3).isInf = true ∧ fv 4 = .inf ((fv 3).neg == (fv 6).neg) ∧
    fv 3 ≠ .inf ((fv 3).neg == (fv 6).neg) ∧ (fv 6).isInf = false ∧ (fv 4).isNan = false ∧ (fv 4).isZero = false ∧ (fv 4).neg = true ∧
    fv 5 = .zero true ∧ fv 3 = .inf false ∧ (fv 3).isNan = false := by decide +kernel
def q1 : Q := { n := 1, d := 1, e := 0, r := 0 }
theorem wit_ExactBeforeRounding_sums : 0 < q1.n ∧ (∀ x ∈ [Ex.fin q1, .zero true], x.isFin = true ∧ ∀ q, x = .fin q → q.d ≠ 0 ∧ q.r = 0) ∧
    (∃ x ∈ [Ex.nan true, .fin q1], x.isNan = true) ∧ (Ex.inf false ∈ [Ex.inf false, .inf true] ∧ Ex.inf true ∈ [Ex.inf false, .inf true]) ∧
    (Ex.inf true ∈ [Ex.inf true, .fin q1] ∧ Ex.inf false ∉ [Ex.inf true, .fin q1] ∧ ∀ x ∈ [Ex.inf true, .fin q1], x.isNan = false) := by
  refine ⟨by decide +kernel, ?_, ⟨_, .head _, rfl⟩, ⟨.head _, .tail _ (.head _)⟩, .head _, by decide +kernel, by decide +kernel⟩
  intro x hx
  simp at hx
  obtain rfl | rfl := hx
  · exact ⟨rfl, fun q h => by cases h; decide +kernel⟩
  · exact ⟨rfl, fun q h => by cases h⟩
/-- A chain with one row of one query element, 1.0, and a block of one key. -/
def ch2 (nm : Bool) : Chain := { ch1 with nq := 1, d := 1, nm := [nm], m := [0xFF800000], l := [0], rs := [0x3F800000], o := [[0, 0]], q := [[{ enc := 0x3F80 }]] }
def blk (k : Nat) : Block := { base := 0, k := [[(k, 127)]], v := [[(0x3F80, 127)]], kt := .bf16, vt := .bf16 }
theorem wit_ExactBeforeRounding_arrays :
    (∃ q, decodeEl 0x3F80 .bf16 = .fin q) ∧
    (let row := ([(0x3F80, 127), (0, 127)] : Els).take arr4.sh.keff; 0 * arr4.G < row.length ∧ row.length ≤ 4 * arr4.G) ∧
    (2 ^ 24 - 1 < 2 ^ 24) ∧ ((0x7F7FFFFF : Nat) < 0x7F800000) ∧
    ((ch2 true).nm.getD 0 false = true ∧ (ch2 false).nm.getD 0 false = false ∧ (ch2 false).visible 0 0 (blk 0).base = true) ∧
    (((ch2 false).rowStep 1 1 (blk 0x7FC0) 0).nm = true ∧ ((ch2 false).rowStep 1 1 (blk 0x3F80) 0).nm = false) ∧
    ((ch2 false).o.getD 0 [])[0]? = some 0 ∧ (decodeEl ((ch2 false).l.getD 0 0) .f32).isZero = true ∧
    (decodeEl (({ ch2 false with l := [0x3F800000] } : Chain).l.getD 0 0) .f32).isZero = false := by
  refine ⟨?_, by decide +kernel, by decide +kernel, by decide +kernel, by decide +kernel, by decide +kernel, by decide +kernel, by decide +kernel, by decide +kernel⟩
  exact ⟨_, (by decide +kernel : decodeEl 0x3F80 .bf16 = .fin { n := 128, d := 1, e := -7, r := 0 })⟩
theorem wit_TransferTraps_loops : cd.loops.length < 4 ∧ cd.loops.head? = none ∧ 1 ≤ (4#16).toInt ∧ ((cd.src (.s 0)).setWidth 32).toNat = 0 ∧
    ((cd.bundleAt 4) + 32).toNat % 32 = 0 ∧ ({ cd with pc := 1 } : Ctx).bundleAt 4 ≠ cd.bundleAt 4 ∧
    (({ cd with pc := 1 } : Ctx).bundleAt 4 + 32).toNat % 32 ≠ 0 := by decide +kernel
theorem wit_AfterABundle_loops : ({ c0 with ended := some 3 } : Ctx).ended ≠ none ∧
    (let x : Ctx := { cd with loops := [l1], xfer := some { tgt := 128, left := 0, pops := true } }
     x.xfer = some { tgt := 128, left := 0, pops := true } ∧ x.toIssue.loops = []) ∧
    (let x : Ctx := { c0 with loops := [{ l1 with count := 1 }, l1], pc := 64 }; x.pc = l1.fin ∧ x.advance.pc = 32) ∧
    (let x : Ctx := { c0 with loops := [{ l1 with count := 1 }, { l1 with fin := 96 }], pc := 64 }; x.pc = l1.fin ∧ x.advance.pc = 96) := by decide +kernel
theorem wit_ResultsLand_undo : c0.undo = [] ∧ c0.flight = [] := by decide +kernel
theorem wit_GlobalAccesses_kinds : (s0.gCheck 5 4 .rd).2 = .error .align ∧ ((paged c0 0).xlate 0 0x1000 4 .rd).2 = .error .page ∧
    ([(0, .rd), (0, .at), (4 * 2 ^ 40 + 2 ^ 32, .wr), (4 * 2 ^ 40 + 2 ^ 32, .rd), (2 * 2 ^ 40, .rd), (5 * 2 ^ 40 + 0x2000, .rd), (5 * 2 ^ 40 + 0x3000, .rd)] : List (Nat × AccK)).all
      (fun p => (((paged c0 p.1).setFunc 0 { cores := 1 }).xlate 0 0 8 p.2).2.toOption == some p.1) = true := by decide +kernel
/-- Tables at 0x1000 (level 2) and 0x2000 (level 1): the entry of virtual 0 is `e`, and the one that its group starts with `e`. -/
def tabAt (e : List (Nat × Byte)) : State := { s0 with mem := e }
theorem wit_TracksAndWindows_walk :
    -- an entry that does not stand, one for the next table, a leaf of 2 MiB, one of 64 KiB, a bad leaf, a table outside memory
    (let s := tabAt []; bit (s.mem.num (key 0 0x1000) 8) 0 = false ∧ paKind 0x1000 = 0 ∧ paNode 0x1000 = s.nodeId ∧ s.sound (key 0 0x1000) 8) ∧
    (let s := tabAt [(0x1000, 1), (0x1001, 0x20)]; let e := s.mem.num (key 0 0x1000) 8
     bit e 0 = true ∧ bits e 57 7 = 0 ∧ bits e 8 4 = 0 ∧ bit e 1 = false ∧ bit e 7 = false ∧ bits e 12 45 * 2 ^ 12 = 0x2000) ∧
    (let s := tabAt [(0x1000, 7), (0x1002, 0x20)]; let e := s.mem.num (key 0 0x1000) 8
     bit e 1 = true ∧ bit e 7 = false ∧ bits e 12 45 * 2 ^ 12 % 2 ^ 21 = 0 ∧ (s.walkFrom 0 2 0x1000).isSome = true) ∧
    (let s := tabAt [(0x1000, 0x87), (0x1002, 1)]; let e := s.mem.num (key 0 0x1000) 8
     bit e 1 = true ∧ bit e 7 = true ∧ bits e 12 45 * 2 ^ 12 % 2 ^ 16 = 0 ∧ (s.walkFrom 0 1 0x1000).isSome = true ∧ s.walkFrom 0 2 0x1000 = none) ∧
    (let s := tabAt [(0x1000, 7), (0x1001, 0x20)]; bits (s.mem.num (key 0 0x1000) 8) 12 45 * 2 ^ 12 % 2 ^ 21 ≠ 0) ∧
    paKind (4 * 2 ^ 40) ≠ 0 ∧ ¬ ({ s0 with ecc := [0x1000] } : State).sound (key 0 0x1000) 8 := by unfold State.sound; decide +kernel
theorem wit_TracksAndWindows_xlate :
    let s := paged c0 0
    let e : TlbEnt := { va := 0, size := 4096, pa := 0, fn := 0, asid := 0, g := false, cf := false, x := true, w := true, r := true }
    s.tlbHit 0 0x40 = some e ∧ s.tlbHit 0 0x1000 = none ∧ (let x := s.ctxOf 0; s.walk x.root x.tfn x.asid 0x1000 = none) ∧
      (s.physFault 0 0x40 4 = none) ∧ (s.physFault 0 (7 * 2 ^ 40) 4 = some .access) := by decide +kernel
theorem wit_TracksAndWindows_lap : (s0.pendOwners = [] ∧ (s0.pendD.map Prod.fst).Nodup ∧ s0.now % 256 = 0 ∧ ({ s0 with now := 1 } : State).now % 256 ≠ 0) ∧
    (let s := { s0 with pendD := [(5, 7)], tracks := [req true] }; (s.pendD.map Prod.fst).Nodup ∧ s.tracks[0]? = some (req true) ∧ (req true).borrowed = false ∧
      (req true).served = none) := by decide +kernel
def qx (n : Int) (d : Nat) (e : Int) : Q := { n, d, e, r := 0 }
theorem wit_VectorFunctions_references :
    (qx (-3) 2 0).rat < 0 ∧ 0 < (qx 3 2 0).rat ∧ |(qx 1 1 (-20)).rat| < (2 : ℚ) ^ (-12 : Int) ∧ (2 : ℚ) ^ (-12 : Int) ≤ |(qx 3 2 0).rat| ∧
    expL (Ex.fin (qx (-1024) 1 0)).negate = .inf false ∧ (∃ u, (expL (Ex.fin (qx 1 1 0)).negate).rat = some u) ∧
    ((Ex.inf false).isNan = false ∧ Ex.inf false ≠ .inf true) ∧
    (expL (roundRne (exactSum .rne [Ex.fin (qx 1 1 0), (Ex.fin (qx 2 1 0)).negate]).1 .f32).1).isFin = true ∧
    (expL (roundRne (exactSum .rne [Ex.inf true, (Ex.fin (qx 2 1 0)).negate]).1 .f32).1).isFin = (Ex.zero false).isFin := by
  refine ⟨by norm_num [qx, Q.rat], by norm_num [qx, Q.rat], by norm_num [qx, Q.rat], by norm_num [qx, Q.rat], by decide +kernel,
    Option.isSome_iff_exists.mp (by decide +kernel), by decide +kernel, by decide +kernel, by decide +kernel⟩
def i8c : Ecmd := { ecmd with t := .i8 }
/-- Formats of whole bytes in every bank. -/
def xb : Ctx := { xa with afmt := Vector.replicate 16 8, wfmt := Vector.replicate 16 8 }
theorem wit_ArrayEvents_rows :
    (let s := one { xb with chain := some ch1 } (ce (.chkv i8c) 0x1000000 0x1000000 0)
     let x := s.ctxOf 0
     ETy.bits (x.fmtAt .ab 0).ty = 8 ∧ (x.fmtAt .ab 0).bs = false ∧ x.ringAt 0 = none ∧ (List.range 4).all (fun i => (0 + 0 * 64 + i) / 0x18000 == 0) = true) ∧
    (let m := { me (.mpip ecmd) 0 0 0 with staged := [{ idx := 0, data := List.replicate 1088 1 }] }; runs0 xa m = true ∧ (m.staged.map (fun g => g.data.length)) = [1088] ∧ 0 + 1088 ≤ 0xC0000) ∧
    (let x := { xa with chain := some ch1 }
     [ce (.chdrop ecmd) 0 0 0, { ce (.chsave ecmd) 0 0 0 with asks := 2000 }, { ce (.chmask ecmd) 0 0 0 with asks := 2000 },
       { ce (.chfin ecmd) 0 0 0 with asks := 2000 }, ce (.chstat { chst 2 with tc := some 3, sel := 1 }) 0 0 0].all
       (fun m => (late x m).ceMoved 0 m && decide (m.due ≤ 100000) && (x.rowsIn.1 != 100000)) = true) ∧
    (let m := { ce (.chbind bfc) 0x1030000000000 0x1000000 0 with asks := 2000 }; (late xa m).ceMoved 0 m = true) ∧
    (let m := { ce (.chrest ecmd) 0 0 0 with asks := 2000 }; (late xa m).ceMoved 0 m = true ∧ Chain.ofImage ((late xa m).ringRead 0 .cb 0 0 106496) = none) := by
  decide +kernel
def ox (k : XK) (a b c : Nat) : XOp := { k, x := i8c, a, b, c }
theorem wit_TransferEvents_units :
    (let x := xb
     let la (a : Nat) := LocW.of a
     ((la 1).space ≠ .ab ∨ x.ringAt (la 1).off = none) ∧ ETy.sw i8c.t / 8 ≠ 0 ∧ min 64 (x.dstLen (ox .trans 3 0x4003 0)) % (ETy.sw i8c.t / 8) = 0 ∧
     (x.rowFmt i8c (la 1) 0).ty = (x.rowFmt i8c (la 2) 0).ty ∧ (x.rowFmt i8c (la 1) 0).bs = false ∧ (x.rowFmt i8c (la 2) 0).bs = false ∧
     ETy.sw (x.rowFmt i8c (la 1) 0).ty = 8 ∧ (x.rowFmt i8c (la 1) 0).ty ≠ .lg6 ∧ x.dstLen (ox .copy 1 2 32) = cntN 32 ∧
     (globFmt i8c).ty = (x.rowFmt i8c (la 2) 0).ty ∧ (globFmt i8c).bs = false ∧ x.dstLen (ox .get 0x40 2 32) = cntN 32 ∧ 0 < cntN 32 ∧ 0 < (ox .get 0x40 2 32).rows ∧
     (ox .get 0x40 2 32).gParts = [(0x40, 32)] ∧ (0 : Nat) < 32 ∧ 32 ≤ cntN 32) ∧
    (paNode 0x40 = s0.nodeId ∧ paKind 0x40 < 2 ∧ paNode far ≠ s0.nodeId) := by decide +kernel
/-- A get and a put of 32 bytes, on the page at virtual 0. -/
def xp (m : Cmd) : State := paged { xb with cmds := [m], toks := [9], nextSeq := 1 } 0
theorem wit_TransferEvents_arrivals :
    (let m := { xe (.xget i8c) 0x40 2 32 with asked := [(0, 0)] }
     let s := xp m
     s.cmd? r0 = some m ∧ (s.gReadVa 0 0x40 32 (.ok []) (State.xePol 0 0 false)).2.toOption.isSome = true ∧
       (s.gReadVa 0 0x1000 32 (.ok []) (State.xePol 0 0 false)).2 = .error (.page, 0x1000)) ∧
    (let m := { xe (.xput i8c) 2 0x40 32 with asked := [(0, 0)] }
     let s := xp m
     let o := ox .put 2 0x40 32
     s.cmd? r0 = some m ∧ o.gParts = [(0x40, 32)] ∧ s.onWay (.cmd 0 0 0) = true ∧
       (match s.putPart 0 m o 0 0 32 with | .bytes bs _ _ => bs.length == 32 | _ => false) = true ∧
       (match ({ s with ecc := [bufKey 0 .ab 0] } : State).putPart 0 m o 0 0 32 with | .fail cls ad => cls == .ecc && ad == 0 | _ => false) = true ∧
       (s.xlate 0 0x40 32 .wr).2 = .ok 0x40 ∧ (s.xlate 0 0x1000 32 .wr).2 = .error .page ∧ State.xePol 0 0 true s 0x40 32 = none ∧
       (match s.gWrite 0x40 [1] (.ok []) with | .ok _ => true | .error _ => false) = true ∧
       (match s.gWrite far [1] (.fail .peer) with | .ok _ => false | .error c => c == .peer) = true ∧
       State.xePol 0 0 true s (2 * 2 ^ 40) 32 = some .buffer) ∧
    -- to a window of this node
    (let s := (paged xb (4 * 2 ^ 40 + 2 ^ 32)).setFunc 0 { cores := 1 }
     (s.xlate 0 0x40 32 .wr).2 = .ok (4 * 2 ^ 40 + 2 ^ 32 + 0x40) ∧ State.xePol 0 0 true s (4 * 2 ^ 40 + 2 ^ 32 + 0x40) 32 = none) ∧
    -- a unit of a multicast
    (let m := xe (.xmcast i8c) 1 0x101 64
     let s := late xb m
     runs0 xb m = true ∧ m.t0 + 4 + 0 ≤ 100000 ∧ m.staged = [] ∧ s.rawEcc 0 .wb 0 0 64 = none ∧
       ({ s with ecc := [bufKey 0 .wb 0] } : State).rawEcc 0 .wb 0 0 64 = some 0 ∧ (s.takePort 0 [(.wb, false, 64)]).isSome = true ∧ 0 < xb.units (ox .mcast 1 0x101 64)) := by
  decide +kernel
theorem wit_TransferEvents_commits :
    -- local units: of a fill, a copy, a transpose; not yet, and failed; the last with its time
    ([(xe (.xfill i8c) 2 0xAA 128, XK.fill), (xe (.xcopy i8c) 1 2 32, .copy), (xe (.xtrans i8c) 3 0x4003 0, .trans)].all (fun (p : Cmd × XK) =>
      let m := { p.1 with due := 100000 }
      let s := late xb m
      runs0 xb m && !(xb.portAhead m) && (match m.move with
        | some o => o.k == p.2 && decide (m.unit < xb.units o) && (match s.localUnit 0 m o m.unit with
          | (_, _, n, .bytes _ _ t0) => decide (t0 ≤ 100000) && (s.takePort 0 (xb.unitPort o n)).isSome
          | (_, _, n, .els _ _ t0) => decide (t0 ≤ 100000) && (s.takePort 0 (xb.unitPort o n)).isSome
          | _ => false)
        | none => false)) = true) ∧
    (let m := xe (.xget i8c) 0x40 2 32
     let s := late xb m
     (match s.localUnit 0 m (ox .get 0x40 2 32) 0 with | (_, _, _, .wait) => true | _ => false) = true) ∧
    (let m := { xe (.xget i8c) 0x40 2 32 with staged := [{ idx := 0, data := [], fail := some .ecc, addr := 0x40 }] }
     let s := late xb m
     (match s.localUnit 0 m (ox .get 0x40 2 32) 0 with | (_, _, _, .fail cls ad) => cls == .ecc && ad == 0x40 | _ => false) = true) ∧
    ([(xe (.xput i8c) 2 0x40 32), (xe (.xmcast i8c) 1 0x101 64)].all (fun m =>
      let m := { m with staged := [{ idx := 0, data := [1], here := true }] }
      runs0 xb m && !(xb.portAhead m) && (match m.move with | some o => decide (m.unit < xb.units o) && o.together m.unit == [m.unit] | none => false) &&
        (m.staged.find? (fun g => g.idx == m.unit)).any (fun g => g.here && g.fail.isNone)) = true) ∧
    ([{ xe (.xtrans i8c) 3 0x4003 0 with prog := 1 }, { xe (.xmcast i8c) 1 0x101 64 with prog := 1 }].all (fun m =>
      runs0 xb m && (match m.move with | some o => decide (xb.units o ≤ m.unit) | none => false)) = true) ∧
    ((one xa (xe (.xextAdd ecmd) 1 1 0)).fwExts = [] ∧
      (let f : FwExt := { core := 0, seq := 0, add := false, ext := { win := 0, start := 0, count := 1, fn := 0 } }
       (({ s0 with fwExts := [f] } : State).fwExts.find? (fun f => f.core == 0 && f.seq == 0) = some f ∧ s0.inUse f.ext.holds = false))) := by decide +kernel
theorem wit_TransferEvents_lists :
    (let m := { xe (.xlist i8c) 0x80 0x4000000002 0 with asked := [(0, 0)] }
     let s := xp m
     s.cmd? r0 = some m ∧ m.move.isNone = true ∧ m.parts.1 = [(0x80, 8)] ∧ s.trackReady 0 (.cmd 0) 0 = true ∧
       (s.gReadVa 0 0x80 8 (.ok []) (State.xePol 0 0 false)).2.toOption = some (List.replicate 8 0) ∧
       (({ s with mem := [(0x84, 1)] } : State).gReadVa 0 0x80 8 (.ok []) (State.xePol 0 0 false)).2.toOption = some [0, 0, 0, 0, 1, 0, 0, 0] ∧
       (s.gReadVa 0 0x1000 8 (.ok []) (State.xePol 0 0 false)).2 = .error (.page, 0x1000)) ∧
    (let m := { xe (.xlist i8c) 0x80 0x4000000002 0 with asked := [(0, 0)], ext := [1] }
     let s := xp m
     s.cmd? r0 = some m ∧ m.parts.1 = [(0x88, 32)] ∧ (s.gReadVa 0 0x88 32 (.ok []) (State.xePol 0 0 false)).2.toOption.isSome = true) := by decide +kernel
/-- An `xget` of 32 elements from 0x40 to AB, as an entry of a list. -/
def entry : List Nat := [0x0284000000000000, 0x40, 2, 32]
theorem wit_TransferEvents_entries :
    (let m := { xe (.xlist i8c) 0x80 0x4000000002 0 with asked := [(0, 0)], ext := [1] }
     let s := { xp m with mem := [(0x8E, 0x84), (0x8F, 2), (0x90, 0x40), (0x98, 2), (0xA0, 32)] }
     let y := s.ctxOf 0
     s.mem.wf = true ∧ (s.gReadVa 0 0x88 32 (.ok []) (State.xePol 0 0 false)).2.toOption.map (fun bs => (List.range 4).map (fun k => leNat ((bs.drop (8 * k)).take 8))) = some entry ∧
     (match ({ m with ext := [1, 0] ++ entry } : Cmd).move with
      | some o => (match s.chkMove 0 y o with
        | .ok (rs, ws) => (rs ++ ws).all (fun r => (y.envRngs m.b.toNat).any (fun e => e.buf == r.buf && decide (e.lo ≤ r.lo % 2 ^ 24) && decide (r.hi % 2 ^ 24 ≤ e.hi))) &&
            !((rs ++ ws).all (fun r => (y.envRngs 0x1000000002).any (fun e => e.buf == r.buf && decide (e.lo ≤ r.lo % 2 ^ 24) && decide (r.hi % 2 ^ 24 ≤ e.hi)))) && !(s.entryHeld 0 m o)
        | .error _ => false) && (match s.chkMove 0 y { o with b := 0xFFFFFF } with | .ok _ => false | .error _ => true)
      | none => false) = true ∧ ({ m with ext := [1, 0, 0, 0, 0, 0] } : Cmd).move.isNone = true) := by decide +kernel
theorem run_onPage {x : Ctx} (hx : x.tfn = 0 ∧ x.asid = 0 ∧ x.conf = false) {s : State} (h : OnPage x s) {va n : Nat} (hv : va + n ≤ 2 ^ 32) :
    (s.sysRun va n).2.2 = none := by
  have hs : ∀ ch ∈ chunks va n, ch.1 + ch.2 ≤ 2 ^ 32 := fun ch hc => by have := mem_chunks hc; omega
  unfold State.sysRun
  generalize chunks va n = cs at hs
  generalize hF : (fun (a : State × List Byte × Option (TrapClass × Nat)) (ch : Nat × Nat) => _) = F
  suffices H : ∀ (cs : List (Nat × Nat)) (a : State × List Byte × Option (TrapClass × Nat)), (∀ ch ∈ cs, ch.1 + ch.2 ≤ 2 ^ 32) → a.2.2 = none → OnPage x a.1 →
      (cs.foldl F a).2.2 = none from H cs (s, [], none) hs rfl h
  intro cs
  induction cs with
  | nil => exact fun _ _ h _ => h
  | cons ch cs ih =>
    intro a hs h2 h1
    obtain ⟨e, p⟩ := get_onPage hx h1 (va := ch.1) (n := ch.2) (hs ch List.mem_cons_self)
    rw [List.foldl_cons]
    have q : F a ch = ((a.1.sysGet ch.1 ch.2).1, a.2.1 ++ pageBytes a.1.mem ch.1 ch.2, none) := by
      subst hF
      simp only [h2, Option.isSome_none, Bool.false_eq_true, if_false]
      rw [pair_of e]
    exact ih _ (fun c hc => hs c (List.mem_cons_of_mem _ hc)) (by rw [q]) (by rw [q]; exact p)
def rest0 (a : Nat) : RestSt := { a, pc := 0, seq := 0, syl := 0 }
/-- A core whose `ctxrest` has made its checking pass; the state in which the loading pass reads. -/
def loading (m : Memory) (a : Nat) : State := (onp m).setCtx { xi with rest := some (rest0 a) }
def reads (m : Memory) (a : Nat) : State := (loading m a).setCtx { (loading m a).ctx with rest := none }
theorem onPage_reads (m : Memory) (a : Nat) : OnPage xi (reads m a) := ⟨rfl, rfl, rfl, rfl, rfl⟩
theorem triple_of {α β γ : Type} {r : α × β × γ} {b : γ} (h : r.2.2 = b) : r = (r.1, r.2.1, b) := by subst h; rfl
theorem reads_length : rdOf ((reads hdr 0x1000).sysRun 0x1000 256).2.1 16 8 = 152520 := by decide +kernel
/-- The loading pass of `ctxrest`: an image that can be read, and one whose second page cannot; a checking pass that faults. -/
theorem wit_SaveEvents_loading :
    (loading hdr 0x1000).ctx.rest = some (rest0 0x1000) ∧
    (∃ u1 h v img, (reads hdr 0x1000).sysRun 0x1000 256 = (u1, h, none) ∧ (reads hdr 0x1000).sysRun 0x1000 (rdOf h 16 8) = (v, img, none) ∧ xi.conf = false) ∧
    (let s := reads [(0xFFFFFF11, 2)] 0xFFFFFF00
     (s.sysRun 0xFFFFFF00 256).2.2 = none ∧ rdOf (s.sysRun 0xFFFFFF00 256).2.1 16 8 = 0x200 ∧ (s.sysRun 0xFFFFFF00 0x200).2.2 = some (.page, 2 ^ 32)) ∧
    (match ((st xi).sysGet 0x1000 256).2 with | .error e => e == (.page, 0x1000) | .ok _ => false) = true := by
  refine ⟨rfl, ?_, by decide +kernel, by decide +kernel⟩
  have e := triple_of (run_onPage xi_ok (onPage_reads hdr 0x1000) (va := 0x1000) (n := 256) (by norm_num))
  have l := reads_length
  generalize (reads hdr 0x1000).sysRun 0x1000 256 = r at e l
  have k := triple_of (run_onPage xi_ok (onPage_reads hdr 0x1000) (va := 0x1000) (n := rdOf r.2.1 16 8) (by rw [l]; norm_num))
  exact ⟨_, _, _, _, e, k, by decide +kernel⟩
/-- `mpip` may start; its record. -/
theorem wit_IssueEvents_mpip :
    (let m := { me (.mpip ecmd) 0 0 0 with started := false }; mayStart0 xa m && !m.faulted && m.inb.isNone) = true ∧
    mayStart0 { xa with portQ := [] } { me (.mstr ecmd) 0 0 0x100010001 with started := false } = true ∧ (ecmd.m 1 = false) := by
  and_intros <;> decide +kernel
/-- One packet of a command: its units are all away; a refused one; a block's that waits to go again. -/
theorem wit_FabricEvents_packets :
    (let m := farCmd (.rst ecmd) 2 0x40 128 2
     let s := one c0 m
     isBulk m.ins = true ∧ (∃ j, j < m.fiUnits ∧ s.fiAway m j = true) ∧ (∀ g ∈ m.staged, s.fiAway m g.idx = false) ∧ (∀ j, j < 2 → s.fiAway m j = true) ∧ m.fiUnits = 2) ∧
    (let m := farCmd (.ratomAdd ecmd) 0x40 0 0 2
     isBulk m.ins = false ∧ (one c0 m).partAway 0 m 0 = true) ∧
    (let q : Pkt := { id := .block 7 1 0, phase := .backoff, at_ := 0, n := 3 }
     let s := { held0 s0 with pkts := [q] }
     s.pkt? q.id = some q ∧ q.at_ ≤ s.now ∧ (s.sends.filter (fun b => b.pkt.slot == 7 && b.rcv == 1 && 0 == b.j * (s.slots[(7 : Fin 128)]).k + b.k)).length = 1) := by
  refine ⟨⟨by decide +kernel, ⟨0, by decide +kernel⟩, by decide +kernel, by decide +kernel, by decide +kernel⟩, by decide +kernel, by decide +kernel⟩
/-- Contexts that stall on joins, and one whose image has changed. -/
theorem wit_TaskEvents_saved :
    (let v : Saved := { savedOne with phase := .join [9], ctx := { joining 0 with joinTok := [(15, 9, true), (3, 5, false)] } }
     (∀ k ∈ [9], ∀ p ∈ (v.ctx.joinEnd 15).joinTok, p.2.1 ≠ k) ∧ (v.ctx.joinEnd 15).joinTok ≠ [] ∧ (∃ k ∈ [9], ∃ p ∈ (v.ctx.joinEnd 3).joinTok, p.2.1 = k)) ∧
    ended.hits = [] ∧
    (let v := { savedOne with img := some (0, 64), bytes := [] }
     let s := idle v
     cellsFrom 0 ((s.restoreCells v.core v.cells).load (key 0 0) 64) = v.bytes ∧ (eccHit s.ecc (key 0 0) 64).isSome = false ∧
       (eccHit ({ s with ecc := [key 0 0] } : State).ecc (key 0 0) 64).isSome = true ∧ v.fresh = false) := by
  and_intros <;> decide +kernel
/-- Pre-emptions that wait for what is pending; a yield; a reset under way. -/
theorem wit_SaveEvents_pending :
    (let y : Ctx := { c0 with status := 8 }
     y.rest = none ∧ ({ y with engFaults := [0] } : Ctx).engFaults ≠ [] ∧ ({ y with hits := [{ n := 3, pc := 32, seq := 0 }] } : Ctx).hits ≠ [] ∧ y.status.getLsbD 0 = false) ∧
    ((stopped .yield none 0x100000).core 0).stop.any (fun q => q.why == .yield && q.rcd.isNone) = true ∧
    (let s := s0.setFunc 15 { frst := 9 }
     (s.func 15).frst = 9 ∧ ({ s with trip := true } : State).trip = true ∧ (∀ r ∈ s.tracks, r.src ≠ .gone 15) ∧
       (∃ r ∈ ({ s with tracks := [{ core := 0, src := .gone 15, idx := 0, chan := 0, ready := 0, borrowed := false }] } : State).tracks, r.src = .gone 15) ∧ (s.func 15).inval.getLsbD 3 = false ∧
       s.extsInHand 15 = []) := by
  and_intros <;> decide +kernel
/-- Bring-up, one entry of D, words of each memory, the reads of a function. -/
theorem wit_HostEvents_rest :
    ([0, 1, 2, 3, 4, 5].all (fun b => ({ s0 with boot := b } : State).boot == b) = true) ∧
    (eccUnit (0x8 / 8 * 8 % 2 ^ 48) = some 20 ∧ eccUnit (key 1 0xFFF8 / 8 * 8 % 2 ^ 48) = some 4 ∧ eccUnit ((2 ^ 48 + key 2 8) / 8 * 8 % 2 ^ 48) = some 0 ∧
      2 ^ 39 ≤ key 1 0xFFF8 ∧ key 1 0xFFF8 < 2 ^ 48 ∧ 2 ^ 48 ≤ 2 ^ 48 + key 2 8 ∧ 2 ^ 48 + key 2 8 < 2 ^ 49) ∧
    (0x380000 + 2 * (512 * 127 + 511) < 0x3A0000 ∧ (0x20000#64).toNat % 0x20000 = 0 ∧ State.reset.living = [] ∧ (State.reset.core 8).busy = false) ∧
    (sf.flagOk (0 : Fin 16).val 511 = true ∧ (Who.vf 0 = .vf 0) ∧ (Who.ctx 0 ≠ .pf ∧ Who.ctx 0 ≠ .fw) ∧ (State.reset.core 127).busy = false) := by
  and_intros <;> decide +kernel
end Sys2Proof.Tests
end

section
/-! O60: memory stays canonical. One lemma per operation of the model, in the order of its files: from a state whose memory and
saved cells are canonical the operation gives such a state. An operation that writes cells does so through `Memory.write`,
`Memory.writeN`, `Memory.swap` or `Memory.filter`, which keep the form (`Sys2Proof/Laws/Memory.lean`); one that writes none leaves
the two fields alone. -/

namespace Sys2Proof.Machine

/-! How an operation that names the fields it changes keeps the form. -/

theorem State.MemOk.upd {s t : State} (h : s.MemOk) (hm : t.mem = s.mem) (hs : t.saved = s.saved) : t.MemOk := by
  rwa [State.MemOk, hm, hs]
theorem State.MemOk.of_mem {s t : State} (h : s.MemOk) (hm : t.mem.wf = true) (hs : t.saved = s.saved) : t.MemOk := ⟨hm, hs ▸ h.2⟩
theorem State.MemOk.write {s t : State} {a : Nat} {bs : List Byte} (h : s.MemOk) (hm : t.mem = s.mem.write a bs)
    (hs : t.saved = s.saved) :
    t.MemOk := h.of_mem (hm ▸ Memory.write_wf _ _ _ h.1) hs
theorem State.MemOk.cells {s : State} {i : Nat} {v : Saved} (h : s.MemOk) (e : s.saved[i]? = some v) : v.cells.wf = true :=
  h.2 v (List.mem_of_getElem? e)
theorem State.MemOk.of_set {s t : State} {i : Nat} {v : Saved} (h : s.MemOk) (hm : t.mem.wf = true)
    (hs : t.saved = s.saved.set i v)
    (hv : v.cells.wf = true) : t.MemOk := by
  refine ⟨hm, fun u hu => ?_⟩
  rw [hs] at hu
  rcases List.mem_or_eq_of_mem_set hu with hu | rfl
  · exact h.2 u hu
  · exact hv
theorem State.MemOk.of_map {s t : State} {f : Saved → Saved} (h : s.MemOk) (hm : t.mem = s.mem) (hs : t.saved = s.saved.map f)
    (hf : ∀ v, (f v).cells = v.cells) : t.MemOk := by
  refine ⟨hm ▸ h.1, fun u hu => ?_⟩
  rw [hs] at hu
  obtain ⟨v, hv, rfl⟩ := List.mem_map.1 hu
  rw [hf]; exact h.2 v hv
theorem State.MemOk.of_subset {s t : State} (h : s.MemOk) (hm : t.mem = s.mem) (hs : t.saved ⊆ s.saved) : t.MemOk :=
  ⟨hm ▸ h.1, fun v hv => h.2 v (hs hv)⟩
theorem State.MemOk.of_add {s t : State} {v : Saved} (h : s.MemOk) (hm : t.mem = s.mem) (hs : t.saved = s.saved ++ [v])
    (hv : v.cells.wf = true) : t.MemOk := by
  refine ⟨hm ▸ h.1, fun u hu => ?_⟩
  rw [hs] at hu
  rcases List.mem_append.1 hu with hu | hu
  · exact h.2 u hu
  · rw [List.mem_singleton.1 hu]; exact hv

/-! The same of an operation whose result holds a state, if it has one. -/

/-- The state of an outcome, where it is one, has its memory in canonical form. -/
def Out.MemOk : Out → Prop
  | .next t => t.MemOk
  | _ => True
/-- The state, where there is one, has its memory in canonical form. -/
def OptOk : Option State → Prop
  | some t => t.MemOk
  | none => True
/-- The state, unless a trap stands for it, has its memory in canonical form. -/
def ExcOk {ε : Type} : Except ε State → Prop
  | .ok t => t.MemOk
  | .error _ => True

theorem memOk_of_pair {α : Type} {p : State × α} {t : State} {a : α} (e : p = (t, a)) (h : p.1.MemOk) : t.MemOk := by
  subst e; exact h
theorem Out.memOk_of_pair {α : Type} {p : Out × α} {o : Out} {a : α} (e : p = (o, a)) (h : Out.MemOk p.1) : o.MemOk := by
  subst e; exact h
theorem memOk_of_some {o : Option State} {t : State} (e : o = some t) (h : OptOk o) : t.MemOk := by subst e; exact h
theorem memOk_of_ok {ε : Type} {o : Except ε State} {t : State} (e : o = .ok t) (h : ExcOk o) : t.MemOk := by subst e; exact h
theorem memOk_of_next {o : Out} {t : State} (e : o = .next t) (h : Out.MemOk o) : t.MemOk := by subst e; exact h

/-! Loops and choices. -/

theorem foldl_memOk {α : Type} {f : State → α → State} {l : List α} {s : State} (h : s.MemOk) (hf : ∀ t a, t.MemOk →
    (f t a).MemOk) :
    (l.foldl f s).MemOk := List.foldlRecOn l f h fun t ht a _ => hf t a ht
theorem foldr_memOk {α : Type} {f : α → State → State} {l : List α} {s : State} (h : s.MemOk) (hf : ∀ a t, t.MemOk →
    (f a t).MemOk) :
    (l.foldr f s).MemOk := List.foldrRecOn l f h fun t ht a _ => hf a t ht
theorem foldl_fst_memOk {α β : Type} {f : State × β → α → State × β} {l : List α} {p : State × β} (h : p.1.MemOk)
    (hf : ∀ q a, q.1.MemOk → (f q a).1.MemOk) : (l.foldl f p).1.MemOk :=
  List.foldlRecOn (motive := fun q => q.1.MemOk) l f h fun q hq a _ => hf q a hq
theorem State.ite_memOk {p : Prop} {_ : Decidable p} {s t : State} (hs : s.MemOk) (ht : t.MemOk) :
    (if p then s else t).MemOk := by
  split
  · exact hs
  · exact ht
theorem State.unless_memOk {p : Prop} {_ : Decidable p} {s t : State} (hs : s.MemOk) (ht : s.MemOk → t.MemOk) :
    (if p then s else t).MemOk := State.ite_memOk hs (ht hs)
theorem State.when_memOk {p : Prop} {_ : Decidable p} {s t : State} (hs : s.MemOk) (ht : s.MemOk → t.MemOk) :
    (if p then t else s).MemOk := State.ite_memOk (ht hs) hs
theorem Out.ite_memOk {p : Prop} {_ : Decidable p} {a b : Out} (ha : Out.MemOk a) (hb : Out.MemOk b) : Out.MemOk
    (if p then a else b) := by
  split
  · exact ha
  · exact hb
theorem fst_ite_memOk {α : Type} {p : Prop} {_ : Decidable p} {a b : State × α} (ha : a.1.MemOk) (hb : b.1.MemOk) :
    (if p then a else b).1.MemOk := by
  split
  · exact ha
  · exact hb
theorem OptOk.getD {o : Option State} {s : State} (ho : OptOk o) (hs : s.MemOk) : (o.getD s).MemOk := by
  cases o with
  | none => exact hs
  | some t => exact ho
theorem OptOk.map {α : Type} {o : Option α} {f : α → State} (hf : ∀ a, (f a).MemOk) : OptOk (o.map f) := by
  cases o with
  | none => trivial
  | some a => exact hf a
theorem OptOk.ite {p : Prop} {_ : Decidable p} {a b : Option State} (ha : OptOk a) (hb : OptOk b) : OptOk
    (if p then a else b) := by
  split
  · exact ha
  · exact hb

variable {s t : State} {c : CoreId} {m : Cmd}

/-! `Sys2Proof.Machine.State` -/

theorem Out.then_memOk {o : Out} {f : State → Out} (ho : o.MemOk) (hf : ∀ t, t.MemOk → (f t).MemOk) : (o.then f).MemOk := by
  cases o with
  | next t => exact hf t ho
  | fault r => trivial
  | refused r => trivial

/-! `Sys2Proof.Machine.Ops` -/

theorem State.setCore_memOk {k : Core} (ok : s.MemOk) : (s.setCore c k).MemOk := ok
theorem State.setCtxOf_memOk {x : Ctx} (ok : s.MemOk) : (s.setCtxOf c x).MemOk := State.setCore_memOk ok
theorem State.setCtx_memOk {x : Ctx} (ok : s.MemOk) : (s.setCtx x).MemOk := State.setCtxOf_memOk ok
theorem State.store_memOk {a : Nat} {bs : List Byte} (ok : s.MemOk) : (s.store a bs).MemOk := ok.write rfl rfl
theorem State.bufStore_memOk {sp : Space} {off : Nat} {bs : List Byte} (ok : s.MemOk) : (s.bufStore c sp off bs).MemOk :=
  State.when_memOk (State.store_memOk ok) fun ok => State.setCtxOf_memOk ok
theorem State.putTrace_memOk {base cap next k : Nat} {r : List Byte} (ok : s.MemOk) : (s.putTrace base cap next k r).MemOk :=
  ok.of_mem (List.foldlRecOn (motive := fun m : Memory => m.wf = true) _ _ ok.1 fun _ hm _ _ => Memory.write_wf _ _ _ hm) rfl
theorem State.traceSpace_memOk {fn a : Nat} (ok : s.MemOk) : (s.traceSpace c fn a).MemOk := ok
theorem State.traceRec_memOk {ty eng : Nat} {pc : Word} {seq : BitVec 32} {p0 p1 : Word} (ok : s.MemOk) :
    (s.traceRec c ty eng pc seq p0 p1).MemOk := by
  unfold State.traceRec
  dsimp only
  split
  · exact ok
  · exact State.ite_memOk ok (State.ite_memOk (State.setCore_memOk ok)
        (State.setCore_memOk (State.putTrace_memOk (State.traceSpace_memOk ok))))
theorem State.hit_memOk {kind : Nat} {pc : Word} {seq : BitVec 32} {p : Fin 4 → Bool} (ok : s.MemOk) :
    (s.hit c kind pc seq p).MemOk := by
  unfold State.hit
  split
  exact State.setCore_memOk ok
theorem State.takeTrap_memOk {r0 : TrapRec} {t0 : Nat} (ok : s.MemOk) : (s.takeTrap c r0 t0).MemOk :=
  State.ite_memOk (State.setCore_memOk (State.bufStore_memOk (State.traceRec_memOk ok)))
      (State.setCore_memOk (State.traceRec_memOk ok))
theorem State.precise_memOk {g : Guard} {slot : Slot} {cls : TrapClass} {addr : Nat} (ok : s.MemOk) :
    (s.precise g slot cls addr).MemOk :=
  State.ite_memOk ok (State.setCore_memOk (State.takeTrap_memOk ok))
theorem State.arith_memOk {g : Guard} {slot : Slot} {fl0 : Fl} (ok : s.MemOk) : (s.arith g slot fl0).MemOk :=
  State.ite_memOk ok (State.setCore_memOk (State.takeTrap_memOk (State.setCtx_memOk ok)))
theorem State.finish_memOk {g : Guard} {slot : Slot} {lat code : Nat} {v : Word} {r : Option Row} {fl : Fl} (ok : s.MemOk) :
    (s.finish g slot lat code v r fl).MemOk :=
  Out.ite_memOk ok (Out.ite_memOk ok (Out.ite_memOk (State.arith_memOk ok) (State.setCtx_memOk ok)))
theorem State.afterBundle_memOk {r : TrapRec} (ok : s.MemOk) : (s.afterBundle c r).MemOk :=
  State.ite_memOk (State.takeTrap_memOk (State.ite_memOk (State.setCtxOf_memOk ok) ok))
      (State.setCore_memOk (State.ite_memOk (State.setCtxOf_memOk ok) ok))
theorem State.returnTrap_memOk (ok : s.MemOk) : (s.returnTrap c).MemOk := State.setCore_memOk ok

/-! `Sys2Proof.Machine.Float` -/

theorem State.fbin_memOk {x : FBin} {lat : Nat} {op : Rm → Ex → Ex → Ex × Fl} (ok : s.MemOk) : (s.fbin x lat op).MemOk := by
  unfold State.fbin
  split
  exact State.finish_memOk ok
theorem execFadd_memOk {x : FBin} (ok : s.MemOk) : (execFadd x s).MemOk := State.fbin_memOk ok
theorem execFsub_memOk {x : FBin} (ok : s.MemOk) : (execFsub x s).MemOk := State.fbin_memOk ok
theorem execFmul_memOk {x : FBin} (ok : s.MemOk) : (execFmul x s).MemOk := State.fbin_memOk ok
theorem execFfma_memOk {x : FTer} (ok : s.MemOk) : (execFfma x s).MemOk := by
  unfold execFfma
  split
  exact State.finish_memOk ok
theorem execFdiv_memOk {x : FBin} (ok : s.MemOk) : (execFdiv x s).MemOk := State.fbin_memOk ok
theorem execFsqrt_memOk {x : FUna} (ok : s.MemOk) : (execFsqrt x s).MemOk := by
  unfold execFsqrt
  split
  exact State.finish_memOk ok
theorem execFmin_memOk {x : FBin} (ok : s.MemOk) : (execFmin x s).MemOk := by
  unfold execFmin
  split
  exact State.finish_memOk ok
theorem execFmax_memOk {x : FBin} (ok : s.MemOk) : (execFmax x s).MemOk := by
  unfold execFmax
  split
  exact State.finish_memOk ok
theorem execFcmp_memOk {x : FCmp} (ok : s.MemOk) : (execFcmp x s).MemOk := State.finish_memOk ok
theorem execFcvt_memOk {x : FCvt} (ok : s.MemOk) : (execFcvt x s).MemOk := by
  unfold execFcvt
  split
  exact State.finish_memOk ok
theorem execFclass_memOk {x : FUna} (ok : s.MemOk) : (execFclass x s).MemOk := State.finish_memOk ok

/-! `Sys2Proof.Machine.Node` -/

theorem State.setFunc_memOk {f : Nat} {x : Func} (ok : s.MemOk) : (s.setFunc f x).MemOk := ok
theorem State.setLq_memOk {q : Nat} {x : LQueue} (ok : s.MemOk) : (s.setLq q x).MemOk := ok
theorem State.setEq_memOk {e : Nat} {x : EgQueue} (ok : s.MemOk) : (s.setEq e x).MemOk := ok
theorem State.tailWrite_memOk {q : Nat} {v : Word} (ok : s.MemOk) : OptOk (s.tailWrite q v) :=
  OptOk.ite (State.setLq_memOk ok) trivial
theorem State.eqctlWrite_memOk {e : Nat} {v : Word} (ok : s.MemOk) : OptOk (s.eqctlWrite e v) :=
  OptOk.ite (State.setEq_memOk ok) trivial
theorem State.ctlWrite_memOk {off : Nat} {bs : List Byte} (ok : s.MemOk) : OptOk (s.ctlWrite off bs) :=
  OptOk.ite (State.tailWrite_memOk ok) (OptOk.ite (State.eqctlWrite_memOk ok) (State.store_memOk ok))
theorem State.flagHits_memOk {f : Nat} {v : BitVec 32} (ok : s.MemOk) : (s.flagHits f v).MemOk := by
  refine State.ite_memOk ok (foldl_memOk (foldl_memOk ok fun s i ok => State.ite_memOk (State.hit_memOk ok) ok) fun s i ok => ?_)
  split
  · exact ok
  next e => exact ok.of_set ok.1 rfl (ok.cells e :)
theorem State.setFlag_memOk {f : Nat} {v : BitVec 32} {by_ : Setter} (ok : s.MemOk) : (s.setFlag f v by_).MemOk :=
  State.flagHits_memOk ok
theorem State.tlbFill_memOk {e : TlbEnt} (ok : s.MemOk) : (s.tlbFill c e).MemOk := ok
theorem State.xlate_memOk {va n : Nat} {k : AccK} (ok : s.MemOk) : (s.xlate c va n k).1.MemOk := by
  unfold State.xlate
  dsimp only
  split
  · exact ok
  · split
    · exact ok
    · split
      · exact State.tlbFill_memOk ok
      · split <;> exact State.tlbFill_memOk ok
theorem State.walkDone_memOk {i : Nat} (ok : s.MemOk) : (s.walkDone i).MemOk := by
  unfold State.walkDone
  split
  · exact ok
  · refine foldl_memOk ok (fun _ _ ok1 => State.ite_memOk ?_ ok1)
    dsimp only
    split
    · refine State.setCore_memOk ?_
      split
      · exact State.ite_memOk (State.tlbFill_memOk ok1) ok1
      · exact ok1
    · refine State.ite_memOk ?_ ok1
      split
      · exact State.tlbFill_memOk ok1
      · exact ok1
theorem State.setPkt_memOk {q : Pkt} (ok : s.MemOk) : (s.setPkt q).MemOk := ok
theorem State.dropPkt_memOk {p : PktId} (ok : s.MemOk) : (s.dropPkt p).MemOk := ok
theorem State.startWalk_memOk {va : Nat} {eng : Bool} (ok : s.MemOk) : (s.startWalk c va eng).MemOk :=
  State.ite_memOk ok (State.ite_memOk ok ok)
theorem State.vaHeld.missed_memOk {va page : Nat} (ok : s.MemOk) : (State.vaHeld.missed s c va page).MemOk :=
  State.unless_memOk (State.setCore_memOk ok) fun ok => State.startWalk_memOk ok
theorem State.vaHeld_memOk {va : Nat} (ok : s.MemOk) : OptOk (s.vaHeld c va) := by
  refine OptOk.ite trivial ?_
  split
  · exact OptOk.ite ok (State.vaHeld.missed_memOk ok)
  · exact OptOk.ite (State.startWalk_memOk ok) (State.vaHeld.missed_memOk ok)
  · exact State.vaHeld.missed_memOk ok

/-! `Sys2Proof.Machine.Engine` -/

theorem State.journal_memOk (ok : s.MemOk) : (s.journal c m).MemOk := ok.write rfl rfl
theorem State.putCmd_memOk (ok : s.MemOk) : (s.putCmd c m).MemOk := State.journal_memOk (State.setCtxOf_memOk ok)
theorem State.push_memOk {m0 : Cmd} (ok : s.MemOk) : (s.push m0).MemOk :=
  State.ite_memOk ok (State.unless_memOk (State.hit_memOk (State.traceRec_memOk (State.journal_memOk (State.setCtx_memOk ok))))
      fun ok => ok.write rfl rfl)
theorem State.command_memOk {α : Type} {g : Guard} {chk : Chk α} {f : α → State} (ok : s.MemOk) (hf : ∀ a, (f a).MemOk) :
    (s.command g chk f).MemOk := by
  refine Out.ite_memOk ok ?_
  split
  · exact State.precise_memOk ok
  · exact hf _
theorem State.completeCmd_memOk {m0 : Cmd} {tok : Word} (ok : s.MemOk) : (s.completeCmd c m0 tok).MemOk :=
  State.hit_memOk (State.traceRec_memOk (State.setCtxOf_memOk (State.putCmd_memOk ok)))
theorem State.complete_memOk {tok : Word} (ok : s.MemOk) : (s.complete c m tok).MemOk := by
  unfold State.complete
  split
  · exact State.completeCmd_memOk ok
  · exact State.ite_memOk (State.putCmd_memOk ok) (State.when_memOk (State.completeCmd_memOk ok) fun ok => State.setFlag_memOk ok)
theorem State.setPips_memOk (ok : s.MemOk) : (s.setPips c m).MemOk := State.hit_memOk (State.setCtxOf_memOk ok)
theorem State.startCmd_memOk {due : Nat} (ok : s.MemOk) : (s.startCmd c m due).MemOk := State.putCmd_memOk ok
theorem State.engineFault_memOk (ok : s.MemOk) : (s.engineFault c m).MemOk := State.setCtxOf_memOk (State.putCmd_memOk ok)
theorem State.takeEngineFault_memOk (ok : s.MemOk) : (s.takeEngineFault c).MemOk := by
  unfold State.takeEngineFault
  dsimp only
  split
  · exact ok
  · split
    · exact State.setCtxOf_memOk ok
    · exact State.takeTrap_memOk (State.setCtxOf_memOk ok)
theorem State.inSaved_memOk {i : Nat} {f : State → State} (ok : s.MemOk) (hf : ∀ t, t.MemOk → (f t).MemOk) :
    (s.inSaved i f).MemOk := by
  unfold State.inSaved
  split
  · exact ok
  next v e =>
    have ran := hf _ (State.setCtxOf_memOk (c := v.core) (x := v.ctx) (s :=
        { s with mem := s.mem.write (bufKey v.core .jb 0) (v.cells.read (bufKey v.core .jb 0) 0x4000) }) (ok.write rfl rfl))
    exact ran.of_set (Memory.write_wf _ _ _ ran.1) rfl (Memory.write_wf _ _ _ (ok.cells e))
theorem State.onCmd_memOk {r : CmdRef} {f : State → Cmd → State} (ok : s.MemOk) (hf : ∀ t a, t.MemOk → (f t a).MemOk) :
    (s.onCmd r f).MemOk := by
  unfold State.onCmd
  split
  · exact hf _ _ ok
  · split
    · refine State.inSaved_memOk ok (fun _ ok1 => ?_)
      split
      · exact hf _ _ ok1
      · exact ok1
    · exact ok

/-! `Sys2Proof.Machine.Wait` -/

theorem State.logWait_memOk {eng : Nat} {ws : List Word} {h : Nat} {tmo : Bool} {pc : Word} {seq : BitVec 32} {t : Nat}
    (ok : s.MemOk) : (s.logWait c eng ws h tmo pc seq t).MemOk := by
  unfold State.logWait
  dsimp only
  split
  · exact ok
  · exact (State.store_memOk ok)
theorem execWait_memOk {x : Wait} (ok : s.MemOk) : (execWait x s).MemOk := State.command_memOk ok (fun _ => State.setCtx_memOk ok)
theorem State.endWait_memOk {w : WaitSt} {h : Nat} {tmo : Bool} (ok : s.MemOk) : (s.endWait c w h tmo).MemOk := by
  unfold State.endWait
  dsimp only
  split
  · exact State.logWait_memOk (State.setCtxOf_memOk ok)
  · exact State.when_memOk (State.logWait_memOk (State.setCore_memOk ok)) fun ok => State.afterBundle_memOk ok
theorem State.endSavedWait_memOk {v : Saved} {w : WaitSt} {h : Nat} {tmo : Bool} (ok : s.MemOk) :
    (s.endSavedWait v w h tmo).1.MemOk :=
  ok.of_mem (State.logWait_memOk (State.setCtxOf_memOk ok)).1 rfl

theorem State.endWaits_memOk {tmo : Bool} (ok : s.MemOk) : (s.endWaits c tmo).MemOk := by
  refine foldl_memOk ?_ fun s i ok => ?_
  · split
    · split
      · exact State.endWait_memOk ok
      · exact ok
    · exact ok
  · dsimp only
    split
    next e =>
      refine State.ite_memOk ok ?_
      split
      · exact ok
      · split
        · exact ok
        · exact (State.endSavedWait_memOk ok).of_set (State.endSavedWait_memOk ok).1 rfl (ok.cells e :)
    · exact ok
theorem execWaitEnd_memOk (ok : s.MemOk) : (execWaitEnd c s).MemOk := State.endWaits_memOk ok
theorem execWaitTimeout_memOk (ok : s.MemOk) : (execWaitTimeout c s).MemOk := State.endWaits_memOk ok
theorem execWaitQ_memOk {x : WaitQ} (ok : s.MemOk) : (execWaitQ x s).MemOk :=
  State.command_memOk ok (fun _ => State.push_memOk ok)
theorem execEngineWaitSatisfied_memOk {r : CmdRef} (ok : s.MemOk) : (execEngineWaitSatisfied r s).MemOk := by
  unfold execEngineWaitSatisfied
  split
  · split
    · exact Out.ite_memOk (State.complete_memOk (State.logWait_memOk ok)) ok
    · exact ok
  · exact ok
theorem State.flagCmd_memOk {g : Guard} {q : Fin 8} {tok : Tok} {a : Word} {f : Fin 512} {sets : Bool} {i : Instr}
    (ok : s.MemOk) : (s.flagCmd g q tok a f sets i).MemOk :=
  State.command_memOk ok (fun _ => State.when_memOk (State.push_memOk ok) fun ok => State.setCtx_memOk ok)
theorem execFset_memOk {x : FlagOp} (ok : s.MemOk) : (execFset x s).MemOk := State.flagCmd_memOk ok
theorem execFinc_memOk {x : FlagOp} (ok : s.MemOk) : (execFinc x s).MemOk := State.flagCmd_memOk ok
theorem execFclr_memOk {x : FlagNo} (ok : s.MemOk) : (execFclr x s).MemOk := State.flagCmd_memOk ok
theorem execFget_memOk {x : FlagNo} (ok : s.MemOk) : (execFget x s).MemOk := State.flagCmd_memOk ok
theorem execFlagPerform_memOk {r : CmdRef} (ok : s.MemOk) : (execFlagPerform r s).MemOk := by
  unfold execFlagPerform
  split
  · dsimp only
    split
    · exact ok
    · exact Out.ite_memOk ok (State.complete_memOk (State.ite_memOk ok (State.setFlag_memOk ok)))
  · exact ok

/-! `Sys2Proof.Machine.Scratch` -/

theorem State.port_memOk {t : Nat} (ok : s.MemOk) : (s.port c t).MemOk := State.setCore_memOk ok
theorem State.inFrame_memOk {p : Flight → Bool} {f : State → Flight → Nat × Nat → State} (ok : s.MemOk)
    (hf : ∀ t a b, t.MemOk → (f t a b).MemOk) : (s.inFrame c p f).MemOk :=
  foldl_memOk ok (fun _ _ ok1 => State.ite_memOk (hf _ _ _ ok1) ok1)
theorem State.give_memOk {pid : Nat} {v : Word} {r : Option Row} (ok : s.MemOk) : (s.give c pid v r).MemOk := by
  refine State.inFrame_memOk (State.setCtxOf_memOk ok) fun _ _ _ ok => ok.of_mem ?_ rfl
  cases r with
  | none => exact Memory.writeN_wf _ _ _ _ ok.1
  | some r => exact Memory.writeN_wf _ _ _ _ ok.1
theorem State.loadEcc_memOk {o : PortOp} {off : Nat} (ok : s.MemOk) : (s.loadEcc c o off).MemOk := by
  unfold State.loadEcc
  dsimp only
  split
  · exact ok
  · exact State.setCtxOf_memOk (State.inFrame_memOk ok fun _ _ _ ok => ok.of_mem (Memory.writeN_wf _ _ _ _ ok.1) rfl)
theorem State.putPiece_memOk {sp : Space} {p : Piece} (ok : s.MemOk) : (s.putPiece c sp p).MemOk := State.bufStore_memOk ok
theorem State.putPieces_memOk {sp : Space} {fresh : Bool} {ps : List Piece} (ok : s.MemOk) : (s.putPieces c sp fresh ps).MemOk :=
  (foldl_memOk ok (fun _ _ => State.putPiece_memOk))
theorem State.atomPort_memOk {o : PortOp} {op : AOp} {off w b d : Nat} {t : ETy} {dw : Bool} {tok : Tok} (ok : s.MemOk) :
    (s.atomPort c o op off w b d t dw tok).MemOk :=
  State.ite_memOk (State.setCtxOf_memOk ok) (State.unless_memOk (State.bufStore_memOk ok) fun ok => State.setCtxOf_memOk ok)
theorem State.portAct_memOk {o : PortOp} (ok : s.MemOk) : (s.portAct c o).MemOk := by
  unfold State.portAct
  split
  · exact State.ite_memOk (State.loadEcc_memOk ok) (State.give_memOk ok)
  · exact foldl_memOk ok (fun _ _ => State.give_memOk)
  · split
    · exact State.loadEcc_memOk ok
    · exact State.give_memOk ok
  · exact State.putPieces_memOk ok
  · exact State.atomPort_memOk ok
theorem State.portStep_memOk (ok : s.MemOk) : (s.portStep c).MemOk :=
  State.ite_memOk ok (foldl_memOk (State.setCtxOf_memOk ok) (fun _ _ => State.portAct_memOk))
theorem State.loadLocal_memOk {x : Load} {quiet : Bool} (ok : s.MemOk) : (s.loadLocal x quiet).MemOk := by
  refine Out.ite_memOk ok ?_
  split
  · exact Out.ite_memOk (State.setCtx_memOk ok) (State.precise_memOk ok)
  · exact Out.ite_memOk ok (State.setCtx_memOk ok)
theorem execLd_memOk {x : Load} (ok : s.MemOk) : (execLd x s).MemOk := State.loadLocal_memOk ok
theorem execLdn_memOk {x : Load} (ok : s.MemOk) : (execLdn x s).MemOk := State.loadLocal_memOk ok
theorem execSt_memOk {x : Store} (ok : s.MemOk) : (execSt x s).MemOk := by
  refine Out.ite_memOk ok ?_
  split
  · exact State.precise_memOk ok
  · exact State.setCtx_memOk ok
theorem State.holdMulti_memOk {n : Nat} (ok : s.MemOk) : (s.holdMulti n).MemOk := State.setCore_memOk ok
theorem execPushm_memOk {x : Multi} (ok : s.MemOk) : (execPushm x s).MemOk :=
  Out.ite_memOk ok (Out.ite_memOk (State.precise_memOk ok) (State.holdMulti_memOk (State.setCtx_memOk ok)))
theorem execPopm_memOk {x : Multi} (ok : s.MemOk) : (execPopm x s).MemOk :=
  Out.ite_memOk ok (Out.ite_memOk (State.precise_memOk ok) (State.holdMulti_memOk (State.setCtx_memOk ok)))
theorem State.atomLocal_memOk {x : Atom} {op : AOp} (ok : s.MemOk) : (s.atomLocal x op).MemOk := by
  unfold State.atomLocal
  dsimp only
  split
  · exact State.precise_memOk ok
  · exact State.setCtx_memOk ok

/-! `Sys2Proof.Machine.Track` -/

theorem State.addTrack_memOk {r : TrackReq} (ok : s.MemOk) : (s.addTrack r).MemOk := ok
theorem State.setTrack_memOk {i : Nat} {f : TrackReq → TrackReq} (ok : s.MemOk) : (s.setTrack i f).MemOk := by
  unfold State.setTrack
  split <;> exact ok
theorem execTrackSpace_memOk {ch : Fin 512} (ok : s.MemOk) : (execTrackSpace ch s).MemOk := by
  refine Out.ite_memOk ok ?_
  split
  · split
    · exact State.setTrack_memOk ok
    · exact ok
  · split
    · exact (State.setTrack_memOk ok)
    · exact ok
theorem execTrackLapBoundary_memOk (ok : s.MemOk) : (execTrackLapBoundary s).MemOk := Out.ite_memOk ok ok
theorem execRefreshRetry_memOk {i : Nat} {h : Fin 64} (ok : s.MemOk) : (execRefreshRetry i h s).MemOk := by
  unfold execRefreshRetry
  split
  · split
    · refine Out.ite_memOk ok (Out.ite_memOk ok ?_)
      dsimp only
      split
      · exact ok
      · exact ok
      · exact ok
      · exact State.setCtxOf_memOk ok
    · exact ok
  · exact ok
theorem State.dropTrack_memOk {src : WinSrc} {idx : Nat} (ok : s.MemOk) : (s.dropTrack c src idx).MemOk := ok
theorem State.pageFor_memOk {q : BitVec 32} {va : Nat} (ok : s.MemOk) : (s.pageFor c q va).1.MemOk := by
  unfold State.pageFor
  dsimp only
  split
  · exact ok
  · split
    · exact ok
    · exact ok
    · split
      · exact State.setCtxOf_memOk ok
      · exact State.when_memOk (State.startWalk_memOk ok) fun ok => State.setCtxOf_memOk ok
theorem State.walkStep_memOk {i : Nat} (ok : s.MemOk) : (s.walkStep i).MemOk := by
  unfold State.walkStep
  split
  · exact ok
  · dsimp only
    split
    · exact ok
    · exact State.ite_memOk ok (State.ite_memOk (State.addTrack_memOk ok) (State.ite_memOk (State.dropTrack_memOk ok) ok))
theorem execPageWalkDone_memOk {i : Nat} (ok : s.MemOk) : (execPageWalkDone i s).MemOk := by
  unfold execPageWalkDone
  split
  · exact Out.ite_memOk (State.walkDone_memOk ok) ok
  · exact ok

/-! `Sys2Proof.Machine.Global` -/

theorem State.gCheck_memOk {va n : Nat} {k : AccK} (ok : s.MemOk) : (s.gCheck va n k).1.MemOk := by
  unfold State.gCheck
  split
  · exact ok
  · split
    next e =>
      split
      · exact memOk_of_pair e (State.xlate_memOk ok)
      · split <;> exact memOk_of_pair e (State.xlate_memOk ok)
theorem State.issueAcc_memOk {g : GAcc} (ok : s.MemOk) : (s.issueAcc g).MemOk :=
  State.setCtx_memOk (State.ite_memOk (State.addTrack_memOk ok) ok)
theorem execLdg_memOk {x : GLoad} (ok : s.MemOk) : (execLdg x s).MemOk := by
  refine Out.ite_memOk ok ?_
  split
  next e => exact State.precise_memOk (memOk_of_pair e (State.gCheck_memOk ok))
  next e => exact State.issueAcc_memOk (memOk_of_pair e (State.gCheck_memOk ok))
theorem execPrf_memOk {x : GLoad} (ok : s.MemOk) : (execPrf x s).MemOk := by
  refine Out.ite_memOk ok ?_
  split
  next e => exact ok
  next e => exact memOk_of_pair e (State.xlate_memOk ok)
theorem State.winSend_memOk {src : WinSrc} {idx pa : Nat} {bs : List Byte} {sh : Bool} {t : Nat} (ok : s.MemOk) :
    (s.winSend c src idx pa bs sh t).MemOk :=
  ok
theorem State.lane_memOk (ok : s.MemOk) : (s.lane c).MemOk := by
  unfold State.lane
  split <;> exact ok
theorem State.foreignLane_memOk {clu : Nat} (ok : s.MemOk) : (s.foreignLane clu).MemOk := by
  unfold State.foreignLane
  split <;> exact ok
theorem execStg_memOk {x : Store} (ok : s.MemOk) : (execStg x s).MemOk := by
  refine Out.ite_memOk ok ?_
  split
  next e => exact State.precise_memOk (memOk_of_pair e (State.gCheck_memOk ok))
  next e =>
    exact State.when_memOk (State.issueAcc_memOk (memOk_of_pair e (State.gCheck_memOk ok))) fun ok => State.winSend_memOk ok
theorem State.atomic_memOk {x : Atom} {op : AOp} {i : Instr} (ok : s.MemOk) : (s.atomic x op i).MemOk := by
  refine Out.ite_memOk ok (Out.ite_memOk (State.atomLocal_memOk ok) ?_)
  dsimp only
  split
  next e => exact State.precise_memOk (memOk_of_pair e (State.gCheck_memOk ok))
  next e => exact State.issueAcc_memOk (memOk_of_pair e (State.gCheck_memOk ok))
theorem execAadd_memOk {x : Atom} (ok : s.MemOk) : (execAadd x s).MemOk := State.atomic_memOk ok
theorem execAand_memOk {x : Atom} (ok : s.MemOk) : (execAand x s).MemOk := State.atomic_memOk ok
theorem execAor_memOk {x : Atom} (ok : s.MemOk) : (execAor x s).MemOk := State.atomic_memOk ok
theorem execAxor_memOk {x : Atom} (ok : s.MemOk) : (execAxor x s).MemOk := State.atomic_memOk ok
theorem execAmin_memOk {x : Atom} (ok : s.MemOk) : (execAmin x s).MemOk := State.atomic_memOk ok
theorem execAmax_memOk {x : Atom} (ok : s.MemOk) : (execAmax x s).MemOk := State.atomic_memOk ok
theorem execAminn_memOk {x : Atom} (ok : s.MemOk) : (execAminn x s).MemOk := State.atomic_memOk ok
theorem execAmaxn_memOk {x : Atom} (ok : s.MemOk) : (execAmaxn x s).MemOk := State.atomic_memOk ok
theorem execAxchg_memOk {x : Atom} (ok : s.MemOk) : (execAxchg x s).MemOk := State.atomic_memOk ok
theorem execAcas_memOk {x : Atom} (ok : s.MemOk) : (execAcas x s).MemOk := State.atomic_memOk ok
theorem execAfadd_memOk {x : Atom} (ok : s.MemOk) : (execAfadd x s).MemOk := State.atomic_memOk ok
theorem execAfmax_memOk {x : Atom} (ok : s.MemOk) : (execAfmax x s).MemOk := State.atomic_memOk ok
theorem execLdgReturn_memOk {a : AccAns} (ok : s.MemOk) : (execLdgReturn a s).MemOk := by
  unfold execLdgReturn
  split
  · dsimp only
    split
    · split <;> exact State.setCtxOf_memOk (State.dropPkt_memOk (State.dropTrack_memOk ok))
    · exact State.dropPkt_memOk (State.dropTrack_memOk ok)
  · exact ok
theorem execStgAck_memOk {a : AccAns} (ok : s.MemOk) : (execStgAck a s).MemOk := by
  unfold execStgAck
  split
  · split
    · dsimp only
      split
      · split
        · exact State.dropPkt_memOk (State.dropTrack_memOk ok)
        · exact State.setCtxOf_memOk (State.dropPkt_memOk (State.dropTrack_memOk ok))
        · exact State.setCtxOf_memOk (State.dropPkt_memOk (State.dropTrack_memOk ok))
      · split
        · split
          next e =>
            exact State.setCtxOf_memOk (memOk_of_some e (State.ctlWrite_memOk (State.dropPkt_memOk (State.dropTrack_memOk ok))))
          next e => exact State.setCtxOf_memOk (State.dropPkt_memOk (State.dropTrack_memOk ok))
        · refine Out.ite_memOk ?_ (Out.ite_memOk (State.setCtxOf_memOk (State.dropPkt_memOk (State.dropTrack_memOk ok)))
              (State.setCtxOf_memOk (State.store_memOk (State.dropPkt_memOk (State.dropTrack_memOk ok)))))
          split <;> exact State.setCtxOf_memOk (State.dropPkt_memOk (State.dropTrack_memOk ok))
    · exact ok
  · exact ok
theorem execGlobalAtomicReturn_memOk {a : AccAns} (ok : s.MemOk) : (execGlobalAtomicReturn a s).MemOk := by
  unfold execGlobalAtomicReturn
  split
  · split
    · dsimp only
      split
      · exact State.store_memOk (State.setCtxOf_memOk (State.dropTrack_memOk ok))
      · exact State.setCtxOf_memOk (State.dropTrack_memOk ok)
    · exact ok
  · exact ok
theorem State.pagesFor_memOk {q : BitVec 32} {cs : List (Nat × Nat)} (ok : s.MemOk) : (s.pagesFor c q cs).1.MemOk := by
  refine foldl_fst_memOk ok (fun _ _ ok1 => ?_)
  split
  next e => exact memOk_of_pair e (State.pageFor_memOk ok1)
theorem State.sendPart_memOk {q : BitVec 32} {idx va n : Nat} {k : AccK} {tr : Bool} (ok : s.MemOk) :
    (s.sendPart c q idx va n k tr).MemOk := by
  unfold State.sendPart
  split
  next e => exact memOk_of_pair e (State.xlate_memOk ok)
  next e => exact State.when_memOk (memOk_of_pair e (State.xlate_memOk ok)) fun ok => State.addTrack_memOk ok
theorem State.gReadVa_memOk {va n : Nat} {ans : Answer} {pol : State → Nat → Nat → Option TrapClass} (ok : s.MemOk) :
    (s.gReadVa c va n ans pol).1.MemOk := by
  refine foldl_fst_memOk ok (fun _ _ ok1 => ?_)
  split
  · exact ok1
  · split
    next e =>
      split
      · exact memOk_of_pair e (State.xlate_memOk ok1)
      · split
        · exact memOk_of_pair e (State.xlate_memOk ok1)
        · dsimp only
          split <;> exact memOk_of_pair e (State.xlate_memOk ok1)
theorem State.gWrite_memOk {pa : Nat} {bs : List Byte} {ans : Answer} (ok : s.MemOk) : ExcOk (s.gWrite pa bs ans) := by
  unfold State.gWrite
  split
  · split
    · exact ok
    · exact trivial
  · split
    · split
      next e => exact memOk_of_some e (State.ctlWrite_memOk ok)
      next e => exact trivial
    · split
      · exact trivial
      · exact State.store_memOk ok
theorem State.gWriteVa_memOk {va : Nat} {bs : List Byte} {ans : Answer} {pol : State → Nat → Nat → Option TrapClass}
    (ok : s.MemOk) : (s.gWriteVa c va bs ans pol).1.MemOk := by
  refine foldl_fst_memOk ok (fun _ _ ok1 => ?_)
  split
  · exact ok1
  · split
    next e =>
      split
      · exact memOk_of_pair e (State.xlate_memOk ok1)
      · split
        · exact memOk_of_pair e (State.xlate_memOk ok1)
        · split
          next e1 => exact memOk_of_ok e1 (State.gWrite_memOk (memOk_of_pair e (State.xlate_memOk ok1)))
          · exact memOk_of_pair e (State.xlate_memOk ok1)
theorem State.putSome_memOk {a : Nat} {bs : List (Option Byte)} (ok : s.MemOk) : (s.putSome a bs).MemOk := by
  refine State.ite_memOk (State.store_memOk ok) (foldl_memOk ok (fun _ _ ok1 => ?_))
  split
  · exact State.store_memOk ok1
  · exact ok1
theorem State.winLand_memOk {u : WinUnit} (ok : s.MemOk) : (s.winLand u).1.MemOk := by
  unfold State.winLand
  split
  · exact ok
  · exact foldl_memOk ok (fun _ _ => State.putSome_memOk)
theorem execWindowUnitLand_memOk {i : Nat} (ok : s.MemOk) : (execWindowUnitLand i s).MemOk := by
  unfold execWindowUnitLand
  split
  · exact ok
  · refine Out.ite_memOk ok ?_
    split
    next e =>
      dsimp only
      split
      · exact State.setCtxOf_memOk (memOk_of_pair e (State.winLand_memOk ok))
      · exact State.setCtxOf_memOk (memOk_of_pair e (State.winLand_memOk ok))
      · exact memOk_of_pair e (State.winLand_memOk ok)
      · exact memOk_of_pair e (State.winLand_memOk ok)

/-! `Sys2Proof.Machine.Matrix` -/

theorem State.ringStore_memOk {sp : Space} {a o : Nat} {bs : List Byte} (ok : s.MemOk) : (s.ringStore c sp a o bs).MemOk :=
  foldl_fst_memOk ok (fun _ _ => State.bufStore_memOk)
theorem State.cellClean_memOk {va : Bool} (ok : s.MemOk) : (s.cellClean c va).MemOk := ok
theorem State.takePort_memOk {rs : List (Space × Bool × Nat)} (ok : s.MemOk) : OptOk (s.takePort c rs) :=
  OptOk.ite (State.setCore_memOk ok) trivial
theorem State.pushLoad_memOk {x : Ecmd} {i : Instr} {sparse : Bool} (ok : s.MemOk) : (s.pushLoad x i sparse).MemOk :=
  State.command_memOk ok (fun _ => State.setCtx_memOk (State.push_memOk ok))
theorem execMld_memOk {x : Ecmd} (ok : s.MemOk) : (execMld x s).MemOk := State.pushLoad_memOk ok
theorem execMldsp_memOk {x : Ecmd} (ok : s.MemOk) : (execMldsp x s).MemOk := State.pushLoad_memOk ok
theorem State.pushStream_memOk {x : Ecmd} {i : Instr} {remote : Bool} (ok : s.MemOk) : (s.pushStream x i remote).MemOk :=
  State.command_memOk ok (fun _ => State.push_memOk ok)
theorem execMstr_memOk {x : Ecmd} (ok : s.MemOk) : (execMstr x s).MemOk := State.pushStream_memOk ok
theorem execMstrr_memOk {x : Ecmd} (ok : s.MemOk) : (execMstrr x s).MemOk := State.pushStream_memOk ok
theorem execMzero_memOk {x : Ecmd} (ok : s.MemOk) : (execMzero x s).MemOk := State.command_memOk ok (fun _ => State.push_memOk ok)
theorem execMdrain_memOk {x : Ecmd} (ok : s.MemOk) : (execMdrain x s).MemOk :=
  State.command_memOk ok (fun _ => State.push_memOk ok)
theorem execMcfg_memOk {x : Ecmd} (ok : s.MemOk) : (execMcfg x s).MemOk := State.command_memOk ok (fun _ => State.push_memOk ok)
theorem execMpip_memOk {x : Ecmd} (ok : s.MemOk) : (execMpip x s).MemOk := State.command_memOk ok (fun _ => State.push_memOk ok)
theorem execMabort_memOk {x : Ecmd} (ok : s.MemOk) : (execMabort x s).MemOk := by
  unfold execMabort
  exact State.command_memOk ok (fun _ => State.setCtx_memOk (State.push_memOk ok))
theorem State.endStream_memOk {x : Ecmd} {remote : Bool} (ok : s.MemOk) : (s.endStream c m x remote).1.MemOk :=
  State.setCtxOf_memOk ok
theorem State.stopStream_memOk (ok : s.MemOk) : (s.stopStream c m).1.MemOk := by
  unfold State.stopStream
  split
  · exact ok
  · split
    · exact State.endStream_memOk ok
    · exact State.endStream_memOk ok
    · exact ok
theorem State.meFail_memOk {cls : TrapClass} {addr : Nat} (ok : s.MemOk) : (s.meFail c m cls addr).MemOk := by
  unfold State.meFail
  split
  next e => exact State.putCmd_memOk (memOk_of_pair e (State.stopStream_memOk ok))
theorem State.commitStream_memOk {x : Ecmd} {tx : ETy} {xbs : Bool} {xs : Els} {at_ : Nat} (ok : s.MemOk) :
    (s.commitStream c m x tx xbs xs at_).MemOk := by
  refine State.ite_memOk ok (State.ite_memOk (State.meFail_memOk ok) ?_)
  split
  next e => exact ok
  next e => exact State.putCmd_memOk (State.setCtxOf_memOk (State.bufStore_memOk (memOk_of_some e (State.takePort_memOk ok))))
theorem State.commitDrain_memOk {x : Ecmd} (ok : s.MemOk) : (s.commitDrain c m x).MemOk := by
  refine State.ite_memOk ok (State.ite_memOk (State.meFail_memOk ok) ?_)
  split
  next e => exact ok
  next e => exact State.putCmd_memOk (State.bufStore_memOk (memOk_of_some e (State.takePort_memOk ok)))
theorem State.nextShare_memOk {d tail : Nat} {cs : List (Space × Bool × Nat)} (ok : s.MemOk) :
    (s.nextShare c m d tail cs).MemOk := by
  unfold State.nextShare
  split
  · exact ok
  · refine State.ite_memOk ok ?_
    split
    next e => exact ok
    next e => exact State.putCmd_memOk (memOk_of_some e (State.takePort_memOk ok))
theorem State.mePort_memOk (ok : s.MemOk) : (s.mePort c m).MemOk := by
  refine State.ite_memOk ok ?_
  split
  · refine State.ite_memOk ok ?_
    dsimp only
    split
    next e => exact ok
    next e => exact State.putCmd_memOk (memOk_of_some e (State.takePort_memOk ok))
  · exact State.nextShare_memOk ok
theorem State.startMe_memOk (ok : s.MemOk) : (s.startMe c m).MemOk := by
  unfold State.startMe
  split
  · exact State.startCmd_memOk ok
  · exact State.startCmd_memOk ok
  · exact State.startCmd_memOk ok
  · exact State.startCmd_memOk ok
  · exact State.startCmd_memOk (State.setCtxOf_memOk ok)
  · exact State.startCmd_memOk ok
  · exact State.startCmd_memOk ok
  · exact State.startCmd_memOk (State.setCtxOf_memOk ok)
  · exact State.startCmd_memOk (State.ite_memOk (State.setCtxOf_memOk ok) ok)
  · exact ok
theorem State.completeMe_memOk {count : Nat} {own : Bool} {res : Word} (ok : s.MemOk) : (s.completeMe c m count own res).MemOk :=
  State.complete_memOk (State.setPips_memOk (State.setCtxOf_memOk ok))
theorem State.abortOne.abortLoad_memOk {x : Ecmd} {abt : Word} (ok : s.MemOk) : (State.abortOne.abortLoad s c m x abt).MemOk :=
  State.complete_memOk (State.ite_memOk (State.setCtxOf_memOk ok) ok)
theorem State.abortOne.abortRows_memOk {abt : Word} (ok : s.MemOk) : (State.abortOne.abortRows s c m abt).MemOk := by
  refine State.ite_memOk ?_ (State.complete_memOk ok)
  split
  next e => exact State.completeMe_memOk (memOk_of_pair e (State.stopStream_memOk ok))
theorem State.abortOne_memOk (ok : s.MemOk) : (s.abortOne c m).1.MemOk := by
  unfold State.abortOne
  dsimp only
  split
  · exact ok
  · split
    · exact ok
    · exact State.complete_memOk ok
  · split
    · exact ok
    · exact State.complete_memOk ok
  · split
    · exact ok
    · exact State.complete_memOk ok
  · exact State.abortOne.abortLoad_memOk ok
  · exact State.abortOne.abortLoad_memOk ok
  · exact State.abortOne.abortRows_memOk ok
  · exact State.abortOne.abortRows_memOk ok
  · exact State.abortOne.abortRows_memOk ok
  · exact ok
theorem State.abort_memOk {x : Ecmd} (ok : s.MemOk) : (s.abort c m x).MemOk :=
  State.putCmd_memOk (foldl_fst_memOk ok fun _ _ ok => State.abortOne_memOk ok)
theorem execMeRowCommit.row_memOk {r : CmdRef} {x : Ecmd} {remote : Bool} (ok : s.MemOk) :
    (execMeRowCommit.row r s m x remote).MemOk := by
  refine State.ite_memOk ok ?_
  split
  · exact ok
  · split
    · exact State.meFail_memOk ok
    · exact State.commitStream_memOk ok
theorem execMeRowCommit_memOk {r : CmdRef} (ok : s.MemOk) : (execMeRowCommit r s).MemOk := by
  unfold execMeRowCommit
  split
  · refine Out.ite_memOk ok ?_
    split
    · exact execMeRowCommit.row_memOk ok
    · exact execMeRowCommit.row_memOk ok
    · exact Out.ite_memOk (State.commitDrain_memOk ok) ok
    · exact ok
  · exact ok
theorem State.askRows_memOk {x : Ecmd} (ok : s.MemOk) : (s.askRows c m x).MemOk := by
  refine State.ite_memOk ok (foldl_memOk (State.putCmd_memOk ok) (fun _ _ ok1 => ?_))
  dsimp only
  split
  · exact State.pagesFor_memOk ok1
  · split
    · exact State.putCmd_memOk (foldl_memOk (State.pagesFor_memOk ok1) (fun _ _ => State.sendPart_memOk))
    · exact foldl_memOk (State.pagesFor_memOk ok1) (fun _ _ => State.sendPart_memOk)
theorem execMstrrRowArrive_memOk {a : CmdAns} (ok : s.MemOk) : (execMstrrRowArrive a s).MemOk := by
  unfold execMstrrRowArrive
  split
  · split
    · refine Out.ite_memOk ok (State.putCmd_memOk (foldl_fst_memOk (foldl_memOk ok (fun _ _ => State.dropTrack_memOk))
          (fun _ _ ok1 => ?_)))
      split
      · exact ok1
      · split
        next e =>
          split
          · exact memOk_of_pair e (State.xlate_memOk ok1)
          · split
            · exact memOk_of_pair e (State.xlate_memOk ok1)
            · dsimp only
              split <;> exact memOk_of_pair e (State.xlate_memOk ok1)
    · exact ok
  · exact ok
theorem execMeCommandComplete.load_memOk {r : CmdRef} {x : Ecmd} {sparse : Bool} {pat : Nat} (ok : s.MemOk) :
    (execMeCommandComplete.load r s m x sparse pat).MemOk :=
  State.ite_memOk (State.meFail_memOk ok) (State.completeMe_memOk (State.cellClean_memOk (State.setCtxOf_memOk ok)))
theorem execMeCommandComplete.stream_memOk {r : CmdRef} {x : Ecmd} {remote : Bool} (ok : s.MemOk) :
    (execMeCommandComplete.stream r s m x remote).MemOk :=
  State.ite_memOk (State.completeMe_memOk (State.setCtxOf_memOk ok)) ok
theorem execMeCommandComplete_memOk {r : CmdRef} (ok : s.MemOk) : (execMeCommandComplete r s).MemOk := by
  unfold execMeCommandComplete
  split
  · refine Out.ite_memOk ok ?_
    split
    · exact execMeCommandComplete.load_memOk ok
    · exact execMeCommandComplete.load_memOk ok
    · exact execMeCommandComplete.stream_memOk ok
    · exact execMeCommandComplete.stream_memOk ok
    · exact State.completeMe_memOk (State.bufStore_memOk ok)
    · exact Out.ite_memOk (State.completeMe_memOk ok) ok
    · exact State.completeMe_memOk ok
    · exact State.completeMe_memOk (foldl_memOk ok (fun _ _ => State.bufStore_memOk))
    · exact Out.ite_memOk (State.completeMe_memOk ok) (State.abort_memOk ok)
    · exact ok
  · exact ok

/-! `Sys2Proof.Machine.Vector` -/

theorem State.vrow_memOk {g : Guard} {lat : Nat} {d : Fin 128} {r : Row} {fl : Fl} (ok : s.MemOk) : (s.vrow g lat d r fl).MemOk :=
  State.finish_memOk ok
theorem State.vels_memOk {g : Guard} {lat : Nat} {d : Fin 128} {w : Nat} {r : List Nat × Fl} (ok : s.MemOk) :
    (s.vels g lat d w r).MemOk :=
  State.vrow_memOk ok
theorem State.vbin_memOk {x : VBin} {latI latF : Nat} {fi : Int → Int → Int} {ff : Nat → Nat → Nat × Fl} (ok : s.MemOk) :
    (s.vbin x latI latF fi ff).MemOk :=
  Out.ite_memOk (State.vels_memOk ok) (State.vels_memOk ok)
theorem execVadd_memOk {x : VBin} (ok : s.MemOk) : (execVadd x s).MemOk := State.vbin_memOk ok
theorem execVsub_memOk {x : VBin} (ok : s.MemOk) : (execVsub x s).MemOk := State.vbin_memOk ok
theorem execVmul_memOk {x : VBin} (ok : s.MemOk) : (execVmul x s).MemOk := State.vbin_memOk ok
theorem execVmin_memOk {x : VBin} (ok : s.MemOk) : (execVmin x s).MemOk := State.vbin_memOk ok
theorem execVmax_memOk {x : VBin} (ok : s.MemOk) : (execVmax x s).MemOk := State.vbin_memOk ok
theorem State.vter_memOk {x : VTer} {negz : Bool} (ok : s.MemOk) : (s.vter x negz).MemOk := State.vels_memOk ok
theorem execVfma_memOk {x : VTer} (ok : s.MemOk) : (execVfma x s).MemOk := State.vter_memOk ok
theorem execVfms_memOk {x : VTer} (ok : s.MemOk) : (execVfms x s).MemOk := State.vter_memOk ok
theorem State.vuna_memOk {x : VUna} {fi : Int → Int} {ff : Nat → Nat} (ok : s.MemOk) : (s.vuna x fi ff).MemOk :=
  Out.ite_memOk (State.vels_memOk ok) (State.vels_memOk ok)
theorem execVabs_memOk {x : VUna} (ok : s.MemOk) : (execVabs x s).MemOk := State.vuna_memOk ok
theorem execVneg_memOk {x : VUna} (ok : s.MemOk) : (execVneg x s).MemOk := State.vuna_memOk ok
theorem execVand_memOk {x : VLog} (ok : s.MemOk) : (execVand x s).MemOk := State.vrow_memOk ok
theorem execVor_memOk {x : VLog} (ok : s.MemOk) : (execVor x s).MemOk := State.vrow_memOk ok
theorem execVxor_memOk {x : VLog} (ok : s.MemOk) : (execVxor x s).MemOk := State.vrow_memOk ok
theorem State.vshift_memOk {x : VLog} {f : Nat → Nat → Nat → Nat} (ok : s.MemOk) : (s.vshift x f).MemOk := State.vels_memOk ok
theorem execVshl_memOk {x : VLog} (ok : s.MemOk) : (execVshl x s).MemOk := State.vshift_memOk ok
theorem execVshr_memOk {x : VLog} (ok : s.MemOk) : (execVshr x s).MemOk := State.vshift_memOk ok
theorem execVsra_memOk {x : VLog} (ok : s.MemOk) : (execVsra x s).MemOk := State.vshift_memOk ok
theorem execVpopc_memOk {x : VUna} (ok : s.MemOk) : (execVpopc x s).MemOk := State.vels_memOk ok
theorem execVcmp_memOk {x : VCmp} (ok : s.MemOk) : (execVcmp x s).MemOk :=
  Out.ite_memOk (State.vels_memOk ok) (State.vels_memOk ok)
theorem execVsel_memOk {x : VSel} (ok : s.MemOk) : (execVsel x s).MemOk := State.vels_memOk ok
theorem execVmov_memOk {x : VMov} (ok : s.MemOk) : (execVmov x s).MemOk := State.vrow_memOk ok
theorem execVbcast_memOk {x : VRowS} (ok : s.MemOk) : (execVbcast x s).MemOk := State.vels_memOk ok
theorem execVlane_memOk {x : VLane} (ok : s.MemOk) : (execVlane x s).MemOk := State.finish_memOk ok
theorem execViota_memOk {x : VIota} (ok : s.MemOk) : (execViota x s).MemOk := State.vels_memOk ok
theorem execVcvt_memOk {x : VCvt} (ok : s.MemOk) : (execVcvt x s).MemOk :=
  Out.ite_memOk (State.vels_memOk ok) (State.vels_memOk ok)
theorem State.vwide_memOk {x : VBin} {fi : Int → Int → Int} {ff : Rm → Ex → Ex → Ex × Fl} (ok : s.MemOk) :
    (s.vwide x fi ff).MemOk :=
  Out.ite_memOk (State.vels_memOk ok) (State.vels_memOk ok)
theorem execVwadd_memOk {x : VBin} (ok : s.MemOk) : (execVwadd x s).MemOk := State.vwide_memOk ok
theorem execVwmul_memOk {x : VBin} (ok : s.MemOk) : (execVwmul x s).MemOk := State.vwide_memOk ok
theorem execVquant_memOk {x : VQuant} (ok : s.MemOk) : (execVquant x s).MemOk :=
  Out.ite_memOk ok (Out.ite_memOk ok (Out.ite_memOk (State.arith_memOk ok) (State.setCtx_memOk ok)))
theorem execVdequant_memOk {x : VDeq} (ok : s.MemOk) : (execVdequant x s).MemOk := State.vels_memOk ok
theorem execVscan_memOk {x : VScan} (ok : s.MemOk) : (execVscan x s).MemOk := State.vels_memOk ok
theorem execVred_memOk {x : VRed} (ok : s.MemOk) : (execVred x s).MemOk := by
  unfold execVred
  split
  exact State.finish_memOk ok
theorem execVperm_memOk {x : VPerm} (ok : s.MemOk) : (execVperm x s).MemOk := State.vels_memOk ok
theorem execVrot_memOk {x : VRowS} (ok : s.MemOk) : (execVrot x s).MemOk := State.vels_memOk ok
theorem execVshuf_memOk {x : VShuf} (ok : s.MemOk) : (execVshuf x s).MemOk := State.vels_memOk ok
theorem State.rowLoad_memOk {g : Guard} {sp : Space} {d : Fin 128} {addr unit lat ports w : Nat} {es : List (Nat × Nat × Nat)}
    {pi : Option (Nat × Word)} (ok : s.MemOk) : (s.rowLoad g sp d addr unit lat ports w es pi).MemOk := by
  refine Out.ite_memOk ok ?_
  split
  · exact State.precise_memOk ok
  · exact Out.ite_memOk ok (State.setCtx_memOk (State.port_memOk ok))
theorem State.rowStore_memOk {g : Guard} {sp : Space} {addr unit ports : Nat} {ps : List Piece} {pi : Option (Nat × Word)}
    (ok : s.MemOk) : (s.rowStore g sp addr unit ports ps pi).MemOk := by
  refine Out.ite_memOk ok ?_
  split
  · exact State.precise_memOk ok
  · exact State.setCtx_memOk (State.port_memOk ok)
theorem execVld_memOk {x : VMem} (ok : s.MemOk) : (execVld x s).MemOk := State.rowLoad_memOk ok
theorem execVst_memOk {x : VMem} (ok : s.MemOk) : (execVst x s).MemOk := State.rowStore_memOk ok
theorem execVldt_memOk {x : VMem} (ok : s.MemOk) : (execVldt x s).MemOk := State.rowLoad_memOk ok
theorem execVstt_memOk {x : VMem} (ok : s.MemOk) : (execVstt x s).MemOk := State.rowStore_memOk ok
theorem execVldm_memOk {x : VMem} (ok : s.MemOk) : (execVldm x s).MemOk := State.rowLoad_memOk ok
theorem execVstm_memOk {x : VMem} (ok : s.MemOk) : (execVstm x s).MemOk := State.rowStore_memOk ok

/-! `Sys2Proof.Machine.VFun` -/

theorem State.vfn_memOk {x : VFn} {f : Ex → Ex × Fl} (ok : s.MemOk) : (s.vfn x f).MemOk := State.vels_memOk ok
theorem execVexp2_memOk {x : VFn} (ok : s.MemOk) : (execVexp2 x s).MemOk := State.vfn_memOk ok
theorem execVlog2_memOk {x : VFn} (ok : s.MemOk) : (execVlog2 x s).MemOk := State.vfn_memOk ok
theorem execVrcp_memOk {x : VFn} (ok : s.MemOk) : (execVrcp x s).MemOk := State.vfn_memOk ok
theorem execVrsqrt_memOk {x : VFn} (ok : s.MemOk) : (execVrsqrt x s).MemOk := State.vfn_memOk ok
theorem execVtanh_memOk {x : VFn} (ok : s.MemOk) : (execVtanh x s).MemOk := State.vfn_memOk ok
theorem execVsigm_memOk {x : VFn} (ok : s.MemOk) : (execVsigm x s).MemOk := State.vfn_memOk ok
theorem execVtbl_memOk {x : VUna} (ok : s.MemOk) : (execVtbl x s).MemOk :=
  Out.ite_memOk (State.vels_memOk ok) (State.vels_memOk ok)
theorem execVtbld_memOk {x : VTbld} (ok : s.MemOk) : (execVtbld x s).MemOk := Out.ite_memOk ok (State.setCtx_memOk ok)
theorem execVtbsw_memOk {g : Guard} (ok : s.MemOk) : (execVtbsw g s).MemOk := Out.ite_memOk (State.setCtx_memOk ok) ok
theorem execVsmax_memOk {x : VFold} (ok : s.MemOk) : (execVsmax x s).MemOk := Out.ite_memOk ok (State.setCtx_memOk ok)
theorem execVsexp_memOk {x : VSexp} (ok : s.MemOk) : (execVsexp x s).MemOk := Out.ite_memOk ok (State.setCtx_memOk ok)
theorem execVsdiv_memOk {x : VSdiv} (ok : s.MemOk) : (execVsdiv x s).MemOk := by
  unfold execVsdiv
  dsimp only
  split
  · exact ok
  · exact State.setCtx_memOk ok
theorem execVmstat_memOk {x : VFold} (ok : s.MemOk) : (execVmstat x s).MemOk := by
  unfold execVmstat
  split
  exact State.finish_memOk ok
theorem execVpart_memOk {x : VPart} (ok : s.MemOk) : (execVpart x s).MemOk := Out.ite_memOk ok (State.setCtx_memOk ok)
theorem execVgath_memOk {x : VGs} (ok : s.MemOk) : (execVgath x s).MemOk := State.rowLoad_memOk ok
theorem execVscat_memOk {x : VGs} (ok : s.MemOk) : (execVscat x s).MemOk := State.rowStore_memOk ok

/-! `Sys2Proof.Machine.Chain` -/

theorem execChbind_memOk {x : Ecmd} (ok : s.MemOk) : (execChbind x s).MemOk :=
  State.command_memOk ok (fun _ => State.setCtx_memOk (State.push_memOk ok))
theorem State.advanceKpos_memOk {w : Nat} (ok : s.MemOk) : (s.advanceKpos w).MemOk := State.setCtx_memOk ok
theorem execChkv_memOk {x : Ecmd} (ok : s.MemOk) : (execChkv x s).MemOk :=
  State.command_memOk ok (fun _ => State.advanceKpos_memOk (State.push_memOk ok))
theorem execChlink_memOk {x : Ecmd} (ok : s.MemOk) : (execChlink x s).MemOk :=
  State.command_memOk ok (fun _ => State.advanceKpos_memOk (State.push_memOk ok))
theorem execChmask_memOk {x : Ecmd} (ok : s.MemOk) : (execChmask x s).MemOk :=
  State.command_memOk ok (fun _ => State.push_memOk ok)
theorem State.unbindRec_memOk (ok : s.MemOk) : s.unbindRec.MemOk := State.setCtx_memOk ok
theorem execChfin_memOk {x : Ecmd} (ok : s.MemOk) : (execChfin x s).MemOk :=
  State.command_memOk ok (fun _ => State.unbindRec_memOk (State.push_memOk ok))
theorem execChdrop_memOk {x : Ecmd} (ok : s.MemOk) : (execChdrop x s).MemOk :=
  State.command_memOk ok (fun _ => State.unbindRec_memOk (State.push_memOk ok))
theorem execChsave_memOk {x : Ecmd} (ok : s.MemOk) : (execChsave x s).MemOk :=
  State.command_memOk ok (fun _ => State.when_memOk (State.push_memOk ok) fun ok => State.unbindRec_memOk ok)
theorem execChrest_memOk {x : Ecmd} (ok : s.MemOk) : (execChrest x s).MemOk :=
  State.command_memOk ok (fun _ => State.setCtx_memOk (State.push_memOk ok))
theorem execChstat_memOk {x : ChStat} (ok : s.MemOk) : (execChstat x s).MemOk :=
  State.command_memOk ok (fun _ => State.push_memOk ok)
theorem State.loseBlocks_memOk (ok : s.MemOk) : (s.loseBlocks c).MemOk :=
  foldl_memOk (State.setCtxOf_memOk ok) (fun _ _ ok1 => State.putCmd_memOk (State.setCtxOf_memOk ok1))
theorem State.cePort_memOk (ok : s.MemOk) : (s.cePort c).MemOk := OptOk.getD (State.takePort_memOk ok) ok
theorem State.completeCe_memOk {word : Nat} (ok : s.MemOk) : (s.completeCe c m word).MemOk :=
  State.complete_memOk (State.setPips_memOk (State.setCtxOf_memOk ok))
theorem State.dropChain_memOk (ok : s.MemOk) : (s.dropChain c).MemOk := State.setCtxOf_memOk ok
theorem State.bindChain_memOk {x : Ecmd} (ok : s.MemOk) : (s.bindChain c m x).MemOk := State.setCtxOf_memOk ok
theorem State.ceMove_memOk (ok : s.MemOk) : (s.ceMove c m).MemOk := State.nextShare_memOk ok
theorem State.startCe_memOk {m0 : Cmd} (ok : s.MemOk) : (s.startCe c m0).MemOk := by
  unfold State.startCe
  dsimp only
  split
  · exact State.setCtxOf_memOk (State.startCmd_memOk ok)
  · exact State.setCtxOf_memOk (State.startCmd_memOk ok)
  · exact State.startCmd_memOk ok
  · split
    · exact State.ite_memOk (State.putCmd_memOk ok) (State.ite_memOk ok (State.startCmd_memOk (State.setCtxOf_memOk ok)))
    · exact State.startCmd_memOk ok
  · exact State.startCmd_memOk ok
  · exact State.startCmd_memOk ok
  · exact State.startCmd_memOk ok
  · exact State.startCmd_memOk ok
  · exact State.startCmd_memOk ok
  · exact ok
theorem State.linkBack_memOk {n : Nat} (ok : s.MemOk) : (s.linkBack c n).MemOk := by
  unfold State.linkBack
  dsimp only
  split
  · exact State.setCtxOf_memOk ok
  · exact ok
theorem State.ceFail_memOk {cls : TrapClass} {addr j : Nat} (ok : s.MemOk) : (s.ceFail c m cls addr j).MemOk :=
  State.putCmd_memOk (State.loseBlocks_memOk ok)
theorem execChainBlockCommit_memOk {r : CmdRef} (ok : s.MemOk) : (execChainBlockCommit r s).MemOk := by
  unfold execChainBlockCommit
  split
  · refine Out.ite_memOk ok ?_
    split
    · exact State.completeCe_memOk ok
    · split
      · exact State.ceFail_memOk ok
      · dsimp only
        split
        · exact Out.ite_memOk ok (State.ceFail_memOk ok)
        · refine Out.ite_memOk ok (State.completeCe_memOk ?_)
          split
          · exact State.linkBack_memOk (State.setCtxOf_memOk ok)
          · exact State.setCtxOf_memOk ok
  · exact ok
theorem execChainCommandComplete_memOk {r : CmdRef} (ok : s.MemOk) : (execChainCommandComplete r s).MemOk := by
  unfold execChainCommandComplete
  split
  · refine Out.ite_memOk ok ?_
    split
    · dsimp only
      split
      · exact State.ceFail_memOk ok
      · exact State.completeCe_memOk (State.cellClean_memOk (State.cellClean_memOk (State.bindChain_memOk ok)))
    · refine Out.ite_memOk (State.ceFail_memOk ok) ?_
      split
      · exact State.ceFail_memOk ok
      · exact State.completeCe_memOk (State.cellClean_memOk (State.cellClean_memOk (State.setCtxOf_memOk ok)))
    · split
      · exact State.completeCe_memOk ok
      · exact Out.ite_memOk (State.ceFail_memOk ok) (State.completeCe_memOk (State.setCtxOf_memOk ok))
    · split
      · exact State.completeCe_memOk (State.dropChain_memOk ok)
      · exact Out.ite_memOk (State.ceFail_memOk ok) (State.completeCe_memOk
            (State.dropChain_memOk (foldl_memOk ok (fun _ _ => State.bufStore_memOk))))
    · split
      · exact State.completeCe_memOk (State.ite_memOk (State.dropChain_memOk ok) ok)
      · exact Out.ite_memOk (State.ceFail_memOk ok) (State.completeCe_memOk
            (State.when_memOk (State.ringStore_memOk ok) fun ok => State.dropChain_memOk ok))
    · exact State.completeCe_memOk (State.dropChain_memOk ok)
    · split
      · exact State.completeCe_memOk ok
      · exact State.completeCe_memOk (State.setCtxOf_memOk ok)
    · exact ok
  · exact ok

/-! `Sys2Proof.Machine.Xfer` -/

theorem State.pushMove_memOk {k : XK} {x : Ecmd} {i : Instr} (ok : s.MemOk) : (s.pushMove k x i).MemOk :=
  State.command_memOk ok (fun _ => State.push_memOk ok)
theorem execXcopy_memOk {x : Ecmd} (ok : s.MemOk) : (execXcopy x s).MemOk := State.pushMove_memOk ok
theorem execXget_memOk {x : Ecmd} (ok : s.MemOk) : (execXget x s).MemOk := State.pushMove_memOk ok
theorem execXput_memOk {x : Ecmd} (ok : s.MemOk) : (execXput x s).MemOk := State.pushMove_memOk ok
theorem execXfill_memOk {x : Ecmd} (ok : s.MemOk) : (execXfill x s).MemOk := State.pushMove_memOk ok
theorem execXtrans_memOk {x : Ecmd} (ok : s.MemOk) : (execXtrans x s).MemOk := State.pushMove_memOk ok
theorem execXmcast_memOk {x : Ecmd} (ok : s.MemOk) : (execXmcast x s).MemOk := State.pushMove_memOk ok
theorem execXlist_memOk {x : Ecmd} (ok : s.MemOk) : (execXlist x s).MemOk := State.command_memOk ok (fun _ => State.push_memOk ok)
theorem execXmap_memOk {x : Ecmd} (ok : s.MemOk) : (execXmap x s).MemOk :=
  State.command_memOk ok (fun _ => State.setCtx_memOk (State.push_memOk ok))
theorem execXpub_memOk {x : Ecmd} (ok : s.MemOk) : (execXpub x s).MemOk := State.command_memOk ok (fun _ => State.push_memOk ok)
theorem State.swapHalves_memOk {lo : Nat} (ok : s.MemOk) : (s.swapHalves c lo).MemOk :=
  ok.of_mem (Memory.swap_wf _ _ _ _ (Nat.le_refl _) ok.1) rfl
theorem State.unswap_memOk (ok : s.MemOk) : (s.unswap c).MemOk :=
  foldl_memOk ok (fun _ _ ok1 => State.ite_memOk (State.swapHalves_memOk ok1) ok1)
theorem execPublishSwap_memOk {r : CmdRef} (ok : s.MemOk) : (execPublishSwap r s).MemOk := by
  unfold execPublishSwap
  split
  · split
    · exact Out.ite_memOk ok (State.putCmd_memOk (State.setCtxOf_memOk (State.swapHalves_memOk ok)))
    · exact ok
  · exact ok
theorem State.xext_memOk {x : Ecmd} (ok : s.MemOk) : (s.xext x).MemOk := State.command_memOk ok (fun _ => State.push_memOk ok)
theorem execXextAdd_memOk {x : Ecmd} (ok : s.MemOk) : (execXextAdd x s).MemOk := State.xext_memOk ok
theorem execXextRelease_memOk {x : Ecmd} (ok : s.MemOk) : (execXextRelease x s).MemOk := State.xext_memOk ok
theorem State.putUnit_memOk {cr : CoreId} {o : XOp} {r b : Nat} {res : UnitRes} (ok : s.MemOk) :
    (s.putUnit cr o r b res).MemOk := by
  unfold State.putUnit
  dsimp only
  split
  · exact State.bufStore_memOk ok
  · exact State.when_memOk (State.bufStore_memOk ok) fun ok => foldl_memOk ok (fun _ _ => State.bufStore_memOk)
  · exact ok
theorem State.xeAsk_memOk {cr : CoreId} (ok : s.MemOk) : (s.xeAsk cr m).MemOk := by
  refine State.ite_memOk ok ?_
  dsimp only
  generalize hq : List.foldl _ _ _ = q
  have asked : q.1.MemOk := by
    refine hq ▸ foldl_fst_memOk ok ?_
    rintro ⟨u, e, n⟩ g ok
    have paged {va : Nat} : (u.pageFor cr m.seq va).1.MemOk := State.pageFor_memOk ok
    refine fst_ite_memOk ok (fst_ite_memOk paged ?_)
    dsimp only
    generalize hport : State.takePort _ _ _ = port
    cases port with
    | none => exact paged
    | some w => exact State.sendPart_memOk (memOk_of_some hport (State.takePort_memOk paged))
  split
  · exact State.putCmd_memOk asked
  · exact asked
theorem State.startXe_memOk {cr : CoreId} (ok : s.MemOk) : (s.startXe cr m).MemOk := by
  unfold State.startXe
  dsimp only
  split
  · exact State.startCmd_memOk (State.setCtxOf_memOk ok)
  · exact State.startCmd_memOk ok
  · refine State.ite_memOk ok ?_
    split <;> exact State.startCmd_memOk ok
theorem State.xeFail_memOk {cr : CoreId} {cls : TrapClass} {addr : Nat} (ok : s.MemOk) : (s.xeFail cr m cls addr).MemOk :=
  State.putCmd_memOk ok
theorem State.beginEntry_memOk {cr : CoreId} {h : Nat} {bs : List Byte} (ok : s.MemOk) : (s.beginEntry cr m h bs).MemOk := by
  unfold State.beginEntry
  dsimp only
  split
  · exact State.xeFail_memOk ok
  · split
    · exact State.xeFail_memOk ok
    · exact State.ite_memOk (State.xeFail_memOk ok) (State.ite_memOk ok (State.putCmd_memOk ok))
theorem State.fetchEntry_memOk {cr : CoreId} {ans : Answer} (ok : s.MemOk) : (s.fetchEntry cr m ans).MemOk := by
  unfold State.fetchEntry
  dsimp only
  split
  next e => exact State.xeFail_memOk (memOk_of_pair e (State.gReadVa_memOk ok))
  next e =>
    split
    · exact State.ite_memOk (State.xeFail_memOk (memOk_of_pair e (State.gReadVa_memOk ok)))
          (State.putCmd_memOk (memOk_of_pair e (State.gReadVa_memOk ok)))
    · exact State.beginEntry_memOk (memOk_of_pair e (State.gReadVa_memOk ok))
theorem State.xeArrive_memOk {cr : CoreId} {o : XOp} {idx : Nat} {ans : Answer} (ok : s.MemOk) :
    (s.xeArrive cr m o idx ans).MemOk := by
  unfold State.xeArrive
  dsimp only
  split
  · exact ok
  · refine State.ite_memOk ok ?_
    split
    · split
      next e => exact State.putCmd_memOk (State.dropPkt_memOk (State.dropTrack_memOk (memOk_of_pair e (State.gReadVa_memOk ok))))
      next e => exact State.putCmd_memOk (State.dropPkt_memOk (State.dropTrack_memOk (memOk_of_pair e (State.gReadVa_memOk ok))))
    · split
      · split
        next e => exact State.putCmd_memOk (State.dropPkt_memOk (State.dropTrack_memOk (memOk_of_pair e (State.xlate_memOk ok))))
        next e =>
          split
          · exact State.putCmd_memOk (State.dropPkt_memOk (State.dropTrack_memOk (memOk_of_pair e (State.xlate_memOk ok))))
          · refine State.ite_memOk (State.putCmd_memOk (State.dropPkt_memOk
                (State.dropTrack_memOk (State.winSend_memOk (memOk_of_pair e (State.xlate_memOk ok)))))) ?_
            split
            next e1 =>
              exact State.putCmd_memOk (State.dropPkt_memOk (State.dropTrack_memOk
                  (memOk_of_ok e1 (State.gWrite_memOk (memOk_of_pair e (State.xlate_memOk ok))))))
            · exact State.putCmd_memOk (State.dropPkt_memOk (State.dropTrack_memOk (memOk_of_pair e (State.xlate_memOk ok))))
      · exact State.putCmd_memOk (State.dropPkt_memOk (State.dropTrack_memOk ok))
      · exact ok
theorem execXeGranuleArrive_memOk {a : CmdAns} (ok : s.MemOk) : (execXeGranuleArrive a s).MemOk := by
  unfold execXeGranuleArrive
  split
  · refine Out.ite_memOk ok ?_
    split
    · exact Out.ite_memOk ok (State.fetchEntry_memOk (foldl_memOk ok (fun _ _ => State.dropTrack_memOk)))
    · refine Out.ite_memOk (Out.ite_memOk ?_ ok) (Out.ite_memOk (State.xeArrive_memOk ok) ok)
      dsimp only
      split
      · exact State.putCmd_memOk ok
      next e => exact ok
      next e => exact State.putCmd_memOk (State.winSend_memOk (memOk_of_some e (State.takePort_memOk ok)))
    · exact ok
  · exact ok
theorem execTrackDataArrive_memOk {i : Nat} (ok : s.MemOk) : (execTrackDataArrive i s).MemOk := by
  unfold execTrackDataArrive
  split
  · split
    · refine Out.ite_memOk ok ?_
      split
      · split
        · exact State.ite_memOk ok (State.xeArrive_memOk ok)
        · exact ok
      · exact ok
    · exact State.ite_memOk ok ok
    · exact ok
  · exact ok
theorem execXeUnitCommit_memOk {r : CmdRef} (ok : s.MemOk) : (execXeUnitCommit r s).MemOk := by
  unfold execXeUnitCommit
  split
  · refine Out.ite_memOk ok ?_
    split
    · exact ok
    · refine Out.ite_memOk ok ?_
      dsimp only
      split
      · split
        · exact State.xeFail_memOk ok
        · exact Out.ite_memOk ok (State.putCmd_memOk ok)
      · refine Out.ite_memOk ok ?_
        split
        · exact ok
        · exact State.xeFail_memOk ok
        · refine Out.ite_memOk ok ?_
          split
          next e => exact ok
          next e => exact State.putCmd_memOk (State.putUnit_memOk (memOk_of_some e (State.takePort_memOk ok)))
        · refine Out.ite_memOk ok ?_
          split
          next e => exact ok
          next e => exact State.putCmd_memOk (State.putUnit_memOk (memOk_of_some e (State.takePort_memOk ok)))
  · exact ok
theorem State.completeXe_memOk {word : Nat} (ok : s.MemOk) : (s.completeXe c m word).MemOk :=
  State.complete_memOk (State.setCtxOf_memOk ok)
theorem execXeCommandComplete_memOk {r : CmdRef} (ok : s.MemOk) : (execXeCommandComplete r s).MemOk := by
  unfold execXeCommandComplete
  split
  · refine Out.ite_memOk ok ?_
    split
    · exact State.completeXe_memOk ok
    · exact Out.ite_memOk (State.completeXe_memOk ok) ok
    · exact Out.ite_memOk (State.completeXe_memOk ok) ok
    · split
      · exact Out.ite_memOk (State.completeXe_memOk ok) ok
      · exact ok
  · exact ok

/-! `Sys2Proof.Machine.Fabric` -/

theorem execRld_memOk {x : Ecmd} (ok : s.MemOk) : (execRld x s).MemOk := State.command_memOk ok (fun _ => State.push_memOk ok)
theorem execRst_memOk {x : Ecmd} (ok : s.MemOk) : (execRst x s).MemOk := State.command_memOk ok (fun _ => State.push_memOk ok)
theorem State.ratom_memOk {x : Ecmd} {i : Instr} (ok : s.MemOk) : (s.ratom x i).MemOk :=
  State.command_memOk ok (fun _ => State.push_memOk ok)
theorem execRatomAdd_memOk {x : Ecmd} (ok : s.MemOk) : (execRatomAdd x s).MemOk := State.ratom_memOk ok
theorem execRatomAnd_memOk {x : Ecmd} (ok : s.MemOk) : (execRatomAnd x s).MemOk := State.ratom_memOk ok
theorem execRatomOr_memOk {x : Ecmd} (ok : s.MemOk) : (execRatomOr x s).MemOk := State.ratom_memOk ok
theorem execRatomXor_memOk {x : Ecmd} (ok : s.MemOk) : (execRatomXor x s).MemOk := State.ratom_memOk ok
theorem execRatomMin_memOk {x : Ecmd} (ok : s.MemOk) : (execRatomMin x s).MemOk := State.ratom_memOk ok
theorem execRatomMax_memOk {x : Ecmd} (ok : s.MemOk) : (execRatomMax x s).MemOk := State.ratom_memOk ok
theorem execRatomMinn_memOk {x : Ecmd} (ok : s.MemOk) : (execRatomMinn x s).MemOk := State.ratom_memOk ok
theorem execRatomMaxn_memOk {x : Ecmd} (ok : s.MemOk) : (execRatomMaxn x s).MemOk := State.ratom_memOk ok
theorem execRatomXchg_memOk {x : Ecmd} (ok : s.MemOk) : (execRatomXchg x s).MemOk := State.ratom_memOk ok
theorem execRatomCas_memOk {x : Ecmd} (ok : s.MemOk) : (execRatomCas x s).MemOk := State.ratom_memOk ok
theorem execRatomFadd_memOk {x : Ecmd} (ok : s.MemOk) : (execRatomFadd x s).MemOk := State.ratom_memOk ok
theorem execRatomFmax_memOk {x : Ecmd} (ok : s.MemOk) : (execRatomFmax x s).MemOk := State.ratom_memOk ok
theorem execRenq_memOk {x : Ecmd} (ok : s.MemOk) : (execRenq x s).MemOk :=
  State.command_memOk ok (fun _ => State.port_memOk (State.push_memOk ok))
theorem State.rflag_memOk {x : Ecmd} {i : Instr} (ok : s.MemOk) : (s.rflag x i).MemOk :=
  State.command_memOk ok (fun _ => State.when_memOk (State.push_memOk ok) fun ok => State.setCtx_memOk ok)
theorem execRflagSet_memOk {x : Ecmd} (ok : s.MemOk) : (execRflagSet x s).MemOk := State.rflag_memOk ok
theorem execRflagInc_memOk {x : Ecmd} (ok : s.MemOk) : (execRflagInc x s).MemOk := State.rflag_memOk ok
theorem execRflagClr_memOk {x : Ecmd} (ok : s.MemOk) : (execRflagClr x s).MemOk := State.rflag_memOk ok
theorem execLbufBind_memOk {x : Ecmd} (ok : s.MemOk) : (execLbufBind x s).MemOk :=
  State.command_memOk ok (fun _ => State.setCtx_memOk (State.push_memOk ok))
theorem execLbufRelease_memOk {x : Ecmd} (ok : s.MemOk) : (execLbufRelease x s).MemOk :=
  State.command_memOk ok (fun _ => State.setCtx_memOk (State.push_memOk ok))
theorem execFistatRead_memOk {r : RegR} (ok : s.MemOk) : (execFistatRead r s).MemOk := State.setCtxOf_memOk ok
theorem State.linkUnit_memOk {pa : Nat} {bs : List Byte} (ok : s.MemOk) : (s.linkUnit pa bs).1.MemOk := by
  unfold State.linkUnit
  dsimp only
  split
  · exact ok
  · split
    · exact ok
    · split
      · exact ok
      · exact State.when_memOk (State.setCtxOf_memOk (State.bufStore_memOk ok)) fun ok => State.setFlag_memOk ok
theorem State.onceOnly_memOk {r : FiReq} {f : Unit → State × RespK} (ok : s.MemOk) (hf : ∀ a, (f a).1.MemOk) :
    (s.onceOnly r f).1.MemOk := by
  unfold State.onceOnly
  split
  · exact ok
  · split
    · exact ok
    · split
      next e => exact (memOk_of_pair e (hf ()) :)
      · exact hf ()
theorem State.fiAtom_memOk {pa op : Nat} {t : ETy} {dw : Bool} {b c : Word} (ok : s.MemOk) :
    (s.fiAtom pa op t dw b c).1.MemOk := by
  unfold State.fiAtom
  dsimp only
  split
  · exact ok
  · exact State.store_memOk ok
theorem State.fiFlag_memOk {r : FiReq} {op f : Nat} {v : Word} (ok : s.MemOk) : (s.fiFlag r op f v).1.MemOk := by
  unfold State.fiFlag
  split
  · exact ok
  · exact State.setFlag_memOk ok
theorem State.fiWindow_memOk {pa : Nat} {bs : List Byte} (ok : s.MemOk) : (s.fiWindow pa bs).1.MemOk := State.winLand_memOk ok
theorem State.fiPerform_memOk {r : FiReq} (ok : s.MemOk) : (s.fiPerform r).1.MemOk := by
  unfold State.fiPerform
  split
  · split
    · exact State.onceOnly_memOk ok (fun _ => State.fiFlag_memOk ok)
    · exact State.fiFlag_memOk ok
  · split
    · exact ok
    · exact ok
    · exact State.onceOnly_memOk ok (fun _ => State.fiAtom_memOk ok)
  · split
    · exact ok
    · exact ok
    · split
      · exact ok
      · split <;> exact ok
  · split
    · exact ok
    · exact ok
    · split
      · exact State.linkUnit_memOk ok
      · split
        · exact State.fiWindow_memOk ok
        · split
          next e => exact memOk_of_ok e (State.gWrite_memOk ok)
          next e => exact ok
theorem State.fiXlate_memOk {cr : CoreId} {va k n : Nat} {acc : AccK} (ok : s.MemOk) : (s.fiXlate cr va k n acc).1.MemOk := by
  refine foldl_fst_memOk ok (fun _ _ ok1 => ?_)
  split
  · exact ok1
  · split
    next e => split <;> exact memOk_of_pair e (State.xlate_memOk ok1)
theorem State.fiFail_memOk {cr : CoreId} {cls : TrapClass} {addr : Nat} {unk : Bool} (ok : s.MemOk) :
    (s.fiFail cr m cls addr unk).MemOk :=
  State.putCmd_memOk ok
theorem State.fiLeave_memOk {cr : CoreId} {va n : Nat} {k : AccK} (ok : s.MemOk) : (s.fiLeave cr m va n k).MemOk := by
  unfold State.fiLeave
  dsimp only
  split
  · exact State.pagesFor_memOk ok
  · split
    next e => exact State.fiFail_memOk (memOk_of_pair e (State.fiXlate_memOk (State.pagesFor_memOk ok)))
    next e =>
      split
      · split
        · exact State.fiFail_memOk (memOk_of_pair e (State.fiXlate_memOk (State.pagesFor_memOk ok)))
        · exact foldl_memOk (State.putCmd_memOk (memOk_of_pair e (State.fiXlate_memOk (State.pagesFor_memOk ok))))
              (fun _ _ => State.sendPart_memOk)
      · exact foldl_memOk (State.putCmd_memOk (memOk_of_pair e (State.fiXlate_memOk (State.pagesFor_memOk ok))))
            (fun _ _ => State.sendPart_memOk)
theorem State.startFi_memOk {cr : CoreId} (ok : s.MemOk) : (s.startFi cr m).MemOk := by
  unfold State.startFi
  dsimp only
  split
  · split
    · exact State.putCmd_memOk ok
    · exact State.startCmd_memOk ok
  · exact State.ite_memOk (State.fiFail_memOk ok) (State.startCmd_memOk (State.setCtxOf_memOk ok))
  · exact State.startCmd_memOk (State.setCtxOf_memOk ok)
  · split
    · exact State.startCmd_memOk ok
    · exact State.unless_memOk (State.putCmd_memOk ok) fun ok => State.fiLeave_memOk ok
theorem State.fiArrive_memOk {r : FiReq} (ok : s.MemOk) : (s.fiArrive r).MemOk :=
  State.ite_memOk ok ((State.fiPerform_memOk (State.ite_memOk (State.dropTrack_memOk ok) ok)).upd rfl rfl)
theorem execFiRequestArrive_memOk {r : FiReq} (ok : s.MemOk) : (execFiRequestArrive r s).MemOk :=
  Out.ite_memOk ok (State.fiArrive_memOk ok)
theorem execLinkUnitArrive_memOk {r : FiReq} (ok : s.MemOk) : (execLinkUnitArrive r s).MemOk :=
  Out.ite_memOk (State.fiArrive_memOk ok) ok
theorem State.fiAnswer_memOk {cr : CoreId} {idx : Nat} {ans : Answer} (ok : s.MemOk) : (s.fiAnswer cr m idx ans).MemOk := by
  unfold State.fiAnswer
  dsimp only
  split
  · exact State.fiFail_memOk ok
  · split
    · exact State.ite_memOk (State.complete_memOk (State.bufStore_memOk ok)) (State.putCmd_memOk (State.bufStore_memOk ok))
    · exact State.ite_memOk (State.complete_memOk ok) (State.putCmd_memOk ok)
    · exact State.complete_memOk ok
    · exact State.complete_memOk ok
theorem State.fiRefused_memOk {cr : CoreId} {seq idx : Nat} (ok : s.MemOk) : (s.fiRefused cr seq idx).MemOk :=
  State.setCtxOf_memOk (State.setPkt_memOk ok)
theorem State.fiResponse_memOk {x : FiAns} (ok : s.MemOk) : (s.fiResponse x).MemOk := by
  unfold State.fiResponse
  split
  · exact Out.ite_memOk ok ok
  · split
    · exact Out.ite_memOk (State.fiRefused_memOk ok) ok
    · exact ok
  · split
    · refine Out.ite_memOk ok (Out.ite_memOk (Out.ite_memOk ok (State.complete_memOk ok))
          (Out.ite_memOk (State.fiAnswer_memOk (State.dropPkt_memOk ok)) ?_))
      dsimp only
      split
      · exact ok
      · split
        · exact State.fiRefused_memOk ok
        · exact State.fiAnswer_memOk (State.dropPkt_memOk ok)
    · exact ok
theorem execReplyRelease_memOk {n : FiName} (ok : s.MemOk) : (execReplyRelease n s).MemOk := Out.ite_memOk ok ok
theorem execPacketTrim_memOk {p : PktId} (ok : s.MemOk) : (execPacketTrim p s).MemOk := Out.ite_memOk (State.setPkt_memOk ok) ok
theorem execResendRequest_memOk {p : PktId} (ok : s.MemOk) : (execResendRequest p s).MemOk := by
  unfold execResendRequest
  split
  · exact Out.ite_memOk (State.setPkt_memOk ok) ok
  · exact ok
theorem execResendBackoffExpiry_memOk {p : PktId} (ok : s.MemOk) : (execResendBackoffExpiry p s).MemOk := by
  unfold execResendBackoffExpiry
  split
  · refine Out.ite_memOk ?_ ok
    split
    · exact State.setCtxOf_memOk (State.setPkt_memOk ok)
    · exact State.setCtxOf_memOk (State.setPkt_memOk ok)
    · exact State.setPkt_memOk ok
    · dsimp only
      split
      · exact ok
      · refine Out.ite_memOk (State.setCtxOf_memOk ok) (ok.of_map rfl rfl fun v => ?_)
        split <;> rfl
  · exact ok
theorem execReadyNotice_memOk {p : PktId} (ok : s.MemOk) : (execReadyNotice p s).MemOk := by
  unfold execReadyNotice
  split
  · split
    · exact Out.ite_memOk (State.setPkt_memOk ok) ok
    · exact State.dropPkt_memOk ok
  · exact ok
theorem State.failReq_memOk {p : PktId} {cls : TrapClass} (ok : s.MemOk) : (s.failReq p cls).MemOk := by
  unfold State.failReq
  dsimp only
  split
  · split
    · exact State.dropPkt_memOk ok
    · split <;> exact State.setCtxOf_memOk (State.dropPkt_memOk ok)
  · split
    · exact State.dropPkt_memOk ok
    · refine State.ite_memOk (State.fiFail_memOk (State.dropPkt_memOk ok)) ?_
      split
      · exact State.xeFail_memOk (State.dropPkt_memOk ok)
      · exact State.putCmd_memOk (State.dropPkt_memOk ok)
  · exact State.dropPkt_memOk ok
  · exact State.dropPkt_memOk ok
theorem execFabricTimeout_memOk {p : PktId} (ok : s.MemOk) : (execFabricTimeout p s).MemOk :=
  Out.ite_memOk (State.failReq_memOk ok) ok
theorem execFibreFail_memOk {d : Fin 12} (ok : s.MemOk) : (execFibreFail d s).MemOk := Out.ite_memOk ok (Out.ite_memOk ok ok)
theorem execSpareSwitchDone_memOk {d : Fin 12} (ok : s.MemOk) : (execSpareSwitchDone d s).MemOk := Out.ite_memOk ok ok
theorem execRenqArrive_memOk {r : RenqReq} (ok : s.MemOk) : (execRenqArrive r s).MemOk :=
  Out.ite_memOk ok (Out.ite_memOk ok (Out.ite_memOk ok ok))
theorem execInboxDequeue_memOk {e : Fin 4} (ok : s.MemOk) : (execInboxDequeue c e s).MemOk := by
  unfold execInboxDequeue
  dsimp only
  split
  · exact ok
  · exact Out.ite_memOk ok ((State.journal_memOk (State.setCore_memOk ok)).write rfl rfl)
theorem State.nextEntry_memOk {cr : CoreId} {b : Inb} {start : State → Cmd → State} (ok : s.MemOk)
    (hstart : ∀ t a, t.MemOk → (start t a).MemOk) : (s.nextEntry cr m b start).MemOk := by
  unfold State.nextEntry
  dsimp only
  split
  · exact State.putCmd_memOk ok
  · split
    next e => exact State.putCmd_memOk ok
    next e =>
      split
      · refine State.ite_memOk ?_ (State.when_memOk (State.putCmd_memOk (State.setCtxOf_memOk ok)) fun ok => hstart _ _ ok)
        split <;> exact State.putCmd_memOk ok
      · exact State.putCmd_memOk ok
theorem State.dropExtent_memOk {e : Extent} (ok : s.MemOk) : (s.dropExtent e).MemOk := ok
theorem State.extentAnswer_memOk {out : Nat} (ok : s.MemOk) : (s.extentAnswer c m out).MemOk := by
  refine State.ite_memOk ok ?_
  split
  · exact State.completeXe_memOk ok
  · exact State.ite_memOk ok (State.completeXe_memOk (State.ite_memOk (State.dropExtent_memOk ok) ok))
  · exact ok
theorem State.orphanAnswer_memOk {e : FwExt} {out : Nat} (ok : s.MemOk) : (s.orphanAnswer e out).MemOk :=
  State.ite_memOk ok (State.ite_memOk ok (State.ite_memOk ok (State.dropExtent_memOk ok)))
theorem execFirmwareExtentAnswer_memOk {r : CmdRef} {out : Fin 4} (ok : s.MemOk) : (execFirmwareExtentAnswer r out s).MemOk := by
  unfold execFirmwareExtentAnswer
  split
  · exact State.orphanAnswer_memOk ok
  · exact State.onCmd_memOk ok (fun _ _ => State.extentAnswer_memOk)

/-! `Sys2Proof.Machine.Coded` -/

theorem State.setSlot_memOk {i : Nat} {x : CSlot} (ok : s.MemOk) : (s.setSlot i x).MemOk := ok
theorem State.setMap_memOk {x : CSlot} {i : Nat} (ok : s.MemOk) : (s.setMap x i).MemOk := ok.write rfl rfl
theorem State.setCmRec_memOk {i : Nat} {r : Option CmRec} (ok : s.MemOk) : (s.setCmRec i r).MemOk := State.setCtx_memOk ok
theorem execCmset_memOk {x : Ecmd} (ok : s.MemOk) : (execCmset x s).MemOk :=
  State.command_memOk ok (fun _ => State.setCmRec_memOk (State.push_memOk ok))
theorem execCmsetClose_memOk {x : Ecmd} (ok : s.MemOk) : (execCmsetClose x s).MemOk :=
  State.command_memOk ok (fun _ => State.setCmRec_memOk (State.push_memOk ok))
theorem execCmheld_memOk {x : Ecmd} (ok : s.MemOk) : (execCmheld x s).MemOk :=
  State.command_memOk ok (fun _ => State.push_memOk ok)
theorem execCmheldClr_memOk {x : Ecmd} (ok : s.MemOk) : (execCmheldClr x s).MemOk :=
  State.command_memOk ok (fun _ => State.push_memOk ok)
theorem execCmdec_memOk {x : Ecmd} (ok : s.MemOk) : (execCmdec x s).MemOk :=
  State.command_memOk ok (fun _ => State.setCmRec_memOk (State.push_memOk ok))
theorem execCmdecRel_memOk {x : Ecmd} (ok : s.MemOk) : (execCmdecRel x s).MemOk :=
  State.command_memOk ok (fun _ => State.setCmRec_memOk (State.push_memOk ok))
theorem State.pushGath_memOk {x : Ecmd} {i : Instr} {one : Bool} (ok : s.MemOk) : (s.pushGath x i one).MemOk :=
  State.command_memOk ok (fun _ => State.push_memOk ok)
theorem execCmgath_memOk {x : Ecmd} (ok : s.MemOk) : (execCmgath x s).MemOk := State.pushGath_memOk ok
theorem execCmshuf_memOk {x : Ecmd} (ok : s.MemOk) : (execCmshuf x s).MemOk := State.pushGath_memOk ok
theorem execCmpol_memOk {x : Ecmd} (ok : s.MemOk) : (execCmpol x s).MemOk := State.command_memOk ok (fun _ => State.push_memOk ok)
theorem execCmstat_memOk {x : Ecmd} (ok : s.MemOk) : (execCmstat x s).MemOk :=
  State.command_memOk ok (fun _ => State.push_memOk ok)
theorem State.onSeq_memOk {cr : CoreId} {q : BitVec 32} {f : Cmd → Cmd} (ok : s.MemOk) : (s.onSeq cr q f).MemOk :=
  State.setCtxOf_memOk ok
theorem State.cmReach_memOk {cr : CoreId} {tag va n : Nat} {k : AccK} (ok : s.MemOk) : (s.cmReach cr m tag va n k).1.MemOk := by
  unfold State.cmReach
  dsimp only
  split
  · exact State.pagesFor_memOk ok
  · split
    · exact State.onSeq_memOk (foldl_memOk (State.pagesFor_memOk ok) (fun _ _ => State.sendPart_memOk))
    · split
      · exact foldl_memOk (State.pagesFor_memOk ok) (fun _ _ => State.dropTrack_memOk)
      · exact State.pagesFor_memOk ok
theorem State.cmRead_memOk {cr : CoreId} {tag va n : Nat} {ans : Answer} (ok : s.MemOk) :
    (s.cmRead cr m tag va n ans).1.MemOk := by
  unfold State.cmRead
  split
  next e =>
    split
    · refine foldl_fst_memOk (memOk_of_pair e (State.cmReach_memOk ok)) (fun _ _ ok1 => ?_)
      split
      · exact ok1
      · split
        next e1 =>
          split
          · exact memOk_of_pair e1 (State.xlate_memOk ok1)
          · split
            · exact memOk_of_pair e1 (State.xlate_memOk ok1)
            · dsimp only
              split <;> exact memOk_of_pair e1 (State.xlate_memOk ok1)
    · exact memOk_of_pair e (State.cmReach_memOk ok)
theorem State.tell_memOk {x : CMsg} (ok : s.MemOk) : (s.tell x).MemOk := ok
theorem State.closeSlot_memOk {i : Nat} (ok : s.MemOk) : (s.closeSlot i).MemOk := State.tell_memOk ok
theorem State.closeSlots_memOk {cr : CoreId} {id : BitVec 32} (ok : s.MemOk) : (s.closeSlots cr id).MemOk :=
  foldl_memOk ok (fun _ _ ok1 => State.ite_memOk (State.closeSlot_memOk ok1) ok1)
theorem State.startCoded_memOk {cr : CoreId} (ok : s.MemOk) : (s.startCoded cr m).MemOk := by
  unfold State.startCoded
  dsimp only
  split
  · exact State.startCmd_memOk ok
  · split
    · exact State.startCmd_memOk ok
    · refine State.ite_memOk (State.startCmd_memOk ok) ?_
      split
      · exact State.startCmd_memOk (State.closeSlot_memOk ok)
      · exact State.startCmd_memOk ok
      · exact State.startCmd_memOk (State.tell_memOk (State.setSlot_memOk ok))
      · exact State.ite_memOk (State.startCmd_memOk ok) (State.ite_memOk (State.startCmd_memOk ok)
            (State.startCmd_memOk (State.setSlot_memOk (ok.write rfl rfl))))
      · exact State.startCmd_memOk (State.setSlot_memOk ok)
      · exact State.startCmd_memOk ok
      · exact State.startCmd_memOk (State.ite_memOk (State.setSlot_memOk ok) ok)
      · exact State.ite_memOk (State.startCmd_memOk (ok.write rfl rfl))
            (State.ite_memOk (State.startCmd_memOk ok) (State.startCmd_memOk
                (State.setSlot_memOk (foldl_memOk ok (fun _ _ => State.tell_memOk)))))
theorem State.startFiAll_memOk {cr : CoreId} (ok : s.MemOk) : (s.startFiAll cr m).MemOk :=
  State.ite_memOk (State.startCoded_memOk ok) (State.startFi_memOk ok)
theorem State.listRead_memOk {cr : CoreId} {b p : Nat} {ans : Answer} (ok : s.MemOk) : (s.listRead cr b p ans).1.MemOk := by
  refine foldl_fst_memOk ok (fun _ _ ok1 => ?_)
  dsimp only
  split
  next e => exact memOk_of_pair e (State.gReadVa_memOk ok1)
  next e => exact memOk_of_pair e (State.gReadVa_memOk ok1)
theorem State.cmsetList_memOk {cr : CoreId} {ans : Answer} (ok : s.MemOk) : (s.cmsetList cr m ans).MemOk := by
  unfold State.cmsetList
  dsimp only
  split
  · exact State.cmReach_memOk ok
  · refine State.ite_memOk (State.fiFail_memOk (State.listRead_memOk (State.cmReach_memOk ok)))
        (State.ite_memOk (State.fiFail_memOk (State.listRead_memOk (State.cmReach_memOk ok))) ?_)
    split
    · exact State.fiFail_memOk (State.listRead_memOk (State.cmReach_memOk ok))
    · exact State.ite_memOk (State.complete_memOk (State.listRead_memOk (State.cmReach_memOk ok)))
          (State.putCmd_memOk (State.listRead_memOk (State.cmReach_memOk ok)))
theorem execCmsetMatch_memOk {r : CmdRef} {out : Fin 3} (ok : s.MemOk) : (execCmsetMatch r out s).MemOk := by
  refine State.onCmd_memOk ok (fun _ _ ok1 => ?_)
  split
  · exact State.ite_memOk ok1 (State.complete_memOk (State.ite_memOk ok1 (State.setSlot_memOk ok1)))
  · exact ok1
theorem State.heldEntry_memOk {cr : CoreId} {x : CSlot} {ans : Answer} (ok : s.MemOk) : (s.heldEntry cr m x ans).MemOk := by
  unfold State.heldEntry
  dsimp only
  split
  next e => exact memOk_of_pair e (State.cmRead_memOk ok)
  next e => exact State.fiFail_memOk (memOk_of_pair e (State.cmRead_memOk ok))
  next e =>
    split
    next e1 => exact memOk_of_pair e1 (State.cmRead_memOk (memOk_of_pair e (State.cmRead_memOk ok)))
    next e1 => exact State.fiFail_memOk (memOk_of_pair e1 (State.cmRead_memOk (memOk_of_pair e (State.cmRead_memOk ok))))
    next e1 =>
      refine State.ite_memOk (State.fiFail_memOk (memOk_of_pair e1 (State.cmRead_memOk
          (memOk_of_pair e (State.cmRead_memOk ok))))) ?_
      split
      · exact State.putCmd_memOk (State.tell_memOk (State.setSlot_memOk
            (State.store_memOk (memOk_of_pair e1 (State.cmRead_memOk (memOk_of_pair e (State.cmRead_memOk ok)))))))
      · exact State.ite_memOk (State.putCmd_memOk (memOk_of_pair e1 (State.cmRead_memOk
            (memOk_of_pair e (State.cmRead_memOk ok))))) (State.putCmd_memOk
                (State.tell_memOk (State.setSlot_memOk (State.store_memOk
                    (memOk_of_pair e1 (State.cmRead_memOk (memOk_of_pair e (State.cmRead_memOk ok))))))))
theorem execCodedBarrier_memOk {r : CmdRef} (ok : s.MemOk) : (execCodedBarrier r s).MemOk := by
  refine State.onCmd_memOk ok (fun _ _ ok1 => ?_)
  split
  · exact ok1
  · exact State.ite_memOk ok1 (State.putCmd_memOk ok1)
theorem State.codedSend_memOk {cr : CoreId} {x : CSlot} (ok : s.MemOk) : (s.codedSend cr m x).MemOk := by
  unfold State.codedSend
  dsimp only
  split
  · exact ok
  · refine State.ite_memOk (State.putCmd_memOk ok) ?_
    split
    next e => exact memOk_of_pair e (State.cmRead_memOk ok)
    next e => exact State.fiFail_memOk (memOk_of_pair e (State.cmRead_memOk ok))
    next e => exact State.putCmd_memOk (State.tell_memOk ((memOk_of_pair e (State.cmRead_memOk ok)).upd rfl rfl))
theorem State.deliver_memOk {cr : CoreId} {x : CSlot} {idx : Nat} {bs : List Byte} (ok : s.MemOk) :
    (s.deliver cr m x idx bs).MemOk := by
  unfold State.deliver
  refine State.ite_memOk (State.ite_memOk ok (State.tell_memOk ok)) ?_
  split
  next e =>
    refine State.ite_memOk (State.onSeq_memOk (memOk_of_pair e (State.cmReach_memOk ok))) ?_
    dsimp only
    split
    · exact State.fiFail_memOk (State.gWriteVa_memOk (memOk_of_pair e (State.cmReach_memOk ok)))
    · exact State.unless_memOk (State.putCmd_memOk (State.setMap_memOk
          (State.gWriteVa_memOk (memOk_of_pair e (State.cmReach_memOk ok))))) fun ok => State.tell_memOk ok
theorem State.onGath_memOk {i : Nat} {p : Cmd → Bool} {f : State → CoreId → Cmd → CSlot → State} (ok : s.MemOk)
    (hf : ∀ t a b d, t.MemOk → (f t a b d).MemOk) : (s.onGath i p f).MemOk := by
  unfold State.onGath
  split
  · exact ok
  · refine State.onCmd_memOk ok (fun _ _ ok1 => ?_)
    split
    · exact hf _ _ _ _ ok1
    · exact ok1
theorem State.onRun_memOk {i : Nat} {f : State → CoreId → Cmd → CSlot → State} (ok : s.MemOk)
    (hf : ∀ t a b d, t.MemOk → (f t a b d).MemOk) : (s.onRun i f).MemOk :=
  State.onGath_memOk ok (fun _ _ _ _ ok1 => State.ite_memOk ok1 (hf _ _ _ _ ok1))
theorem execCodedBlockArrive_memOk {b : CBlock} (ok : s.MemOk) : (execCodedBlockArrive b s).MemOk := by
  refine State.onRun_memOk ok (fun _ _ _ _ ok1 => ?_)
  split
  · refine State.ite_memOk ok1 ?_
    split
    · split
      next e => exact memOk_of_pair e (State.cmRead_memOk ok1)
      next e => exact State.fiFail_memOk (memOk_of_pair e (State.cmRead_memOk ok1))
      next e => exact State.deliver_memOk (memOk_of_pair e (State.cmRead_memOk ok1))
    · split
      · exact State.deliver_memOk ok1
      · exact State.fiFail_memOk ok1
theorem execBlockAckArrive_memOk {a : CAck} (ok : s.MemOk) : (execBlockAckArrive a s).MemOk :=
  State.onGath_memOk ok (fun _ _ _ _ ok1 => State.ite_memOk ok1 (State.putCmd_memOk
      (State.setMap_memOk (State.dropPkt_memOk ok1))))
theorem execFallbackRequest_memOk {a : CAck} (ok : s.MemOk) : (execFallbackRequest a s).MemOk := by
  unfold execFallbackRequest
  dsimp only
  split
  · exact ok
  · exact State.tell_memOk ok
theorem State.decodeMiss_memOk {cr : CoreId} {x : CSlot} {p : Prong} (ok : s.MemOk) : (s.decodeMiss cr m x p).MemOk :=
  State.ite_memOk (State.putCmd_memOk (State.tell_memOk (State.setSlot_memOk ok))) (State.putCmd_memOk (State.setSlot_memOk ok))
theorem execForkCopyArrive_memOk {f : ForkPkt} (ok : s.MemOk) : (execForkCopyArrive f s).MemOk := by
  refine State.onRun_memOk ok (fun _ _ _ _ ok1 => ?_)
  split
  · exact ok1
  · refine State.ite_memOk ok1 (State.ite_memOk (State.ite_memOk ok1 (State.tell_memOk ok1))
        (State.ite_memOk (State.putCmd_memOk (State.tell_memOk (State.setSlot_memOk ok1)))
            (State.ite_memOk (State.decodeMiss_memOk ok1) ?_)))
    dsimp only
    split
    · exact State.decodeMiss_memOk ok1
    · exact State.deliver_memOk (State.setSlot_memOk ok1)
theorem execCodedSettle_memOk {r : CmdRef} (ok : s.MemOk) : (execCodedSettle r s).MemOk := by
  refine State.onCmd_memOk ok fun s m ok => ?_
  split
  · exact ok
  · exact State.ite_memOk ok (State.putCmd_memOk ok)
theorem execCodedTimeout_memOk {r : CmdRef} (ok : s.MemOk) : (execCodedTimeout r s).MemOk :=
  State.onCmd_memOk ok (fun _ _ ok1 => State.ite_memOk (State.fiFail_memOk ok1) ok1)
theorem execRouterFork_memOk {o : Fin 6} {q : List CPkt} (ok : s.MemOk) : (execRouterFork o q s).MemOk := by
  unfold execRouterFork
  dsimp only
  split
  · exact ok
  · exact Out.ite_memOk ok (State.tell_memOk (State.ite_memOk (State.setSlot_memOk ok) ok))
theorem execForkSplit_memOk {f : ForkPkt} (ok : s.MemOk) : (execForkSplit f s).MemOk := by
  unfold execForkSplit
  dsimp only
  split
  · exact execForkCopyArrive_memOk (foldl_memOk ok (fun _ _ => State.tell_memOk))
  · exact foldl_memOk ok (fun _ _ => State.tell_memOk)
theorem execAnnounceStore_memOk {a : Ann} (ok : s.MemOk) : (execAnnounceStore a s).MemOk :=
  Out.ite_memOk ok (Out.ite_memOk (State.tell_memOk ok) (Out.ite_memOk
      (State.tell_memOk (State.ite_memOk (State.setSlot_memOk ok) ok)) (State.tell_memOk ok)))
theorem execAnnouncementWithdraw_memOk {slot : Fin 128} {rank : Nat} (ok : s.MemOk) :
    (execAnnouncementWithdraw slot rank s).MemOk :=
  State.tell_memOk ok
theorem State.codedAnswer_memOk {cr : CoreId} {idx : Nat} {ans : Answer} (ok : s.MemOk) : (s.codedAnswer cr m idx ans).MemOk := by
  refine State.ite_memOk ok (State.ite_memOk (State.putCmd_memOk ok) (State.ite_memOk ok
      (State.ite_memOk (State.ite_memOk ok (State.complete_memOk (foldl_memOk ok (fun _ _ => State.bufStore_memOk)))) ?_)))
  split
  · exact State.ite_memOk (State.cmsetList_memOk ok) ok
  · exact ok
  · exact State.complete_memOk ok
  · split
    · exact ok
    · exact State.ite_memOk (State.ite_memOk (State.complete_memOk ok) (State.putCmd_memOk ok))
          (State.ite_memOk (State.ite_memOk (State.complete_memOk ok) ok) (State.ite_memOk (State.heldEntry_memOk ok) ok))
  · refine State.ite_memOk ok ?_
    split
    · exact State.complete_memOk (State.setSlot_memOk ok)
    · exact ok
  · split
    · exact ok
    · exact State.ite_memOk ok (State.complete_memOk ok)
theorem execFiResponseArrive_memOk {x : FiAns} (ok : s.MemOk) : (execFiResponseArrive x s).MemOk := by
  unfold execFiResponseArrive
  split
  · dsimp only
    split
    · exact Out.ite_memOk (State.codedAnswer_memOk ok) (State.fiResponse_memOk ok)
    · exact State.onCmd_memOk ok (fun _ _ ok1 => State.ite_memOk (State.codedAnswer_memOk ok1) ok1)
  · exact State.fiResponse_memOk ok

/-! `Sys2Proof.Machine.Image` -/

theorem State.restoreCells_memOk {cells : Memory} (ok : s.MemOk) (hc : cells.wf = true) : (s.restoreCells c cells).MemOk :=
  ok.of_mem (State.restoreCells_wf s c cells ok.1 hc) rfl
theorem State.loadBufs_memOk {img : List Byte} (ok : s.MemOk) : (s.loadBufs c img).MemOk :=
  foldl_memOk (foldl_memOk (foldl_memOk (State.restoreCells_memOk ok rfl) (fun _ _ => State.store_memOk))
      (fun _ _ => State.store_memOk)) (fun _ _ => State.store_memOk)

/-! `Sys2Proof.Machine.Tasks` -/

theorem State.fnWrite_memOk {fn va : Nat} {bs : List Byte} {conf : Bool} (ok : s.MemOk) : (s.fnWrite fn va bs conf).MemOk := by
  refine State.ite_memOk ok (foldl_memOk ok (fun _ _ ok1 => ?_))
  split
  · split
    next e => exact memOk_of_ok e (State.gWrite_memOk ok1)
    next e => exact ok1
  · exact ok1
theorem State.useImage_memOk {id serial : Nat} (ok : s.MemOk) : (s.useImage id serial).MemOk := ok
theorem State.dropUser_memOk {serial : Nat} (ok : s.MemOk) : (s.dropUser serial).MemOk := ok
theorem State.create_memOk {x : Ctx} {entry : Word} {cores : BitVec 128} {spoff : Nat} {args : List Word} (ok : s.MemOk) :
    (s.create c x entry cores spoff args).MemOk := by
  unfold State.create
  dsimp only
  split
  · exact State.useImage_memOk (ok.of_add rfl rfl Memory.nil_wf)
  · exact ok.of_add rfl rfl Memory.nil_wf
theorem State.createAll_memOk {r : LRec} {lq : Nat} {parent : Option (Nat × Nat)} (ok : s.MemOk) :
    (s.createAll r lq parent).MemOk :=
  foldl_memOk ok (fun _ _ => State.create_memOk)
theorem State.grant_memOk {id : Fin 16} (ok : s.MemOk) : (s.grant id c).MemOk := by
  unfold State.grant
  split
  · exact ok
  · split
    · exact ok
    · exact State.create_memOk ok
theorem State.startNest_memOk {n : Nest} (ok : s.MemOk) : OptOk (s.startNest n) := by
  unfold State.startNest
  split
  · exact trivial
  · exact foldl_memOk ok (fun _ _ ok1 => State.ite_memOk ok1 (State.grant_memOk ok1))
theorem execLaunchTake_memOk (ok : s.MemOk) : (execLaunchTake s).MemOk := by
  refine Out.ite_memOk ok ?_
  split
  · exact ok
  · refine Out.ite_memOk (State.setLq_memOk (State.when_memOk (State.setLq_memOk ok) fun ok => State.fnWrite_memOk ok))
        (Out.ite_memOk ?_ (State.setLq_memOk (State.createAll_memOk ok)))
    split
    · exact ok
    · split
      next e => exact State.setLq_memOk ((memOk_of_some e (State.startNest_memOk ok)).upd rfl rfl)
      next e => exact ok
theorem State.countChild_memOk {parent : Option (Nat × Nat)} {status : Nat} {id : BitVec 32} (ok : s.MemOk) :
    (s.countChild parent status id).MemOk := by
  unfold State.countChild
  split
  · exact ok
  · exact ok.of_map rfl rfl fun _ => rfl
theorem State.incFlag_memOk {f : Nat} {by_ : Setter} (ok : s.MemOk) : (s.incFlag f by_).MemOk := State.setFlag_memOk ok
theorem State.spendNrg_memOk {x : Ctx} (ok : s.MemOk) : (s.spendNrg x).MemOk := State.setFunc_memOk ok
theorem State.retireSteps_memOk {x : Ctx} {exit : BitVec 32} {status : Nat} (ok : s.MemOk) :
    (s.retireSteps c x exit status).MemOk := by
  refine State.dropUser_memOk (State.closeSlots_memOk (State.spendNrg_memOk (State.MemOk.upd ?_ rfl rfl)))
  split
  · exact ok
  · exact State.countChild_memOk (State.when_memOk (State.ite_memOk (State.fnWrite_memOk ok) ok) fun ok => State.incFlag_memOk ok)
theorem State.freeCore_memOk (ok : s.MemOk) : (s.freeCore c).MemOk := State.setCore_memOk (State.unswap_memOk ok)
theorem State.retire_memOk {exit : BitVec 32} {status code : Nat} (ok : s.MemOk) : (s.retire c exit status code).MemOk :=
  State.when_memOk (State.freeCore_memOk (State.retireSteps_memOk (State.traceRec_memOk ok))) fun ok => State.setCore_memOk ok
theorem execContextRetire_memOk (ok : s.MemOk) : (execContextRetire c s).MemOk := by
  unfold execContextRetire
  dsimp only
  split
  · exact ok
  · exact Out.ite_memOk ok (State.retire_memOk ok)
theorem execNestComplete_memOk {id : Fin 16} (ok : s.MemOk) : (execNestComplete id s).MemOk := by
  unfold execNestComplete
  split
  · exact ok
  · exact Out.ite_memOk ok (State.countChild_memOk (State.when_memOk (State.ite_memOk (State.fnWrite_memOk ok) ok) fun ok =>
        State.incFlag_memOk ok))
theorem execNest_memOk {x : Ecmd} (ok : s.MemOk) : (execNest x s).MemOk := by
  refine Out.ite_memOk ok ?_
  split
  · exact State.precise_memOk ok
  · split
    · exact State.precise_memOk ok
    · exact State.setCtx_memOk ok
theorem execJoin_memOk {x : Ecmd} (ok : s.MemOk) : (execJoin x s).MemOk :=
  Out.ite_memOk ok (Out.ite_memOk (State.precise_memOk ok) (State.setCtx_memOk ok))
theorem execJoinReady_memOk {j : Fin 16} (ok : s.MemOk) : (execJoinReady c j s).MemOk := by
  refine (State.ite_memOk (State.setCtxOf_memOk ok) ok : State.MemOk (if (s.core c).busy then _ else s)).of_map rfl rfl fun v =>
      ?_
  split <;> rfl
theorem State.pushTask_memOk {x : Ecmd} {i : Instr} {pay : List Byte} {bad : Option (TrapClass × Nat × Nat)} (ok : s.MemOk) :
    (s.pushTask x i pay bad).MemOk :=
  State.push_memOk ok
theorem execSpawn_memOk {x : Ecmd} (ok : s.MemOk) : (execSpawn x s).MemOk :=
  State.command_memOk ok (fun _ => State.port_memOk (State.pushTask_memOk ok))
theorem execEcinit_memOk {x : Ecmd} (ok : s.MemOk) : (execEcinit x s).MemOk :=
  State.command_memOk ok (fun _ => State.pushTask_memOk ok)
theorem execEcdone_memOk {x : Ecmd} (ok : s.MemOk) : (execEcdone x s).MemOk :=
  State.command_memOk ok (fun _ => State.pushTask_memOk ok)
theorem execEgput_memOk {x : Ecmd} (ok : s.MemOk) : (execEgput x s).MemOk :=
  State.command_memOk ok (fun _ => State.port_memOk (State.pushTask_memOk ok))
theorem execEgrel_memOk {x : Ecmd} (ok : s.MemOk) : (execEgrel x s).MemOk :=
  State.command_memOk ok (fun _ => State.pushTask_memOk ok)
theorem execEgdrop_memOk {x : Ecmd} (ok : s.MemOk) : (execEgdrop x s).MemOk :=
  State.command_memOk ok (fun _ => State.pushTask_memOk ok)
theorem State.raise_memOk {t c k lq : Nat} (ok : s.MemOk) : (s.raise t c k m lq).MemOk := ok
theorem State.lower_memOk {t c k : Nat} {by_ : Setter} (ok : s.MemOk) : (s.lower t c k by_).MemOk :=
  State.ite_memOk (State.incFlag_memOk ok) ok
theorem State.taskPerform.eg_memOk {x : Ctx} {a b : Nat} {drop : Bool} {done : State → Nat → State}
    {fail : TrapClass → Nat → State} (ok : s.MemOk) (hdone : ∀ t a, t.MemOk → (done t a).MemOk)
        (hfail : ∀ a b, (fail a b).MemOk) : (State.taskPerform.eg s x a b drop done fail).MemOk :=
  State.ite_memOk (hfail _ _) (State.ite_memOk (hfail _ _) (State.ite_memOk (hdone _ _ ok)
      (hdone _ _ (State.setEq_memOk (State.ite_memOk (foldl_memOk ok (fun _ _ => State.store_memOk)) ok)))))
theorem State.taskPerform_memOk (ok : s.MemOk) : (s.taskPerform c m).MemOk := by
  unfold State.taskPerform
  dsimp only
  split
  · refine State.ite_memOk (State.fiFail_memOk ok) (State.ite_memOk (State.complete_memOk
        (State.createAll_memOk (State.ite_memOk (State.setCtxOf_memOk ok) ok))) ?_)
    split
    · exact State.fiFail_memOk ok
    · split
      · exact State.fiFail_memOk ok
      · split
        next e =>
          exact State.complete_memOk ((memOk_of_some e (State.startNest_memOk
              (State.ite_memOk (State.setCtxOf_memOk ok) ok))).upd rfl rfl)
        next e => exact ok
  · exact State.ite_memOk (State.fiFail_memOk ok) (State.complete_memOk (State.raise_memOk ok))
  · exact State.ite_memOk (State.fiFail_memOk ok) (State.complete_memOk (State.lower_memOk ok))
  · exact State.complete_memOk (State.setEq_memOk (State.store_memOk ok))
  · exact State.taskPerform.eg_memOk ok (fun _ _ => State.complete_memOk) (fun _ _ => State.fiFail_memOk ok)
  · exact State.taskPerform.eg_memOk ok (fun _ _ => State.complete_memOk) (fun _ _ => State.fiFail_memOk ok)
  · exact ok
theorem execReleasePerform_memOk {r : CmdRef} (ok : s.MemOk) : (execReleasePerform r s).MemOk := by
  unfold execReleasePerform
  split
  · exact State.ite_memOk (State.taskPerform_memOk ok) ok
  · exact ok
theorem execEgputTimeout_memOk {r : CmdRef} (ok : s.MemOk) : (execEgputTimeout r s).MemOk := by
  unfold execEgputTimeout
  split
  · split
    · exact Out.ite_memOk (State.fiFail_memOk ok) ok
    · exact ok
  · exact ok
theorem State.placeFresh_memOk {v : Saved} (ok : s.MemOk) : (s.placeFresh v).MemOk := by
  have cleared : (if (s.core v.core).lastFn.any (· != v.ctx.fn.val) then
      { s with mem := s.mem.filter (fun m => !(inBufs v.core m.1)), ecc := s.ecc.filter (fun w => !(inBufs v.core w)) }
    else { s with
      mem := s.mem.filter (fun m => !(bufKey v.core .jb 0 ≤ m.1 && m.1 < bufKey v.core .jb 0 + Space.size .jb))
      ecc := s.ecc.filter (fun w => !(bufKey v.core .jb 0 ≤ w && w < bufKey v.core .jb 0 + Space.size .jb)) } : State).MemOk :=
    State.ite_memOk (ok.of_mem (Memory.filter_wf _ _ ok.1) rfl) (ok.of_mem (Memory.filter_wf _ _ ok.1) rfl)
  unfold State.placeFresh
  dsimp only
  split
  · exact State.setCore_memOk cleared
  · exact State.setCtxOf_memOk (foldl_memOk (State.setCore_memOk cleared) fun s b ok => State.bufStore_memOk ok)
theorem State.loadChanged_memOk {v : Saved} {img : List Byte} (ok : s.MemOk) : (s.loadChanged v img).1.MemOk := by
  unfold State.loadChanged
  dsimp only
  split
  · exact ok
  · split
    · exact ok
    · exact (State.loadBufs_memOk ok).write rfl rfl
theorem State.place_memOk {i : Nat} (ok : s.MemOk) : (s.place i).MemOk := by
  unfold State.place
  split
  · exact ok
  next v e =>
    have erased : ({ s with saved := s.saved.eraseIdx i } : State).MemOk := ok.of_subset rfl (List.eraseIdx_subset ..)
    have back := State.restoreCells_memOk (c := v.core) erased (ok.cells e)
    have loaded {p q : Prop} [Decidable p] [Decidable q] {u : State} {img : List Byte} (ok : u.MemOk) :
        (if p then (u, v.ctx, some .ecc) else if q then (u, v.ctx, none) else u.loadChanged v img : State × Ctx × Option
            TrapClass).1.MemOk := by
      split
      · exact ok
      · split
        · exact ok
        · exact State.loadChanged_memOk ok
    exact State.ite_memOk (State.traceRec_memOk (State.placeFresh_memOk erased)) (State.setCore_memOk (loaded back))
theorem execCorePlace_memOk (ok : s.MemOk) : (execCorePlace c s).MemOk := by
  refine Out.ite_memOk ok ?_
  split
  · exact State.place_memOk ok
  · exact ok
theorem execNestGrant_memOk {id : Fin 16} (ok : s.MemOk) : (execNestGrant id c s).MemOk := by
  refine Out.ite_memOk ok ?_
  split
  · exact Out.ite_memOk ok (State.ite_memOk ok (State.place_memOk (State.grant_memOk ok)))
  · exact ok
theorem State.askPreempt_memOk (ok : s.MemOk) : (s.askPreempt c).MemOk := State.ite_memOk (State.setCore_memOk ok) ok
theorem execSchedLapBoundary_memOk (ok : s.MemOk) : (execSchedLapBoundary s).MemOk := by
  refine Out.ite_memOk ok (foldl_memOk ?_ fun s n ok => State.ite_memOk (State.askPreempt_memOk ok) ok)
  split <;> exact ok.of_map rfl rfl fun _ => rfl
theorem execLendMessage_memOk {q : Fin 64} {p : Lend} (ok : s.MemOk) : (execLendMessage q p s).MemOk := ok
theorem execAgeExpiry_memOk {w : ReadyRef} (ok : s.MemOk) : (execAgeExpiry w s).MemOk := by
  unfold execAgeExpiry
  split
  · split
    next e => exact Out.ite_memOk (ok.of_set ok.1 rfl (ok.cells e :)) ok
    · exact ok
  · split
    · exact Out.ite_memOk ok ok
    · exact ok
theorem execPrio_memOk {x : Edst} (ok : s.MemOk) : (execPrio x s).MemOk :=
  Out.ite_memOk ok (Out.ite_memOk (State.precise_memOk ok) (Out.ite_memOk (State.precise_memOk ok) (State.setCtx_memOk ok)))
theorem execYield_memOk {x : Edst} (ok : s.MemOk) : (execYield x s).MemOk :=
  Out.ite_memOk ok (Out.ite_memOk (State.setCtx_memOk ok) (State.setCore_memOk (State.setCtx_memOk ok)))
theorem execTailWrite_memOk {w : CtlW} (ok : s.MemOk) : (execTailWrite w s).MemOk :=
  Out.ite_memOk ok (OptOk.getD (State.tailWrite_memOk ok) ok)
theorem execEqctlWrite_memOk {w : CtlW} (ok : s.MemOk) : (execEqctlWrite w s).MemOk :=
  Out.ite_memOk ok (OptOk.getD (State.eqctlWrite_memOk ok) ok)
theorem execHeadWrite_memOk {w : CtlW} (ok : s.MemOk) : (execHeadWrite w s).MemOk := by
  unfold execHeadWrite
  dsimp only
  split
  · exact ok
  · exact Out.ite_memOk ok (Out.ite_memOk (State.setEq_memOk ok) (State.setEq_memOk ok))

/-! `Sys2Proof.Machine.System` -/

theorem State.regWrite_memOk {n : Nat} {v : Word} (ok : s.MemOk) : OptOk (s.regWrite c n v) := by
  unfold State.regWrite
  dsimp only
  split
  · exact OptOk.ite (State.setCtxOf_memOk ok) trivial
  · exact OptOk.ite (State.setCtxOf_memOk ok) trivial
  · exact OptOk.ite (State.setCtxOf_memOk ok) trivial
  · exact OptOk.ite (State.setCtxOf_memOk ok) trivial
  · exact OptOk.ite (State.setCtxOf_memOk ok) trivial
  · exact OptOk.ite (State.setCtxOf_memOk ok) trivial
  · exact OptOk.ite (State.setCtxOf_memOk ok) trivial
  · exact State.setCtxOf_memOk ok
  · exact State.setCtxOf_memOk ok
  · exact OptOk.ite (State.setCtxOf_memOk ok) trivial
  · exact OptOk.ite (State.setCtxOf_memOk ok) trivial
  · exact OptOk.ite (State.setCtxOf_memOk ok) trivial
  · exact OptOk.ite (State.setCtxOf_memOk ok) trivial
  · exact OptOk.ite (State.setCore_memOk ok) trivial
  · exact OptOk.ite (State.setCore_memOk ok) trivial
  · exact OptOk.ite (OptOk.ite (State.setCtxOf_memOk ok) trivial) (OptOk.ite (OptOk.ite (State.setCtxOf_memOk ok) trivial)
        (OptOk.ite (OptOk.ite (State.setCore_memOk ok) trivial) (OptOk.ite (OptOk.ite (State.setCore_memOk ok) trivial) trivial)))
theorem State.at_memOk {f : State → State} (ok : s.MemOk) (hf : ∀ t, t.MemOk → (f t).MemOk) : (s.at c f).MemOk := (hf _ ok)
theorem State.sysWrite_memOk {g : Guard} {n : Nat} {v : Word} (ok : s.MemOk) : (s.sysWrite g n v).MemOk := by
  unfold State.sysWrite
  split
  next e => exact memOk_of_some e (State.regWrite_memOk ok)
  next e => exact State.precise_memOk ok
theorem execSyswr_memOk {x : SysWr} (ok : s.MemOk) : (execSyswr x s).MemOk := Out.ite_memOk (State.sysWrite_memOk ok) ok
theorem execFormatRegWrite_memOk {w : RegW} (ok : s.MemOk) : (execFormatRegWrite w s).MemOk :=
  Out.ite_memOk (State.at_memOk ok (fun _ => State.sysWrite_memOk)) ok
theorem execTrctlWrite_memOk {w : RegW} (ok : s.MemOk) : (execTrctlWrite w s).MemOk :=
  Out.ite_memOk (State.at_memOk ok (fun _ => State.sysWrite_memOk)) ok
theorem execBpcWrite_memOk {w : RegW} (ok : s.MemOk) : (execBpcWrite w s).MemOk :=
  Out.ite_memOk (State.at_memOk ok (fun _ => State.sysWrite_memOk)) ok
theorem execSysrd_memOk {x : SysRd} (ok : s.MemOk) : (execSysrd x s).MemOk := by
  refine Out.ite_memOk ok ?_
  split
  · exact State.precise_memOk ok
  · exact State.setCtx_memOk ok
theorem execXstatRead_memOk {r : RegR} (ok : s.MemOk) : (execXstatRead r s).MemOk := Out.ite_memOk (State.setCtxOf_memOk ok) ok
theorem execTrap_memOk {x : Eimm} (ok : s.MemOk) : (execTrap x s).MemOk := Out.ite_memOk (State.afterBundle_memOk ok) ok
theorem execBkpt_memOk {x : Eimm} (ok : s.MemOk) : (execBkpt x s).MemOk :=
  Out.ite_memOk ok (Out.ite_memOk (State.afterBundle_memOk ok) (State.afterBundle_memOk (State.setCtx_memOk ok)))
theorem execTrace_memOk {x : Trc} (ok : s.MemOk) : (execTrace x s).MemOk := Out.ite_memOk (State.traceRec_memOk ok) ok
theorem execJrd_memOk {x : Edst} (ok : s.MemOk) : (execJrd x s).MemOk :=
  Out.ite_memOk ok (Out.ite_memOk (State.precise_memOk ok) (Out.ite_memOk ok (State.setCtx_memOk ok)))
theorem State.dropCmdReqs_memOk {seq : BitVec 32} (ok : s.MemOk) : (s.dropCmdReqs c seq).MemOk := ok
theorem State.replay_memOk (ok : s.MemOk) : (s.replay c m).MemOk :=
  State.ite_memOk (State.completeCmd_memOk (State.dropCmdReqs_memOk ok)) (State.putCmd_memOk (State.dropCmdReqs_memOk ok))
theorem State.replayFaulted_memOk (ok : s.MemOk) : (s.replayFaulted c).MemOk := foldl_memOk ok (fun _ _ => State.replay_memOk)
theorem State.dropCmd_memOk {seq : BitVec 32} (ok : s.MemOk) : (s.dropCmd c seq).MemOk := by
  unfold State.dropCmd
  split
  · exact ok
  · exact State.when_memOk (State.when_memOk (State.completeCmd_memOk (State.dropCmdReqs_memOk ok)) fun ok =>
        State.setCtxOf_memOk ok) fun ok => ok
theorem State.preciseFatal_memOk {g : Guard} {slot : Slot} {cls : TrapClass} {addr : Nat} (ok : s.MemOk) :
    (s.preciseFatal g slot cls addr).MemOk :=
  State.ite_memOk ok (State.setCore_memOk (State.takeTrap_memOk ok))
theorem State.rte_memOk {g : Guard} {drop : Bool} (ok : s.MemOk) : (s.rte g drop).MemOk := by
  refine State.ite_memOk (State.precise_memOk ok) (State.ite_memOk (State.precise_memOk ok) ?_)
  split
  · exact State.preciseFatal_memOk ok
  · exact State.replayFaulted_memOk (State.returnTrap_memOk (State.ite_memOk (State.dropCmd_memOk ok) ok))
theorem execRte_memOk {g : Guard} (ok : s.MemOk) : (execRte g s).MemOk := Out.ite_memOk (State.rte_memOk ok) ok
theorem execRteDrop_memOk {g : Guard} (ok : s.MemOk) : (execRteDrop g s).MemOk := Out.ite_memOk (State.rte_memOk ok) ok
theorem State.sysPut_memOk {va : Nat} {bs : List Byte} (ok : s.MemOk) : (s.sysPut va bs).1.MemOk := State.gWriteVa_memOk ok
theorem State.sysGet_memOk {va n : Nat} (ok : s.MemOk) : (s.sysGet va n).1.MemOk := State.gReadVa_memOk ok
theorem State.sysPuts_memOk {ws : List (Nat × List Byte)} (ok : s.MemOk) : (s.sysPuts ws).1.MemOk := by
  induction ws generalizing s with
  | nil => exact ok
  | cons w r ih =>
    unfold State.sysPuts
    split
    next e => exact memOk_of_pair e (State.sysPut_memOk ok)
    next e => exact ih (memOk_of_pair e (State.sysPut_memOk ok))
theorem execCtxsave_memOk {x : CtxOp} (ok : s.MemOk) : (execCtxsave x s).MemOk := by
  refine Out.ite_memOk ok (Out.ite_memOk (State.precise_memOk ok) (Out.ite_memOk (State.precise_memOk ok)
      (Out.ite_memOk (State.setCtx_memOk ok) ?_)))
  dsimp only
  split
  next e => exact State.precise_memOk (memOk_of_pair e (State.sysPuts_memOk (State.ite_memOk ok ok)))
  next e => exact State.setCtx_memOk (memOk_of_pair e (State.sysPuts_memOk (State.ite_memOk ok ok)))
theorem State.imageFault_memOk {g : Guard} {cls : TrapClass} {va : Nat} (ok : s.MemOk) : (s.imageFault g cls va).MemOk :=
  State.ite_memOk (State.preciseFatal_memOk ok) (State.precise_memOk ok)
theorem State.sysRun_memOk {va n : Nat} (ok : s.MemOk) : (s.sysRun va n).1.MemOk := by
  refine foldl_fst_memOk ok (fun _ _ ok1 => ?_)
  split
  · exact ok1
  · split
    next e => exact memOk_of_pair e (State.sysGet_memOk ok1)
    next e => exact memOk_of_pair e (State.sysGet_memOk ok1)
theorem State.restLoad_memOk (ok : s.MemOk) : (s.restLoad c).MemOk := by
  unfold State.restLoad
  split
  · exact ok
  · dsimp only
    split
    next e => exact State.takeTrap_memOk (State.setCtxOf_memOk (memOk_of_pair e (State.sysRun_memOk (State.setCtxOf_memOk ok))))
    next e => exact State.setCtxOf_memOk (State.loadBufs_memOk (memOk_of_pair e (State.sysRun_memOk (State.setCtxOf_memOk ok))))
theorem execCtxrest_memOk {x : CtxOp} (ok : s.MemOk) : (execCtxrest x s).MemOk := by
  unfold execCtxrest
  refine Out.ite_memOk ok (Out.ite_memOk (State.precise_memOk ok) (Out.ite_memOk (State.precise_memOk ok) ?_))
  split
  next e => exact State.imageFault_memOk (memOk_of_pair e (State.sysGet_memOk ok))
  next e =>
    have ok1 := memOk_of_pair e (State.sysGet_memOk ok)
    refine Out.ite_memOk (State.precise_memOk ok1) ?_
    split
    next e1 => exact State.imageFault_memOk (memOk_of_pair e1 (State.sysGet_memOk ok1))
    next e1 =>
      have ok2 := memOk_of_pair e1 (State.sysGet_memOk ok1)
      exact Out.ite_memOk (State.precise_memOk ok2) (State.setCtx_memOk ok2)
theorem execDump_memOk {x : CtxOp} (ok : s.MemOk) : (execDump x s).MemOk := by
  refine Out.ite_memOk ok (Out.ite_memOk (State.precise_memOk ok) (Out.ite_memOk (State.precise_memOk ok) ?_))
  dsimp only
  split
  next e => exact State.setCtx_memOk (memOk_of_pair e (State.sysPuts_memOk (State.ite_memOk ok ok)))
  next e => exact State.setCtx_memOk (memOk_of_pair e (State.sysPuts_memOk (State.ite_memOk ok ok)))

/-! `Sys2Proof.Machine.Save` -/

theorem execPreemptRequest_memOk (ok : s.MemOk) : (execPreemptRequest c s).MemOk :=
  Out.ite_memOk (State.setCore_memOk ok) (State.setCore_memOk ok)
theorem execPreemptTake_memOk (ok : s.MemOk) : (execPreemptTake c s).MemOk := State.ite_memOk (State.setCore_memOk ok) ok
theorem State.toJournal_memOk (ok : s.MemOk) : (s.toJournal c m).MemOk := by
  refine State.ite_memOk ok ?_
  split
  next e => exact State.putCmd_memOk (State.dropCmdReqs_memOk (memOk_of_pair e (State.stopStream_memOk ok)))
theorem State.restCmds_memOk (ok : s.MemOk) : (s.restCmds c).MemOk :=
  foldl_memOk (State.loseBlocks_memOk ok) (fun _ _ => State.toJournal_memOk)
theorem State.packImages_memOk {fn : Nat} (ok : s.MemOk) : (s.packImages fn).MemOk := by
  refine State.ite_memOk ok ?_
  have stored {base : Nat} {ws : List (Nat × List Byte × List Nat)} : (ws.foldl (fun (s : State) m =>
      { s.store (base + m.1) m.2.1 with ecc := clearEcc s.ecc (base + m.1) m.2.1.length false }) s).MemOk :=
    foldl_memOk ok fun _ _ ok => (State.store_memOk ok :)
  refine stored.of_map rfl rfl fun v => ?_
  split <;> rfl
theorem State.putImage_memOk {fn : Nat} {img : List Byte} (ok : s.MemOk) : (s.putImage fn img).1.MemOk :=
  State.store_memOk (State.packImages_memOk ok)
theorem State.setTq_memOk {i : Nat} {r : Option TrapRec} (ok : s.MemOk) : (s.setTq i r).MemOk := ok
theorem State.goOn_memOk {since t : Nat} (ok : s.MemOk) : (s.goOn c since t).MemOk := State.setCore_memOk ok
theorem State.answerPre_memOk {code : Nat} (ok : s.MemOk) : (s.answerPre c code).MemOk :=
  State.ite_memOk (State.setCore_memOk ok) ok
theorem State.keptCells_wf {x : Ctx} (ok : s.MemOk) : (s.keptCells c x).wf = true := Memory.filter_wf _ _ ok.1

theorem State.saveAs_memOk {phase : Phase} {since ready : Nat} (ok : s.MemOk) : (s.saveAs c phase since ready).MemOk := by
  have imaged {p : Prop} [Decidable p] {ms : List Cmd} {fn : Nat} {img : List Byte} :
      (if p then { ((ms.foldl (fun (s : State) m => s.dropCmdReqs c m.seq) (s.answerPre c 0)).putImage fn img).1 with
        free := ((ms.foldl (fun (s : State) m => s.dropCmdReqs c m.seq) (s.answerPre c 0)).putImage fn img).1.free + 1 }
       else ((ms.foldl (fun (s : State) m => s.dropCmdReqs c m.seq) (s.answerPre c 0)).putImage fn img).1).MemOk :=
    have put := State.putImage_memOk (foldl_memOk (State.answerPre_memOk ok) fun _ _ => State.dropCmdReqs_memOk)
    State.ite_memOk put put
  exact State.freeCore_memOk (State.MemOk.of_add (State.traceRec_memOk imaged) rfl rfl (State.keptCells_wf imaged))
theorem State.finishSave_memOk {st : Stop} (ok : s.MemOk) : (s.finishSave c st).MemOk := by
  have rest := State.restCmds_memOk (c := c) ok
  unfold State.finishSave
  dsimp only
  split
  · exact State.ite_memOk (State.ite_memOk (State.saveAs_memOk rest) (State.saveAs_memOk rest))
        (State.goOn_memOk (State.answerPre_memOk rest))
  · split
    · exact ok
    next i _ =>
      refine State.ite_memOk (State.setCore_memOk (State.setTq_memOk (State.ite_memOk rest (State.answerPre_memOk rest))))
        (State.ite_memOk (State.saveAs_memOk (State.setTq_memOk rest)) ?_)
      generalize hp : State.putImage _ _ _ = p
      have put : p.1.MemOk := hp ▸ State.putImage_memOk rest
      refine State.retire_memOk ?_
      dsimp only [State.MemOk]
      exact State.setTq_memOk put
theorem execContextSaved_memOk (ok : s.MemOk) : (execContextSaved c s).MemOk := by
  unfold execContextSaved
  split
  · exact Out.ite_memOk (State.finishSave_memOk ok) ok
  · exact ok
theorem execContextResume_memOk (ok : s.MemOk) : (execContextResume c s).MemOk := by
  unfold execContextResume
  split
  · refine Out.ite_memOk ok ?_
    split
    · exact State.takeTrap_memOk (State.traceRec_memOk (State.cellClean_memOk
          (State.cellClean_memOk (foldl_memOk (State.goOn_memOk ok) (fun _ _ => State.journal_memOk)))))
    · exact State.traceRec_memOk (State.cellClean_memOk (State.cellClean_memOk
          (foldl_memOk (State.goOn_memOk ok) (fun _ _ => State.journal_memOk))))
  · exact ok
theorem State.tqRefuse_memOk {slot cmd : Nat} (ok : s.MemOk) : (s.tqRefuse slot cmd).MemOk := by
  unfold State.tqRefuse
  exact State.MemOk.upd ok rfl rfl
theorem State.tqDone_memOk {slot cmd : Nat} (ok : s.MemOk) : (s.tqDone slot cmd).MemOk := ok
theorem State.tqResume_memOk {slot : Nat} {drop : Bool} (ok : s.MemOk) : (s.tqResume slot drop).MemOk := by
  have act {d : CoreId} {q : BitVec 32} {u : State} (ok : u.MemOk) : ((if drop then u.dropCmd d q else u).replayFaulted
      d).MemOk :=
    State.replayFaulted_memOk (State.ite_memOk (State.dropCmd_memOk ok) ok)
  unfold State.tqResume
  dsimp only
  split
  · exact State.tqRefuse_memOk ok
  next r _ =>
    refine State.ite_memOk (State.tqRefuse_memOk ok) ?_
    split
    next i v _ =>
      refine State.tqDone_memOk ?_
      have ran := State.inSaved_memOk (i := i) ok fun _ => act (d := v.core) (q := r.seq)
      generalize s.inSaved i _ = u at ran ⊢
      split
      next e => exact ran.of_set ran.1 rfl (ran.cells e :)
      · exact ran
    · split
      · exact State.tqDone_memOk (State.goOn_memOk (act ok))
      · exact State.tqRefuse_memOk ok
theorem State.endSaved_memOk {i : Nat} {v : Saved} {status : Nat} (ok : s.MemOk) : (s.endSaved i v status).MemOk :=
  State.retireSteps_memOk (ok.of_subset rfl (List.eraseIdx_subset ..))
theorem State.tqKill_memOk {slot : Nat} (ok : s.MemOk) : (s.tqKill slot).MemOk := by
  unfold State.tqKill
  split
  · exact State.tqRefuse_memOk ok
  · refine State.ite_memOk (State.tqRefuse_memOk ok) ?_
    split
    · exact State.tqDone_memOk (State.endSaved_memOk ok)
    · split
      · exact State.tqDone_memOk (State.retire_memOk ok)
      · exact State.tqRefuse_memOk ok
theorem State.tqRelease_memOk {slot : Nat} (ok : s.MemOk) : (s.tqRelease slot).MemOk := by
  unfold State.tqRelease
  split
  · exact State.tqRefuse_memOk ok
  · refine State.ite_memOk (State.tqRefuse_memOk ok) ?_
    dsimp only
    split
    · exact State.tqDone_memOk (State.retire_memOk ok)
    · exact State.tqDone_memOk ok
theorem execTqcmdResume_memOk {w : Who} {slot : Fin 64} (ok : s.MemOk) : (execTqcmdResume w slot s).MemOk :=
  State.ite_memOk (State.tqResume_memOk ok) ok
theorem execTqcmdResumeDrop_memOk {w : Who} {slot : Fin 64} (ok : s.MemOk) : (execTqcmdResumeDrop w slot s).MemOk :=
  State.ite_memOk (State.tqResume_memOk ok) ok
theorem execTqcmdKill_memOk {w : Who} {slot : Fin 64} (ok : s.MemOk) : (execTqcmdKill w slot s).MemOk :=
  State.ite_memOk (State.tqKill_memOk ok) ok
theorem execTqcmdRelease_memOk {w : Who} {slot : Fin 64} (ok : s.MemOk) : (execTqcmdRelease w slot s).MemOk :=
  State.ite_memOk (State.tqRelease_memOk ok) ok
theorem State.flrQueues_memOk {f : Nat} (ok : s.MemOk) : (s.flrQueues f).MemOk :=
  foldl_memOk (foldl_memOk ok (fun _ _ ok1 => State.ite_memOk (State.setLq_memOk ok1) ok1))
      (fun _ _ ok1 => State.ite_memOk (State.setEq_memOk (foldl_memOk ok1 (fun _ _ => State.store_memOk))) ok1)
theorem State.dropReqs_memOk {f : Nat} (ok : s.MemOk) : (s.dropReqs f).MemOk := ok
theorem State.discard_memOk {x : Ctx} (ok : s.MemOk) : (s.discard c x).MemOk :=
  State.dropUser_memOk (State.closeSlots_memOk (State.spendNrg_memOk ok))
theorem State.flrContexts_memOk {f : Nat} (ok : s.MemOk) : (s.flrContexts f).MemOk := by
  unfold State.flrContexts
  dsimp only
  generalize hT : List.foldl _ _ _ = u
  have ran : u.MemOk := by
    rw [← hT]
    refine foldl_memOk (foldl_memOk (s := { s.dropReqs f with fwExts := _ }) (State.dropReqs_memOk (f := f) ok) fun s n ok => ?_)
      fun _ _ => State.discard_memOk
    have freed {s : State} {x : Ctx} {us : List WinUnit} {ps : List Pkt} {c : CoreId} (ok : s.MemOk) :
        ({ s.discard c x with winUnits := us, pkts := ps }.freeCore c).MemOk := by
      refine State.freeCore_memOk ?_
      dsimp only [State.MemOk]
      exact State.discard_memOk ok
    generalize Fin.ofNat 128 n = c
    refine State.ite_memOk (State.ite_memOk (State.setCore_memOk (freed ?_)) (freed ?_)) ?_
    all_goals exact State.setCore_memOk ok
  exact ran.of_subset rfl List.filter_sublist.subset
theorem execFrst_memOk {w : CtlW} (ok : s.MemOk) : (execFrst w s).MemOk :=
  Out.ite_memOk ok (State.setFunc_memOk (State.flrContexts_memOk (State.flrQueues_memOk ok)))
theorem State.dropTlb_memOk {p : TlbEnt → Bool} (ok : s.MemOk) : (s.dropTlb p).MemOk := ok
theorem State.flrScrub_memOk {f : Nat} (ok : s.MemOk) : (s.flrScrub f).MemOk := by
  unfold State.flrScrub
  extract_lets x swept dropped own
  have cleared : swept.MemOk := foldl_memOk ok fun u d ok => by
    dsimp only
    split
    · exact ok
    · exact ok.of_mem (Memory.filter_wf _ _ ok.1) rfl
  obtain ⟨hmem, hsaved⟩ : dropped.MemOk := State.dropTlb_memOk cleared
  exact ⟨hmem, hsaved⟩
theorem execFlrDrainDone_memOk {f : Fin 16} (ok : s.MemOk) : (execFlrDrainDone f s).MemOk :=
  Out.ite_memOk ok (Out.ite_memOk (State.setFunc_memOk ok) (State.setFunc_memOk (State.flrScrub_memOk ok)))
theorem execInval_memOk {w : CtlW} (ok : s.MemOk) : (execInval w s).MemOk := Out.ite_memOk ok (State.setFunc_memOk ok)
theorem execInvalComplete_memOk {f : Fin 16} (ok : s.MemOk) : (execInvalComplete f s).MemOk :=
  Out.ite_memOk ok (State.setFunc_memOk ok)

/-! `Sys2Proof.Machine.Scalar` -/

theorem State.alu_memOk {g : Guard} {slot : Slot} {code : Nat} {v : Word} {fl : Fl} (ok : s.MemOk) :
    (s.alu g slot code v fl).MemOk :=
  State.finish_memOk ok
theorem State.bin_memOk {x : Bin} {f : Word → Word → Word} (ok : s.MemOk) : (s.bin x f).MemOk := State.alu_memOk ok
theorem State.una_memOk {x : Una} {f : Word → Word} (ok : s.MemOk) : (s.una x f).MemOk := State.alu_memOk ok
theorem execAdd_memOk {x : Bin} (ok : s.MemOk) : (execAdd x s).MemOk := by
  unfold execAdd
  split
  exact State.alu_memOk ok
theorem execSub_memOk {x : Bin} (ok : s.MemOk) : (execSub x s).MemOk := by
  unfold execSub
  split
  exact State.alu_memOk ok
theorem execNeg_memOk {x : Una} (ok : s.MemOk) : (execNeg x s).MemOk := by
  unfold execNeg
  split
  exact State.alu_memOk ok
theorem execAnd_memOk {x : Bin} (ok : s.MemOk) : (execAnd x s).MemOk := State.bin_memOk ok
theorem execOr_memOk {x : Bin} (ok : s.MemOk) : (execOr x s).MemOk := State.bin_memOk ok
theorem execXor_memOk {x : Bin} (ok : s.MemOk) : (execXor x s).MemOk := State.bin_memOk ok
theorem execAndn_memOk {x : Bin} (ok : s.MemOk) : (execAndn x s).MemOk := State.bin_memOk ok
theorem execShl_memOk {x : Bin} (ok : s.MemOk) : (execShl x s).MemOk := State.bin_memOk ok
theorem execShr_memOk {x : Bin} (ok : s.MemOk) : (execShr x s).MemOk := State.bin_memOk ok
theorem execSra_memOk {x : Bin} (ok : s.MemOk) : (execSra x s).MemOk := State.bin_memOk ok
theorem execRotl_memOk {x : Bin} (ok : s.MemOk) : (execRotl x s).MemOk := State.bin_memOk ok
theorem execClz_memOk {x : Una} (ok : s.MemOk) : (execClz x s).MemOk := State.una_memOk ok
theorem execCtz_memOk {x : Una} (ok : s.MemOk) : (execCtz x s).MemOk := State.una_memOk ok
theorem execPopc_memOk {x : Una} (ok : s.MemOk) : (execPopc x s).MemOk := State.una_memOk ok
theorem execBfx_memOk {x : Bfx} (ok : s.MemOk) : (execBfx x s).MemOk := State.alu_memOk ok
theorem execBfxn_memOk {x : Bfx} (ok : s.MemOk) : (execBfxn x s).MemOk := State.alu_memOk ok
theorem execBfi_memOk {x : Bfi} (ok : s.MemOk) : (execBfi x s).MemOk := State.alu_memOk ok
theorem execMin_memOk {x : Bin} (ok : s.MemOk) : (execMin x s).MemOk := State.bin_memOk ok
theorem execMax_memOk {x : Bin} (ok : s.MemOk) : (execMax x s).MemOk := State.bin_memOk ok
theorem execMinn_memOk {x : Bin} (ok : s.MemOk) : (execMinn x s).MemOk := State.bin_memOk ok
theorem execMaxn_memOk {x : Bin} (ok : s.MemOk) : (execMaxn x s).MemOk := State.bin_memOk ok
theorem execSel_memOk {x : Sel} (ok : s.MemOk) : (execSel x s).MemOk := State.alu_memOk ok
theorem execCmp_memOk {x : Cmp} (ok : s.MemOk) : (execCmp x s).MemOk := State.alu_memOk ok
theorem execMov_memOk {x : Una} (ok : s.MemOk) : (execMov x s).MemOk := State.una_memOk ok
theorem execLea_memOk {x : Lea} (ok : s.MemOk) : (execLea x s).MemOk := State.alu_memOk ok
theorem State.immOp_memOk {x : ImmOp} {f : Word → Word → Word} (ok : s.MemOk) : (s.immOp x f).MemOk := State.alu_memOk ok
theorem execAddi_memOk {x : ImmOp} (ok : s.MemOk) : (execAddi x s).MemOk := State.immOp_memOk ok
theorem execAndi_memOk {x : ImmOp} (ok : s.MemOk) : (execAndi x s).MemOk := State.immOp_memOk ok
theorem execOri_memOk {x : ImmOp} (ok : s.MemOk) : (execOri x s).MemOk := State.immOp_memOk ok
theorem execXori_memOk {x : ImmOp} (ok : s.MemOk) : (execXori x s).MemOk := State.immOp_memOk ok
theorem execCmpi_memOk {x : Cmpi} (ok : s.MemOk) : (execCmpi x s).MemOk := State.alu_memOk ok
theorem execMovi_memOk {x : ImmOp} (ok : s.MemOk) : (execMovi x s).MemOk := State.alu_memOk ok
theorem execMovl_memOk {x : Movl} (ok : s.MemOk) : (execMovl x s).MemOk := State.alu_memOk ok
theorem execMul_memOk {x : Bin} (ok : s.MemOk) : (execMul x s).MemOk := by
  unfold execMul
  split
  exact State.finish_memOk ok
theorem execMulh_memOk {x : Bin} (ok : s.MemOk) : (execMulh x s).MemOk := State.finish_memOk ok
theorem execMulhn_memOk {x : Bin} (ok : s.MemOk) : (execMulhn x s).MemOk := State.finish_memOk ok
theorem execDiv_memOk {x : Bin} (ok : s.MemOk) : (execDiv x s).MemOk := by
  unfold execDiv
  split
  exact State.finish_memOk ok
theorem execDivn_memOk {x : Bin} (ok : s.MemOk) : (execDivn x s).MemOk := by
  unfold execDivn
  split
  exact State.finish_memOk ok
theorem execRem_memOk {x : Bin} (ok : s.MemOk) : (execRem x s).MemOk := by
  unfold execRem
  split
  exact State.finish_memOk ok
theorem execRemn_memOk {x : Bin} (ok : s.MemOk) : (execRemn x s).MemOk := by
  unfold execRemn
  split
  exact State.finish_memOk ok

/-! `Sys2Proof.Machine.Events` -/

theorem execResultLand_memOk (ok : s.MemOk) : (execResultLand c s).MemOk := State.setCtxOf_memOk ok
theorem State.fill_memOk (ok : s.MemOk) : s.fill.MemOk := by
  unfold State.fill
  dsimp only
  split
  · exact State.precise_memOk (State.xlate_memOk ok)
  · exact State.setCore_memOk (State.xlate_memOk ok)
theorem execIbufFill_memOk (ok : s.MemOk) : (execIbufFill c s).MemOk :=
  Out.ite_memOk (State.at_memOk ok (fun _ => State.fill_memOk)) ok
theorem State.evalChecked_memOk {k : Option Nat} {ps0 : List (Slot × Guard × Fl × Nat)} (ok : s.MemOk) :
    (s.evalChecked k ps0).MemOk := by
  unfold State.evalChecked
  dsimp only
  split
  · exact State.arith_memOk (State.setCtx_memOk ok)
  · exact State.setCtx_memOk ok
theorem execCheckedModeEval_memOk (ok : s.MemOk) : (execCheckedModeEval c s).MemOk := by
  unfold execCheckedModeEval
  dsimp only
  split
  · refine Out.ite_memOk ok ?_
    split
    · exact State.at_memOk ok (fun _ => State.evalChecked_memOk)
    · exact ok
  · exact ok
theorem State.takePend_memOk {p : Pend} (ok : s.MemOk) : (s.takePend c p).MemOk := State.takeTrap_memOk (State.setCtxOf_memOk ok)
theorem State.boundaryTrap_memOk (ok : s.MemOk) : (s.boundaryTrap c).MemOk := by
  refine State.ite_memOk ok ?_
  split
  · exact State.takeTrap_memOk (State.setCtxOf_memOk ok)
  · refine State.ite_memOk (State.takeEngineFault_memOk ok) ?_
    split
    · exact State.takePend_memOk ok
    · exact ok
theorem execTrapTake_memOk (ok : s.MemOk) : (execTrapTake c s).MemOk := State.boundaryTrap_memOk ok
theorem execEngineFault_memOk {r : CmdRef} (ok : s.MemOk) : (execEngineFault r s).MemOk :=
  State.onCmd_memOk ok (fun _ _ ok1 => State.ite_memOk (State.engineFault_memOk ok1) ok1)
theorem State.takeHits_memOk (ok : s.MemOk) : (s.takeHits c).MemOk := by
  unfold State.takeHits
  dsimp only
  split
  · exact ok
  · exact State.ite_memOk ok (State.takeTrap_memOk (State.setCtxOf_memOk ok))
theorem execBreakpointHit_memOk (ok : s.MemOk) : (execBreakpointHit c s).MemOk := State.takeHits_memOk ok
theorem State.startAny_memOk (ok : s.MemOk) : (s.startAny c m).MemOk := by
  unfold State.startAny
  split
  · exact State.putCmd_memOk ok
  · exact State.startCmd_memOk ok
  · exact State.startCmd_memOk ok
  · exact State.startCmd_memOk ok
  · refine State.ite_memOk (State.startCmd_memOk ok) ?_
    split
    · exact State.startMe_memOk ok
    · exact State.startCe_memOk ok
    · exact State.startXe_memOk ok
    · exact State.startFiAll_memOk ok
    · exact State.startCmd_memOk ok
theorem State.release_memOk (ok : s.MemOk) : (s.release c m).MemOk := by
  refine State.ite_memOk ok ?_
  split
  · exact State.ite_memOk (State.ite_memOk (State.nextEntry_memOk ok (fun _ _ => State.startAny_memOk)) ok)
        (State.ite_memOk (State.startAny_memOk ok) ok)
  · exact State.ite_memOk (State.startAny_memOk ok) ok
theorem execScoreboardRelease_memOk {r : CmdRef} (ok : s.MemOk) : (execScoreboardRelease r s).MemOk := by
  unfold execScoreboardRelease
  split
  · exact State.release_memOk ok
  · exact ok
theorem execDroopDetect_memOk {d : Fin 16} {depth : Fin 256} (ok : s.MemOk) : (execDroopDetect d depth s).MemOk :=
  Out.ite_memOk ok ((State.store_memOk ok))

/-! `Sys2Proof.Machine.Host` -/

theorem State.orElse_memOk {b : Bool} {t : State} (ok : s.MemOk) (ok1 : t.MemOk) : (s.orElse b t).MemOk := State.ite_memOk ok1 ok
theorem execLimitsWrite_memOk {w : CtlW} (ok : s.MemOk) : (execLimitsWrite w s).MemOk := State.orElse_memOk ok ok
theorem execOwnerMapWrite_memOk {w : CtlW} (ok : s.MemOk) : (execOwnerMapWrite w s).MemOk := State.orElse_memOk ok ok
theorem execTorusWrite_memOk {w : CtlW} (ok : s.MemOk) : (execTorusWrite w s).MemOk := State.orElse_memOk ok ok
theorem execPboxWrite_memOk {w : CtlW} (ok : s.MemOk) : (execPboxWrite w s).MemOk :=
  State.orElse_memOk ok (State.setFunc_memOk ok)
theorem State.peerFail_memOk {box : Word} {was : State} (ok : s.MemOk) : (s.peerFail c box was).MemOk := by
  refine foldl_memOk (foldl_memOk ok (fun _ _ => State.failReq_memOk))
      (fun _ _ ok1 => State.ite_memOk (State.putCmd_memOk ok1) (State.ite_memOk (State.ite_memOk (State.fiFail_memOk ok1) ok1)
          ?_))
  split
  · exact ok1
  · exact foldl_memOk ok1 (fun _ _ => State.failReq_memOk)
theorem execPhltClear_memOk {w : Who} {f : Fin 16} (ok : s.MemOk) : (execPhltClear w f s).MemOk := by
  unfold execPhltClear
  refine Out.ite_memOk ok ?_
  dsimp only [Out.MemOk]
  with_reducible refine State.MemOk.upd (foldl_memOk (foldl_memOk ?_ fun t n ok => ?_) fun t i ok => ?_) rfl rfl
  · exact State.setFunc_memOk ok
  · exact State.ite_memOk (State.peerFail_memOk ok) ok
  · split
    · exact State.ite_memOk (State.inSaved_memOk ok fun _ => State.peerFail_memOk) ok
    · exact ok
theorem execPhltSet_memOk {w : Who} {f : Fin 16} (ok : s.MemOk) : (execPhltSet w f s).MemOk :=
  State.orElse_memOk ok (State.setFunc_memOk ok)
theorem State.flagWindow_memOk {w : CtlW} {op : Nat} {f : BitVec 32 → BitVec 32} (ok : s.MemOk) : (s.flagWindow w op f).MemOk :=
  State.orElse_memOk ok (State.setFlag_memOk ok)
theorem execFlagWindowSet_memOk {w : CtlW} (ok : s.MemOk) : (execFlagWindowSet w s).MemOk := State.flagWindow_memOk ok
theorem execFlagWindowInc_memOk {w : CtlW} (ok : s.MemOk) : (execFlagWindowInc w s).MemOk := State.flagWindow_memOk ok
theorem execFlagWindowClr_memOk {w : CtlW} (ok : s.MemOk) : (execFlagWindowClr w s).MemOk := State.flagWindow_memOk ok
theorem execLqWrite_memOk {w : CtlW} (ok : s.MemOk) : (execLqWrite w s).MemOk :=
  State.orElse_memOk ok (State.setFunc_memOk (foldl_memOk ok (fun _ _ ok1 => State.unless_memOk (State.setLq_memOk ok1) fun
      ok => State.ite_memOk ok ok1)))
theorem execEqWrite_memOk {w : CtlW} (ok : s.MemOk) : (execEqWrite w s).MemOk := by
  unfold execEqWrite
  dsimp only
  refine State.orElse_memOk ok (State.setFunc_memOk (foldl_memOk ok fun t e ok => ?_))
  split
  · exact State.setEq_memOk ok
  · split
    · exact State.setEq_memOk ok
    · exact ok
theorem execGrantWrite_memOk {w : CtlW} (ok : s.MemOk) : (execGrantWrite w s).MemOk := by
  unfold execGrantWrite
  dsimp only
  split
  · exact State.orElse_memOk ok (State.setFunc_memOk ok)
  · exact ok
theorem State.serve_memOk {n : Fin 17} {op len : Nat} {f : Nat → List Byte → Nat × List Byte × State} (ok : s.MemOk)
    (hf : ∀ a b, (f a b).2.2.MemOk) : (s.serve n op len f).MemOk := by
  unfold State.serve
  refine Out.ite_memOk ok ?_
  split
  next e =>
    refine State.MemOk.upd (?_ : State.MemOk _) rfl rfl
    split at e
    · cases e; exact ok
    · split at e
      · cases e; exact ok
      · have := hf (rdOf (s.mbReq n) 0 1) (s.mbReq n)
        rw [e] at this; exact this
theorem execKey_memOk {n : Fin 17} (ok : s.MemOk) : (execKey n s).MemOk := by
  refine State.serve_memOk ok fun _ _ => ?_
  dsimp only
  split
  · exact ok
  · exact ok
theorem execAdmit_memOk {n : Fin 17} {out : Fin 3} (ok : s.MemOk) : (execAdmit n out s).MemOk := by
  refine State.serve_memOk ok fun _ _ => ?_
  dsimp only
  repeat' split
  all_goals exact ok
theorem execWithdraw_memOk {n : Fin 17} (ok : s.MemOk) : (execWithdraw n s).MemOk := by
  refine State.serve_memOk ok fun _ _ => ?_
  split
  · exact ok
  · split
    · exact ok
    · split <;> exact ok
theorem execAttest_memOk {n : Fin 17} (ok : s.MemOk) : (execAttest n s).MemOk := by
  refine State.serve_memOk ok fun _ _ => ?_
  dsimp only
  repeat' split
  all_goals exact ok
theorem execExtent_memOk {n : Fin 17} {out : Fin 4} (ok : s.MemOk) : (execExtent n out s).MemOk := by
  refine Out.ite_memOk ok (State.serve_memOk ok fun _ _ => ?_)
  dsimp only
  split
  · exact ok
  · split
    · exact ok
    · exact State.ite_memOk ok (State.ite_memOk ok (State.dropExtent_memOk ok))
theorem execMailboxDone_memOk {m : Fin 17} (ok : s.MemOk) : (execMailboxDone m s).MemOk := by
  unfold execMailboxDone
  dsimp only
  split
  · exact ok
  · exact Out.ite_memOk ok ((State.store_memOk ok))
theorem execPoolLinkDown_memOk {p : Fin 2} (ok : s.MemOk) : (execPoolLinkDown p s).MemOk :=
  foldl_memOk ok (fun _ _ ok1 => foldl_memOk ok1 (fun _ _ => State.failReq_memOk))
theorem execPoolLinkUp_memOk {p : Fin 2} (ok : s.MemOk) : (execPoolLinkUp p s).MemOk := ok
theorem execWatchdogWrite_memOk {w : Who} (ok : s.MemOk) : (execWatchdogWrite w s).MemOk := State.orElse_memOk ok ok
theorem execWatchdogExpiry_memOk (ok : s.MemOk) : (execWatchdogExpiry s).MemOk := State.orElse_memOk ok ok
theorem State.clearAll_memOk (ok : s.MemOk) : s.clearAll.MemOk := ok.of_mem (Memory.filter_wf _ _ ok.1) rfl
theorem execPowerGood_memOk (ok : s.MemOk) : (execPowerGood s).MemOk :=
  State.ite_memOk ok (State.ite_memOk (State.ite_memOk ok ok) (State.ite_memOk ((State.clearAll_memOk ok))
      (State.ite_memOk ok ok)))
theorem State.throttled_memOk {th : BitVec 4} {k : Nat} (ok : s.MemOk) : (s.throttled th k).MemOk := ok
theorem execThermalThrottle_memOk {die : Option (Fin 4)} {k : Fin 17} (ok : s.MemOk) : (execThermalThrottle die k s).MemOk := by
  unfold execThermalThrottle
  split <;> exact State.throttled_memOk ok
theorem execThrottleRelease_memOk {die : Option (Fin 4)} (ok : s.MemOk) : (execThrottleRelease die s).MemOk := by
  unfold execThrottleRelease
  split <;> exact State.throttled_memOk ok
theorem execTrip_memOk (ok : s.MemOk) : (execTrip s).MemOk := ok
theorem execTripRelease_memOk (ok : s.MemOk) : (execTripRelease s).MemOk := ok
theorem execClusterWake_memOk {k : Fin 16} (ok : s.MemOk) : (execClusterWake k s).MemOk := ok
theorem State.markEcc_memOk {w : Nat} (ok : s.MemOk) : (s.markEcc w).MemOk := ok
theorem execPatrolScrub_memOk {a : Nat} (ok : s.MemOk) : (execPatrolScrub a s).MemOk := by
  unfold execPatrolScrub
  dsimp only
  split
  · exact ok
  · exact Out.ite_memOk (State.ite_memOk ok ok) (Out.ite_memOk ok (State.markEcc_memOk ok))
theorem State.mbWrite_memOk {m : Fin 17} {o : Nat} {v : Word} (ok : s.MemOk) : OptOk (s.mbWrite m o v) :=
  OptOk.ite trivial (OptOk.ite ok (OptOk.ite (OptOk.ite ok trivial) (OptOk.ite (State.store_memOk ok) trivial)))
theorem State.queueWrite_memOk {w : CtlW} (ok : s.MemOk) : OptOk (s.queueWrite w) := by
  unfold State.queueWrite
  dsimp only
  generalize w.off - 0x100000 = d
  exact OptOk.ite (OptOk.ite (OptOk.ite (State.store_memOk ok) trivial) (OptOk.ite (State.setLq_memOk ok) trivial))
    (OptOk.ite (State.setEq_memOk ok) trivial)
theorem State.dWrite_memOk {o n : Nat} {v : Word} (ok : s.MemOk) : (s.dWrite o n v).MemOk := ok
theorem State.powerWrite_memOk {o : Nat} {v : Word} (ok : s.MemOk) : OptOk (s.powerWrite o v) := by
  unfold State.powerWrite
  refine OptOk.ite (OptOk.ite ?_ trivial) (OptOk.ite ?_ (OptOk.ite (OptOk.ite ?_ trivial) (OptOk.ite (OptOk.ite ?_ trivial)
    (OptOk.ite ?_ (OptOk.ite (OptOk.ite ?_ trivial) trivial)))))
  all_goals exact State.MemOk.upd ok rfl rfl
theorem execRegisterWrite_memOk {w : CtlW} (ok : s.MemOk) : (execRegisterWrite w s).MemOk := by
  unfold execRegisterWrite
  refine Out.ite_memOk (State.orElse_memOk ok (State.dWrite_memOk ok)) (Out.ite_memOk ok (OptOk.getD ?_ ok))
  exact OptOk.ite (State.queueWrite_memOk ok) (OptOk.ite (OptOk.ite (State.dWrite_memOk ok) trivial)
    (OptOk.ite (OptOk.ite (State.tqRefuse_memOk ok) trivial) (OptOk.ite
        (OptOk.ite (OptOk.map fun _ => State.setCore_memOk ok) trivial)
    (OptOk.ite (OptOk.ite (State.powerWrite_memOk ok) trivial) (OptOk.ite (OptOk.ite (State.mbWrite_memOk ok) trivial)
        trivial)))))

/-! `Sys2Proof.Machine.Reads` -/

theorem execEgressSlotRead_memOk {w : Who} {e : Fin 32} {slot : Fin 256} (ok : s.MemOk) : (execEgressSlotRead w e slot s).MemOk :=
  ok

/-! `Sys2Proof.Machine.Cycle` -/

theorem State.did_memOk {ev : State → Out} (ok : s.MemOk) (hev : ∀ t, t.MemOk → (ev t).MemOk) : (s.did ev).MemOk := by
  unfold State.did
  split
  next e => exact memOk_of_next e (hev _ ok)
  · exact ok
theorem State.xlateHeld_memOk {b : Bundle} (ok : s.MemOk) : OptOk (s.xlateHeld b) := by
  unfold State.xlateHeld
  split
  · exact trivial
  · exact State.vaHeld_memOk (State.setCore_memOk ok)
theorem State.sysHeld_memOk {va n k : Nat} (ok : s.MemOk) : OptOk (s.sysHeld va n k) := by
  induction k generalizing s with
  | zero => exact ok
  | succ k ih =>
    unfold State.sysHeld
    refine OptOk.ite trivial ?_
    split
    next e => exact memOk_of_some e (State.vaHeld_memOk ok)
    · exact OptOk.ite trivial (ih (State.setCtx_memOk ok))
theorem State.checkedHeld_memOk {b : Bundle} (ok : s.MemOk) : (s.checkedHeld b).1.MemOk := by
  unfold State.checkedHeld
  dsimp only
  split
  · exact ok
  · split
    · split
      · exact ok
      · exact State.evalChecked_memOk ok
    · split
      · exact ok
      · split
        · exact State.setCtx_memOk ok
        · exact State.evalChecked_memOk (State.setCtx_memOk ok)
theorem runSlots_memOk {ex : Instr → State → Out} {n : Nat} {is : List Instr} (ok : s.MemOk)
    (hex : ∀ i s, s.MemOk → (ex i s).MemOk) :
    Out.MemOk (runSlots ex n is s).1 := by
  induction is generalizing s with
  | nil => exact ok
  | cons i r ih =>
    unfold runSlots
    split
    next t e =>
      have ok1 : t.MemOk := memOk_of_next e (hex i s ok)
      split
      · exact ih ok1
      · exact ok1
    · exact hex i s ok
theorem State.issue_memOk {ex : Instr → State → Out} {b : Bundle} (ok : s.MemOk) (hex : ∀ i s, s.MemOk → (ex i s).MemOk) :
    (s.issue ex b).MemOk := by
  unfold State.issue
  dsimp only
  have ran {is : List Instr} {x : Ctx} {k : Core} {pc : Word} {q : BitVec 32} {p : Fin 4 → Bool} :
      Out.MemOk (runSlots ex s.trapsOf is (((s.setCore s.cur k).setCtx x).hit s.cur 1 pc q p)).1 :=
    runSlots_memOk (State.hit_memOk (State.setCtx_memOk (State.setCore_memOk ok))) hex
  split
  · exact Out.then_memOk (hex _ _ (State.setCtx_memOk (State.setCore_memOk ok))) fun _ => State.setCtx_memOk
  next e => exact State.setCtx_memOk (State.setCtx_memOk (Out.memOk_of_pair e ran :))
  next e => exact Out.memOk_of_pair e ran
theorem State.tryWord_memOk {ex : Instr → State → Out} {w : BitVec 256} (ok : s.MemOk) (hex : ∀ a t, t.MemOk → (ex a t).MemOk) :
    (s.tryWord ex w).MemOk := by
  unfold State.tryWord
  split
  · exact State.setCtx_memOk (State.precise_memOk (State.setCtx_memOk ok))
  · refine Out.ite_memOk (State.ite_memOk (State.setCtx_memOk ok) ok) ?_
    split
    next e => exact memOk_of_some e (State.xlateHeld_memOk ok)
    next e =>
      split
      next e1 =>
        refine memOk_of_some e1 ?_
        split
        · exact State.sysHeld_memOk ok
        · exact trivial
      · split
        next e2 => exact State.setCtx_memOk (memOk_of_pair e2 (State.checkedHeld_memOk ok))
        next e2 => exact State.issue_memOk (memOk_of_pair e2 (State.checkedHeld_memOk ok)) (fun _ _ ok1 => hex _ _ ok1)
theorem State.tryIssue_memOk {ex : Instr → State → Out} (ok : s.MemOk) (hex : ∀ a t, t.MemOk → (ex a t).MemOk) :
    (s.tryIssue ex).MemOk := by
  refine Out.ite_memOk ok ?_
  split
  · exact State.tryWord_memOk ok (fun _ _ ok1 => hex _ _ ok1)
  · split
    next e => exact memOk_of_some e (State.vaHeld_memOk ok)
    next e =>
      dsimp only
      split
      · refine Out.ite_memOk (State.fill_memOk ok) ?_
        split
        · exact State.takePend_memOk (State.fill_memOk ok)
        · exact State.tryWord_memOk (State.fill_memOk ok) (fun _ _ ok1 => hex _ _ ok1)
      · exact State.fill_memOk ok
theorem State.countCycle_memOk (ok : s.MemOk) : s.countCycle.MemOk := State.setCtx_memOk ok
theorem State.boundary_memOk (ok : s.MemOk) : s.boundary.MemOk :=
  State.did_memOk (State.unless_memOk (State.did_memOk (State.did_memOk
      (State.restLoad_memOk (State.did_memOk (State.portStep_memOk (State.setCtx_memOk ok)) (fun _ => execResultLand_memOk)))
          (fun _ => execWaitEnd_memOk)) (fun _ => execWaitTimeout_memOk)) fun ok => State.did_memOk
              (State.did_memOk ok (fun _ => execTrapTake_memOk)) (fun _ => execBreakpointHit_memOk))
                  (fun _ => execPreemptTake_memOk)
theorem State.sequence_memOk {ex : Instr → State → Out} (ok : s.MemOk) (hex : ∀ a t, t.MemOk → (ex a t).MemOk) :
    (s.sequence ex).MemOk :=
  Out.ite_memOk (State.did_memOk (State.did_memOk ok (fun _ => execWaitEnd_memOk)) (fun _ => execWaitTimeout_memOk))
      (Out.ite_memOk (State.countCycle_memOk (State.boundary_memOk ok))
          (Out.then_memOk (State.tryIssue_memOk (State.countCycle_memOk (State.boundary_memOk ok)) (fun _ _ ok1 => hex _ _ ok1))
              (fun _ ok1 => State.did_memOk (State.did_memOk ok1 (fun _ => execWaitEnd_memOk)) (fun _ => execWaitTimeout_memOk))))

/-! `Sys2Proof.Machine.Auto` -/

theorem State.onRunning_memOk {r : CmdRef} {f : State → Cmd → State} (ok : s.MemOk) (hf : ∀ t a, t.MemOk → (f t a).MemOk) :
    (s.onRunning r f).MemOk := by
  unfold State.onRunning
  split
  · exact State.ite_memOk (hf _ _ ok) ok
  · exact ok
theorem State.autoMe_memOk (ok : s.MemOk) : (s.autoMe c m).MemOk := by
  unfold State.autoMe
  extract_lets r stopped s1 s2
  have pumped : s1.MemOk := by
    refine State.onRunning_memOk ok fun _ _ ok => ?_
    split
    · exact State.ite_memOk ok (State.askRows_memOk ok)
    · exact State.ite_memOk ok (State.mePort_memOk ok)
    · exact State.ite_memOk ok (State.mePort_memOk ok)
    · exact State.mePort_memOk ok
  have arrived : s2.MemOk :=
    State.onRunning_memOk pumped fun _ _ ok => foldl_memOk ok fun _ _ ok => State.did_memOk ok fun _ => execMstrrRowArrive_memOk
  exact State.did_memOk (State.did_memOk arrived fun _ => execMeRowCommit_memOk) fun _ => execMeCommandComplete_memOk
theorem State.autoGranules_memOk (ok : s.MemOk) : (s.autoGranules c m).MemOk := by
  refine foldl_memOk ok (fun _ _ ok1 => ?_)
  split
  · refine State.ite_memOk ?_ (State.did_memOk ok1 (fun _ => execXeGranuleArrive_memOk))
    split
    · exact State.did_memOk ok1 (fun _ => execTrackDataArrive_memOk)
    · exact ok1
  · exact State.did_memOk ok1 (fun _ => execXeGranuleArrive_memOk)
theorem State.commitUnits_memOk {r : CmdRef} {n : Nat} (ok : s.MemOk) : (s.commitUnits r n).MemOk := by
  induction n generalizing s with
  | zero => exact ok
  | succ n ih =>
    have done : (s.did (execXeUnitCommit r)).MemOk := State.did_memOk ok fun _ => execXeUnitCommit_memOk
    exact State.ite_memOk done (ih done)
theorem State.autoXe_memOk (ok : s.MemOk) : (s.autoXe c m).MemOk := by
  unfold State.autoXe
  refine State.did_memOk (State.did_memOk (State.commitUnits_memOk (State.onRunning_memOk
      (State.onRunning_memOk ok (fun _ _ ok1 => State.ite_memOk ok1 (State.xeAsk_memOk ok1))) (fun _ _ ok1 => ?_)))
          (fun _ => execPublishSwap_memOk)) (fun _ => execXeCommandComplete_memOk)
  split
  · exact State.ite_memOk (foldl_memOk ok1 (fun _ _ ok2 => State.did_memOk ok2 (fun _ => execXeGranuleArrive_memOk)))
        (State.autoGranules_memOk ok1)
  · exact State.ite_memOk (State.did_memOk ok1 (fun _ => execXeGranuleArrive_memOk)) ok1
theorem State.autoBlocks_memOk {t : State} {r : CmdRef} (ok : s.MemOk) : (s.autoBlocks t c m r).MemOk := by
  unfold State.autoBlocks
  dsimp only
  split
  · exact ok
  · refine State.onCmd_memOk (foldl_memOk ok (fun _ _ ok1 => State.ite_memOk
        (State.did_memOk ok1 (fun _ => execCodedBlockArrive_memOk)) ok1)) (fun _ _ ok1 => ?_)
    split
    · exact State.codedSend_memOk ok1
    · exact ok1
theorem State.autoDeliver_memOk {i : Nat} (ok : s.MemOk) : (s.autoDeliver c i m).MemOk :=
  foldl_memOk ok (fun _ _ ok1 => State.onRun_memOk ok1 (fun _ _ _ _ ok2 => State.ite_memOk (State.deliver_memOk ok2) ok2))
theorem State.autoCoded_memOk {t : State} (ok : s.MemOk) : (s.autoCoded t c m).MemOk := by
  refine State.did_memOk (State.ite_memOk (State.ite_memOk ok (State.did_memOk ok (fun _ => execFiResponseArrive_memOk))) ?_)
      (fun _ => execCodedTimeout_memOk)
  split
  · exact State.ite_memOk (State.ite_memOk (State.did_memOk ok (fun _ => execFiResponseArrive_memOk)) ok)
        (State.ite_memOk (State.did_memOk ok (fun _ => execCmsetMatch_memOk)) ok)
  · exact ok
  · exact ok
  · exact State.ite_memOk (State.did_memOk ok (fun _ => execFiResponseArrive_memOk)) ok
  · exact State.ite_memOk (State.did_memOk (State.did_memOk (State.autoDeliver_memOk (State.autoBlocks_memOk ok))
        (fun _ => execCodedSettle_memOk)) (fun _ => execFiResponseArrive_memOk))
            (State.did_memOk ok (fun _ => execFiResponseArrive_memOk))
theorem State.autoUnits_memOk (ok : s.MemOk) : (s.autoUnits c m).MemOk := by
  unfold State.autoUnits
  dsimp only
  refine State.ite_memOk ok ?_
  split
  · split
    · exact State.fiLeave_memOk ok
    · exact ok
  · refine State.ite_memOk (State.did_memOk ok fun _ => execFiResponseArrive_memOk) ?_
    split
    · exact State.ite_memOk ok (State.did_memOk (State.did_memOk ok fun _ => execRenqArrive_memOk) fun _ =>
          execFiResponseArrive_memOk)
    · refine foldl_memOk ok fun _ _ ok => State.ite_memOk ok ?_
      split
      · exact ok
      · refine State.did_memOk (State.did_memOk ok fun _ ok => ?_) fun _ => execFiResponseArrive_memOk
        split
        · exact execLinkUnitArrive_memOk ok
        · exact execFiRequestArrive_memOk ok
theorem State.autoFi_memOk (ok : s.MemOk) : (s.autoFi c m).MemOk :=
  State.ite_memOk (State.autoCoded_memOk ok) (State.ite_memOk (State.did_memOk
      (State.did_memOk (State.ite_memOk ok (State.onCmd_memOk ok (fun _ _ => State.putCmd_memOk)))
          (fun _ => execReleasePerform_memOk)) (fun _ => execEgputTimeout_memOk)) (State.autoUnits_memOk ok))
theorem State.autoCmd_memOk {q : Nat} (ok : s.MemOk) : (s.autoCmd c q).MemOk := by
  unfold State.autoCmd
  dsimp only
  split
  · exact State.did_memOk ok (fun _ => execScoreboardRelease_memOk)
  · refine State.did_memOk (foldl_memOk ?_ (fun _ _ ok1 => State.did_memOk ok1 (fun _ => execFabricTimeout_memOk)))
        (fun _ => execEngineFault_memOk)
    split
    · exact State.did_memOk (State.did_memOk ok (fun _ => execScoreboardRelease_memOk)) (fun _ => execEngineWaitSatisfied_memOk)
    · exact State.did_memOk (State.did_memOk ok (fun _ => execScoreboardRelease_memOk)) (fun _ => execFlagPerform_memOk)
    · exact State.did_memOk (State.did_memOk ok (fun _ => execScoreboardRelease_memOk)) (fun _ => execFlagPerform_memOk)
    · exact State.did_memOk (State.did_memOk ok (fun _ => execScoreboardRelease_memOk)) (fun _ => execFlagPerform_memOk)
    · exact State.did_memOk (State.did_memOk ok (fun _ => execScoreboardRelease_memOk)) (fun _ => execFlagPerform_memOk)
    · exact State.autoMe_memOk (State.did_memOk ok (fun _ => execScoreboardRelease_memOk))
    · exact State.did_memOk (State.did_memOk (State.onRunning_memOk (State.did_memOk ok (fun _ => execScoreboardRelease_memOk))
          (fun _ _ => State.ceMove_memOk)) (fun _ => execChainBlockCommit_memOk)) (fun _ => execChainCommandComplete_memOk)
    · exact State.autoXe_memOk (State.did_memOk ok (fun _ => execScoreboardRelease_memOk))
    · exact State.autoFi_memOk (State.did_memOk ok (fun _ => execScoreboardRelease_memOk))
    · exact State.did_memOk (State.did_memOk ok (fun _ => execScoreboardRelease_memOk)) (fun _ => execFlagPerform_memOk)
theorem State.autoAcc_memOk {g : GAcc} (ok : s.MemOk) : (s.autoAcc c g).MemOk := by
  refine State.ite_memOk ok (State.ite_memOk (State.did_memOk ok (fun _ => execFabricTimeout_memOk)) ?_)
  split
  · exact State.did_memOk ok (fun _ => execLdgReturn_memOk)
  · exact State.did_memOk ok (fun _ => execStgAck_memOk)
  · exact State.did_memOk ok (fun _ => execGlobalAtomicReturn_memOk)
theorem State.autoWin_memOk {s0 : State} (ok : s0.MemOk) : (s0.autoWin c).MemOk := by
  refine foldl_memOk (State.lane_memOk ok) (fun _ _ ok1 => ?_)
  split
  · exact State.did_memOk ok1 (fun _ => execWindowUnitLand_memOk)
  · exact ok1
theorem State.autoPkts_memOk (ok : s.MemOk) : (s.autoPkts c).MemOk :=
  foldl_memOk (foldl_memOk ok (fun _ _ ok1 => State.when_memOk (State.did_memOk ok1 (fun _ => execResendBackoffExpiry_memOk))
      fun ok => State.did_memOk ok (fun _ => execReadyNotice_memOk))) (fun _ _ ok1 => State.did_memOk ok1
          (fun _ => execReplyRelease_memOk))
theorem State.autoSaved_memOk (ok : s.MemOk) : (s.autoSaved c).MemOk :=
  foldl_memOk ok (fun _ _ ok1 => foldl_memOk ok1 (fun _ _ => State.autoCoded_memOk))
theorem State.autoJoins_memOk (ok : s.MemOk) : (s.autoJoins c).MemOk :=
  State.ite_memOk ok (foldl_memOk ok (fun _ _ ok1 => State.did_memOk ok1 (fun _ => execJoinReady_memOk)))
theorem State.autoCmds_memOk (ok : s.MemOk) : (s.autoCmds c).MemOk :=
  foldl_memOk (foldl_memOk (State.cePort_memOk (foldl_memOk ok (fun _ _ => State.autoCmd_memOk)))
      (fun _ _ ok1 => foldl_memOk ok1 (fun _ _ => State.autoCmd_memOk)))
          (fun _ _ ok1 => State.did_memOk ok1 (fun _ => execScoreboardRelease_memOk))
theorem State.autoCore_memOk (ok : s.MemOk) : (s.autoCore c).MemOk := by
  unfold State.autoCore
  exact State.did_memOk (State.did_memOk (State.did_memOk (State.autoJoins_memOk
      (State.unless_memOk (State.autoSaved_memOk (State.autoPkts_memOk
          (State.autoWin_memOk (foldl_memOk (State.autoCmds_memOk ok) (fun _ _ => State.autoAcc_memOk))))) fun ok => foldl_memOk
              ok (fun _ _ ok1 => State.did_memOk ok1 (fun _ => execInboxDequeue_memOk)))) (fun _ => execContextRetire_memOk))
                  (fun _ => execContextSaved_memOk)) (fun _ => execContextResume_memOk)
theorem State.wakeStep_memOk {k : Fin 16} (ok : s.MemOk) : (s.wakeStep k).MemOk := by
  refine State.ite_memOk ok ?_
  split
  · exact ok
  · exact State.ite_memOk (State.did_memOk ok (fun _ => execClusterWake_memOk)) ok
theorem State.autoNode_memOk (ok : s.MemOk) : s.autoNode.MemOk := by
  unfold State.autoNode
  refine State.did_memOk ?_ fun _ => execWatchdogExpiry_memOk
  refine foldl_memOk ?_ fun _ _ ok => State.when_memOk (State.when_memOk ok fun ok => State.did_memOk ok fun _ =>
      execInvalComplete_memOk)
    fun ok => State.did_memOk ok fun _ => execFlrDrainDone_memOk
  refine State.did_memOk ?_ fun _ => execSchedLapBoundary_memOk
  refine foldl_memOk ?_ fun _ _ ok => State.did_memOk ok fun _ => execAgeExpiry_memOk
  refine State.unless_memOk ?_ fun ok => foldl_memOk ok fun _ _ ok =>
    State.did_memOk (State.did_memOk ok fun _ => execNestComplete_memOk) fun _ => execAgeExpiry_memOk
  refine State.unless_memOk ?_ fun ok => foldl_memOk ok fun _ _ => State.wakeStep_memOk
  refine State.unless_memOk ?_ fun ok => foldl_memOk ok fun _ _ ok => ?place
  case place =>
    dsimp only
    split
    · exact State.did_memOk ok fun _ => execNestGrant_memOk
    · exact State.did_memOk ok fun _ => execCorePlace_memOk
  refine State.unless_memOk ?_ fun ok => State.did_memOk ok fun _ => execLaunchTake_memOk
  refine foldr_memOk ?_ fun _ _ ok => State.did_memOk ok fun _ => execPageWalkDone_memOk
  refine foldl_memOk ?_ fun _ _ => State.walkStep_memOk
  refine foldl_memOk ?_ fun _ _ ok => ?track
  case track =>
    split
    · exact State.did_memOk ok fun _ => execTrackDataArrive_memOk
    · exact ok
  refine State.when_memOk ?_ fun ok => foldl_memOk ok fun _ _ ok => State.did_memOk ok fun _ => execTrackSpace_memOk
  exact foldl_memOk (State.did_memOk ok fun _ => execTrackLapBoundary_memOk) fun _ _ => State.foreignLane_memOk
theorem State.cycle_memOk {ex : Instr → State → Out} (ok : s.MemOk) (hex : ∀ i s, s.MemOk → (ex i s).MemOk) :
    (s.cycle ex).MemOk := by
  have node {u : State} (ok : u.MemOk) : State.MemOk { u with now := u.now + 1, cur := 0, sent := [] } := ok
  have turn {u : State} {d : CoreId} (ok : u.MemOk) : State.MemOk { u with cur := d } := ok
  unfold State.cycle
  exact Out.then_memOk (State.sequence_memOk ok hex) fun t ok =>
    Out.ite_memOk (node (State.autoNode_memOk (State.autoCore_memOk ok))) (turn (State.autoCore_memOk ok))

/-! `Sys2Proof.Machine.Control` -/

theorem State.transfer_memOk {g : Guard} {tgt : Word} {pops : Bool} {f : Ctx → Ctx} (ok : s.MemOk) :
    (s.transfer g tgt pops f).MemOk :=
  Out.ite_memOk ok (Out.ite_memOk (State.precise_memOk ok) (Out.ite_memOk (State.precise_memOk ok) (State.setCtx_memOk ok)))
theorem execBr_memOk {x : Br} (ok : s.MemOk) : (execBr x s).MemOk := State.transfer_memOk ok
theorem execJr_memOk {x : Jr} (ok : s.MemOk) : (execJr x s).MemOk := State.transfer_memOk ok
theorem execCall_memOk {x : Call} (ok : s.MemOk) : (execCall x s).MemOk := State.transfer_memOk ok
theorem execCallr_memOk {x : Callr} (ok : s.MemOk) : (execCallr x s).MemOk := State.transfer_memOk ok
theorem execRet_memOk {x : Jr} (ok : s.MemOk) : (execRet x s).MemOk := State.transfer_memOk ok
theorem State.openLoop_memOk {g : Guard} {n : Nat} {disp : BitVec 16} (ok : s.MemOk) : (s.openLoop g n disp).MemOk :=
  Out.ite_memOk ok (Out.ite_memOk (State.precise_memOk ok) (Out.ite_memOk (State.precise_memOk ok)
      (Out.ite_memOk (State.precise_memOk ok) (Out.ite_memOk (State.transfer_memOk ok) (State.setCtx_memOk ok)))))
theorem execLoop_memOk {x : Loop} (ok : s.MemOk) : (execLoop x s).MemOk := State.openLoop_memOk ok
theorem execLoopi_memOk {x : Loopi} (ok : s.MemOk) : (execLoopi x s).MemOk := State.openLoop_memOk ok
theorem State.pred_memOk {g : Guard} {d : Fin 8} {v : Bool} (ok : s.MemOk) : (s.pred g d v).MemOk := State.alu_memOk ok
theorem State.pbin_memOk {x : PBin} {f : Bool → Bool → Bool} (ok : s.MemOk) : (s.pbin x f).MemOk := State.pred_memOk ok
theorem execPand_memOk {x : PBin} (ok : s.MemOk) : (execPand x s).MemOk := State.pbin_memOk ok
theorem execPor_memOk {x : PBin} (ok : s.MemOk) : (execPor x s).MemOk := State.pbin_memOk ok
theorem execPxor_memOk {x : PBin} (ok : s.MemOk) : (execPxor x s).MemOk := State.pbin_memOk ok
theorem execPnot_memOk {x : PUna} (ok : s.MemOk) : (execPnot x s).MemOk := State.pred_memOk ok
theorem execPmov_memOk {x : PUna} (ok : s.MemOk) : (execPmov x s).MemOk := State.pred_memOk ok
theorem execEseq_memOk {x : Eseq} (ok : s.MemOk) : (execEseq x s).MemOk := State.alu_memOk ok
theorem State.live_memOk {g : Guard} {f : Ctx → Ctx} (ok : s.MemOk) : (s.live g f).MemOk :=
  Out.ite_memOk (State.setCtx_memOk ok) ok
theorem execLiveNone_memOk {g : Guard} (ok : s.MemOk) : (execLiveNone g s).MemOk := State.live_memOk ok
theorem execLiveAll_memOk {g : Guard} (ok : s.MemOk) : (execLiveAll g s).MemOk := State.live_memOk ok
theorem execLiveS_memOk {x : LiveA} (ok : s.MemOk) : (execLiveS x s).MemOk := State.live_memOk ok
theorem execLiveT_memOk {x : LiveA} (ok : s.MemOk) : (execLiveT x s).MemOk := State.live_memOk ok
theorem execLiveR_memOk {x : LiveR} (ok : s.MemOk) : (execLiveR x s).MemOk :=
  Out.ite_memOk ok (Out.ite_memOk (State.precise_memOk ok) (Out.ite_memOk (State.precise_memOk ok) (State.setCtx_memOk ok)))
theorem execLiveRclr_memOk {g : Guard} (ok : s.MemOk) : (execLiveRclr g s).MemOk := State.live_memOk ok
theorem execEndCtx_memOk {x : LiveA} (ok : s.MemOk) : (execEndCtx x s).MemOk := Out.ite_memOk (State.setCtx_memOk ok) ok

/-! The dispatch and the step -/

theorem exec_memOk (i : Instr) (ok : s.MemOk) : Out.MemOk (exec i s) := by
  cases i with
  | nop _ | fence _ | flitCrcFail _ => exact ok
  | add _ => exact execAdd_memOk ok
  | sub _ => exact execSub_memOk ok
  | neg _ => exact execNeg_memOk ok
  | and _ => exact execAnd_memOk ok
  | or _ => exact execOr_memOk ok
  | xor _ => exact execXor_memOk ok
  | andn _ => exact execAndn_memOk ok
  | shl _ => exact execShl_memOk ok
  | shr _ => exact execShr_memOk ok
  | sra _ => exact execSra_memOk ok
  | rotl _ => exact execRotl_memOk ok
  | clz _ => exact execClz_memOk ok
  | ctz _ => exact execCtz_memOk ok
  | popc _ => exact execPopc_memOk ok
  | bfx _ => exact execBfx_memOk ok
  | bfxn _ => exact execBfxn_memOk ok
  | bfi _ => exact execBfi_memOk ok
  | min _ => exact execMin_memOk ok
  | max _ => exact execMax_memOk ok
  | minn _ => exact execMinn_memOk ok
  | maxn _ => exact execMaxn_memOk ok
  | sel _ => exact execSel_memOk ok
  | cmp _ => exact execCmp_memOk ok
  | mov _ => exact execMov_memOk ok
  | lea _ => exact execLea_memOk ok
  | addi _ => exact execAddi_memOk ok
  | andi _ => exact execAndi_memOk ok
  | ori _ => exact execOri_memOk ok
  | xori _ => exact execXori_memOk ok
  | cmpi _ => exact execCmpi_memOk ok
  | movi _ => exact execMovi_memOk ok
  | movl _ => exact execMovl_memOk ok
  | mul _ => exact execMul_memOk ok
  | mulh _ => exact execMulh_memOk ok
  | mulhn _ => exact execMulhn_memOk ok
  | div _ => exact execDiv_memOk ok
  | divn _ => exact execDivn_memOk ok
  | rem _ => exact execRem_memOk ok
  | remn _ => exact execRemn_memOk ok
  | fadd _ => exact execFadd_memOk ok
  | fsub _ => exact execFsub_memOk ok
  | fmul _ => exact execFmul_memOk ok
  | ffma _ => exact execFfma_memOk ok
  | fdiv _ => exact execFdiv_memOk ok
  | fsqrt _ => exact execFsqrt_memOk ok
  | fmin _ => exact execFmin_memOk ok
  | fmax _ => exact execFmax_memOk ok
  | fcmp _ => exact execFcmp_memOk ok
  | fcvt _ => exact execFcvt_memOk ok
  | fclass _ => exact execFclass_memOk ok
  | ld _ => exact execLd_memOk ok
  | ldn _ => exact execLdn_memOk ok
  | st _ => exact execSt_memOk ok
  | ldg _ => exact execLdg_memOk ok
  | stg _ => exact execStg_memOk ok
  | prf _ => exact execPrf_memOk ok
  | aadd _ => exact execAadd_memOk ok
  | aand _ => exact execAand_memOk ok
  | aor _ => exact execAor_memOk ok
  | axor _ => exact execAxor_memOk ok
  | amin _ => exact execAmin_memOk ok
  | amax _ => exact execAmax_memOk ok
  | aminn _ => exact execAminn_memOk ok
  | amaxn _ => exact execAmaxn_memOk ok
  | axchg _ => exact execAxchg_memOk ok
  | acas _ => exact execAcas_memOk ok
  | afadd _ => exact execAfadd_memOk ok
  | afmax _ => exact execAfmax_memOk ok
  | pushm _ => exact execPushm_memOk ok
  | popm _ => exact execPopm_memOk ok
  | br _ => exact execBr_memOk ok
  | jr _ => exact execJr_memOk ok
  | call _ => exact execCall_memOk ok
  | callr _ => exact execCallr_memOk ok
  | ret _ => exact execRet_memOk ok
  | loop _ => exact execLoop_memOk ok
  | loopi _ => exact execLoopi_memOk ok
  | pand _ => exact execPand_memOk ok
  | por _ => exact execPor_memOk ok
  | pxor _ => exact execPxor_memOk ok
  | pnot _ => exact execPnot_memOk ok
  | pmov _ => exact execPmov_memOk ok
  | wait _ => exact execWait_memOk ok
  | waitQ _ => exact execWaitQ_memOk ok
  | fset _ => exact execFset_memOk ok
  | finc _ => exact execFinc_memOk ok
  | fclr _ => exact execFclr_memOk ok
  | fget _ => exact execFget_memOk ok
  | eseq _ => exact execEseq_memOk ok
  | liveNone _ => exact execLiveNone_memOk ok
  | liveAll _ => exact execLiveAll_memOk ok
  | liveS _ => exact execLiveS_memOk ok
  | liveT _ => exact execLiveT_memOk ok
  | liveR _ => exact execLiveR_memOk ok
  | liveRclr _ => exact execLiveRclr_memOk ok
  | endCtx _ => exact execEndCtx_memOk ok
  | mld _ => exact execMld_memOk ok
  | mldsp _ => exact execMldsp_memOk ok
  | mstr _ => exact execMstr_memOk ok
  | mstrr _ => exact execMstrr_memOk ok
  | mzero _ => exact execMzero_memOk ok
  | mdrain _ => exact execMdrain_memOk ok
  | mcfg _ => exact execMcfg_memOk ok
  | mpip _ => exact execMpip_memOk ok
  | mabort _ => exact execMabort_memOk ok
  | chbind _ => exact execChbind_memOk ok
  | chkv _ => exact execChkv_memOk ok
  | chlink _ => exact execChlink_memOk ok
  | chmask _ => exact execChmask_memOk ok
  | chfin _ => exact execChfin_memOk ok
  | chsave _ => exact execChsave_memOk ok
  | chrest _ => exact execChrest_memOk ok
  | chstat _ => exact execChstat_memOk ok
  | chdrop _ => exact execChdrop_memOk ok
  | xcopy _ => exact execXcopy_memOk ok
  | xlist _ => exact execXlist_memOk ok
  | xget _ => exact execXget_memOk ok
  | xput _ => exact execXput_memOk ok
  | xfill _ => exact execXfill_memOk ok
  | xtrans _ => exact execXtrans_memOk ok
  | xpub _ => exact execXpub_memOk ok
  | xmap _ => exact execXmap_memOk ok
  | xmcast _ => exact execXmcast_memOk ok
  | xextAdd _ => exact execXextAdd_memOk ok
  | xextRelease _ => exact execXextRelease_memOk ok
  | rld _ => exact execRld_memOk ok
  | rst _ => exact execRst_memOk ok
  | ratomAdd _ => exact execRatomAdd_memOk ok
  | ratomAnd _ => exact execRatomAnd_memOk ok
  | ratomOr _ => exact execRatomOr_memOk ok
  | ratomXor _ => exact execRatomXor_memOk ok
  | ratomMin _ => exact execRatomMin_memOk ok
  | ratomMax _ => exact execRatomMax_memOk ok
  | ratomMinn _ => exact execRatomMinn_memOk ok
  | ratomMaxn _ => exact execRatomMaxn_memOk ok
  | ratomXchg _ => exact execRatomXchg_memOk ok
  | ratomCas _ => exact execRatomCas_memOk ok
  | ratomFadd _ => exact execRatomFadd_memOk ok
  | ratomFmax _ => exact execRatomFmax_memOk ok
  | renq _ => exact execRenq_memOk ok
  | rflagSet _ => exact execRflagSet_memOk ok
  | rflagInc _ => exact execRflagInc_memOk ok
  | rflagClr _ => exact execRflagClr_memOk ok
  | lbufBind _ => exact execLbufBind_memOk ok
  | lbufRelease _ => exact execLbufRelease_memOk ok
  | cmset _ => exact execCmset_memOk ok
  | cmsetClose _ => exact execCmsetClose_memOk ok
  | cmheld _ => exact execCmheld_memOk ok
  | cmheldClr _ => exact execCmheldClr_memOk ok
  | cmdec _ => exact execCmdec_memOk ok
  | cmdecRel _ => exact execCmdecRel_memOk ok
  | cmgath _ => exact execCmgath_memOk ok
  | cmshuf _ => exact execCmshuf_memOk ok
  | cmpol _ => exact execCmpol_memOk ok
  | cmstat _ => exact execCmstat_memOk ok
  | nest _ => exact execNest_memOk ok
  | spawn _ => exact execSpawn_memOk ok
  | join _ => exact execJoin_memOk ok
  | ecinit _ => exact execEcinit_memOk ok
  | ecdone _ => exact execEcdone_memOk ok
  | egput _ => exact execEgput_memOk ok
  | egrel _ => exact execEgrel_memOk ok
  | egdrop _ => exact execEgdrop_memOk ok
  | prio _ => exact execPrio_memOk ok
  | yield _ => exact execYield_memOk ok
  | trap _ => exact execTrap_memOk ok
  | rte _ => exact execRte_memOk ok
  | rteDrop _ => exact execRteDrop_memOk ok
  | sysrd _ => exact execSysrd_memOk ok
  | syswr _ => exact execSyswr_memOk ok
  | ctxsave _ => exact execCtxsave_memOk ok
  | ctxrest _ => exact execCtxrest_memOk ok
  | dump _ => exact execDump_memOk ok
  | bkpt _ => exact execBkpt_memOk ok
  | trace _ => exact execTrace_memOk ok
  | jrd _ => exact execJrd_memOk ok
  | vadd _ => exact execVadd_memOk ok
  | vsub _ => exact execVsub_memOk ok
  | vmul _ => exact execVmul_memOk ok
  | vfma _ => exact execVfma_memOk ok
  | vfms _ => exact execVfms_memOk ok
  | vmin _ => exact execVmin_memOk ok
  | vmax _ => exact execVmax_memOk ok
  | vabs _ => exact execVabs_memOk ok
  | vneg _ => exact execVneg_memOk ok
  | vand _ => exact execVand_memOk ok
  | vor _ => exact execVor_memOk ok
  | vxor _ => exact execVxor_memOk ok
  | vshl _ => exact execVshl_memOk ok
  | vshr _ => exact execVshr_memOk ok
  | vsra _ => exact execVsra_memOk ok
  | vcmp _ => exact execVcmp_memOk ok
  | vsel _ => exact execVsel_memOk ok
  | vmov _ => exact execVmov_memOk ok
  | vbcast _ => exact execVbcast_memOk ok
  | vlane _ => exact execVlane_memOk ok
  | viota _ => exact execViota_memOk ok
  | vcvt _ => exact execVcvt_memOk ok
  | vquant _ => exact execVquant_memOk ok
  | vdequant _ => exact execVdequant_memOk ok
  | vwadd _ => exact execVwadd_memOk ok
  | vwmul _ => exact execVwmul_memOk ok
  | vscan _ => exact execVscan_memOk ok
  | vred _ => exact execVred_memOk ok
  | vperm _ => exact execVperm_memOk ok
  | vrot _ => exact execVrot_memOk ok
  | vshuf _ => exact execVshuf_memOk ok
  | vpopc _ => exact execVpopc_memOk ok
  | vld _ => exact execVld_memOk ok
  | vst _ => exact execVst_memOk ok
  | vldt _ => exact execVldt_memOk ok
  | vstt _ => exact execVstt_memOk ok
  | vldm _ => exact execVldm_memOk ok
  | vstm _ => exact execVstm_memOk ok
  | vexp2 _ => exact execVexp2_memOk ok
  | vlog2 _ => exact execVlog2_memOk ok
  | vrcp _ => exact execVrcp_memOk ok
  | vrsqrt _ => exact execVrsqrt_memOk ok
  | vtanh _ => exact execVtanh_memOk ok
  | vsigm _ => exact execVsigm_memOk ok
  | vtbl _ => exact execVtbl_memOk ok
  | vtbld _ => exact execVtbld_memOk ok
  | vtbsw _ => exact execVtbsw_memOk ok
  | vsmax _ => exact execVsmax_memOk ok
  | vsexp _ => exact execVsexp_memOk ok
  | vsdiv _ => exact execVsdiv_memOk ok
  | vmstat _ => exact execVmstat_memOk ok
  | vpart _ => exact execVpart_memOk ok
  | vgath _ => exact execVgath_memOk ok
  | vscat _ => exact execVscat_memOk ok
  | formatRegWrite _ => exact execFormatRegWrite_memOk ok
  | trctlWrite _ => exact execTrctlWrite_memOk ok
  | bpcWrite _ => exact execBpcWrite_memOk ok
  | xstatRead _ => exact execXstatRead_memOk ok
  | fistatRead _ => exact execFistatRead_memOk ok
  | resultLand _ => exact execResultLand_memOk ok
  | ibufFill _ => exact execIbufFill_memOk ok
  | checkedModeEval _ => exact execCheckedModeEval_memOk ok
  | waitEnd _ => exact execWaitEnd_memOk ok
  | waitTimeout _ => exact execWaitTimeout_memOk ok
  | engineWaitSatisfied _ => exact execEngineWaitSatisfied_memOk ok
  | flagPerform _ => exact execFlagPerform_memOk ok
  | scoreboardRelease _ => exact execScoreboardRelease_memOk ok
  | meRowCommit _ => exact execMeRowCommit_memOk ok
  | meCommandComplete _ => exact execMeCommandComplete_memOk ok
  | mstrrRowArrive _ => exact execMstrrRowArrive_memOk ok
  | chainBlockCommit _ => exact execChainBlockCommit_memOk ok
  | chainCommandComplete _ => exact execChainCommandComplete_memOk ok
  | xeGranuleArrive _ => exact execXeGranuleArrive_memOk ok
  | xeUnitCommit _ => exact execXeUnitCommit_memOk ok
  | xeCommandComplete _ => exact execXeCommandComplete_memOk ok
  | publishSwap _ => exact execPublishSwap_memOk ok
  | windowUnitLand _ => exact execWindowUnitLand_memOk ok
  | trackSpace _ => exact execTrackSpace_memOk ok
  | trackLapBoundary => exact execTrackLapBoundary_memOk ok
  | trackDataArrive _ => exact execTrackDataArrive_memOk ok
  | refreshRetry _ _ => exact execRefreshRetry_memOk ok
  | pageWalkDone _ => exact execPageWalkDone_memOk ok
  | ldgReturn _ => exact execLdgReturn_memOk ok
  | stgAck _ => exact execStgAck_memOk ok
  | globalAtomicReturn _ => exact execGlobalAtomicReturn_memOk ok
  | fiRequestArrive _ => exact execFiRequestArrive_memOk ok
  | fiResponseArrive _ => exact execFiResponseArrive_memOk ok
  | packetTrim _ => exact execPacketTrim_memOk ok
  | resendRequest _ => exact execResendRequest_memOk ok
  | resendBackoffExpiry _ => exact execResendBackoffExpiry_memOk ok
  | fibreFail _ => exact execFibreFail_memOk ok
  | spareSwitchDone _ => exact execSpareSwitchDone_memOk ok
  | fabricTimeout _ => exact execFabricTimeout_memOk ok
  | readyNotice _ => exact execReadyNotice_memOk ok
  | replyRelease _ => exact execReplyRelease_memOk ok
  | linkUnitArrive _ => exact execLinkUnitArrive_memOk ok
  | renqArrive _ => exact execRenqArrive_memOk ok
  | inboxDequeue _ _ => exact execInboxDequeue_memOk ok
  | cmsetMatch _ _ => exact execCmsetMatch_memOk ok
  | codedBarrier _ => exact execCodedBarrier_memOk ok
  | announceStore _ => exact execAnnounceStore_memOk ok
  | routerFork _ _ => exact execRouterFork_memOk ok
  | forkSplit _ => exact execForkSplit_memOk ok
  | forkCopyArrive _ => exact execForkCopyArrive_memOk ok
  | fallbackRequest _ => exact execFallbackRequest_memOk ok
  | codedBlockArrive _ => exact execCodedBlockArrive_memOk ok
  | blockAckArrive _ => exact execBlockAckArrive_memOk ok
  | codedSettle _ => exact execCodedSettle_memOk ok
  | codedTimeout _ => exact execCodedTimeout_memOk ok
  | tailWrite _ => exact execTailWrite_memOk ok
  | launchTake => exact execLaunchTake_memOk ok
  | nestGrant _ _ => exact execNestGrant_memOk ok
  | nestComplete _ => exact execNestComplete_memOk ok
  | contextRetire _ => exact execContextRetire_memOk ok
  | joinReady _ _ => exact execJoinReady_memOk ok
  | releasePerform _ => exact execReleasePerform_memOk ok
  | schedLapBoundary => exact execSchedLapBoundary_memOk ok
  | corePlace _ => exact execCorePlace_memOk ok
  | lendMessage _ _ => exact execLendMessage_memOk ok
  | ageExpiry _ => exact execAgeExpiry_memOk ok
  | preemptRequest _ => exact execPreemptRequest_memOk ok
  | preemptTake _ => exact execPreemptTake_memOk ok
  | contextSaved _ => exact execContextSaved_memOk ok
  | contextResume _ => exact execContextResume_memOk ok
  | engineFault _ => exact execEngineFault_memOk ok
  | trapTake _ => exact execTrapTake_memOk ok
  | breakpointHit _ => exact execBreakpointHit_memOk ok
  | droopDetect _ _ => exact execDroopDetect_memOk ok
  | tqcmdResume _ _ => exact execTqcmdResume_memOk ok
  | tqcmdResumeDrop _ _ => exact execTqcmdResumeDrop_memOk ok
  | tqcmdKill _ _ => exact execTqcmdKill_memOk ok
  | tqcmdRelease _ _ => exact execTqcmdRelease_memOk ok
  | frst _ => exact execFrst_memOk ok
  | flrDrainDone _ => exact execFlrDrainDone_memOk ok
  | inval _ => exact execInval_memOk ok
  | invalComplete _ => exact execInvalComplete_memOk ok
  | limitsWrite _ => exact execLimitsWrite_memOk ok
  | ownerMapWrite _ => exact execOwnerMapWrite_memOk ok
  | torusWrite _ => exact execTorusWrite_memOk ok
  | pboxWrite _ => exact execPboxWrite_memOk ok
  | phltClear _ _ => exact execPhltClear_memOk ok
  | phltSet _ _ => exact execPhltSet_memOk ok
  | flagWindowSet _ => exact execFlagWindowSet_memOk ok
  | flagWindowInc _ => exact execFlagWindowInc_memOk ok
  | flagWindowClr _ => exact execFlagWindowClr_memOk ok
  | lqWrite _ => exact execLqWrite_memOk ok
  | eqWrite _ => exact execEqWrite_memOk ok
  | grantWrite _ => exact execGrantWrite_memOk ok
  | eqctlWrite _ => exact execEqctlWrite_memOk ok
  | headWrite _ => exact execHeadWrite_memOk ok
  | egressSlotRead _ _ _ => exact execEgressSlotRead_memOk ok
  | key _ => exact execKey_memOk ok
  | admitImg _ _ => exact execAdmit_memOk ok
  | withdraw _ => exact execWithdraw_memOk ok
  | attest _ => exact execAttest_memOk ok
  | extent _ _ => exact execExtent_memOk ok
  | mailboxDone _ => exact execMailboxDone_memOk ok
  | firmwareExtentAnswer _ _ => exact execFirmwareExtentAnswer_memOk ok
  | poolLinkDown _ => exact execPoolLinkDown_memOk ok
  | watchdogWrite _ => exact execWatchdogWrite_memOk ok
  | watchdogExpiry => exact execWatchdogExpiry_memOk ok
  | powerGood => exact execPowerGood_memOk ok
  | thermalThrottle _ _ => exact execThermalThrottle_memOk ok
  | trip => exact execTrip_memOk ok
  | tripRelease => exact execTripRelease_memOk ok
  | clusterWake _ => exact execClusterWake_memOk ok
  | patrolScrub _ => exact execPatrolScrub_memOk ok
  | registerWrite _ => exact execRegisterWrite_memOk ok
  | throttleRelease _ => exact execThrottleRelease_memOk ok
  | poolLinkUp _ => exact execPoolLinkUp_memOk ok
  | egputTimeout _ => exact execEgputTimeout_memOk ok
  | announcementWithdraw _ _ => exact execAnnouncementWithdraw_memOk ok

theorem step_memOk (ok : s.MemOk) : Out.MemOk (step s) := by
  unfold step
  split
  · exact exec_memOk _ ok
  · exact State.cycle_memOk ok fun i _ ok => exec_memOk i ok

/-- Settles O60: every arm of the dispatch keeps the form, and with it a step, which performs the agenda's next entry or a cycle. -/
theorem memoryStaysCanonical : Obligations.MemoryStaysCanonical := by
  unfold Obligations.MemoryStaysCanonical
  exact ⟨fun i _ _ ok e => memOk_of_next e (exec_memOk i ok), fun _ _ ok e => memOk_of_next e (step_memOk ok)⟩

end Sys2Proof.Machine
end

section
/-! O47: the events of issue. Commands start, an engine reports its fault, a bundle is fetched, checked mode is evaluated, registers
are written and read; one lemma per clause of the obligation, over lemmas that say what each model function does with the state. -/

namespace Sys2Proof.Machine

/-! A command that is put back is found where it stood. -/

theorem Ctx.cmd?_facts {x : Ctx} {q : Nat} {m : Cmd} (h : x.cmd? q = some m) : m.seq.toNat = q ∧ m.done = false := by
  unfold Ctx.cmd? at h
  simpa using List.find?_some h

theorem find?_replaced {q : Nat} {m m' : Cmd} (hq : m.seq.toNat = q) (hs : m'.seq = m.seq) (hd : m'.done = false) {l : List Cmd}
    (h : l.find? (fun e => e.seq.toNat == q && !e.done) = some m) :
    (l.map (fun e => if e.seq == m'.seq then m' else e)).find? (fun e => e.seq.toNat == q && !e.done) = some m' := by
  induction l with
  | nil => cases h
  | cons e es ih =>
    rw [List.find?_cons] at h
    rw [List.map_cons, List.find?_cons]
    by_cases he : e.seq = m.seq
    · simp [he, hs, hq, hd]
    · rw [if_neg (by simpa [hs] using he)]
      split at h
      · cases h; exact absurd rfl he
      · exact ih h

theorem Ctx.cmd?_setCmd {x : Ctx} {q : Nat} {m m' : Cmd} (h : x.cmd? q = some m) (hs : m'.seq = m.seq) (hd : m'.done = false) :
    (x.setCmd m').cmd? q = some m' :=
  find?_replaced (Ctx.cmd?_facts h).1 hs hd h

@[simp] theorem State.ctxOf_putCmd (s : State) (c : CoreId) (m : Cmd) : (s.putCmd c m).ctxOf c = (s.ctxOf c).setCmd m :=
  State.ctxOf_setCtxOf s c _

theorem State.cmd?_eq_some {s : State} {r : CmdRef} {m : Cmd} :
    s.cmd? r = some m ↔ ¬(r.ctx != 0 && (s.ctxOf r.core).serial != r.ctx) = true ∧ (s.ctxOf r.core).cmd? r.seq = some m := by
  unfold State.cmd?
  split <;> simp_all

theorem State.cmd?_done {s : State} {r : CmdRef} {m : Cmd} (h : s.cmd? r = some m) : m.done = false :=
  (Ctx.cmd?_facts (State.cmd?_eq_some.1 h).2).2

theorem State.cmd?_putCmd {s : State} {r : CmdRef} {m m' : Cmd} (h : s.cmd? r = some m) (hs : m'.seq = m.seq)
    (hd : m'.done = m.done) : (s.putCmd r.core m').cmd? r = some m' := by
  obtain ⟨hctx, hm⟩ := State.cmd?_eq_some.1 h
  rw [State.cmd?_eq_some, State.ctxOf_putCmd]
  exact ⟨hctx, Ctx.cmd?_setCmd hm hs (hd.trans (State.cmd?_done h))⟩

theorem State.cmd?_setCtxOf {s : State} {r : CmdRef} {x : Ctx} (hc : x.cmds = (s.ctxOf r.core).cmds)
    (hs : x.serial = (s.ctxOf r.core).serial) :
    (s.setCtxOf r.core x).cmd? r = s.cmd? r := by
  unfold State.cmd? Ctx.cmd?
  rw [State.ctxOf_setCtxOf, hc, hs]

/-! The start (R11). -/

/-- The command of `r`, of one entry, not faulted, on a core that is not stopped. -/
structure State.AtHead (s : State) (r : CmdRef) (m : Cmd) : Prop where
  found : s.cmd? r = some m
  faulted : m.faulted = false
  fail : m.fail = none
  inb : m.inb = none
  busy : (s.core r.core).busy = true
  stop : (s.core r.core).stop = none
  trip : s.trip = false

theorem exec_scoreboardRelease {s : State} {r : CmdRef} {m : Cmd} (h : s.AtHead r m) :
    exec (.scoreboardRelease r) s = .next (if (s.ctxOf r.core).mayStart m then s.startAny r.core m else s) := by
  have : execScoreboardRelease r s = .next (s.release r.core m) := by unfold execScoreboardRelease; rw [h.found]
  refine this.trans ?_
  simp [State.release, h.faulted, h.fail, h.inb, h.busy, h.stop, h.trip, State.cmd?_done h.found]

/-- The command of `r` starts: its end is due at `due`, the context's registers stand, and `P` holds of the next state and of it. -/
def State.Starts (s : State) (r : CmdRef) (due : Nat) (P : State → Cmd → Prop) : Prop :=
  ∃ t, exec (.scoreboardRelease r) s = .next t ∧
    t.goesOn r (fun k => k.started = true ∧ k.start = s.now ∧ k.due = due ∧ P t k) ∧ (t.ctxOf r.core).s = (s.ctxOf r.core).s

theorem State.Starts.of_startCmd {s u : State} {r : CmdRef} {m m' : Cmd} {due : Nat} {P : State → Cmd → Prop}
    (e : exec (.scoreboardRelease r) s = .next (u.startCmd r.core m' due)) (hm : u.cmd? r = some m) (hs : m'.seq = m.seq)
    (hd : m'.done = m.done) (hn : u.now = s.now) (hx : (u.ctxOf r.core).s = (s.ctxOf r.core).s)
    (hP : P (u.startCmd r.core m' due) { m' with started := true, start := u.now, due := due }) : s.Starts r due P :=
  ⟨_, e, ⟨_, State.cmd?_putCmd hm hs hd, rfl, hn, rfl, hP⟩, (congrArg Ctx.s (State.ctxOf_putCmd u r.core _)).trans hx⟩

/-- Where the start changes the context before it puts the command back. -/
theorem State.Starts.of_setCtxOf {s : State} {r : CmdRef} {m m' : Cmd} {x : Ctx} {due : Nat} {P : State → Cmd → Prop}
    (e : exec (.scoreboardRelease r) s = .next ((s.setCtxOf r.core x).startCmd r.core m' due)) (hm : s.cmd? r = some m)
    (hc : x.cmds = (s.ctxOf r.core).cmds) (hser : x.serial = (s.ctxOf r.core).serial) (hx : x.s = (s.ctxOf r.core).s)
    (hs : m'.seq = m.seq) (hd : m'.done = m.done)
    (hP : P ((s.setCtxOf r.core x).startCmd r.core m' due) { m' with started := true, start := s.now, due := due }) :
    s.Starts r due P :=
  .of_startCmd e ((State.cmd?_setCtxOf hc hser).trans hm) hs hd rfl ((congrArg Ctx.s (State.ctxOf_setCtxOf ..)).trans hx) hP

theorem State.startAny_me {s : State} {c : CoreId} {m : Cmd} {e : Ecmd} (he : m.eng = .me)
    (hi : m.ins ∈ [Instr.mld e, .mldsp e, .mstr e, .mstrr e, .mabort e, .mzero e, .mdrain e, .mcfg e, .mpip e]) :
    s.startAny c m = s.startMe c m := by
  simp only [List.mem_cons, List.not_mem_nil, or_false] at hi
  rcases hi with hi | hi | hi | hi | hi | hi | hi | hi | hi <;> simp [State.startAny, hi, he, isTask]

theorem State.startAny_xe {s : State} {c : CoreId} {m : Cmd} {e : Ecmd} (he : m.eng = .xe) (hi : m.ins ∈ [Instr.xmap e, .xpub e]) :
    s.startAny c m = s.startXe c m := by
  simp only [List.mem_cons, List.not_mem_nil, or_false] at hi
  rcases hi with hi | hi <;> simp [State.startAny, hi, he, isTask]

/-! The record that `mpip` makes (R256). -/

/-- The 64-bit word of a list of bytes at byte `j`. -/
def wordAt (l : List Byte) (j : Nat) : Nat := leNat ((l.drop j).take 8)
theorem wordAt_append_right {a : List Byte} {j : Nat} (r : List Byte) (h : a.length ≤ j) :
    wordAt (a ++ r) j = wordAt r (j - a.length) := by
  rw [wordAt, List.drop_append, List.drop_of_length_le h, List.nil_append, wordAt]
theorem wordAt_leBytes (v : Nat) (r : List Byte) : wordAt (leBytes v 8 ++ r) 0 = v % 2 ^ 64 := by
  rw [wordAt, List.drop_zero, List.take_append_of_le_length (leBytes_length v 8).ge,
    List.take_of_length_le (leBytes_length v 8).le, leNat_leBytes]
  norm_num

/-- The 64 bytes of one group's counters (R256). -/
def GrpCnt.bytes (g : GrpCnt) : List Byte :=
  leBytes g.pips 8 ++ leBytes g.steps 8 ++ leBytes g.busy 8 ++ leBytes g.wait 8 ++ leBytes g.zskip 8 ++ leBytes 0 24
/-- The first 64 bytes of the record of an array. -/
def Arr.head (a : Arr) (seq : Nat) : List Byte :=
  leBytes a.pips 8 ++ leBytes a.rows 8 ++ leBytes a.cycles 8 ++ leBytes (a.gw + b2n a.ftz * 4 + b2n a.pw * 8) 8 ++ leBytes seq 8 ++
    leBytes (b2n a.sat) 8 ++ leBytes 0 16
theorem Arr.record_eq (a : Arr) (seq : Nat) : a.record seq = a.head seq ++ (a.grp.map GrpCnt.bytes).flatten := rfl
theorem GrpCnt.bytes_length (g : GrpCnt) : g.bytes.length = 64 := by simp [GrpCnt.bytes, leBytes_length]
theorem Arr.head_length (a : Arr) (seq : Nat) : (a.head seq).length = 64 := by simp [Arr.head, leBytes_length]

theorem Arr.record_length (a : Arr) (seq : Nat) : (a.record seq).length = 64 + 64 * a.grp.length := by
  have groups : (a.grp.map GrpCnt.bytes).map List.length = List.replicate a.grp.length 64 := by
    simp [List.map_map, Function.comp_def, GrpCnt.bytes_length]
  rw [Arr.record_eq, List.length_append, Arr.head_length, List.length_flatten, groups, List.sum_replicate, smul_eq_mul,
    Nat.mul_comm]

theorem Arr.record_head (a : Arr) (seq : Nat) :
    wordAt (a.record seq) 0 = a.pips % 2 ^ 64 ∧ wordAt (a.record seq) 8 = a.rows % 2 ^ 64 ∧
      wordAt (a.record seq) 16 = a.cycles % 2 ^ 64 ∧ wordAt (a.record seq) 24 = (a.gw + b2n a.ftz * 4 + b2n a.pw * 8) % 2 ^ 64 ∧
      wordAt (a.record seq) 32 = seq % 2 ^ 64 ∧ wordAt (a.record seq) 40 = b2n a.sat % 2 ^ 64 := by
  simp [Arr.record, List.append_assoc, wordAt_append_right, wordAt_leBytes, leBytes_length]

/-- The groups' counters stand one after another. -/
theorem wordAt_groups {l : List GrpCnt} {i : Nat} {g : GrpCnt} (h : l[i]? = some g) :
    ∃ r, ∀ j, wordAt (l.map GrpCnt.bytes).flatten (64 * i + j) = wordAt (g.bytes ++ r) j := by
  induction l generalizing i with
  | nil => cases h
  | cons e l ih =>
    cases i with
    | zero => cases h; exact ⟨(l.map GrpCnt.bytes).flatten, fun j => by simp⟩
    | succ i =>
      obtain ⟨r, hr⟩ := ih (i := i) (by simpa using h)
      refine ⟨r, fun j => ?_⟩
      rw [List.map_cons, List.flatten_cons, wordAt_append_right _ (by rw [GrpCnt.bytes_length]; omega), ← hr, GrpCnt.bytes_length]
      congr 1
      omega

theorem GrpCnt.bytes_words (g : GrpCnt) (r : List Byte) :
    wordAt (g.bytes ++ r) 0 = g.pips % 2 ^ 64 ∧ wordAt (g.bytes ++ r) 8 = g.steps % 2 ^ 64 ∧
      wordAt (g.bytes ++ r) 16 = g.busy % 2 ^ 64 ∧ wordAt (g.bytes ++ r) 24 = g.wait % 2 ^ 64 ∧
      wordAt (g.bytes ++ r) 32 = g.zskip % 2 ^ 64 := by
  simp [GrpCnt.bytes, List.append_assoc, wordAt_append_right, wordAt_leBytes, leBytes_length]

theorem Arr.record_group {a : Arr} {i : Nat} {g : GrpCnt} (seq : Nat) (h : a.grp[i]? = some g) :
    wordAt (a.record seq) (64 + 64 * i) = g.pips % 2 ^ 64 ∧ wordAt (a.record seq) (72 + 64 * i) = g.steps % 2 ^ 64 ∧
      wordAt (a.record seq) (80 + 64 * i) = g.busy % 2 ^ 64 ∧ wordAt (a.record seq) (88 + 64 * i) = g.wait % 2 ^ 64 ∧
      wordAt (a.record seq) (96 + 64 * i) = g.zskip % 2 ^ 64 := by
  obtain ⟨r, hr⟩ := wordAt_groups h
  have word (j : Nat) : wordAt (a.record seq) (64 + j + 64 * i) = wordAt (g.bytes ++ r) j := by
    rw [Arr.record_eq, wordAt_append_right _ (by rw [Arr.head_length]; omega), Arr.head_length, ← hr]
    congr 1
    omega
  obtain ⟨pips, steps, busy, wait, zskip⟩ := g.bytes_words r
  exact ⟨(word 0).trans pips, (word 8).trans steps, (word 16).trans busy, (word 24).trans wait, (word 32).trans zskip⟩

/-- The bytes are the record of array `o`, made by command `seq`. -/
def Arr.RecordedAs (o : Arr) (seq : Nat) (data : List Byte) : Prop :=
  data.length = 64 + 64 * o.grp.length ∧
    wordAt data 0 = o.pips % 2 ^ 64 ∧ wordAt data 8 = o.rows % 2 ^ 64 ∧ wordAt data 16 = o.cycles % 2 ^ 64 ∧
    wordAt data 24 = (o.gw + b2n o.ftz * 4 + b2n o.pw * 8) % 2 ^ 64 ∧ wordAt data 32 = seq ∧ wordAt data 40 = b2n o.sat ∧
    ∀ i q, o.grp[i]? = some q → wordAt data (64 + 64 * i) = q.pips % 2 ^ 64 ∧ wordAt data (72 + 64 * i) = q.steps % 2 ^ 64 ∧
      wordAt data (80 + 64 * i) = q.busy % 2 ^ 64 ∧ wordAt data (88 + 64 * i) = q.wait % 2 ^ 64 ∧
      wordAt data (96 + 64 * i) = q.zskip % 2 ^ 64

theorem Arr.recordedAs_record (o : Arr) (seq : BitVec 32) : o.RecordedAs seq.toNat (o.record seq.toNat) := by
  obtain ⟨pips, rows, cycles, mode, number, sat⟩ := o.record_head seq.toNat
  refine ⟨o.record_length _, pips, rows, cycles, mode, ?_, ?_, fun i q => Arr.record_group _⟩
  · rw [number]; omega
  · rw [sat]; cases o.sat <;> rfl

@[simp] theorem Ctx.setArr_cmds (x : Ctx) (va : Bool) (a : Arr) : (x.setArr va a).cmds = x.cmds := by cases va <;> rfl
@[simp] theorem Ctx.setArr_serial (x : Ctx) (va : Bool) (a : Arr) : (x.setArr va a).serial = x.serial := by cases va <;> rfl
@[simp] theorem Ctx.setArr_s (x : Ctx) (va : Bool) (a : Arr) : (x.setArr va a).s = x.s := by cases va <;> rfl
@[simp] theorem Ctx.arr_setArr (x : Ctx) (va : Bool) (a : Arr) : (x.setArr va a).arr va = a := by cases va <;> rfl

/-! What the start of a command leaves alone. -/

theorem State.arr_startCmd (s : State) (c : CoreId) (m : Cmd) (due : Nat) (va : Bool) :
    ((s.startCmd c m due).ctxOf c).arr va = (s.ctxOf c).arr va := by
  rw [State.startCmd, State.ctxOf_putCmd]; cases va <;> rfl
theorem State.xmaps_startCmd (s : State) (c : CoreId) (m : Cmd) (due : Nat) :
    ((s.startCmd c m due).ctxOf c).xmaps = (s.ctxOf c).xmaps := by
  rw [State.startCmd, State.ctxOf_putCmd]; rfl

theorem bit_eq_testBit (x i : Nat) : bit x i = x.testBit i := by
  rw [Nat.testBit_eq_decide_div_mod_eq]; rfl

theorem slotSet_setIfInBounds {α : Type} {n : Nat} (old : Vector α n) (i : Nat) (v : α) :
    slotSet old (old.setIfInBounds i v) i v := by
  intro k
  simp [Vector.getElem_setIfInBounds, eq_comm]

section
variable {s : State} {r : CmdRef} {m : Cmd} {e : Ecmd} (h : s.AtHead r m) (may : (s.ctxOf r.core).mayStart m = true)
include h may

theorem exec_startMe (he : m.eng = .me)
    (hi : m.ins ∈ [Instr.mld e, .mldsp e, .mstr e, .mstrr e, .mabort e, .mzero e, .mdrain e, .mcfg e, .mpip e]) :
    exec (.scoreboardRelease r) s = .next (s.startMe r.core m) := by
  rw [exec_scoreboardRelease h, if_pos may, State.startAny_me he hi]

theorem exec_startXe (he : m.eng = .xe) (hi : m.ins ∈ [Instr.xmap e, .xpub e]) :
    exec (.scoreboardRelease r) s = .next (s.startXe r.core m) := by
  rw [exec_scoreboardRelease h, if_pos may, State.startAny_xe he hi]

theorem starts_mld (he : m.eng = .me) (hi : m.ins = .mld e) :
    s.Starts r (s.now + loadTime ((s.ctxOf r.core).fmtAt .wb m.a.toNat).ty m.b.toNat false) fun _ k => k.asks = 0 := by
  have start := exec_startMe (e := e) h may he (by simp [hi])
  rw [State.startMe, hi] at start
  exact .of_startCmd start h.found rfl rfl rfl rfl rfl

theorem starts_mldsp (he : m.eng = .me) (hi : m.ins = .mldsp e) :
    s.Starts r (s.now + loadTime ((s.ctxOf r.core).fmtAt .wb m.a.toNat).ty m.b.toNat true) fun _ k => k.asks = 0 := by
  have start := exec_startMe (e := e) h may he (by simp [hi])
  rw [State.startMe, hi] at start
  exact .of_startCmd start h.found rfl rfl rfl rfl rfl

theorem starts_mstrr (he : m.eng = .me) (hi : m.ins = .mstrr e) : s.Starts r (s.now + 32) fun _ k => k.staged = [] := by
  have start := exec_startMe (e := e) h may he (by simp [hi])
  rw [State.startMe, hi] at start
  exact .of_startCmd start h.found rfl rfl rfl rfl rfl

theorem starts_mstr (he : m.eng = .me) (hi : m.ins = .mstr e) :
    s.Starts r (s.now + 32) fun _ k => k.staged = [] ∧ k.asks = m.prog := by
  have start := exec_startMe (e := e) h may he (by simp [hi])
  rw [State.startMe, hi] at start
  exact .of_startCmd start h.found rfl rfl rfl rfl ⟨rfl, rfl⟩

theorem starts_mzero (he : m.eng = .me) (hi : m.ins = .mzero e) :
    s.Starts r (s.now + 4 + (m.b.toNat + 1023) / 1024) fun _ k => k.asks = 0 := by
  have start := exec_startMe (e := e) h may he (by simp [hi])
  rw [State.startMe, hi] at start
  exact .of_startCmd start h.found rfl rfl rfl rfl rfl

theorem starts_mdrain (he : m.eng = .me) (hi : m.ins = .mdrain e) : s.Starts r (s.now + 8) fun _ _ => True := by
  have start := exec_startMe (e := e) h may he (by simp [hi])
  rw [State.startMe, hi] at start
  exact .of_startCmd start h.found rfl rfl rfl rfl trivial

theorem starts_mabort (he : m.eng = .me) (hi : m.ins = .mabort e) : s.Starts r s.now fun _ _ => True := by
  have start := exec_startMe (e := e) h may he (by simp [hi])
  rw [State.startMe, hi] at start
  exact .of_setCtxOf start h.found (by simp [apply_ite Ctx.cmds]) (by simp [apply_ite Ctx.serial]) (by simp [apply_ite Ctx.s])
    rfl rfl trivial

theorem starts_mcfg (he : m.eng = .me) (hi : m.ins = .mcfg e) :
    s.Starts r (s.now + 4) fun t k =>
      let a := m.a.toNat
      let o := (s.ctxOf r.core).arr (e.m 0)
      let n := (t.ctxOf r.core).arr (e.m 0)
      n.gw = a % 4 ∧ n.ftz = a.testBit 2 ∧ n.pw = a.testBit 3 ∧
      (a.testBit 4 = true → n.pips = 0 ∧ n.rows = 0 ∧ n.cycles = 0 ∧ n.sat = false) ∧
      (a.testBit 4 = false → n.pips = o.pips ∧ n.rows = o.rows ∧ n.cycles = o.cycles) ∧
      k.res = BitVec.ofNat 64 (o.gw + b2n o.ftz * 4 + b2n o.pw * 8) := by
  have start := exec_startMe (e := e) h may he (by simp [hi])
  rw [State.startMe, hi] at start
  refine .of_setCtxOf start h.found (by simp) (by simp) (by simp) rfl rfl ?_
  rw [State.arr_startCmd, State.ctxOf_setCtxOf, Ctx.arr_setArr]
  refine ⟨by simp [bits], bit_eq_testBit .., bit_eq_testBit .., fun h4 => ?_, fun h4 => ?_, rfl⟩
  · rw [bit_eq_testBit, if_pos h4]; exact ⟨rfl, rfl, rfl, rfl⟩
  · rw [bit_eq_testBit, h4]; exact ⟨rfl, rfl, rfl⟩

theorem starts_mpip (he : m.eng = .me) (hi : m.ins = .mpip e) :
    s.Starts r (s.now + 8) fun t k =>
      let o := (s.ctxOf r.core).arr (e.m 0)
      let n := (t.ctxOf r.core).arr (e.m 0)
      k.asks = 0 ∧ k.res = BitVec.ofNat 64 o.pips ∧ (e.m 1 = false → n = o) ∧
      (e.m 1 = true → n.pips = 0 ∧ n.rows = 0 ∧ n.cycles = 0 ∧ n.sat = false) ∧
      ∃ g, k.staged = [g] ∧ o.RecordedAs m.seq.toNat g.data := by
  have start := exec_startMe (e := e) h may he (by simp [hi])
  rw [State.startMe, hi] at start
  have recorded := ((s.ctxOf r.core).arr (e.m 0)).recordedAs_record m.seq
  cases hclr : e.m 1 with
  | true =>
    simp only [hclr, if_true] at start
    refine .of_setCtxOf start h.found (by simp) (by simp) (by simp) rfl rfl ⟨rfl, rfl, nofun, fun _ => ?_, _, rfl, recorded⟩
    rw [State.arr_startCmd, State.ctxOf_setCtxOf, Ctx.arr_setArr]
    exact ⟨rfl, rfl, rfl, rfl⟩
  | false =>
    simp only [hclr, Bool.false_eq_true, if_false] at start
    exact .of_startCmd start h.found rfl rfl rfl rfl ⟨rfl, rfl, fun _ => State.arr_startCmd .., nofun, _, rfl, recorded⟩

theorem starts_xpub (he : m.eng = .xe) (hi : m.ins = .xpub e) : s.Starts r (s.now + 4) fun _ _ => True := by
  have start := exec_startXe (e := e) h may he (by simp [hi])
  rw [State.startXe, hi] at start
  exact .of_startCmd start h.found rfl rfl rfl rfl trivial

theorem starts_xmap (he : m.eng = .xe) (hi : m.ins = .xmap e) :
    s.Starts r (s.now + 4) fun t _ => slotSet (s.ctxOf r.core).xmaps (t.ctxOf r.core).xmaps (m.a.toNat / 16 % 8)
      (BitVec.ofNat 64 (m.a.toNat % 8 + (m.a.toNat / 2 ^ 8 % 2 ^ 24) * 2 ^ 8 + (m.a.toNat / 2 ^ 32 % 2 ^ 24) * 2 ^ 32)) := by
  have start := exec_startXe (e := e) h may he (by simp [hi])
  rw [State.startXe, hi] at start
  refine .of_setCtxOf start h.found rfl rfl rfl rfl rfl ?_
  rw [State.xmaps_startCmd, State.ctxOf_setCtxOf]
  simpa [bits] using slotSet_setIfInBounds (s.ctxOf r.core).xmaps (m.a.toNat / 16 % 8) _

end

/-! The report of an engine (R402). -/

theorem State.cmd?_setEngFaults (u : State) (r : CmdRef) (fs : List (BitVec 32)) :
    (u.setCtxOf r.core { u.ctxOf r.core with engFaults := fs }).cmd? r = u.cmd? r := State.cmd?_setCtxOf rfl rfl

theorem engineFault_reports {s : State} {r : CmdRef} {m : Cmd} (hm : s.cmd? r = some m) (started : m.started = true)
    (faulted : m.faulted = false) (hfail : m.fail.isSome = true) :
    ∃ t, exec (.engineFault r) s = .next t ∧ t.goesOn r (fun k => k.faulted = true) ∧
      (t.ctxOf r.core).engFaults = (s.ctxOf r.core).engFaults ++ [m.seq] ∧ (t.ctxOf r.core).pc = (s.ctxOf r.core).pc := by
  have fires : exec (.engineFault r) s = .next (s.engineFault r.core m) := by
    show execEngineFault r s = _
    simp only [execEngineFault, State.onCmd, hm, started, faulted, hfail, Bool.not_false, Bool.and_self, if_true]
  have ctx : (s.engineFault r.core m).ctxOf r.core = _ := State.ctxOf_setCtxOf ..
  refine ⟨_, fires, ⟨{ m with faulted := true }, ?_, rfl⟩, ?_, ?_⟩
  · exact (State.cmd?_setEngFaults _ r _).trans (State.cmd?_putCmd hm rfl rfl)
  · rw [ctx, State.ctxOf_putCmd]; rfl
  · rw [ctx, State.ctxOf_putCmd]; rfl

/-! The fill of the instruction buffer (R106). -/

theorem State.xlate_fst (s : State) (c : CoreId) (va n : Nat) (k : AccK) :
    (s.xlate c va n k).1 = s ∨ ∃ e, (s.xlate c va n k).1 = s.tlbFill c e := by
  unfold State.xlate
  dsimp only
  split
  · exact .inl rfl
  · split
    · exact .inl rfl
    next e _ => exact .inr ⟨e, by split <;> [rfl; split <;> rfl]⟩

/-- A translation fills the TLB alone. -/
theorem State.xlate_keeps (s : State) (c d : CoreId) (va n : Nat) (k : AccK) :
    ((s.xlate c va n k).1.core d).ctx = (s.core d).ctx ∧ ((s.xlate c va n k).1.core d).ibuf = (s.core d).ibuf ∧
      (s.xlate c va n k).1.mem = s.mem ∧ (s.xlate c va n k).1.cur = s.cur := by
  obtain h | ⟨e, h⟩ := s.xlate_fst c va n k
  · rw [h]; exact ⟨rfl, rfl, rfl, rfl⟩
  · have core : (s.tlbFill c e).core d = (s.setCore c { s.core c with tlb := tlbAdd (s.core c).tlb 256 e }).core d := rfl
    by_cases hd : d = c
    · subst hd; rw [h, core, State.core_setCore]; exact ⟨rfl, rfl, rfl, rfl⟩
    · rw [h, core, State.core_setCore_ne _ _ _ _ hd]; exact ⟨rfl, rfl, rfl, rfl⟩

theorem State.fill_ok {s u : State} {pa : Nat} {w : BitVec 256} (hx : s.xlate s.cur s.ctx.pc.toNat 32 .fetch = (u, .ok pa))
    (hw : u.fetch s.ctx.fn.val pa = .ok w) :
    s.fill = u.setCore s.cur { u.core s.cur with ibuf := ((s.ctx.pc, w) :: (s.core s.cur).ibuf).take ibufSize } := by
  obtain ⟨ctx, ibuf, -, cur⟩ := s.xlate_keeps s.cur s.cur s.ctx.pc.toNat 32 .fetch
  rw [hx] at ctx ibuf cur
  dsimp only at ctx ibuf cur
  have fn : u.ctx = s.ctx := by rw [State.ctx, cur]; exact ctx
  rw [State.fill, hx]
  dsimp only
  rw [fn, hw, cur]
  dsimp only
  rw [ibuf]

theorem exec_ibufFill {s u : State} {c : CoreId} {pa : Nat} {w : BitVec 256} (runs : (s.core c).runs = true)
    (hwait : (s.ctxOf c).wait = none) (hword : (s.core c).word = none)
    (hx : ({ s with cur := c } : State).xlate c (s.ctxOf c).pc.toNat 32 .fetch = (u, .ok pa))
    (hw : u.fetch (s.ctxOf c).fn.val pa = .ok w) :
    exec (.ibufFill c) s = .next { u.setCore c { u.core c with
      ibuf := (((s.ctxOf c).pc, w) :: (s.core c).ibuf).take ibufSize } with cur := s.cur } := by
  have wait : (s.core c).ctx.wait = none := hwait
  have filled := State.fill_ok (s := { s with cur := c }) hx hw
  show execIbufFill c s = _
  rw [execIbufFill]
  simp only [runs, wait, hword, State.at, filled, Option.isNone_none, Bool.and_self, if_true]
  rfl

theorem ibufFill_fills {s : State} {c : CoreId} {pa : Nat} {w : BitVec 256} (runs : (s.core c).runs = true)
    (hwait : (s.ctxOf c).wait = none) (hword : (s.core c).word = none)
    (hx : (({ s with cur := c } : State).xlate c (s.ctxOf c).pc.toNat 32 .fetch).2 = .ok pa)
    (hw : (({ s with cur := c } : State).xlate c (s.ctxOf c).pc.toNat 32 .fetch).1.fetch (s.ctxOf c).fn.val pa = .ok w) :
    ∃ t, exec (.ibufFill c) s = .next t ∧ (t.core c).ibuf = (((s.ctxOf c).pc, w) :: (s.core c).ibuf).take 2048 ∧
      (t.core c).ctx = (s.core c).ctx ∧ t.mem = s.mem ∧ (t.core c).word = some w := by
  obtain ⟨ctx, ibuf, mem, -⟩ := ({ s with cur := c } : State).xlate_keeps c c (s.ctxOf c).pc.toNat 32 .fetch
  generalize hu : ({ s with cur := c } : State).xlate c (s.ctxOf c).pc.toNat 32 .fetch = v at *
  obtain ⟨u, res⟩ := v
  obtain rfl : res = .ok pa := hx
  have core := State.core_setCore u c { u.core c with ibuf := (((s.ctxOf c).pc, w) :: (s.core c).ibuf).take ibufSize }
  refine ⟨_, exec_ibufFill runs hwait hword hu hw, congrArg Core.ibuf core, (congrArg Core.ctx core).trans ctx, mem,
    (congrArg Core.word core).trans ?_⟩
  have pc : (s.ctxOf c).pc == (u.core c).ctx.pc := by rw [show (u.core c).ctx = s.ctxOf c from ctx]; exact beq_self_eq_true _
  simp [Core.word, ibufSize, pc]

/-! The evaluation of checked mode (R84). -/

theorem Ctx.write_keeps (x : Ctx) (code : Nat) (v : Word) (row : Option Row) :
    (x.write code v row).trapvec = x.trapvec ∧ (x.write code v row).flight = x.flight := by
  unfold Ctx.write
  cases row <;> split_ifs <;> exact ⟨rfl, rfl⟩

theorem Ctx.deliver_keeps (x : Ctx) (f : Flight) : (x.deliver f).trapvec = x.trapvec ∧ (x.deliver f).flight = x.flight :=
  x.write_keeps f.code f.val f.row

/-- What `Ctx.settle` does with one result in flight: it delivers what has landed two cycles before. -/
def Ctx.settleStep (t0 : Nat) (x : Ctx) (f : Flight) : Ctx :=
  if f.landed && f.fin + 2 ≤ t0 then x.deliver f else { x with flight := x.flight ++ [f] }
theorem Ctx.settle_eq (x : Ctx) (t0 : Nat) : x.settle t0 = x.flight.foldl (Ctx.settleStep t0) { x with flight := [] } := rfl

theorem Ctx.foldl_settleStep (t0 : Nat) (l : List Flight) (x : Ctx) :
    (l.foldl (Ctx.settleStep t0) x).trapvec = x.trapvec ∧
      (l.foldl (Ctx.settleStep t0) x).flight = x.flight ++ l.filter (fun f => !(f.landed && f.fin + 2 ≤ t0)) := by
  induction l generalizing x with
  | nil => exact ⟨rfl, (List.append_nil _).symm⟩
  | cons f l ih =>
    rw [List.foldl_cons, (ih _).1, (ih _).2, Ctx.settleStep]
    by_cases hf : (f.landed && f.fin + 2 ≤ t0) = true
    · obtain ⟨vec, flight⟩ := x.deliver_keeps f
      rw [if_pos hf, vec, flight, List.filter_cons_of_neg (by rw [hf]; decide)]
      exact ⟨rfl, rfl⟩
    · rw [if_neg hf, List.filter_cons_of_pos (by rw [Bool.eq_false_iff.2 hf]; rfl), ← List.append_cons]
      exact ⟨rfl, rfl⟩

theorem Ctx.settle_trapvec (x : Ctx) (t0 : Nat) : (x.settle t0).trapvec = x.trapvec := by
  rw [Ctx.settle_eq, (Ctx.foldl_settleStep t0 _ _).1]
theorem Ctx.settle_flight (x : Ctx) (t0 : Nat) :
    (x.settle t0).flight = x.flight.filter (fun f => !(f.landed && f.fin + 2 ≤ t0)) := by
  rw [Ctx.settle_eq, (Ctx.foldl_settleStep t0 _ _).2, List.nil_append]

/-- A trap that no handler of the context takes stops the core with its record (R403, R410). -/
theorem State.takeTrap_unhandled (s : State) (c : CoreId) (r : TrapRec) (t0 : Nat) (h : (s.ctxOf c).trapvec.getLsbD 0 = false) :
    ∃ st v, ((s.takeTrap c r t0).core c).stop = some st ∧ st.rcd = some v ∧ v.cls = r.cls ∧ v.pc = r.pc ∧
      ((s.takeTrap c r t0).ctxOf c).flight = ((s.ctxOf c).settle t0).flight := by
  have unhandled : (((s.core c).ctx.settle t0).trapvec.getLsbD 0 && !((s.core c).ctx.settle t0).ih && r.cls != .bkpt) = false := by
    rw [Ctx.settle_trapvec, show (s.core c).ctx.trapvec.getLsbD 0 = false from h]; rfl
  unfold State.takeTrap
  simp only [unhandled, Bool.false_eq_true, if_false, State.core_setCore, State.ctxOf_setCore]
  exact ⟨_, _, rfl, rfl, rfl, rfl, rfl⟩

@[simp] theorem State.traceRec_cur (s : State) (c : CoreId) (ty eng : Nat) (pc : Word) (seq : BitVec 32) (p0 p1 : Word) :
    (s.traceRec c ty eng pc seq p0 p1).cur = s.cur := by
  unfold State.traceRec
  dsimp only
  split
  · rfl
  · split_ifs <;> rfl
@[simp] theorem State.takeTrap_cur (s : State) (c : CoreId) (r : TrapRec) (t0 : Nat) : (s.takeTrap c r t0).cur = s.cur := by
  unfold State.takeTrap
  dsimp only
  split <;> simp

theorem State.arith_unhandled {s : State} {g : Guard} {slot : Slot} {fl : Fl} (hg : g.sq = false)
    (h : s.ctx.trapvec.getLsbD 0 = false) :
    ∃ st v, ((s.arith g slot fl).core s.cur).stop = some st ∧ st.rcd = some v ∧ v.cls = .arith ∧ v.pc = s.ctx.pc ∧
      ((s.arith g slot fl).ctxOf s.cur).flight = (s.ctx.settle s.now).flight := by
  have alive : ¬(s.core s.cur).ctx.faultKills g = true := by simp [Ctx.faultKills, hg]
  obtain ⟨st, v, stop, rcd, cls, pc, flight⟩ := State.takeTrap_unhandled (s.setCtx (s.ctx.orFlags (fl ||| s.ctx.raised))) s.cur
    { cls := .arith, slot, pc := s.ctx.pc, rpc := s.ctx.pc, seq := s.ctx.lastSeq,
      esw := ((fl ||| s.ctx.raised).setWidth 5).setWidth 64 }
    s.now (by rw [State.setCtx, State.ctxOf_setCtxOf]; exact h)
  rw [State.setCtx, State.ctxOf_setCtxOf, Ctx.settle_flight] at flight
  rw [State.arith, if_neg alive]
  simp only [State.takeTrap_cur, State.setCtx_cur, State.core_setCore, State.ctxOf_setCore, Ctx.settle_flight]
  exact ⟨st, v, stop, rcd, cls, pc, flight⟩

theorem State.evalChecked_passes {s : State} {k : Option Nat} {ps : List (Slot × Guard × Fl × Nat)}
    (h : ∀ p ∈ ps, s.ctx.enabled p.2.2.1 = false) : s.evalChecked k ps = s.setCtx { s.ctx with chkOk := true } := by
  have none_enabled : (ps.filter (fun p => !(s.ctx.enabled p.2.2.1 && p.2.1.sq && k.isSome))).find?
      (fun p => s.ctx.enabled p.2.2.1) = none :=
    List.find?_eq_none.2 fun p hp => by simp [h p (List.mem_filter.1 hp).1]
  simp only [State.evalChecked, none_enabled]

theorem State.evalChecked_traps {s : State} {k : Option Nat} {ps : List (Slot × Guard × Fl × Nat)}
    (hsq : ∀ p ∈ ps, p.2.1.sq = false) (h : ∃ p ∈ ps, s.ctx.enabled p.2.2.1 = true) :
    ∃ g slot fl, g.sq = false ∧ s.evalChecked k ps = (s.setCtx { s.ctx with chk := none }).arith g slot fl := by
  have all : ps.filter (fun p => !(s.ctx.enabled p.2.2.1 && p.2.1.sq && k.isSome)) = ps :=
    List.filter_eq_self.2 fun p hp => by simp [hsq p hp]
  obtain ⟨⟨slot, g, fl, n⟩, found⟩ := Option.isSome_iff_exists.1 (List.find?_isSome.2 h)
  refine ⟨g, slot, ps.foldl (fun a p => a ||| p.2.2.1) 0, hsq (slot, g, fl, n) (List.mem_of_find?_eq_some found), ?_⟩
  simp only [State.evalChecked, all, found]

/-- The next bundle of core `c` stands before its evaluation (R84). -/
structure State.Evaluates (s : State) (c : CoreId) (b : Bundle) : Prop where
  runs : (s.core c).runs = true
  due : ∃ t0, (s.ctxOf c).chk = some t0 ∧ t0 ≤ s.now
  pending : (s.ctxOf c).chkOk = false
  bundle : ∃ w, (s.core c).word = some w ∧ decodeBundle w.toNat = .ok b

theorem exec_checkedModeEval {s : State} {c : CoreId} {b : Bundle} (h : s.Evaluates c b) :
    exec (.checkedModeEval c) s = .next (s.at c (fun t => t.evalChecked (t.ctx.slotK b) (t.checkedOf b))) := by
  obtain ⟨t0, hchk, ht⟩ := h.due
  obtain ⟨w, hw, hb⟩ := h.bundle
  have chk : (s.core c).ctx.chk = some t0 := hchk
  have pending : (s.core c).ctx.chkOk = false := h.pending
  have hnow : decide (s.now < t0) = false := by simpa using ht
  show execCheckedModeEval c s = _
  simp [execCheckedModeEval, chk, hw, h.runs, pending, hnow, hb]

theorem checkedModeEval_passes {s : State} {c : CoreId} {b : Bundle} (h : s.Evaluates c b)
    (none_enabled : ∀ p ∈ ({ s with cur := c } : State).checkedOf b, (s.ctxOf c).enabled p.2.2.1 = false) :
    exec (.checkedModeEval c) s = .next (s.setCtxOf c { s.ctxOf c with chkOk := true }) := by
  have passes := State.evalChecked_passes (s := { s with cur := c }) (k := ({ s with cur := c } : State).ctx.slotK b) none_enabled
  rw [exec_checkedModeEval h, State.at, passes]
  rfl

theorem checkedModeEval_traps {s : State} {c : CoreId} {b : Bundle} (h : s.Evaluates c b)
    (unsquashed : ∀ p ∈ ({ s with cur := c } : State).checkedOf b, p.2.1.sq = false)
    (enabled : ∃ p ∈ ({ s with cur := c } : State).checkedOf b, (s.ctxOf c).enabled p.2.2.1 = true)
    (hvec : (s.ctxOf c).trapvec.getLsbD 0 = false) :
    ∃ t st v, exec (.checkedModeEval c) s = .next t ∧ (t.core c).stop = some st ∧ st.rcd = some v ∧ v.cls = .arith ∧
      v.pc = (s.ctxOf c).pc ∧ (t.ctxOf c).flight = ((s.ctxOf c).settle s.now).flight := by
  obtain ⟨g, slot, fl, hg, eval⟩ := State.evalChecked_traps (s := { s with cur := c })
    (k := ({ s with cur := c } : State).ctx.slotK b) unsquashed enabled
  obtain ⟨st, v, stop, rcd, cls, pc, flight⟩ := State.arith_unhandled (slot := slot) (fl := fl)
    (s := ({ s with cur := c } : State).setCtx { s.ctxOf c with chk := none }) hg (by rw [State.ctx_setCtx]; exact hvec)
  rw [State.ctx_setCtx] at pc flight
  rw [Ctx.settle_flight] at flight
  refine ⟨_, st, v, exec_checkedModeEval h, ?_, rcd, cls, pc, ?_⟩
  · rw [State.at, eval]; exact stop
  · rw [State.at, eval, Ctx.settle_flight]; exact flight

/-! Registers that are written as events (R41, R433, R438). -/

theorem State.at_sysWrite {s u : State} {c : CoreId} {n : Nat} {v : Word}
    (h : ({ s with cur := c } : State).regWrite c n v = some u) :
    s.at c (fun t => t.sysWrite {} n v) = { u with cur := s.cur } := by
  have written : ({ s with cur := c } : State).sysWrite {} n v = u := by
    show (match ({ s with cur := c } : State).regWrite c n v with | some t => t | none => _) = u
    rw [h]
  rw [State.at, written]

theorem State.ctxOf_written (s : State) (c d : CoreId) (x : Ctx) :
    ({ ({ s with cur := c } : State).setCtxOf c x with cur := d } : State).ctxOf c = x := State.ctxOf_setCtxOf s c x
theorem State.core_written (s : State) (c d : CoreId) (k : Core) :
    ({ ({ s with cur := c } : State).setCore c k with cur := d } : State).core c = k := State.core_setCore s c k

theorem State.regWrite_wfmt (s : State) (c : CoreId) (i : Fin 16) {v : Word} (hv : fmtOk v = true) :
    s.regWrite c (0x20 + i.val) v =
      some (s.setCtxOf c { s.ctxOf c with wfmt := (s.ctxOf c).wfmt.setIfInBounds i.val (v.setWidth 32) }) := by
  fin_cases i <;> simp [State.regWrite, hv] <;> rfl
theorem State.regWrite_afmt (s : State) (c : CoreId) (i : Fin 16) {v : Word} (hv : fmtOk v = true) :
    s.regWrite c (0x30 + i.val) v =
      some (s.setCtxOf c { s.ctxOf c with afmt := (s.ctxOf c).afmt.setIfInBounds i.val (v.setWidth 32) }) := by
  fin_cases i <;> simp [State.regWrite, hv] <;> rfl

theorem State.regWrite_bpc {s : State} {c : CoreId} {k : Core} (hk : s.core c = k) (i : Fin 4) {v : Word}
    (hv : bpcOk k.bpc[i] k.bpv[i] v = true) :
    s.regWrite c (0x80 + i.val) v = some (s.setCore c { k with
      bpc := k.bpc.setIfInBounds i.val (bpcVal v (bits v.toNat 32 32 == k.ctx.ctxid.toNat)) }) := by
  subst hk
  have bpc : (s.core c).bpc.toList.getD i.val 0 = (s.core c).bpc[i] := by simp
  have bpv : (s.core c).bpv.toList.getD i.val 0 = (s.core c).bpv[i] := by simp
  rw [← bpc, ← bpv] at hv
  fin_cases i <;> simp at hv <;> simp [State.regWrite, hv]

theorem State.regWrite_trctl (s : State) (c : CoreId) {v : Word} (hv : v &&& ~~~0x10F = 0) :
    s.regWrite c 0x90 v = some (s.setCore c { s.core c with trctl := v, trptr := (s.core c).trptr &&& 0x0000FFFF00000000 }) := by
  have allowed : only v [(0, 4), (8, 1)] = true := beq_iff_eq.2 hv
  simp [State.regWrite, allowed]

theorem exec_formatRegWrite {s : State} {w : RegW} (busy : (s.core w.core).busy = true) (lo : 0x20 ≤ w.reg) (hi : w.reg < 0x40)
    (free : (s.ctxOf w.core).fmtHeld w.reg = false) :
    exec (.formatRegWrite w) s = .next (s.at w.core (fun t => t.sysWrite {} w.reg w.v)) := by
  show execFormatRegWrite w s = _
  simp [execFormatRegWrite, busy, free, lo, hi]

theorem formatRegWrite_wfmt {s : State} {w : RegW} {i : Fin 16} (busy : (s.core w.core).busy = true) (hreg : w.reg = 0x20 + i.val)
    (free : (s.ctxOf w.core).fmtHeld w.reg = false) (hv : fmtOk w.v = true) :
    ∃ t, exec (.formatRegWrite w) s = .next t ∧
      slotSet (s.ctxOf w.core).wfmt (t.ctxOf w.core).wfmt i.val (w.v.setWidth 32) ∧
        (t.ctxOf w.core).afmt = (s.ctxOf w.core).afmt := by
  have writes := exec_formatRegWrite busy (by omega) (by omega) free
  rw [hreg, State.at_sysWrite (State.regWrite_wfmt _ _ i hv)] at writes
  refine ⟨_, writes, ?_, ?_⟩ <;> rw [State.ctxOf_written]
  · exact slotSet_setIfInBounds _ _ _
  · rfl

theorem formatRegWrite_afmt {s : State} {w : RegW} {i : Fin 16} (busy : (s.core w.core).busy = true) (hreg : w.reg = 0x30 + i.val)
    (free : (s.ctxOf w.core).fmtHeld w.reg = false) (hv : fmtOk w.v = true) :
    ∃ t, exec (.formatRegWrite w) s = .next t ∧
      slotSet (s.ctxOf w.core).afmt (t.ctxOf w.core).afmt i.val (w.v.setWidth 32) ∧
        (t.ctxOf w.core).wfmt = (s.ctxOf w.core).wfmt := by
  have writes := exec_formatRegWrite busy (by omega) (by omega) free
  rw [hreg, State.at_sysWrite (State.regWrite_afmt _ _ i hv)] at writes
  refine ⟨_, writes, ?_, ?_⟩ <;> rw [State.ctxOf_written]
  · exact slotSet_setIfInBounds _ _ _
  · rfl

theorem trctlWrite_writes {s : State} {w : RegW} (busy : (s.core w.core).busy = true) (hreg : w.reg = 0x90)
    (hv : w.v &&& ~~~0x10F = 0) :
    ∃ t, exec (.trctlWrite w) s = .next t ∧ (t.core w.core).trctl = w.v ∧
      (t.core w.core).trptr = (s.core w.core).trptr &&& 0x0000FFFF00000000 ∧ (t.core w.core).ctx = (s.core w.core).ctx := by
  have writes : exec (.trctlWrite w) s = .next (s.at w.core (fun t => t.sysWrite {} w.reg w.v)) := by
    show execTrctlWrite w s = _
    simp [execTrctlWrite, busy, hreg]
  rw [hreg, State.at_sysWrite (State.regWrite_trctl _ _ hv)] at writes
  refine ⟨_, writes, ?_⟩
  rw [State.core_written]
  exact ⟨rfl, rfl, rfl⟩

theorem setBits_one_getLsbD (w : Word) (i : Nat) (b : Bool) {j : Nat} (hj : j < 64) :
    (setBits w i 1 (b2n b)).getLsbD j = if j = i then b else w.getLsbD j := by
  obtain ⟨h, c, l, hl, hc, hn⟩ : ∃ h c l, l < 2 ^ i ∧ c < 2 ∧ w.toNat = 2 ^ i * (2 * h + c) + l :=
    ⟨w.toNat / 2 ^ i / 2, w.toNat / 2 ^ i % 2, w.toNat % 2 ^ i, Nat.mod_lt _ (by positivity), Nat.mod_lt _ (by omega), by
      rw [Nat.div_add_mod, Nat.div_add_mod]⟩
  have digit : bits w.toNat i 1 = c := by
    rw [bits, hn, Nat.mul_add_div (by positivity), Nat.div_eq_of_lt hl]; omega
  have set : w.toNat - bits w.toNat i 1 * 2 ^ i + b2n b % 2 ^ 1 * 2 ^ i = 2 ^ i * (2 * h + b2n b) + l := by
    have hb : b2n b % 2 ^ 1 = b2n b := by cases b <;> rfl
    rw [digit, hb, hn, show 2 ^ i * (2 * h + c) + l = 2 ^ i * (2 * h) + l + c * 2 ^ i by ring, Nat.add_sub_cancel]
    ring
  rw [setBits, set, BitVec.getLsbD_ofNat, BitVec.getLsbD, hn, Nat.testBit_two_pow_mul_add _ hl, Nat.testBit_two_pow_mul_add _ hl]
  rcases lt_trichotomy j i with h1 | rfl | h1
  · simp [hj, h1, h1.ne]
  · cases b <;> simp [hj, b2n]
  · obtain ⟨k, rfl⟩ : ∃ k, j = i + (k + 1) := ⟨j - i - 1, by omega⟩
    have half (d : Nat) (hd : d < 2) : (2 * h + d).testBit (k + 1) = h.testBit k := by rw [Nat.testBit_succ]; congr 1; omega
    have hb : b2n b < 2 := by cases b <;> decide
    simp [hj, half _ hb, half _ hc]

/-- Bit 18 of a breakpoint's control says whether its field names the running context (R433). -/
theorem bpcVal_getLsbD (v : Word) (id : BitVec 32) {j : Nat} (hj : j < 64) :
    (bpcVal v (bits v.toNat 32 32 == id.toNat)).getLsbD j =
      if j = 18 then decide (v.toNat / 2 ^ 32 = id.toNat) else v.getLsbD j := by
  have whole : bits v.toNat 32 32 = v.toNat / 2 ^ 32 := Nat.mod_eq_of_lt (by have := v.isLt; omega)
  rw [bpcVal, setBits_one_getLsbD _ _ _ hj, whole]
  rfl

theorem bpcWrite_writes {s : State} {w : RegW} {i : Fin 4} (busy : (s.core w.core).busy = true) (hreg : w.reg = 0x80 + i.val)
    (hv : bpcOk (s.core w.core).bpc[i] (s.core w.core).bpv[i] w.v = true) :
    ∃ t, exec (.bpcWrite w) s = .next t ∧ ∃ v : Word, slotSet (s.core w.core).bpc (t.core w.core).bpc i.val v ∧
      (t.core w.core).ctx = (s.core w.core).ctx ∧ ∀ j, j < 64 → v.getLsbD j =
        if j = 18 then decide (w.v.toNat / 2 ^ 32 = (s.core w.core).ctx.ctxid.toNat) else w.v.getLsbD j := by
  have inRange : 0x80 ≤ w.reg ∧ w.reg < 0x84 := by omega
  have writes : exec (.bpcWrite w) s = .next (s.at w.core (fun t => t.sysWrite {} w.reg w.v)) := by
    show execBpcWrite w s = _
    simp [execBpcWrite, busy, inRange]
  rw [hreg, State.at_sysWrite (State.regWrite_bpc (s := { s with cur := w.core }) rfl i hv)] at writes
  refine ⟨_, writes, ?_⟩
  rw [State.core_written]
  exact ⟨_, slotSet_setIfInBounds _ _ _, rfl, fun j hj => bpcVal_getLsbD _ _ hj⟩

/-! Registers that are read as events (R288, R320). -/

theorem exec_xstatRead {s : State} {q : RegR} (busy : (s.core q.core).busy = true) :
    exec (.xstatRead q) s = .next (s.setCtxOf q.core { s.ctxOf q.core with
      flight := (s.ctxOf q.core).flight ++
        [{ fin := s.now + 1, born := s.now, code := sCode q.d, slot := .e, val := (s.ctxOf q.core).xstat }]
      xstat := (s.ctxOf q.core).xstat &&& 0x1F }) :=
  if_pos busy

theorem exec_fistatRead (s : State) (q : RegR) :
    exec (.fistatRead q) s = .next (s.setCtxOf q.core { s.ctxOf q.core with
      flight := (s.ctxOf q.core).flight ++
        [{ fin := s.now + 1, born := s.now, code := sCode q.d, slot := .e, val := (s.ctxOf q.core).fistat }]
      fistat := 0 }) := rfl

/-- Settles O47: each clause is the lemma of its event. -/
theorem issueEvents : Obligations.IssueEvents := by
  unfold Obligations.IssueEvents
  intro s r m e c q w b bits256
  refine ⟨fun found faulted fail inb busy stop trip => ?_, engineFault_reports, fun runs hwait hword pa hx hw => ?_,
    fun t0 runs hchk ht pending hword hb => ?_, fun busy => ?_, exec_xstatRead, exec_fistatRead s q⟩
  · have h : s.AtHead r m := ⟨found, faulted, fail, inb, busy, stop, trip⟩
    refine ⟨fun held => ?_, fun may => ⟨fun he => ?_, fun he => starts_xmap h may he, fun he => starts_xpub h may he⟩⟩
    · rw [exec_scoreboardRelease h, held]; rfl
    · exact ⟨starts_mld h may he, starts_mldsp h may he, starts_mstrr h may he, starts_mstr h may he, starts_mzero h may he,
        starts_mpip h may he, starts_mdrain h may he, starts_mabort h may he, starts_mcfg h may he⟩
  · exact ibufFill_fills runs hwait hword hx hw
  · have h : s.Evaluates c b := ⟨runs, ⟨t0, hchk, ht⟩, pending, _, hword, hb⟩
    exact ⟨checkedModeEval_passes h, checkedModeEval_traps h⟩
  · exact ⟨fun _ => formatRegWrite_wfmt busy, fun _ => formatRegWrite_afmt busy, trctlWrite_writes busy,
      fun _ => bpcWrite_writes busy⟩

end Sys2Proof.Machine
end

section
/-! O10: exact values. What a number stands for as a rational, and that sums, products, quotients and roots compute it. -/

namespace Sys2Proof.Machine

/-! Powers of two as factors (`pow2`). -/

theorem cast_pow2_of_nonneg {k : ℤ} (h : 0 ≤ k) : (pow2 k : ℚ) = (2 : ℚ) ^ k := by
  rw [pow2, Nat.cast_pow, Nat.cast_ofNat, ← zpow_natCast, Int.toNat_of_nonneg h]
theorem cast_pow2_of_nonpos {k : ℤ} (h : k ≤ 0) : (pow2 k : ℚ) = 1 := by
  rw [pow2, Int.toNat_of_nonpos h, pow_zero, Nat.cast_one]
theorem pow2_pos (k : ℤ) : 0 < pow2 k := Nat.two_pow_pos _
theorem cast_pow2_eq (k : ℤ) : (pow2 k : ℚ) = 2 ^ k * pow2 (-k) := by
  rcases le_total 0 k with h | h
  · rw [cast_pow2_of_nonneg h, cast_pow2_of_nonpos (by omega), mul_one]
  · rw [cast_pow2_of_nonpos h, cast_pow2_of_nonneg (by omega), ← zpow_add₀ two_ne_zero, add_neg_cancel, zpow_zero]

/-! Numbers without a root. -/

/-- The number stands for the rational `Q.rat`: it has a denominator and no root. -/
def Q.Plain (q : Q) : Prop := q.d ≠ 0 ∧ q.r = 0

theorem Q.rootless_of_plain {q : Q} (h : q.Plain) : q.rootless = q := by simp [Q.rootless, h.2]
theorem Q.rat_eq_zero_iff {q : Q} (h : q.Plain) : q.rat = 0 ↔ q.n = 0 := by
  have hd : (q.d : ℚ) ≠ 0 := Nat.cast_ne_zero.2 h.1
  simp [Q.rat, hd, zpow_ne_zero]
theorem Q.rat_pos_iff {q : Q} (h : q.Plain) : 0 < q.rat ↔ 0 < q.n := by
  have hd : (0 : ℚ) < q.d := Nat.cast_pos.2 (Nat.pos_of_ne_zero h.1)
  rw [Q.rat, mul_pos_iff_of_pos_right (by positivity), div_pos_iff_of_pos_right hd, Int.cast_pos]
theorem Q.rat_neg_iff {q : Q} (h : q.Plain) : q.rat < 0 ↔ q.n < 0 := by
  rw [← not_iff_not, not_lt, not_lt, le_iff_lt_or_eq, le_iff_lt_or_eq, Q.rat_pos_iff h, eq_comm, Q.rat_eq_zero_iff h, eq_comm]
theorem Q.rat_neg (q : Q) : ({ q with n := -q.n } : Q).rat = -q.rat := by
  simp only [Q.rat, Int.cast_neg]; ring
theorem Q.rat_zero : ({ n := 0 } : Q).rat = 0 := by simp [Q.rat]
theorem Q.abs_rat (q : Q) : |q.rat| = (q.n.natAbs : ℚ) / q.d * 2 ^ q.e := by
  rw [Q.rat, abs_mul, abs_div, Nat.abs_cast, abs_of_pos (zpow_pos (two_pos (α := ℚ)) q.e), Nat.cast_natAbs, Int.cast_abs]

theorem Q.add_plain {a b : Q} (ha : a.Plain) (hb : b.Plain) : (a.add b).Plain := by
  rw [Q.add, Q.rootless_of_plain ha, Q.rootless_of_plain hb]
  exact ⟨Nat.mul_ne_zero ha.1 hb.1, rfl⟩
theorem Q.add_rat {a b : Q} (ha : a.Plain) (hb : b.Plain) : (a.add b).rat = a.rat + b.rat := by
  have hda : (a.d : ℚ) ≠ 0 := Nat.cast_ne_zero.2 ha.1
  have hdb : (b.d : ℚ) ≠ 0 := Nat.cast_ne_zero.2 hb.1
  have shift (e : ℤ) (h : min a.e b.e ≤ e) : (2 : ℚ) ^ e = pow2 (e - min a.e b.e) * 2 ^ min a.e b.e := by
    rw [cast_pow2_of_nonneg (by omega), ← zpow_add₀ two_ne_zero, sub_add_cancel]
  rw [Q.add, Q.rootless_of_plain ha, Q.rootless_of_plain hb]
  simp only [Q.rat]
  rw [shift a.e (min_le_left ..), shift b.e (min_le_right ..)]
  push_cast
  field_simp

theorem Q.div_rat {p q : Q} (hp : p.Plain) (hq : q.Plain) (h : q.n ≠ 0) : (p.div q).rat = p.rat / q.rat := by
  have hdp : (p.d : ℚ) ≠ 0 := Nat.cast_ne_zero.2 hp.1
  have hdq : (q.d : ℚ) ≠ 0 := Nat.cast_ne_zero.2 hq.1
  have hn : (q.n : ℚ) ≠ 0 := Int.cast_ne_zero.2 h
  have signed : (((if q.n < 0 then -(p.n * q.d) else p.n * q.d : ℤ)) : ℚ) / (q.n.natAbs : ℚ) = p.n * q.d / q.n := by
    rcases lt_or_gt_of_ne h with neg | pos
    · rw [if_pos neg, Nat.cast_natAbs, abs_of_neg neg]; push_cast; rw [neg_div_neg_eq]
    · rw [if_neg pos.not_gt, Nat.cast_natAbs, abs_of_pos pos]; push_cast; rfl
  rw [Q.div, Q.rootless_of_plain hp, Q.rootless_of_plain hq]
  simp only [Q.rat]
  rw [Nat.cast_mul, mul_comm (p.d : ℚ), ← div_div, signed, zpow_sub₀ two_ne_zero]
  field_simp

/-! Exact sums and products (R34, R48). -/

/-- A finite value whose number, if it has one, stands for a rational. -/
def Ex.Plain (x : Ex) : Prop := x.isFin = true ∧ ∀ q, x = .fin q → q.d ≠ 0 ∧ q.r = 0

theorem Ex.plain_fin {q : Q} (h : q.Plain) : (Ex.fin q).Plain := ⟨rfl, fun _ e => by cases e; exact h⟩
theorem Ex.plain_zero (b : Bool) : (Ex.zero b).Plain := ⟨rfl, fun _ e => by cases e⟩
theorem Ex.Plain.real {x : Ex} (h : x.Plain) : x.real.Plain := by
  cases x with
  | fin q => exact h.2 q rfl
  | _ => exact ⟨one_ne_zero, rfl⟩
theorem Ex.rat_of_isFin {x : Ex} (h : x.isFin = true) : x.rat = some x.real.rat := by
  cases x with
  | fin q => rfl
  | zero b => exact congrArg some Q.rat_zero.symm
  | nan s => cases h
  | inf b => cases h
theorem Ex.rat_getD_of_isFin {x : Ex} (h : x.isFin = true) : x.rat.getD 0 = x.real.rat := by rw [Ex.rat_of_isFin h]; rfl

theorem Q.foldl_add {xs : List Ex} (h : ∀ x ∈ xs, x.Plain) {a : Q} (ha : a.Plain) :
    (xs.foldl (fun a x => Q.add a x.real) a).Plain ∧
      (xs.foldl (fun a x => Q.add a x.real) a).rat = a.rat + (xs.map (fun x => x.rat.getD 0)).sum := by
  induction xs generalizing a with
  | nil => exact ⟨ha, by simp⟩
  | cons x xs ih =>
    obtain ⟨hx, hxs⟩ := List.forall_mem_cons.1 h
    obtain ⟨plain, rat⟩ := ih hxs (Q.add_plain ha hx.real)
    refine ⟨plain, ?_⟩
    rw [List.foldl_cons, rat, Q.add_rat ha hx.real, List.map_cons, List.sum_cons, Ex.rat_getD_of_isFin hx.1, add_assoc]

theorem Ex.not_mem_of_plain {xs : List Ex} (h : ∀ x ∈ xs, x.Plain) {y : Ex} (hy : y.isFin = false) : y ∉ xs :=
  fun m => by simp [(h y m).1] at hy
theorem any_isNan_eq_false {xs : List Ex} (h : ∀ x ∈ xs, x.isNan = false) : xs.any Ex.isNan = false :=
  List.any_eq_false.2 fun x hx => by simp [h x hx]
theorem any_beq_eq_false {xs : List Ex} {y : Ex} (h : y ∉ xs) : xs.any (· == y) = false :=
  List.any_eq_false.2 fun x hx => by simpa using fun e : x = y => h (e ▸ hx)
theorem any_beq_eq_true {xs : List Ex} {y : Ex} (h : y ∈ xs) : xs.any (· == y) = true :=
  List.any_eq_true.2 ⟨y, h, beq_self_eq_true y⟩
theorem Ex.isNan_of_isFin {x : Ex} (h : x.isFin = true) : x.isNan = false := by
  cases x with
  | nan s => cases h
  | _ => rfl

theorem exactSum_of_plain (rm : Rm) {xs : List Ex} (h : ∀ x ∈ xs, x.Plain) :
    exactSum rm xs =
      (let q := xs.foldl (fun a x => Q.add a x.real) { n := 0 }; if q.n == 0 then .zero (zeroSign rm xs) else .fin q, 0) := by
  rw [exactSum, any_isNan_eq_false fun x hx => Ex.isNan_of_isFin (h x hx).1,
    any_beq_eq_false (Ex.not_mem_of_plain h (y := .inf false) rfl), any_beq_eq_false (Ex.not_mem_of_plain h (y := .inf true) rfl)]
  rfl
theorem exactSum_rat (rm : Rm) {xs : List Ex} (h : ∀ x ∈ xs, x.Plain) :
    (exactSum rm xs).1.rat = some ((xs.map (fun x => x.rat.getD 0)).sum) ∧ (exactSum rm xs).2 = 0 := by
  obtain ⟨plain, rat⟩ := Q.foldl_add h (a := { n := 0 }) ⟨one_ne_zero, rfl⟩
  rw [Q.rat_zero, zero_add] at rat
  rw [exactSum_of_plain rm h, ← rat]
  refine ⟨?_, rfl⟩
  dsimp only
  split
  case isTrue hn => rw [(Q.rat_eq_zero_iff plain).2 (by simpa using hn)]; rfl
  case isFalse => rfl
/-- A sum that comes to zero takes the sign of R34. -/
theorem exactSum_eq_zero (rm : Rm) {xs : List Ex} (h : ∀ x ∈ xs, x.Plain) (hs : (xs.map (fun x => x.rat.getD 0)).sum = 0) :
    (exactSum rm xs).1 = .zero (zeroSign rm xs) := by
  obtain ⟨plain, rat⟩ := Q.foldl_add h (a := { n := 0 }) ⟨one_ne_zero, rfl⟩
  rw [Q.rat_zero, zero_add, hs] at rat
  rw [exactSum_of_plain rm h]
  exact if_pos (beq_iff_eq.2 ((Q.rat_eq_zero_iff plain).1 rat))

theorem exactSum_nan (rm : Rm) {xs : List Ex} (h : (∃ x ∈ xs, x.isNan = true) ∨ (.inf false ∈ xs ∧ .inf true ∈ xs)) :
    (exactSum rm xs).1 = .nan false := by
  rw [exactSum]
  rcases h with h | ⟨pos, neg⟩
  · rw [List.any_eq_true.2 h]; rfl
  · rw [any_beq_eq_true pos, any_beq_eq_true neg]; split <;> rfl
theorem exactSum_inf (rm : Rm) {xs : List Ex} {n : Bool} (h : .inf n ∈ xs) (other : .inf (!n) ∉ xs)
    (hnan : ∀ x ∈ xs, x.isNan = false) : exactSum rm xs = (.inf n, 0) := by
  have here := any_beq_eq_true h
  have away := any_beq_eq_false other
  cases n <;> simp only [Bool.not_false, Bool.not_true] at away <;> rw [exactSum, any_isNan_eq_false hnan, here, away] <;> rfl

theorem Q.mul_plain {p q : Q} (hp : p.Plain) (hq : q.Plain) : (p.mul q).Plain := ⟨Nat.mul_ne_zero hp.1 hq.1, rfl⟩
theorem Q.mul_rat (p q : Q) : (p.mul q).rat = p.rat * q.rat := by
  simp only [Q.mul, Q.rat, Int.cast_mul, Nat.cast_mul, zpow_add₀ (two_ne_zero' ℚ)]
  rw [mul_div_mul_comm]; ring
theorem exactMul_fin {p q : Q} (hp : p.Plain) (hq : q.Plain) : exactMul (.fin p) (.fin q) = (.fin (p.mul q), 0) := by
  simp [exactMul, Q.mul, hp.2, hq.2]

theorem fAddX_rat (rm : Rm) {x y : Ex} (hx : x.Plain) (hy : y.Plain) :
    (fAddX rm x y).1.rat = some (x.rat.getD 0 + y.rat.getD 0) := by
  have h : ∀ z ∈ [x, y], z.Plain := by simp [hx, hy]
  simpa [fAddX] using (exactSum_rat rm h).1
theorem fAddX_eq_zero (rm : Rm) {p : Q} {y : Ex} (hp : p.Plain) (hy : y.Plain) (h : p.rat + y.rat.getD 0 = 0) :
    (fAddX rm (.fin p) y).1 = .zero (decide (rm = .rdn)) := by
  have plain : ∀ z ∈ [Ex.fin p, y], z.Plain := by simp [Ex.plain_fin hp, hy]
  rw [fAddX, exactSum_eq_zero rm plain (by simpa [Ex.rat] using h)]
  simp [zeroSign, beq_eq_decide]
theorem fDivX_rat (rm : Rm) {p q : Q} (hp : p.Plain) (hq : q.Plain) (h : q.n ≠ 0) :
    (fDivX rm (.fin p) (.fin q)).1.rat = some (p.rat / q.rat) := congrArg some (Q.div_rat hp hq h)
/-- With finite factors and an addend that is no NaN, `ffma` is the sum of the exact product and the addend. -/
theorem fFmaX_fin (rm : Rm) {p q : Q} (hp : p.Plain) (hq : q.Plain) {z : Ex} (hz : z.isNan = false) :
    fFmaX rm (.fin p) (.fin q) z = fAddX rm (.fin (p.mul q)) z := by
  have product : (exactMul (.fin p) (.fin q)).1 = .fin (p.mul q) := by rw [exactMul_fin hp hq]
  cases z with
  | nan s => cases hz
  | _ => rw [← product]; rfl

/-! The root (R99). -/

theorem isqrtAux_spec (n k t : Nat) (h : t * t ≤ n) (lt : n < (t + 2 ^ k) * (t + 2 ^ k)) :
    isqrtAux n k t * isqrtAux n k t ≤ n ∧ n < (isqrtAux n k t + 1) * (isqrtAux n k t + 1) := by
  induction k generalizing t with
  | zero => exact ⟨h, lt⟩
  | succ k ih =>
    rw [isqrtAux]
    split
    case isTrue hle => exact ih _ hle (by rwa [add_assoc, ← mul_two, ← pow_succ])
    case isFalse hgt => exact ih t h (not_le.1 hgt)
theorem isqrt_spec (n : Nat) : isqrt n * isqrt n ≤ n ∧ n < (isqrt n + 1) * (isqrt n + 1) := by
  refine isqrtAux_spec n _ 0 (Nat.zero_le _) ?_
  rw [zero_add, ← pow_add]
  exact Nat.lt_log2_self.trans_le (Nat.pow_le_pow_right two_pos (by omega))

/-- The radicand of `Q.sqrt` as an integer: `q` times an even power of two and the square of its denominator. -/
def Q.radicand (q : Q) : ℕ := q.n.natAbs * q.d * pow2 (q.e % 2 + 160)
/-- The unit that `Q.sqrt` counts the root in. -/
def Q.rootUnit (q : Q) : ℚ := 2 ^ ((q.e - q.e % 2) / 2 - 80) / q.d

theorem Q.rat_eq_radicand {q : Q} (h : q.Plain) (pos : 0 < q.n) : q.rat = q.radicand * q.rootUnit ^ 2 := by
  have hd : (q.d : ℚ) ≠ 0 := Nat.cast_ne_zero.2 h.1
  have even : (2 : ℚ) ^ q.e = 2 ^ (q.e % 2 + 160) * (2 ^ ((q.e - q.e % 2) / 2 - 80)) ^ 2 := by
    rw [← zpow_natCast, ← zpow_mul, ← zpow_add₀ two_ne_zero]
    congr 1; omega
  have hn : (q.n.natAbs : ℚ) = q.n := by rw [Nat.cast_natAbs, abs_of_pos pos]
  rw [Q.rat, Q.radicand, Q.rootUnit, even, Nat.cast_mul, Nat.cast_mul, cast_pow2_of_nonneg (by omega), hn]
  field_simp
theorem Q.radicand_ge {q : Q} (h : q.Plain) (pos : 0 < q.n) : 2 ^ 160 ≤ q.radicand := by
  have hm : 0 < q.n.natAbs * q.d := Nat.mul_pos (by omega) (Nat.pos_of_ne_zero h.1)
  have hk : 2 ^ 160 ≤ pow2 (q.e % 2 + 160) := Nat.pow_le_pow_right two_pos (by omega)
  exact hk.trans (Nat.le_mul_of_pos_left _ hm)
theorem Q.sqrt_rat {q : Q} (h : q.Plain) : q.sqrt.rat =
    (isqrt q.radicand + if isqrt q.radicand * isqrt q.radicand = q.radicand then 0 else 1 / 2) * q.rootUnit := by
  rw [Q.sqrt, Q.rootless_of_plain h, Q.rootUnit]
  change Q.rat (if isqrt q.radicand * isqrt q.radicand == q.radicand then _ else _) = _
  by_cases exact : isqrt q.radicand * isqrt q.radicand = q.radicand
  · rw [if_pos (beq_iff_eq.2 exact), if_pos exact]
    change (((isqrt q.radicand : ℕ) : ℤ) : ℚ) / q.d * 2 ^ ((q.e - q.e % 2) / 2 - 80) = _
    push_cast; ring
  · rw [if_neg (by simpa using exact), if_neg exact]
    change ((2 * ((isqrt q.radicand : ℕ) : ℤ) + 1 : ℤ) : ℚ) / q.d * 2 ^ ((q.e - q.e % 2) / 2 - 81) = _
    rw [show (q.e - q.e % 2) / 2 - 81 = ((q.e - q.e % 2) / 2 - 80) - 1 by ring, zpow_sub_one₀ two_ne_zero]
    push_cast; ring

theorem Q.sqrt_near {q : Q} (h : q.Plain) (pos : 0 < q.n) : nearRoot q.rat q.sqrt.rat := by
  obtain ⟨le, lt⟩ := isqrt_spec q.radicand
  have big := Q.radicand_ge h pos
  have root : 2 ^ 80 ≤ isqrt q.radicand := by
    by_contra small
    have : (isqrt q.radicand + 1) * (isqrt q.radicand + 1) ≤ 2 ^ 80 * 2 ^ 80 := Nat.mul_le_mul (by omega) (by omega)
    omega
  have unit : 0 < q.rootUnit := div_pos (zpow_pos two_pos _) (Nat.cast_pos.2 (Nat.pos_of_ne_zero h.1))
  rw [Q.sqrt_rat h, Q.rat_eq_radicand h pos]
  generalize isqrt q.radicand = t at *
  generalize q.radicand = m at *
  generalize q.rootUnit = u at *
  have rootQ : (2 : ℚ) ^ 80 ≤ t := by exact_mod_cast root
  have tpos : (0 : ℚ) < t := lt_of_lt_of_le (by positivity) rootQ
  by_cases exact : t * t = m
  · rw [if_pos exact, add_zero]
    exact ⟨mul_pos tpos unit, .inl (by rw [← exact]; push_cast; ring)⟩
  · rw [if_neg exact]
    refine ⟨by positivity, .inr ⟨t * u, (t + 1) * u, mul_pos tpos unit, ?_, ?_, ?_, ?_, ?_⟩⟩
    · gcongr; linarith
    · gcongr; linarith
    · have : ((t * t : ℕ) : ℚ) < m := by exact_mod_cast lt_of_le_of_ne le exact
      calc t * u * (t * u) = ((t * t : ℕ) : ℚ) * u ^ 2 := by push_cast; ring
        _ < m * u ^ 2 := by gcongr
    · have : (m : ℚ) < ((t + 1) * (t + 1) : ℕ) := by exact_mod_cast lt
      calc (m : ℚ) * u ^ 2 < ((t + 1) * (t + 1) : ℕ) * u ^ 2 := by gcongr
        _ = (t + 1) * u * ((t + 1) * u) := by push_cast; ring
    · rw [le_div_iff₀ (by positivity)]
      calc ((t + 1) * u - t * u) * 2 ^ 80 = 2 ^ 80 * u := by ring
        _ ≤ t * u := by gcongr

theorem fSqrtX_near {q : Q} (h : q.Plain) (pos : 0 < q.n) :
    ∃ v, (fSqrtX (.fin q)).1.rat = some v ∧ nearRoot q.rat v ∧ (fSqrtX (.fin q)).2 = 0 := by
  have root : fSqrtX (.fin q) = (.fin q.sqrt, 0) := if_neg (by simpa using pos.le)
  rw [root]
  exact ⟨_, rfl, Q.sqrt_near h pos, rfl⟩

end Sys2Proof.Machine
end

section
/-! O9: rounding and encoding. The model's exponent, quanta and encoding agree with the rounding of R30 on rationals. -/

namespace Sys2Proof.Machine

/-! The exponent and the quanta of a number. -/

theorem two_pow_log2_le {n : ℕ} (h : n ≠ 0) : (2 : ℚ) ^ (Nat.log2 n : ℤ) ≤ n := by
  rw [zpow_natCast]; exact_mod_cast Nat.log2_self_le h
theorem lt_two_pow_log2_add_one (n : ℕ) : (n : ℚ) < 2 ^ ((Nat.log2 n : ℤ) + 1) := by
  exact_mod_cast (Nat.lt_log2_self (n := n))

theorem Q.abs_rat_pos {q : Q} (h : q.Plain) (hn : q.n ≠ 0) : 0 < |q.rat| := abs_pos.2 ((Q.rat_eq_zero_iff h).not.2 hn)
/-- The exponent of a number, from that of its fraction. -/
theorem Q.log_of_bounds {q : Q} (h : q.Plain) (hn : q.n ≠ 0) {m : ℤ} (low : (q.d : ℚ) * 2 ^ m ≤ q.n.natAbs)
    (high : (q.n.natAbs : ℚ) < q.d * 2 ^ (m + 1)) : m + q.e = Int.log 2 |q.rat| := by
  have posD : (0 : ℚ) < q.d := Nat.cast_pos.2 (Nat.pos_of_ne_zero h.1)
  apply le_antisymm
  · rw [← Int.zpow_le_iff_le_log one_lt_two (Q.abs_rat_pos h hn), Nat.cast_ofNat, Q.abs_rat, zpow_add₀ two_ne_zero]
    gcongr
    rwa [le_div_iff₀ posD, mul_comm]
  · rw [← Int.lt_add_one_iff, ← Int.lt_zpow_iff_log_lt one_lt_two (Q.abs_rat_pos h hn), Nat.cast_ofNat, Q.abs_rat, add_right_comm,
      zpow_add₀ two_ne_zero]
    gcongr
    rwa [div_lt_iff₀ posD, mul_comm]
theorem Q.log2_eq {q : Q} (h : q.Plain) (hn : q.n ≠ 0) : q.log2 = Int.log 2 |q.rat| := by
  have lowA := two_pow_log2_le (Int.natAbs_ne_zero.2 hn)
  have highA := lt_two_pow_log2_add_one q.n.natAbs
  have lowD := two_pow_log2_le h.1
  have highD := lt_two_pow_log2_add_one q.d
  rw [Q.log2, Q.rootless_of_plain h]
  dsimp only [Int.ofNat_eq_natCast]
  set m : ℤ := (Nat.log2 q.n.natAbs : ℤ) - Nat.log2 q.d with hm
  have fits : q.d * pow2 m ≤ q.n.natAbs * pow2 (-m) ↔ (q.d : ℚ) * 2 ^ m ≤ q.n.natAbs := by
    have pos : (0 : ℚ) < pow2 (-m) := Nat.cast_pos.2 (pow2_pos _)
    rw [← Nat.cast_le (α := ℚ), Nat.cast_mul, Nat.cast_mul, cast_pow2_eq m, ← mul_assoc, mul_le_mul_iff_left₀ pos]
  by_cases ok : q.d * pow2 m ≤ q.n.natAbs * pow2 (-m)
  · rw [if_pos ok]
    refine Q.log_of_bounds h hn (fits.1 ok) (highA.trans_le ?_)
    calc (2 : ℚ) ^ ((Nat.log2 q.n.natAbs : ℤ) + 1) = 2 ^ (Nat.log2 q.d : ℤ) * 2 ^ (m + 1) := by
          rw [← zpow_add₀ two_ne_zero]; congr 1; omega
      _ ≤ q.d * 2 ^ (m + 1) := by gcongr
  · rw [if_neg ok]
    refine Q.log_of_bounds h hn (le_trans ?_ lowA) (by rw [sub_add_cancel]; exact not_le.1 (fits.not.1 ok))
    calc (q.d : ℚ) * 2 ^ (m - 1) ≤ 2 ^ ((Nat.log2 q.d : ℤ) + 1) * 2 ^ (m - 1) := by gcongr
      _ = 2 ^ (Nat.log2 q.n.natAbs : ℤ) := by rw [← zpow_add₀ two_ne_zero]; congr 1; omega

theorem Q.over_snd_ne_zero {q : Q} (h : q.Plain) (s : ℤ) : (q.over s).2 ≠ 0 := by
  rw [Q.over, Q.rootless_of_plain h]
  exact Nat.mul_ne_zero h.1 (pow2_pos _).ne'
theorem Q.over_ratio {q : Q} (h : q.Plain) (s : ℤ) : ((q.over s).1 : ℚ) / (q.over s).2 = |q.rat| / 2 ^ s := by
  have hd : (q.d : ℚ) ≠ 0 := Nat.cast_ne_zero.2 h.1
  have hp : (pow2 (s - q.e) : ℚ) ≠ 0 := Nat.cast_ne_zero.2 (pow2_pos _).ne'
  rw [Q.over, Q.rootless_of_plain h, Q.abs_rat]
  simp only [Nat.cast_mul]
  rw [cast_pow2_eq (q.e - s), neg_sub, zpow_sub₀ two_ne_zero]
  field_simp

/-! R30 on rationals, as a count of quanta. -/

/-- Whether R30 counts one quantum more than the `k` whole ones, `f` of another being left. -/
def countsUp (rm : Rm) (x : ℚ) (k : ℤ) (f : ℚ) : Bool :=
  match rm with
  | .rne => decide (1 / 2 < f) || (decide (f = 1 / 2) && decide (k % 2 = 1))
  | .rtz => false
  | .rup => decide (0 < x) && decide (0 < f)
  | .rdn => decide (x < 0) && decide (0 < f)
/-- The count of quanta `2^s` that R30 gives the magnitude of `x`. -/
def roundCount (x : ℚ) (s : ℤ) (rm : Rm) : ℕ :=
  if countsUp rm x ⌊|x| / 2 ^ s⌋₊ (Int.fract (|x| / 2 ^ s)) then ⌊|x| / 2 ^ s⌋₊ + 1 else ⌊|x| / 2 ^ s⌋₊
/-- The exponent of R30's quantum. -/
def quantumExp (x : ℚ) (t : ETy) : ℤ := max (Int.log 2 |x|) (ETy.emin t) - ETy.mant t

theorem ratio_nonneg (x : ℚ) (s : ℤ) : 0 ≤ |x| / 2 ^ s := by positivity
theorem roundR30_eq (x : ℚ) (t : ETy) (rm : Rm) :
    roundR30 x t rm = (if x < 0 then -1 else 1) * roundCount x (quantumExp x t) rm * 2 ^ quantumExp x t := by
  have floor : ((⌊|x| / 2 ^ quantumExp x t⌋₊ : ℕ) : ℤ) = ⌊|x| / 2 ^ quantumExp x t⌋ := Int.natCast_floor_eq_floor (ratio_nonneg _ _)
  change (if x < 0 then (-1 : ℚ) else 1) *
    (if countsUp rm x ⌊|x| / 2 ^ quantumExp x t⌋ (Int.fract (|x| / 2 ^ quantumExp x t)) then (⌊|x| / 2 ^ quantumExp x t⌋ : ℚ) + 1
      else ⌊|x| / 2 ^ quantumExp x t⌋) * 2 ^ quantumExp x t = _
  rw [roundCount, ← floor]
  push_cast
  rfl

theorem roundCount_le {x : ℚ} {s : ℤ} {n : ℕ} (rm : Rm) (h : |x| / 2 ^ s < n) : roundCount x s rm ≤ n := by
  have := (Nat.floor_lt (ratio_nonneg x s)).2 h
  rw [roundCount]; split <;> omega
theorem le_roundCount {x : ℚ} {s : ℤ} {n : ℕ} (rm : Rm) (h : n ≤ |x| / 2 ^ s) : n ≤ roundCount x s rm := by
  have := Nat.le_floor h
  rw [roundCount]; split <;> omega
/-- A rounding keeps the value where no part of a quantum is left, and there alone. -/
theorem roundCount_eq_iff (x : ℚ) (s : ℤ) (rm : Rm) : (roundCount x s rm : ℚ) = |x| / 2 ^ s ↔ Int.fract (|x| / 2 ^ s) = 0 := by
  have parts : (⌊|x| / 2 ^ s⌋₊ : ℚ) + Int.fract (|x| / 2 ^ s) = |x| / 2 ^ s := by
    rw [natCast_floor_eq_intCast_floor (ratio_nonneg x s)]; exact Int.floor_add_fract _
  have below := Int.fract_lt_one (|x| / 2 ^ s)
  rw [roundCount]
  constructor
  · intro eq
    split at eq
    · push_cast at eq; linarith
    · linarith
  · intro whole
    have still : countsUp rm x ⌊|x| / 2 ^ s⌋₊ 0 = false := by cases rm <;> simp [countsUp]
    rw [whole, add_zero] at parts
    rw [whole, still]
    exact parts

/-- A part below half a quantum rounds as any other such part. -/
theorem countsUp_small (rm : Rm) (x : ℚ) (k : ℤ) {f g : ℚ} (hf : 0 < f) (hf2 : f < 1 / 2) (hg : 0 < g) (hg2 : g < 1 / 2) :
    countsUp rm x k f = countsUp rm x k g := by
  cases rm with
  | rne => rw [countsUp, countsUp, decide_eq_false hf2.not_gt, decide_eq_false hg2.not_gt, decide_eq_false hf2.ne, decide_eq_false hg2.ne]
  | rtz => rfl
  | rup => rw [countsUp, countsUp, decide_eq_true hf, decide_eq_true hg]
  | rdn => rw [countsUp, countsUp, decide_eq_true hf, decide_eq_true hg]

/-- The model's rounding of a fraction `a / b` of quanta. -/
theorem roundQ_of_parts {q : Q} (h : q.Plain) {s : ℤ} (rm : Rm) {a b : ℕ} (hb : b ≠ 0)
    (parts : (if q.log2 + 2 < s then (1, 4) else q.over s) = (a, b)) :
    roundQ q s rm = (if countsUp rm q.rat (a / b : ℕ) (((a % b : ℕ) : ℚ) / b) then a / b + 1 else a / b, decide (a % b ≠ 0)) := by
  have posB : (0 : ℚ) < b := Nat.cast_pos.2 (Nat.pos_of_ne_zero hb)
  have some_left : (0 : ℚ) < ((a % b : ℕ) : ℚ) / b ↔ 0 < a % b := by rw [div_pos_iff_of_pos_right posB, Nat.cast_pos]
  have above : (1 / 2 : ℚ) < ((a % b : ℕ) : ℚ) / b ↔ b < 2 * (a % b) := by
    rw [div_lt_div_iff₀ two_pos posB, one_mul, mul_comm]; exact_mod_cast Iff.rfl
  have half : ((a % b : ℕ) : ℚ) / b = 1 / 2 ↔ 2 * (a % b) = b := by
    rw [div_eq_div_iff posB.ne' two_ne_zero, one_mul, mul_comm]; exact_mod_cast Iff.rfl
  rw [roundQ, parts]
  cases rm with
  | rne => simp only [countsUp, above, half, beq_eq_decide, gt_iff_lt, bne, decide_not]; norm_cast
  | rtz => simp [countsUp, bne, beq_eq_decide]
  | rup => simp only [countsUp, some_left, Q.rat_pos_iff h, gt_iff_lt, bne, beq_eq_decide, decide_not]
  | rdn => simp only [countsUp, some_left, Q.rat_neg_iff h, gt_iff_lt, bne, beq_eq_decide, decide_not]

theorem fract_natCast_div (a : ℕ) {b : ℕ} (hb : b ≠ 0) : Int.fract ((a : ℚ) / b) = ((a % b : ℕ) : ℚ) / b := by
  have hb' : (b : ℚ) ≠ 0 := Nat.cast_ne_zero.2 hb
  rw [← Int.self_sub_floor, ← natCast_floor_eq_intCast_floor (by positivity), Nat.floor_div_eq_div, sub_eq_iff_eq_add,
    div_add' _ _ _ hb', div_left_inj' hb']
  exact_mod_cast (Nat.mod_add_div' a b).symm

/-- The model's rounding is R30's, and tells whether it changed the value. -/
theorem roundQ_eq {q : Q} (h : q.Plain) (hn : q.n ≠ 0) (s : ℤ) (rm : Rm) :
    roundQ q s rm = (roundCount q.rat s rm, decide (Int.fract (|q.rat| / 2 ^ s) ≠ 0)) := by
  by_cases far : q.log2 + 2 < s
  · have pos : 0 < |q.rat| / 2 ^ s := div_pos (Q.abs_rat_pos h hn) (zpow_pos two_pos s)
    have small : |q.rat| / 2 ^ s < 1 / 4 := by
      rw [div_lt_iff₀ (zpow_pos two_pos s)]
      calc |q.rat| < (2 : ℚ) ^ (q.log2 + 1) := by
            rw [Q.log2_eq h hn]; exact_mod_cast Int.lt_zpow_succ_log_self (b := 2) one_lt_two |q.rat|
        _ ≤ 2 ^ (s - 2) := zpow_le_zpow_right₀ one_le_two (by omega)
        _ = 1 / 4 * 2 ^ s := by rw [zpow_sub₀ two_ne_zero]; norm_num; ring
    have whole : ⌊|q.rat| / 2 ^ s⌋₊ = 0 := Nat.floor_eq_zero.2 (by linarith)
    have left : Int.fract (|q.rat| / 2 ^ s) = |q.rat| / 2 ^ s := Int.fract_eq_self.2 ⟨pos.le, by linarith⟩
    rw [roundQ_of_parts h rm four_ne_zero (if_pos far), roundCount, whole, left,
      countsUp_small rm _ _ pos (by linarith) (g := ((1 % 4 : ℕ) : ℚ) / (4 : ℕ)) (by norm_num) (by norm_num), decide_eq_true pos.ne']
    rfl
  · have hb := Q.over_snd_ne_zero h s
    have hb' : ((q.over s).2 : ℚ) ≠ 0 := Nat.cast_ne_zero.2 hb
    rw [roundQ_of_parts (a := (q.over s).1) (b := (q.over s).2) h rm hb (if_neg far),
      roundCount, ← Q.over_ratio h, fract_natCast_div _ hb, Nat.floor_div_eq_div]
    simp [hb']

end Sys2Proof.Machine
end

section
/-! O9: encodings of the floating formats. What an encoding's magnitude stands for, and that Encode gives R30's rounding. -/

namespace Sys2Proof.Machine

/-! The magnitude that an encoding stands for (R26). -/

/-- The significand of the encoding `b` of a magnitude. -/
def sigOf (t : ETy) (b : ℕ) : ℕ := if b / 2 ^ ETy.mant t = 0 then b % 2 ^ ETy.mant t else 2 ^ ETy.mant t + b % 2 ^ ETy.mant t
/-- The exponent of its last digit. -/
def ulpOf (t : ETy) (b : ℕ) : ℤ := ETy.emin t - ETy.mant t + (b / 2 ^ ETy.mant t - 1 : ℕ)
/-- The magnitude. -/
def magRat (t : ETy) (b : ℕ) : ℚ := sigOf t b * 2 ^ ulpOf t b

/-- An encoding counts quanta from the start of a binade, the top of which is the start of the next. -/
theorem magRat_add (t : ETy) {c k : ℕ} (high : k ≤ 2 ^ (ETy.mant t + 1)) (low : c = 0 ∨ 2 ^ ETy.mant t ≤ k) :
    magRat t (c * 2 ^ ETy.mant t + k) = k * 2 ^ (ETy.emin t - ETy.mant t + c) := by
  have pos : 0 < 2 ^ ETy.mant t := Nat.two_pow_pos _
  have top : (c * 2 ^ ETy.mant t + k) / 2 ^ ETy.mant t = c + k / 2 ^ ETy.mant t := by
    rw [mul_comm, Nat.mul_add_div pos]
  have rest : (c * 2 ^ ETy.mant t + k) % 2 ^ ETy.mant t = k % 2 ^ ETy.mant t := Nat.mul_add_mod' ..
  rw [magRat, sigOf, ulpOf, top, rest]
  generalize ETy.emin t - ETy.mant t = e
  rw [pow_succ] at high
  generalize 2 ^ ETy.mant t = M at *
  rcases Nat.lt_or_ge k M with sub | norm
  · obtain rfl : c = 0 := by omega
    rw [Nat.div_eq_of_lt sub, Nat.mod_eq_of_lt sub]; simp
  · have split := Nat.div_add_mod k M
    rcases Nat.lt_or_ge k (M * 2) with normal | binade
    · have one : k / M = 1 := by rw [Nat.div_eq_iff pos]; omega
      rw [one] at split ⊢
      rw [if_neg (by omega), show M + k % M = k by omega]; simp
    · obtain rfl : k = M * 2 := by omega
      rw [Nat.mul_div_cancel_left _ pos, Nat.mul_mod_right, if_neg (by omega), show c + 2 - 1 = c + 1 by omega]
      push_cast
      rw [← add_assoc, zpow_add_one₀ two_ne_zero]; ring
theorem exists_binade (t : ETy) (b : ℕ) :
    ∃ c k, b = c * 2 ^ ETy.mant t + k ∧ k < 2 ^ (ETy.mant t + 1) ∧ (c = 0 ∨ 2 ^ ETy.mant t ≤ k) := by
  have pos : 0 < 2 ^ ETy.mant t := Nat.two_pow_pos _
  have split := Nat.div_add_mod' b (2 ^ ETy.mant t)
  have rest := Nat.mod_lt b pos
  rw [pow_succ]
  generalize 2 ^ ETy.mant t = M at *
  rcases Nat.eq_zero_or_pos (b / M) with zero | norm
  · exact ⟨0, b, by omega, by rw [zero] at split; omega, .inl rfl⟩
  · obtain ⟨c, hc⟩ := Nat.exists_eq_add_of_le' norm
    rw [hc, Nat.succ_mul] at split
    exact ⟨c, M + b % M, by omega, by omega, .inr (by omega)⟩
theorem magRat_strictMono (t : ETy) : StrictMono (magRat t) := by
  refine strictMono_nat_of_lt_succ fun b => ?_
  obtain ⟨c, k, rfl, high, low⟩ := exists_binade t b
  rw [add_assoc, magRat_add t high.le low, magRat_add t (Nat.succ_le_of_lt high) (low.imp_right fun h => by omega)]
  have : (0 : ℚ) < 2 ^ (ETy.emin t - ETy.mant t + c) := zpow_pos two_pos _
  push_cast
  nlinarith

/-! Decode of an encoding up to MaxFinite. -/

theorem isInt_of_isFloat {t : ETy} (h : ETy.isFloat t = true) : ETy.isInt t = false := by revert h; cases t <;> decide
theorem beq_lg6_of_isFloat {t : ETy} (h : ETy.isFloat t = true) : (t == .lg6) = false := by revert h; cases t <;> decide
theorem maxBits_lt_signBit {t : ETy} (h : ETy.isFloat t = true) : ETy.maxBits t < ETy.signBit t := by
  revert h; cases t <;> decide
theorem withSign_eq (t : ETy) (ng : Bool) (b : ℕ) : withSign t ng b = ETy.signBit t * ng.toNat + b := by
  cases ng <;> simp [withSign]
/-- The fields of an encoding with its sign. -/
theorem fields_withSign {t : ETy} (h : ETy.isFloat t = true) (ng : Bool) {b : ℕ} (hb : b < ETy.signBit t) :
    withSign t ng b % 2 ^ ETy.bits t = withSign t ng b ∧ bit (withSign t ng b) (ETy.bits t - 1) = ng ∧
      bits (withSign t ng b) (ETy.mant t) (ETy.bits t - 1 - ETy.mant t) = b / 2 ^ ETy.mant t ∧
      withSign t ng b % 2 ^ ETy.mant t = b % 2 ^ ETy.mant t := by
  obtain ⟨X, hX⟩ : ∃ X, ETy.bits t = ETy.mant t + X + 1 := 
    Nat.exists_eq_add_of_lt (show ETy.mant t < ETy.bits t by cases t <;> decide)
  rw [withSign_eq, ETy.signBit, bits, bit] at *
  rw [hX] at hb ⊢
  simp only [Nat.add_sub_cancel, Nat.add_sub_cancel_left] at hb ⊢
  generalize ETy.mant t = M at *
  have one := ng.toNat_le
  have word : 2 ^ (M + X) * ng.toNat + b = 2 ^ M * (2 ^ X * ng.toNat) + b := by rw [pow_add, mul_assoc]
  refine ⟨Nat.mod_eq_of_lt ?_, ?_, ?_, ?_⟩
  · rw [pow_succ]
    calc 2 ^ (M + X) * ng.toNat + b ≤ 2 ^ (M + X) * 1 + b := by gcongr
      _ < 2 ^ (M + X) * 2 := by omega
  · rw [Nat.mul_add_div (Nat.two_pow_pos _), Nat.div_eq_of_lt hb]
    cases ng <;> rfl
  · rw [word, Nat.mul_add_div (Nat.two_pow_pos _), Nat.mul_add_mod]
    exact Nat.mod_eq_of_lt (Nat.div_lt_of_lt_mul (by rwa [← pow_add]))
  · rw [word, Nat.mul_add_mod]
/-- Up to MaxFinite no encoding is a NaN or an infinity (R26). -/
theorem exponent_of_le_maxBits {t : ETy} (h : ETy.isFloat t = true) {b : ℕ} (hb : b ≤ ETy.maxBits t) :
    (t == .f8a && b / 2 ^ ETy.mant t == 15 && b % 2 ^ ETy.mant t == 7) = false ∧
      (t != .f8a && b / 2 ^ ETy.mant t == 2 ^ (ETy.bits t - 1 - ETy.mant t) - 1) = false := by
  cases t <;> simp [ETy.isFloat, ETy.maxBits, ETy.bits, ETy.mant] at h hb ⊢ <;> omega
theorem decodeEl_withSign {t : ETy} (h : ETy.isFloat t = true) (ng : Bool) {b : ℕ} (hb : b ≤ ETy.maxBits t) :
    decodeEl (withSign t ng b) t = Ex.dy (if ng then -(sigOf t b : ℤ) else sigOf t b) (ulpOf t b) ng := by
  obtain ⟨width, sign, exponent, mantissa⟩ := fields_withSign h ng (hb.trans_lt (maxBits_lt_signBit h))
  obtain ⟨nan, inf⟩ := exponent_of_le_maxBits h hb
  simp only [decodeEl, width, sign, exponent, mantissa, nan, inf, isInt_of_isFloat h, beq_lg6_of_isFloat h, Bool.false_eq_true, if_false]
  rw [sigOf, ulpOf]
  by_cases sub : b / 2 ^ ETy.mant t = 0
  · simp [sub]
  · have exponent : ETy.emin t + ((b / 2 ^ ETy.mant t : ℕ) : ℤ) - 1 - ETy.mant t =
        ETy.emin t - ETy.mant t + ((b / 2 ^ ETy.mant t - 1 : ℕ) : ℤ) := by omega
    simp only [sub, beq_iff_eq, if_false, exponent, Nat.cast_add, Nat.cast_pow, Nat.cast_ofNat, Int.natCast_mod]

theorem Ex.rat_dy (n e : ℤ) (z : Bool) : (Ex.dy n e z).rat = some ((n : ℚ) * 2 ^ e) := by
  rw [Ex.dy]
  split
  case isTrue h => rw [beq_iff_eq.1 h]; simp [Ex.rat]
  case isFalse => simp [Ex.rat, Q.rat]
theorem rat_decodeEl_withSign {t : ETy} (h : ETy.isFloat t = true) (ng : Bool) {b : ℕ} (hb : b ≤ ETy.maxBits t) :
    (decodeEl (withSign t ng b) t).rat = some ((if ng then -1 else 1) * magRat t b) := by
  rw [decodeEl_withSign h ng hb, Ex.rat_dy, magRat]
  cases ng <;> simp
theorem rat_decodeEl_maxBits {t : ETy} (h : ETy.isFloat t = true) : (decodeEl (ETy.maxBits t) t).rat = some (magRat t (ETy.maxBits t)) := by
  simpa [withSign] using rat_decodeEl_withSign h false le_rfl

/-! Encode (R31). -/

theorem quantumExp_eq (x : ℚ) (t : ETy) :
    quantumExp x t = ETy.emin t - ETy.mant t + ((max (Int.log 2 |x|) (ETy.emin t) - ETy.emin t).toNat : ℕ) := by
  rw [quantumExp, Int.toNat_of_nonneg (by omega)]; ring
theorem lt_zpow_log_add_one {x : ℚ} {e : ℤ} (h : Int.log 2 |x| ≤ e) : |x| < 2 ^ (e + 1) :=
  calc |x| < (2 : ℚ) ^ (Int.log 2 |x| + 1) := by exact_mod_cast Int.lt_zpow_succ_log_self (b := 2) one_lt_two |x|
    _ ≤ 2 ^ (e + 1) := zpow_le_zpow_right₀ one_le_two (by omega)

/-- The encoding of a rounded number stands for the magnitude of its rounding. -/
theorem magRat_roundBits {q : Q} (h : q.Plain) (hn : q.n ≠ 0) (t : ETy) (rm : Rm) :
    magRat t (roundBits q t rm).1 = roundCount q.rat (quantumExp q.rat t) rm * 2 ^ quantumExp q.rat t := by
  have two (k : ℤ) : (0 : ℚ) < 2 ^ k := zpow_pos two_pos k
  rw [roundBits, roundQ_eq h hn, Q.log2_eq h hn]
  rw [magRat_add, ← quantumExp_eq]
  · rfl
  · refine roundCount_le rm ?_
    rw [div_lt_iff₀ (two _)]
    calc |q.rat| < 2 ^ (max (Int.log 2 |q.rat|) (ETy.emin t) + 1) := lt_zpow_log_add_one (le_max_left ..)
      _ = ((2 ^ (ETy.mant t + 1) : ℕ) : ℚ) * 2 ^ (max (Int.log 2 |q.rat|) (ETy.emin t) - ETy.mant t) := by
        rw [Nat.cast_pow, ← zpow_natCast, Nat.cast_ofNat, ← zpow_add₀ two_ne_zero]; congr 1; push_cast; ring
  · rcases le_total (Int.log 2 |q.rat|) (ETy.emin t) with sub | norm
    · exact .inl (by rw [max_eq_right sub, sub_self]; rfl)
    · refine .inr (le_roundCount rm ?_)
      rw [max_eq_left norm, le_div_iff₀ (two _)]
      calc ((2 ^ ETy.mant t : ℕ) : ℚ) * 2 ^ (Int.log 2 |q.rat| - ETy.mant t) = 2 ^ Int.log 2 |q.rat| := by
            rw [Nat.cast_pow, ← zpow_natCast, Nat.cast_ofNat, ← zpow_add₀ two_ne_zero]; congr 1; ring
        _ ≤ |q.rat| := by exact_mod_cast Int.zpow_log_le_self (b := 2) one_lt_two (Q.abs_rat_pos h hn)

theorem abs_roundR30 (x : ℚ) (t : ETy) (rm : Rm) :
    |roundR30 x t rm| = roundCount x (quantumExp x t) rm * 2 ^ quantumExp x t := by
  rw [roundR30_eq, mul_assoc, abs_mul]
  have sign : |(if x < 0 then -1 else 1 : ℚ)| = 1 := by split <;> simp
  rw [sign, one_mul, abs_of_nonneg (by positivity)]
theorem roundR30_eq_sign (x : ℚ) (t : ETy) (rm : Rm) : roundR30 x t rm = (if x < 0 then -1 else 1) * |roundR30 x t rm| := by
  rw [abs_roundR30, roundR30_eq, mul_assoc]
/-- A rounding keeps the value where no part of a quantum is left. -/
theorem roundR30_eq_self_iff (x : ℚ) (t : ETy) (rm : Rm) :
    roundR30 x t rm = x ↔ Int.fract (|x| / 2 ^ quantumExp x t) = 0 := by
  have two : (0 : ℚ) < 2 ^ quantumExp x t := zpow_pos two_pos _
  have sign : x = (if x < 0 then -1 else 1) * |x| := by
    split
    case isTrue h => rw [abs_of_neg h]; ring
    case isFalse h => rw [abs_of_nonneg (not_lt.1 h), one_mul]
  rw [← roundCount_eq_iff x _ rm, eq_div_iff two.ne', ← abs_roundR30]
  constructor
  · intro h; rw [h]
  · intro h; rw [roundR30_eq_sign, h, ← sign]

/-- Encode of a number that fits a floating type, without input flush. -/
theorem encodeEl_fin_of_le {t : ETy} (h : ETy.isFloat t = true) (q : Q) (rm : Rm) (sat : Bool)
    (fits : (roundBits q t rm).1 ≤ ETy.maxBits t) :
    encodeEl (.fin q) t rm false sat = (withSign t (decide (q.n < 0)) (roundBits q t rm).1,
      if (roundBits q t rm).2 then (if q.log2 < ETy.emin t then Fl.uf ||| Fl.nx else Fl.nx) else 0) := by
  simp [encodeEl, isInt_of_isFloat h, beq_lg6_of_isFloat h, fits]
theorem roundBits_le_maxBits {q : Q} (h : q.Plain) (hn : q.n ≠ 0) {t : ETy} (ht : ETy.isFloat t = true) {rm : Rm}
    (fits : |roundR30 q.rat t rm| ≤ (decodeEl (ETy.maxBits t) t).rat.getD 0) : (roundBits q t rm).1 ≤ ETy.maxBits t := by
  rw [rat_decodeEl_maxBits ht, abs_roundR30, ← magRat_roundBits h hn] at fits
  exact (magRat_strictMono t).le_iff_le.1 fits

theorem decode_encodeEl {q : Q} (h : q.Plain) (hn : q.n ≠ 0) {t : ETy} (ht : ETy.isFloat t = true) {rm : Rm} (sat : Bool)
    (fits : (roundBits q t rm).1 ≤ ETy.maxBits t) :
    (decodeEl (encodeEl (.fin q) t rm false sat).1 t).rat = some (roundR30 q.rat t rm) := by
  rw [encodeEl_fin_of_le ht q rm sat fits, rat_decodeEl_withSign ht _ fits, magRat_roundBits h hn, ← abs_roundR30]
  simp only [decide_eq_true_iff, ← Q.rat_neg_iff h, ← roundR30_eq_sign]
theorem encodeEl_nx {q : Q} (h : q.Plain) (hn : q.n ≠ 0) {t : ETy} (ht : ETy.isFloat t = true) {rm : Rm} (sat : Bool)
    (fits : (roundBits q t rm).1 ≤ ETy.maxBits t) :
    (encodeEl (.fin q) t rm false sat).2 &&& Fl.nx = 0 ↔ roundR30 q.rat t rm = q.rat := by
  have changed : (roundBits q t rm).2 = decide (Int.fract (|q.rat| / 2 ^ quantumExp q.rat t) ≠ 0) := by
    rw [roundBits, roundQ_eq h hn, Q.log2_eq h hn]; rfl
  rw [encodeEl_fin_of_le ht q rm sat fits, roundR30_eq_self_iff, changed]
  by_cases whole : Int.fract (|q.rat| / 2 ^ quantumExp q.rat t) = 0
  · simp [whole]
  · simp only [whole, ne_eq, not_false_eq_true, decide_true, if_true, iff_false]
    split <;> decide

/-- Settles O9: the count of quanta is R30's, and its encoding decodes to it. -/
theorem encodeRounds : Obligations.EncodeRounds := by
  unfold Obligations.EncodeRounds
  intro q t rm sat ht hn hd hr fits
  have plain : q.Plain := ⟨hd, hr⟩
  have le := roundBits_le_maxBits plain hn ht fits
  exact ⟨decode_encodeEl plain hn ht sat le, encodeEl_nx plain hn ht sat le⟩

end Sys2Proof.Machine
end

section
/-! O7, O15: floating arithmetic and the division by zero as instructions. -/

namespace Sys2Proof.Machine

/-- Settles O7: each form's exact result is rounded once, and `State.finish` puts it in flight. -/
theorem floatArithmetic : Obligations.FloatArithmetic := by
  unfold Obligations.FloatArithmetic
  intro s x y z
  have binary (lat : ℕ) (op : Rm → Ex → Ex → Ex × Fl) :
      let r := fWord (op x.rm (s.ctx.fsrc x.t x.ftz x.a) (s.ctx.fsrc x.t x.ftz x.b)) x.t x.rm x.ftz x.sat
      s.ctx.acts x.g lat → s.ctx.enabled r.2 = false →
        s.fbin x lat op = .next (s.gives x.g .m lat (sCode x.d) r.1 none r.2) :=
    fun acts quiet => State.finish_gives .m (sCode x.d) _ none acts quiet
  exact ⟨binary 4 fAddX, binary 4 fSubX, binary 4 fMulX, binary 14 fDivX,
    fun acts quiet => State.finish_gives .m (sCode y.d) _ none acts quiet,
    fun acts quiet => State.finish_gives .m (sCode z.d) _ none acts quiet⟩

/-! What has landed reaches its register, whatever FPSTAT holds. -/

theorem Ctx.deliver_fpstat (x : Ctx) (f : Flight) : (x.deliver f).fpstat = x.fpstat := by
  show (x.write f.code f.val f.row).fpstat = _
  unfold Ctx.write
  cases f.row <;> split_ifs <;> rfl
theorem Ctx.write_s (x : Ctx) (code : Nat) (v : Word) (row : Option Row) :
    (x.write code v row).s = if code ≠ 0 ∧ code < 0x40 then x.s.setIfInBounds code v else x.s := by
  unfold Ctx.write
  by_cases zero : code = 0
  · simp [zero]
  · by_cases main : code < 0x40
    · simp [zero, main]
    · simp only [beq_iff_eq, zero, main, if_false, and_false]
      cases row <;> split_ifs <;> rfl
theorem Ctx.foldl_settleStep_fpstat (t0 : Nat) (l : List Flight) (x : Ctx) :
    (l.foldl (Ctx.settleStep t0) x).fpstat = x.fpstat := by
  induction l generalizing x with
  | nil => rfl
  | cons f l ih =>
    rw [List.foldl_cons, ih, Ctx.settleStep]
    split
    · exact x.deliver_fpstat f
    · rfl
theorem Ctx.foldl_settleStep_s (t0 : Nat) (l : List Flight) {x y : Ctx} (h : x.s = y.s) :
    (l.foldl (Ctx.settleStep t0) x).s = (l.foldl (Ctx.settleStep t0) y).s := by
  induction l generalizing x y with
  | nil => exact h
  | cons f l ih =>
    refine ih ?_
    rw [Ctx.settleStep, Ctx.settleStep]
    split
    · show (x.write f.code f.val f.row).s = (y.write f.code f.val f.row).s
      rw [Ctx.write_s, Ctx.write_s, h]
    · exact h
theorem Ctx.settle_fpstat (x : Ctx) (t0 : Nat) : (x.settle t0).fpstat = x.fpstat := by
  rw [Ctx.settle_eq, Ctx.foldl_settleStep_fpstat]
theorem Ctx.settle_orFlags_s (x : Ctx) (fl : Fl) (t0 : Nat) : ((x.orFlags fl).settle t0).s = (x.settle t0).s := by
  rw [Ctx.settle_eq, Ctx.settle_eq]
  exact Ctx.foldl_settleStep_s t0 _ rfl

/-! A trap that no handler takes is reported (R403, R410). -/

/-- The context that a reported trap leaves: settled, at the resume PC, with nothing issuing. -/
theorem State.takeTrap_reports (s : State) (c : CoreId) (r : TrapRec) (t0 : Nat) (h : (s.ctxOf c).trapvec.getLsbD 0 = false) :
    ((s.takeTrap c r t0).ctxOf c).flight = ((s.ctxOf c).settle t0).flight ∧ ((s.takeTrap c r t0).ctxOf c).s = ((s.ctxOf c).settle t0).s ∧
      ((s.takeTrap c r t0).ctxOf c).fpstat = (s.ctxOf c).fpstat ∧
      ∃ st v, ((s.takeTrap c r t0).core c).stop = some st ∧ st.why = .report ∧ st.rcd = some v ∧ v.cls = r.cls ∧ v.slot = r.slot ∧
        v.esw = r.esw ∧ v.pc = r.pc ∧ v.rpc = r.rpc := by
  have unhandled : (((s.core c).ctx.settle t0).trapvec.getLsbD 0 && !((s.core c).ctx.settle t0).ih && r.cls != .bkpt) = false := by
    rw [Ctx.settle_trapvec, show (s.core c).ctx.trapvec.getLsbD 0 = false from h]; rfl
  unfold State.takeTrap
  simp only [unhandled, Bool.false_eq_true, if_false, State.core_setCore, State.ctxOf_setCore]
  exact ⟨rfl, rfl, Ctx.settle_fpstat _ _, _, _, rfl, rfl, rfl, rfl, rfl, rfl, rfl, rfl⟩

/-- ARITH at a place where no handler takes it, in a bundle that has raised no other flag. -/
theorem State.arith_reports {s : State} {g : Guard} {slot : Slot} {fl : Fl} (alive : s.ctx.faultKills g = false)
    (alone : s.ctx.raised = 0) (h : s.ctx.trapvec.getLsbD 0 = false) :
    let t := s.arith g slot fl
    t.ctx.flight = (s.ctx.settle s.now).flight ∧ t.ctx.s = (s.ctx.settle s.now).s ∧ t.ctx.fpstat = s.ctx.fpstat ||| fl.setWidth 64 ∧
      ∃ r st, (t.core s.cur).stop = some st ∧ st.why = .report ∧ st.rcd = some r ∧ r.cls = .arith ∧ r.slot = slot ∧
        r.esw = (fl.setWidth 5).setWidth 64 ∧ r.pc = s.ctx.pc ∧ r.rpc = s.ctx.pc := by
  obtain ⟨flight, regs, flags, st, v, stop, why, rcd, cls, hslot, esw, pc, rpc⟩ :=
    State.takeTrap_reports (s.setCtx (s.ctx.orFlags fl)) s.cur
      { cls := .arith, slot, pc := s.ctx.pc, rpc := s.ctx.pc, seq := s.ctx.lastSeq, esw := (fl.setWidth 5).setWidth 64 } s.now
      (by rw [State.setCtx, State.ctxOf_setCtxOf]; exact h)
  rw [State.setCtx, State.ctxOf_setCtxOf] at flight regs flags
  rw [Ctx.settle_flight] at flight ⊢
  rw [Ctx.settle_orFlags_s] at regs
  have lives : ¬(s.core s.cur).ctx.faultKills g = true := by rw [show (s.core s.cur).ctx.faultKills g = false from alive]; decide
  have raised : fl ||| (s.core s.cur).ctx.raised = fl := by rw [show (s.core s.cur).ctx.raised = 0 from alone]; simp
  rw [State.arith, if_neg lives, raised]
  simp only [State.ctx, State.takeTrap_cur, State.setCtx_cur, State.setCore_cur, State.core_setCore, State.ctxOf_setCore]
  exact ⟨flight, regs, flags, v, st, stop, why, rcd, cls, hslot, esw, pc, rpc⟩

theorem divRes_zero (signed : Bool) (a : Word) : (divRes signed a 0).2.2 = Fl.dz := by
  cases signed <;> rfl
theorem Ctx.enabled_dz {c : Ctx} (h : c.fpstat.getLsbD 19 = true) : c.enabled Fl.dz = true := by
  rw [Ctx.enabled, bne_iff_ne]
  intro none_set
  have bit3 := congrArg (fun w => w.getLsbD 3) none_set
  rw [BitVec.getLsbD_eq_getElem (by decide)] at h
  simp [Fl.dz, h] at bit3

/-- Settles O15: `State.finish` raises ARITH, and no handler takes it. -/
theorem enabledFlagRaisesArith : Obligations.EnabledFlagRaisesArith := by
  unfold Obligations.EnabledFlagRaisesArith
  intro s x acts alive zero enabled alone unhandled
  have raises : exec (.div x) s = .next (s.arith x.g .m Fl.dz) := by
    show s.finish x.g .m 14 (sCode x.d) _ none (divRes true (s.ctx.src x.a) (s.ctx.src x.b)).2.2 = _
    rw [zero, divRes_zero]
    exact State.finish_arith .m _ _ none acts (Ctx.enabled_dz enabled)
  obtain ⟨flight, regs, flags, reported⟩ := State.arith_reports (slot := .m) (fl := Fl.dz) alive alone unhandled
  exact ⟨_, raises, flight, regs, flags, reported⟩

end Sys2Proof.Machine
end

section
/-! O10: signed digits. The pips of an encoding and the digits that a weight keeps are those of the non-adjacent form (R44, R271). -/

namespace Sys2Proof.Machine

/-! A loop from the highest position down. -/

theorem foldl_range_reverse {α : Type} {P : ℕ → α → Prop} {f : α → ℕ → α} (step : ∀ i a, P (i + 1) a → P i (f a i)) (m : ℕ) (a : α)
    (h : P m a) : P 0 ((List.range m).reverse.foldl f a) := by
  induction m generalizing a with
  | zero => exact h
  | succ m ih =>
    rw [List.range_succ, List.reverse_append]
    exact ih _ (step m a h)

/-! The digits of the non-adjacent form. -/

/-- Half of the number, the addend whose bits the digits are told from. -/
def nafHalf (n : ℕ) : ℕ := bits n 1 40
/-- Digit `i`. -/
def nafDigit (n i : ℕ) : ℤ :=
  if bit (n + nafHalf n) i && !bit (nafHalf n) i then 1 else if bit (nafHalf n) i && !bit (n + nafHalf n) i then -1 else 0
/-- The number that the digits from `i` on stand for, as a count of `2^i`. -/
def nafHigh (n i : ℕ) : ℤ := ((n + nafHalf n) / 2 ^ i : ℕ) - (nafHalf n / 2 ^ i : ℕ)
/-- What `topDigits` does at position `i`. -/
def nafStep (n k : ℕ) (a : ℤ × ℕ) (i : ℕ) : ℤ × ℕ :=
  if nafDigit n i == 0 || a.2 == k then a else (a.1 + nafDigit n i * 2 ^ i, a.2 + 1)
theorem topDigits_eq (n k : ℕ) : topDigits n k = (List.range 48).reverse.foldl (nafStep n k) (0, 0) := rfl

theorem nafStep_of_zero {n k i : ℕ} (a : ℤ × ℕ) (h : nafDigit n i = 0) : nafStep n k a i = a := by simp [nafStep, h]
theorem nafStep_of_full {n k i : ℕ} {a : ℤ × ℕ} (h : a.2 = k) : nafStep n k a i = a := by simp [nafStep, h]
theorem nafStep_of_digit {n k i : ℕ} {a : ℤ × ℕ} (h : nafDigit n i ≠ 0) (room : a.2 ≠ k) :
    nafStep n k a i = (a.1 + nafDigit n i * 2 ^ i, a.2 + 1) := by simp [nafStep, h, room]

theorem div_two_pow_succ (x i : ℕ) : ((x / 2 ^ i : ℕ) : ℤ) = 2 * (x / 2 ^ (i + 1) : ℕ) + (bit x i).toInt := by
  rw [pow_succ, ← Nat.div_div_eq_div_mul, bit]
  generalize x / 2 ^ i = y
  rcases Nat.mod_two_eq_zero_or_one y with even | odd
  · rw [even]; simp only [show ((0 : ℕ) == 1) = false from rfl, Bool.toInt_false]; omega
  · rw [odd]; simp only [beq_self_eq_true, Bool.toInt_true]; omega
theorem nafDigit_eq (n i : ℕ) : nafDigit n i = (bit (n + nafHalf n) i).toInt - (bit (nafHalf n) i).toInt := by
  rw [nafDigit]
  cases bit (n + nafHalf n) i <;> cases bit (nafHalf n) i <;> rfl
theorem nafDigit_ne_zero_iff (n i : ℕ) : nafDigit n i ≠ 0 ↔ bit (n + nafHalf n) i ≠ bit (nafHalf n) i := by
  rw [nafDigit]
  cases bit (n + nafHalf n) i <;> cases bit (nafHalf n) i <;> decide
theorem nafHigh_eq (n i : ℕ) : nafHigh n i = 2 * nafHigh n (i + 1) + nafDigit n i := by
  rw [nafHigh, div_two_pow_succ (n + nafHalf n), div_two_pow_succ (nafHalf n), nafHigh, nafDigit_eq]; ring
theorem nafHigh_mul (n i : ℕ) : 2 ^ i * nafHigh n i = 2 ^ (i + 1) * nafHigh n (i + 1) + nafDigit n i * 2 ^ i := by
  rw [nafHigh_eq]; ring
theorem nafHigh_zero (n : ℕ) : nafHigh n 0 = n := by simp [nafHigh]
theorem nafHalf_eq {n : ℕ} (h : n < 2 ^ 24) : nafHalf n = n / 2 := Nat.mod_eq_of_lt (by omega)
theorem nafHigh_top {n : ℕ} (h : n < 2 ^ 24) : nafHigh n 48 = 0 := by
  rw [nafHigh, nafHalf_eq h, Nat.div_eq_of_lt (by omega), Nat.div_eq_of_lt (by omega)]; rfl
/-- What the digits below position `i` stand for, from the sum of the number and its half, with the carry into position `i`. -/
theorem nafHigh_carry {n i : ℕ} (hn : n < 2 ^ 24) : ∃ c y e : ℕ, e < 2 ∧ y < 2 ^ i ∧ c * 2 ^ i ≤ 3 * y + e ∧ 3 * y + e < (c + 1) * 2 ^ i ∧
    (n : ℤ) - 2 ^ i * nafHigh n i = 2 * y + e - c * 2 ^ i ∧ (nafDigit n i ≠ 0 ↔ c % 2 = 1) := by
  have pos : 0 < 2 ^ i := Nat.two_pow_pos i
  have half := nafHalf_eq hn
  have hsplit := Nat.div_add_mod (nafHalf n) (2 ^ i)
  have csplit := Nat.div_add_mod (3 * (nafHalf n % 2 ^ i) + n % 2) (2 ^ i)
  have sum : n + nafHalf n = 2 ^ i * (3 * (nafHalf n / 2 ^ i)) + (3 * (nafHalf n % 2 ^ i) + n % 2) := by
    have : 2 ^ i * (3 * (nafHalf n / 2 ^ i)) = 3 * (2 ^ i * (nafHalf n / 2 ^ i)) := by ring
    omega
  have top : (n + nafHalf n) / 2 ^ i = 3 * (nafHalf n / 2 ^ i) + (3 * (nafHalf n % 2 ^ i) + n % 2) / 2 ^ i := by
    rw [sum, Nat.mul_add_div pos]
  refine ⟨(3 * (nafHalf n % 2 ^ i) + n % 2) / 2 ^ i, nafHalf n % 2 ^ i, n % 2, by omega, Nat.mod_lt _ pos,
    Nat.div_mul_le_self .., Nat.lt_mul_of_div_lt (Nat.lt_succ_self _) pos, ?_, ?_⟩
  · have number : (n : ℤ) = 2 * (2 ^ i * (nafHalf n / 2 ^ i : ℕ) + (nafHalf n % 2 ^ i : ℕ)) + (n % 2 : ℕ) := by
      have : n = 2 * (2 ^ i * (nafHalf n / 2 ^ i) + nafHalf n % 2 ^ i) + n % 2 := by omega
      exact_mod_cast this
    rw [nafHigh, top, Nat.cast_add, Nat.cast_mul, Nat.cast_ofNat, number]
    ring
  · rw [nafDigit_ne_zero_iff, bit, bit, top, ne_eq, Bool.eq_iff_iff, beq_iff_eq, beq_iff_eq]
    omega
theorem three_mul_ne_two_pow (y i : ℕ) : 3 * y ≠ 2 ^ i := fun h => by
  have := (Nat.Prime.dvd_of_dvd_pow Nat.prime_three (h ▸ dvd_mul_right 3 y : 3 ∣ 2 ^ i))
  omega
/-- A digit that is not zero leaves less than a third of its place below it (no two such digits are adjacent). -/
theorem nafDigit_rest {n i : ℕ} (hn : n < 2 ^ 24) (h : nafDigit n i ≠ 0) : 3 * |(n : ℤ) - 2 ^ i * nafHigh n i| < 2 ^ i := by
  obtain ⟨c, y, e, he, hy, low, high, rest, odd⟩ := nafHigh_carry (i := i) hn
  have not_third := three_mul_ne_two_pow y i
  have hodd := odd.1 h
  have one : c = 1 := by
    by_contra other
    have : 3 * 2 ^ i ≤ c * 2 ^ i := Nat.mul_le_mul_right _ (by omega)
    omega
  rw [rest, one]
  rw [one] at low high
  have cast : ((2 ^ i : ℕ) : ℤ) = 2 ^ i := by push_cast; rfl
  rw [← cast]
  generalize 2 ^ i = B at *
  rcases abs_cases (2 * (y : ℤ) + e - (1 : ℕ) * B) with ⟨abs, _⟩ | ⟨abs, _⟩ <;> rw [abs] <;> omega
theorem nafHigh_odd {n i : ℕ} (h : nafDigit n i ≠ 0) : ¬ (2 : ℤ) ∣ nafHigh n i := by
  rw [nafHigh_eq]
  have unit : nafDigit n i = 1 ∨ nafDigit n i = -1 := by
    revert h
    rw [nafDigit]
    cases bit (n + nafHalf n) i <;> cases bit (nafHalf n) i <;> decide
  omega

/-! What `topDigits` keeps. -/

/-- After position `i` either every digit from there on is kept, or the `k` highest are, down to one that is not zero. -/
def KeepsTop (n k i : ℕ) (a : ℤ × ℕ) : Prop :=
  (a.2 < k ∧ a.1 = 2 ^ i * nafHigh n i) ∨ (a.2 = k ∧ (k = 0 ∨ ∃ j, nafDigit n j ≠ 0 ∧ a.1 = 2 ^ j * nafHigh n j))
theorem nafStep_keepsTop (n k i : ℕ) (a : ℤ × ℕ) (h : KeepsTop n k (i + 1) a) : KeepsTop n k i (nafStep n k a i) := by
  rcases h with ⟨room, all⟩ | ⟨full, top⟩
  · have mul := nafHigh_mul n i
    by_cases zero : nafDigit n i = 0
    · rw [nafStep_of_zero a zero]
      exact .inl ⟨room, by rw [all, mul, zero]; ring⟩
    · rw [nafStep_of_digit zero room.ne, all, ← mul]
      rcases Nat.lt_or_ge (a.2 + 1) k with more | last
      · exact .inl ⟨more, rfl⟩
      · exact .inr ⟨show a.2 + 1 = k by omega, .inr ⟨i, zero, rfl⟩⟩
  · rw [nafStep_of_full full]
    exact .inr ⟨full, top⟩
theorem topDigits_keepsTop {n : ℕ} (hn : n < 2 ^ 24) (k : ℕ) : KeepsTop n k 0 (topDigits n k) := by
  rw [topDigits_eq]
  refine foldl_range_reverse (nafStep_keepsTop n k) 48 _ ?_
  rcases Nat.eq_zero_or_pos k with rfl | pos
  · exact .inr ⟨rfl, .inl rfl⟩
  · exact .inl ⟨pos, by rw [nafHigh_top hn, mul_zero]⟩

/-- Forty-eight digits are all that there are. -/
theorem topDigits_all {n : ℕ} (hn : n < 2 ^ 24) : (topDigits n 48).1 = n := by
  have whole : ∀ i a, a.2 + (i + 1) ≤ 48 ∧ a.1 = 2 ^ (i + 1) * nafHigh n (i + 1) →
      (nafStep n 48 a i).2 + i ≤ 48 ∧ (nafStep n 48 a i).1 = 2 ^ i * nafHigh n i := by
    rintro i a ⟨count, all⟩
    have mul := nafHigh_mul n i
    by_cases zero : nafDigit n i = 0
    · rw [nafStep_of_zero a zero]
      exact ⟨by omega, by rw [all, mul, zero]; ring⟩
    · rw [nafStep_of_digit zero (by omega), mul, all]
      exact ⟨show a.2 + 1 + i ≤ 48 by omega, rfl⟩
  have result := (foldl_range_reverse (P := fun i a => a.2 + i ≤ 48 ∧ a.1 = 2 ^ i * nafHigh n i) whole 48 (0, 0)
    ⟨le_rfl, by rw [nafHigh_top hn, mul_zero]⟩).2
  rw [topDigits_eq, result, nafHigh_zero]; ring

/-- The digits that a weight keeps (R271). -/
theorem topDigits_spec {n : ℕ} (hn : n < 2 ^ 24) (k : ℕ) : (topDigits n k).2 ≤ k ∧ (topDigits n 48).1 = n ∧
    ((topDigits n k).1 = n ∨ k = 0 ∨ ∃ i : ℕ, (2 ^ i : ℤ) ∣ (topDigits n k).1 ∧ ¬ (2 ^ (i + 1) : ℤ) ∣ (topDigits n k).1 ∧
      3 * |(n : ℤ) - (topDigits n k).1| < 2 ^ i) := by
  rcases topDigits_keepsTop hn k with ⟨room, all⟩ | ⟨full, zero | ⟨i, digit, top⟩⟩
  · exact ⟨room.le, topDigits_all hn, .inl (by rw [all, nafHigh_zero]; ring)⟩
  · exact ⟨full.le, topDigits_all hn, .inr (.inl zero)⟩
  · refine ⟨full.le, topDigits_all hn, .inr (.inr ⟨i, ?_, ?_, ?_⟩)⟩
    · rw [top]; exact dvd_mul_right ..
    · rw [top, pow_succ, mul_dvd_mul_iff_left (by positivity)]; exact nafHigh_odd digit
    · rw [top]; exact nafDigit_rest hn digit

/-! Pips (R44). -/

theorem bit_xor (x y i : ℕ) : bit (x ^^^ y) i = (bit x i ^^ bit y i) := by
  rw [bit_eq_testBit, bit_eq_testBit, bit_eq_testBit, Nat.testBit_xor]
theorem popcount_eq_topDigits (n : ℕ) : popcount (nafHalf n ^^^ (n + nafHalf n)) 48 = (topDigits n 48).2 := by
  have counts : ∀ i (a : ℤ × ℕ), (a.2 + (i + 1) ≤ 48 ∧
        a.2 + popcount (nafHalf n ^^^ (n + nafHalf n)) (i + 1) = popcount (nafHalf n ^^^ (n + nafHalf n)) 48) →
      (nafStep n 48 a i).2 + i ≤ 48 ∧
        (nafStep n 48 a i).2 + popcount (nafHalf n ^^^ (n + nafHalf n)) i = popcount (nafHalf n ^^^ (n + nafHalf n)) 48 := by
    rintro i a ⟨count, sum⟩
    rw [← sum, popcount, bit_xor]
    by_cases zero : nafDigit n i = 0
    · have same := not_not.1 ((nafDigit_ne_zero_iff n i).not.1 (not_not.2 zero))
      rw [nafStep_of_zero a zero, same]
      simp only [bne_self_eq_false, Bool.false_eq_true, if_false]
      omega
    · have differ := (nafDigit_ne_zero_iff n i).1 zero
      rw [nafStep_of_digit zero (by omega), if_pos (by simpa using differ.symm)]
      dsimp only
      omega
  have result := (foldl_range_reverse (P := fun i (a : ℤ × ℕ) => a.2 + i ≤ 48 ∧
    a.2 + popcount (nafHalf n ^^^ (n + nafHalf n)) i = popcount (nafHalf n ^^^ (n + nafHalf n)) 48) counts 48 (0, 0)
    ⟨le_rfl, Nat.zero_add _⟩).2
  exact result.symm

end Sys2Proof.Machine
end

section
/-! O10: decoded values. What a decoded number is made of, its pips, and that FP32 encodings are kept by a decoding and an encoding. -/

namespace Sys2Proof.Machine

/-! The number that Decode gives (R26, R29). -/

theorem Ex.ofInt_eq_fin {n : ℤ} {q : Q} (h : Ex.ofInt n = .fin q) : q = { n := n } := by
  unfold Ex.ofInt at h
  split at h
  case isTrue => cases h
  case isFalse => cases h; rfl
theorem Ex.dy_eq_fin {n e : ℤ} {z : Bool} {q : Q} (h : Ex.dy n e z = .fin q) : q = { n := n, e := e } := by
  unfold Ex.dy at h
  split at h
  case isTrue => cases h
  case isFalse => cases h; rfl

/-- The significand that a pattern of a floating type holds. -/
def sigBits (t : ETy) (b : ℕ) : ℕ :=
  if bits b (ETy.mant t) (ETy.bits t - 1 - ETy.mant t) == 0 then b % 2 ^ ETy.mant t else 2 ^ ETy.mant t + b % 2 ^ ETy.mant t

/-- A number decoded from a type other than LG6: an integer, or a signed significand. -/
theorem decodeEl_fin {b : ℕ} {t : ETy} {q : Q} (h : decodeEl b t = .fin q) (ht : t ≠ .lg6) :
    q.Plain ∧ (ETy.isFloat t = true → q.n.natAbs = sigBits t (b % 2 ^ ETy.bits t)) := by
  have notLog : (t == .lg6) = false := by simpa using ht
  cases hi : ETy.isInt t with
  | true =>
    simp only [decodeEl, hi, if_true] at h
    rw [Ex.ofInt_eq_fin h]
    exact ⟨⟨one_ne_zero, rfl⟩, fun float => absurd hi (by rw [isInt_of_isFloat float]; decide)⟩
  | false =>
    simp only [decodeEl, hi, notLog, Bool.false_eq_true, if_false] at h
    split at h
    · cases h
    split at h
    · split at h <;> cases h
    · rw [Ex.dy_eq_fin h]
      refine ⟨⟨one_ne_zero, rfl⟩, fun _ => ?_⟩
      dsimp only
      rw [apply_ite Int.natAbs, Int.natAbs_neg, ite_self, sigBits]
      split <;> norm_cast
theorem decodeEl_real_plain (b : ℕ) {t : ETy} (ht : t ≠ .lg6) : (decodeEl b t).real.Plain := by
  cases h : decodeEl b t with
  | fin q => exact (decodeEl_fin h ht).1
  | _ => exact ⟨one_ne_zero, rfl⟩

theorem decodeEl_mod (b : ℕ) (t : ETy) : decodeEl (b % 2 ^ ETy.bits t) t = decodeEl b t := by
  simp only [decodeEl, Nat.mod_mod]
/-- The pips of a number are the digits of its significand (R44). -/
theorem pips_fin {b : ℕ} {t : ETy} {q : Q} (h : decodeEl b t = .fin q) :
    pips b t = if t = .lg6 then 1 else (topDigits q.n.natAbs 48).2 := by
  by_cases ht : t = .lg6
  · simp only [pips, decodeEl_mod, h, beq_iff_eq, if_pos ht]
  · have digits : (if ETy.isFloat t then sigBits t (b % 2 ^ ETy.bits t) else q.n.natAbs) = q.n.natAbs := by
      split
      case isTrue float => exact ((decodeEl_fin h ht).2 float).symm
      case isFalse => rfl
    rw [if_neg ht, ← popcount_eq_topDigits, ← digits]
    simp only [pips, decodeEl_mod, h, beq_iff_eq, if_neg ht, nafHalf, sigBits]

/-! An FP32 encoding is kept. -/

theorem sigOf_eq_zero_iff (t : ETy) (b : ℕ) : sigOf t b = 0 ↔ b = 0 := by
  have split := Nat.div_add_mod b (2 ^ ETy.mant t)
  have pos : 0 < 2 ^ ETy.mant t := Nat.two_pow_pos _
  rw [sigOf]
  constructor
  · intro h
    split at h
    case isTrue zero => rw [zero] at split; omega
    case isFalse => omega
  · rintro rfl; simp
theorem sigOf_number (t : ETy) (b : ℕ) : ({ n := sigOf t b, e := ulpOf t b } : Q).rat = magRat t b := by simp [Q.rat, magRat]
/-- What an encoding stands for is a whole number of quanta. -/
theorem magRat_whole (t : ETy) (b : ℕ) : Int.fract (|magRat t b| / 2 ^ quantumExp (magRat t b) t) = 0 := by
  obtain ⟨c, k, rfl, high, low⟩ := exists_binade t b
  rw [magRat_add t high.le low]
  rcases Nat.eq_zero_or_pos k with rfl | pos
  · simp
  · have two (e : ℤ) : (0 : ℚ) < 2 ^ e := zpow_pos two_pos e
    have mag : (0 : ℚ) < k * 2 ^ (ETy.emin t - ETy.mant t + c) := mul_pos (Nat.cast_pos.2 pos) (two _)
    have exponent : Int.log 2 |(k : ℚ) * 2 ^ (ETy.emin t - ETy.mant t + c)| ≤ ETy.emin t + c := by
      rw [abs_of_pos mag, ← Int.lt_add_one_iff, ← Int.lt_zpow_iff_log_lt one_lt_two mag, Nat.cast_ofNat]
      calc (k : ℚ) * 2 ^ (ETy.emin t - ETy.mant t + c) < (2 ^ (ETy.mant t + 1) : ℕ) * 2 ^ (ETy.emin t - ETy.mant t + c) := by
            gcongr
        _ = 2 ^ (ETy.emin t + c + 1) := by
            rw [Nat.cast_pow, ← zpow_natCast, Nat.cast_ofNat, ← zpow_add₀ two_ne_zero]; congr 1; push_cast; ring
    have quanta : quantumExp (k * 2 ^ (ETy.emin t - ETy.mant t + c)) t ≤ ETy.emin t - ETy.mant t + c := by
      rw [quantumExp]; omega
    generalize quantumExp (k * 2 ^ (ETy.emin t - ETy.mant t + c)) t = s at quanta ⊢
    obtain ⟨d, hd⟩ := Int.le.dest quanta
    rw [abs_of_pos mag, mul_div_assoc, ← hd, ← zpow_sub₀ two_ne_zero, add_sub_cancel_left, zpow_natCast]
    exact_mod_cast Int.fract_natCast (R := ℚ) (k * 2 ^ d)
/-- A number that an encoding stands for encodes as it. -/
theorem encodeEl_sigOf {t : ETy} (ht : ETy.isFloat t = true) {b : ℕ} (hb : b ≤ ETy.maxBits t) (rm : Rm) (sat : Bool) :
    (encodeEl (Ex.dy (sigOf t b) (ulpOf t b) false) t rm false sat).1 = b := by
  rw [Ex.dy]
  by_cases zero : sigOf t b = 0
  · rw [zero, (sigOf_eq_zero_iff t b).1 zero]
    simp [encodeEl, isInt_of_isFloat ht, beq_lg6_of_isFloat ht, withSign]
  · set q : Q := { n := sigOf t b, e := ulpOf t b } with hq
    have plain : q.Plain := ⟨one_ne_zero, rfl⟩
    have hn : q.n ≠ 0 := Int.natCast_ne_zero.2 zero
    have rat : q.rat = magRat t b := sigOf_number t b
    have kept : (roundBits q t rm).1 = b := by
      apply (magRat_strictMono t).injective
      rw [magRat_roundBits plain hn, rat, (roundCount_eq_iff _ _ rm).2 (magRat_whole t b), div_mul_cancel₀ _ (zpow_ne_zero _ two_ne_zero),
        abs_of_nonneg (by rw [magRat]; positivity)]
    rw [if_neg (by simpa using zero), encodeEl_fin_of_le ht q rm sat (kept.trans_le hb), kept]
    rfl
theorem e32_decodeEl {b : ℕ} (hb : b < 0x7F800000) : e32 (decodeEl b .f32) = b := by
  have le : b ≤ ETy.maxBits .f32 := Nat.le_of_lt_succ hb
  have decoded := decodeEl_withSign (t := .f32) rfl false le
  rw [withSign_eq, Bool.toNat_false, mul_zero, zero_add] at decoded
  rw [e32, decoded]
  exact encodeEl_sigOf rfl le .rne false

/-- The digits that a weight keeps, from its FP32 encoding (R271). -/
theorem truncP_decodeEl {b : ℕ} (hb : b < 0x7F800000) (k : ℕ) :
    let n := b % 2 ^ 23 + if b / 2 ^ 23 = 0 then 0 else 2 ^ 23
    (truncP (decodeEl b .f32) k).1.rat = some (((topDigits n k).1 : ℚ) * (2 : ℚ) ^ (((max (b / 2 ^ 23) 1 : ℕ) : ℤ) - 150)) ∧
      (truncP (decodeEl b .f32) k).2 = (topDigits n k).2 := by
  have exponent : bits b 23 8 = b / 2 ^ 23 := Nat.mod_eq_of_lt (by omega)
  have mantissa : bits b 0 23 = b % 2 ^ 23 := by rw [bits, pow_zero, Nat.div_one]
  simp only [truncP, e32_decodeEl hb, exponent, mantissa, beq_iff_eq]
  exact ⟨Ex.rat_dy .., trivial⟩

end Sys2Proof.Machine
end

section
/-! O10: arrays. A stream's words, the sums in groups of R49 and R50, and the times of its steps (R235, R236, R240, R241). -/

namespace Sys2Proof.Machine

/-! Groups of a list. -/

theorem getElem?_blocks {α : Type} (g k : ℕ) (ys : List α) (i : ℕ) :
    (groupsOf.blocks g k ys)[i]? = if i < k then some ((ys.drop (i * g)).take g) else none := by
  induction k generalizing ys i with
  | zero => simp [groupsOf.blocks]
  | succ k ih =>
    cases i with
    | zero => simp [groupsOf.blocks]
    | succ i => simp [groupsOf.blocks, ih, List.drop_drop, Nat.succ_mul, Nat.add_comm]
theorem lt_ceilDiv_iff {g : ℕ} (hg : g ≠ 0) (n i : ℕ) : i < ceilDiv n g ↔ i * g < n := by
  have pos := Nat.pos_of_ne_zero hg
  rw [ceilDiv, ← Nat.succ_le_iff, Nat.le_div_iff_mul_le pos, Nat.succ_mul]
  omega
theorem getElem?_groupsOf {α : Type} {g : ℕ} (hg : g ≠ 0) (xs : List α) (i : ℕ) :
    (groupsOf g xs)[i]? = if i * g < xs.length then some ((xs.drop (i * g)).take g) else none := by
  rw [groupsOf, getElem?_blocks]
  simp only [lt_ceilDiv_iff hg]
theorem length_groupsOf {α : Type} (g : ℕ) (xs : List α) : (groupsOf g xs).length = (xs.length + g - 1) / g := by
  have blocks (k : ℕ) (ys : List α) : (groupsOf.blocks g k ys).length = k := by
    induction k generalizing ys with
    | zero => rfl
    | succ k ih => rw [groupsOf.blocks, List.length_cons, ih]
  exact blocks _ _
theorem groupsOf_map {α β : Type} {g : ℕ} (hg : g ≠ 0) (f : α → β) (xs : List α) :
    groupsOf g (xs.map f) = (groupsOf g xs).map (List.map f) := by
  apply List.ext_getElem?
  intro i
  rw [List.getElem?_map, getElem?_groupsOf hg, getElem?_groupsOf hg, List.length_map, apply_ite (Option.map (List.map f))]
  simp
/-- A fold over the groups, group by group. -/
theorem foldl_groupsOf {α β : Type} {g : ℕ} (hg : g ≠ 0) (f : β → List α → β) (a : β) (xs : List α) :
    ∃ acc : ℕ → β, acc 0 = a ∧ (groupsOf g xs).foldl f a = acc ((xs.length + g - 1) / g) ∧
      ∀ q, q * g < xs.length → acc (q + 1) = f (acc q) ((xs.drop (q * g)).take g) := by
  refine ⟨fun q => ((groupsOf g xs).take q).foldl f a, rfl, ?_, fun q hq => ?_⟩
  · dsimp only
    rw [← length_groupsOf, List.take_length]
  · have here := getElem?_groupsOf hg xs q
    rw [if_pos hq] at here
    dsimp only
    rw [List.take_add_one, here, Option.toList_some, List.foldl_concat]

/-! Sums in groups (R49, R50). -/

theorem accF_fst (ftz : Bool) (acc : Ex) (terms : List (Ex × Fl)) (fl : Fl) :
    (accF ftz acc terms fl).1 = flushIn ftz (roundRne (exactSum .rne (acc :: terms.map Prod.fst)).1 .f32).1 := rfl
theorem sumGroups_accSum (ftz : Bool) {g : ℕ} (hg : g ≠ 0) (a : Ex) (terms : List (Ex × Fl)) (fl : Fl) :
    accSum ftz g a (terms.map Prod.fst) (sumGroups ftz g a terms fl).1 := by
  have values : (sumGroups ftz g a terms fl).1 =
      (groupsOf g terms).foldl (fun v ts => flushIn ftz (roundRne (exactSum .rne (v :: ts.map Prod.fst)).1 .f32).1) a :=
    (List.foldl_hom Prod.fst fun v ts => (accF_fst ftz v.1 ts v.2).symm).symm
  obtain ⟨acc, start, last, step⟩ := foldl_groupsOf hg
    (fun v (ts : List (Ex × Fl)) => flushIn ftz (roundRne (exactSum .rne (v :: ts.map Prod.fst)).1 .f32).1) a terms
  refine ⟨acc, start, ?_, fun q hq => ?_⟩
  · rw [values, last, List.length_map]
  · rw [List.length_map] at hq
    rw [step q hq, List.map_take, List.map_drop]

theorem sext_eq_toInt (x : ℕ) {w : ℕ} (hw : 0 < w) : sext x w = (BitVec.ofNat w x).toInt := by
  have pow : 2 ^ w = 2 * 2 ^ (w - 1) := by rw [← pow_succ', Nat.sub_add_cancel hw]
  rw [sext, BitVec.toInt_eq_toNat_cond, BitVec.toNat_ofNat]
  by_cases low : x % 2 ^ w < 2 ^ (w - 1)
  · rw [if_pos low, if_pos (by omega)]; rfl
  · rw [if_neg low, if_neg (by omega)]; push_cast; rfl
theorem sext_wrapInt (v : ℤ) : sext (wrapInt v 32) 32 = v.bmod (2 ^ 32) := by
  rw [sext_eq_toInt _ (by decide), ← BitVec.toInt_ofInt]
  congr 1
  apply BitVec.eq_of_toNat_eq
  rw [BitVec.toNat_ofInt, BitVec.toNat_ofNat, wrapInt]
  omega
/-- A group's step of an integer accumulator, on its exact products (R50). -/
def intStep (isat : Bool) (v : ℤ) (ts : List ℤ) : ℤ :=
  if isat then max (-2 ^ 31) (min (v + ts.sum) (2 ^ 31 - 1)) else (v + ts.sum).bmod (2 ^ 32)
theorem accI_fst (sat : Bool) (acc : ℤ) (terms : List ℤ) (fl : Fl) : (accI sat acc terms fl).1 = intStep sat acc terms := by
  have sum : terms.foldl (· + ·) acc = acc + terms.sum := List.foldl_eq_apply_foldr
  rw [accI, intStep, sum]
  generalize acc + terms.sum = v
  cases sat with
  | false => simp [sext_wrapInt]
  | true =>
    by_cases low : v < -2 ^ 31
    · simp only [low, Bool.true_and, decide_true, if_true]; omega
    · by_cases high : 2 ^ 31 ≤ v
      · simp only [low, high, Bool.true_and, decide_true, decide_false, Bool.false_eq_true, if_true, if_false]; omega
      · simp only [low, high, Bool.true_and, decide_false, Bool.false_eq_true, if_true, if_false, sext_wrapInt]
        rw [Int.bmod_eq_of_le (by omega) (by omega)]; omega

/-! One product and one word (R235, R236). -/

theorem Arr.G_ne_zero (ar : Arr) : ar.G ≠ 0 := by
  unfold Arr.G; split <;> decide
theorem cellMul_scaled (ts : ETy) (st : Cell) (tx : ETy) (x : ℕ × ℕ) (ftz : Bool) :
    (cellMul false ftz ts st tx x).1 = (exactMul (flushIn ftz (decodeScaled st.enc ts st.e8)) (flushIn ftz (decodeScaled x.1 tx x.2))).1 ∧
      (st.e8 = 255 ∨ x.2 = 255 → (cellMul true ftz ts st tx x).1 = .nan false) := by
  refine ⟨rfl, fun h => ?_⟩
  have nan : (st.e8 == 0xFF || x.2 == 0xFF) = true := by simpa using h
  simp only [cellMul, nan, if_true]
theorem elInt_eq (t : ETy) (b : ℕ) : elInt t (b % 2 ^ ETy.bits t) = outWord.ivalI t b := by
  have width : ETy.isSigned t = true → ETy.sw t = ETy.bits t := by cases t <;> decide
  have pos : 0 < ETy.bits t := by cases t <;> decide
  rw [elInt, outWord.ivalI]
  cases signed : ETy.isSigned t with
  | true =>
    rw [if_pos rfl, if_pos rfl, width signed, sext_eq_toInt _ pos]
    congr 1
    apply BitVec.eq_of_toNat_eq
    simp
  | false => rfl

/-- The cells of column `n`, each with its row. -/
def Arr.column (ar : Arr) (n : ℕ) : List (Cell × ℕ) := ((ar.cells.take ar.sh.kc).map (fun r => r.getD n { enc := 0 })).zipIdx
/-- The streamed element that a cell of a row meets. -/
def Arr.streamed (ar : Arr) (xs : Els) (p : Cell × ℕ) : ℕ × ℕ :=
  xs.getD (if ar.sh.pat = 0 then p.2 else p.2 / (patNM ar.sh.pat).1 * (patNM ar.sh.pat).2 + p.1.idx % (patNM ar.sh.pat).2) (0, 127)
/-- The cells of a column with the elements that they meet. -/
def Arr.operands (ar : Arr) (xs : Els) (n : ℕ) : List (Cell × ℕ × ℕ) := (ar.column n).map (fun p => (p.1, ar.streamed xs p))
theorem Arr.operands_eq (ar : Arr) (xs : Els) (n : ℕ) :
    ar.operands xs n = (((ar.cells.take ar.sh.kc).map (fun r => r.getD n { enc := 0 })).zip
      (List.range ((ar.cells.take ar.sh.kc).map (fun r => r.getD n { enc := 0 })).length)).map
        (fun p => (p.1, xs.getD (cellK ar.sh.pat p.2 p.1.idx) (0, 127))) := by
  rw [Arr.operands, Arr.column, List.zipIdx_eq_zip_range', ← List.range_eq_range']
  simp only [Arr.streamed, cellK, beq_iff_eq]
/-- The value from which a word's sum starts: what stood there, when it accumulates. -/
def wordExact (cin : Option ℕ) : Ex := match cin with | some w => decodeEl w .f32 | none => .zero false
def wordInt (cin : Option ℕ) : ℤ := match cin with | some w => (BitVec.ofNat 32 w).toInt | none => 0
theorem wordInt_eq (cin : Option ℕ) : wordInt cin = match cin with | some w => sext w 32 | none => 0 := by
  cases cin with
  | none => rfl
  | some w => exact (sext_eq_toInt w (by decide)).symm

theorem outWord_float (ar : Arr) (tx : ETy) (isat : Bool) (xs : Els) (n : ℕ) (cin : Option ℕ) :
    ∃ v, accSum ar.ftz ar.G (wordExact cin)
        ((ar.column n).map (fun p => (cellMul (ar.sh.ty == .lg6) ar.ftz ar.sh.ty p.1 tx (ar.streamed xs p)).1)) v ∧
      (outWord ar tx false isat xs n cin).1 = f32Bits v := by
  have sum := sumGroups_accSum ar.ftz ar.G_ne_zero (wordExact cin)
    ((ar.operands xs n).map (fun p => cellMul (ar.sh.ty == .lg6) ar.ftz ar.sh.ty p.1 tx p.2)) 0
  rw [List.map_map, Arr.operands, List.map_map] at sum
  refine ⟨_, sum, ?_⟩
  rw [sumGroups, ← Arr.operands, groupsOf_map ar.G_ne_zero, List.foldl_map, Arr.operands_eq]
  rfl

theorem outWord_int_eq (ar : Arr) (tx : ETy) (isat : Bool) (xs : Els) (n : ℕ) (cin : Option ℕ) :
    (outWord ar tx true isat xs n cin).1 = wrapInt ((groupsOf ar.G (ar.operands xs n)).foldl
      (fun v g => intStep isat v (g.map (fun p => outWord.ivalI ar.sh.ty p.1.enc * outWord.ivalI tx p.2.1))) (wordInt cin)) 32 := by
  have value := List.foldl_hom Prod.fst
    (g₁ := fun (a : ℤ × Fl) (g : List (Cell × ℕ × ℕ)) =>
      accI isat a.1 (g.map (fun p => outWord.ivalI ar.sh.ty p.1.enc * outWord.ivalI tx p.2.1)) a.2)
    (g₂ := fun v g => intStep isat v (g.map (fun p => outWord.ivalI ar.sh.ty p.1.enc * outWord.ivalI tx p.2.1)))
    (l := groupsOf ar.G (ar.operands xs n)) (init := (wordInt cin, 0)) fun a g => by rw [accI_fst]
  rw [value, wordInt_eq, Arr.operands_eq]
  rfl
theorem outWord_int (ar : Arr) (tx : ETy) (isat : Bool) (xs : Els) (n : ℕ) (cin : Option ℕ) :
    let ts := (ar.column n).map
      (fun p => elInt ar.sh.ty (p.1.enc % 2 ^ ETy.bits ar.sh.ty) * elInt tx ((ar.streamed xs p).1 % 2 ^ ETy.bits tx))
    ∃ acc : ℕ → ℤ, acc 0 = wordInt cin ∧
      (∀ q, q * ar.G < ts.length → acc (q + 1) = intStep isat (acc q) ((ts.drop (q * ar.G)).take ar.G)) ∧
      (outWord ar tx true isat xs n cin).1 = (acc ((ts.length + ar.G - 1) / ar.G) % 2 ^ 32).toNat := by
  intro ts
  obtain ⟨acc, start, last, step⟩ := foldl_groupsOf ar.G_ne_zero (intStep isat) (wordInt cin) ts
  have terms : ts = (ar.operands xs n).map (fun p => outWord.ivalI ar.sh.ty p.1.enc * outWord.ivalI tx p.2.1) := by
    rw [Arr.operands, List.map_map]
    exact List.map_congr_left fun p _ => by rw [elInt_eq, elInt_eq]; rfl
  refine ⟨acc, start, step, ?_⟩
  rw [← last, terms, groupsOf_map ar.G_ne_zero, List.foldl_map, outWord_int_eq]
  rfl

/-! The times of a stream's steps (R240, R241). -/

theorem patNM_le (pat : ℕ) : 0 < (patNM pat).1 ∧ (patNM pat).1 ≤ (patNM pat).2 := by
  unfold patNM; split <;> decide
/-- The elements of a row that one group of cell rows reads (R235). -/
def Arr.span (ar : Arr) : ℕ := if ar.sh.pat = 0 then ar.G else ar.G * (patNM ar.sh.pat).2 / (patNM ar.sh.pat).1
theorem Arr.span_ne_zero (ar : Arr) : ar.span ≠ 0 := by
  obtain ⟨pos, le⟩ := patNM_le ar.sh.pat
  rw [Arr.span]
  split
  · exact ar.G_ne_zero
  · have one : 1 ≤ ar.G := Nat.one_le_iff_ne_zero.2 ar.G_ne_zero
    have := Nat.mul_le_mul one le
    exact (Nat.div_pos (by omega) pos).ne'
theorem getElem?_stepTimes (ar : Arr) (tx : ETy) (xs : Els) (g : ℕ) :
    let row := xs.take ar.sh.keff
    let ps := ((row.drop (g * ar.span)).take ar.span).map (fun p => pips p.1 tx)
    (g * ar.span < row.length → (stepTimes ar tx xs)[g]? = some (max 1 (ps.foldl max 0), ps.sum, decide (∀ p ∈ ps, p = 0))) ∧
      (row.length ≤ g * ar.span → (stepTimes ar tx xs)[g]? = none) := by
  intro row ps
  have steps : stepTimes ar tx xs = (groupsOf ar.span row).map (fun g =>
      (max 1 ((g.map (fun p => pips p.1 tx)).foldl max 0), (g.map (fun p => pips p.1 tx)).foldl (· + ·) 0,
        (g.map (fun p => pips p.1 tx)).all (· == 0))) := by
    simp only [stepTimes, beq_iff_eq, Arr.span, row]
  rw [steps, List.getElem?_map, getElem?_groupsOf ar.span_ne_zero]
  refine ⟨fun reads => ?_, fun past => by rw [if_neg (by omega)]; rfl⟩
  rw [if_pos reads, Option.map_some, ← List.sum_eq_foldl]
  congr 3
  rw [Bool.eq_iff_iff, List.all_eq_true, decide_eq_true_iff]
  simp only [beq_iff_eq]
  rfl
theorem getElem?_stepEnds (clk : ℕ → ℕ) (hist : List (List ℕ)) (a : ℕ) (ts : List ℕ) (g : ℕ) :
    (stepEnds clk hist a ts)[g]? = (ts[g]?).map (fun d =>
      let b := clk (max ((hist.headD []).getD g 0) (max a ((hist.getD 7 []).foldl max 0)))
      (b, b + d)) := by
  rw [stepEnds, List.range_eq_range', ← List.zipIdx_eq_zip_range', List.getElem?_map, List.getElem?_zipIdx, Option.map_map, zero_add]
  rfl

end Sys2Proof.Machine
end

section
/-! O10: the chain. The order of values, a block's step for one query row, the step of all rows, and the output (R263, R271, R279). -/

namespace Sys2Proof.Machine

/-! The order of values. -/

/-- Where a value stands among the extended reals; a NaN counts as zero. -/
noncomputable def Ex.level : Ex → EReal
  | .inf b => if b then ⊥ else ⊤
  | x => ((x.real.rat : ℝ) : EReal)
theorem Ex.level_of_not_inf {x : Ex} (h : x.isInf = false) : x.level = ((x.real.rat : ℝ) : EReal) := by
  cases x with
  | inf b => cases h
  | _ => rfl
theorem Ex.exists_inf {x : Ex} (h : x.isInf = true) : ∃ b, x = .inf b := by
  cases x with
  | inf b => exact ⟨b, rfl⟩
  | _ => cases h
theorem Ex.cmp_of_not_inf {x y : Ex} (hx : x.isInf = false) (hy : y.isInf = false) :
    x.cmp y = .lt ↔ (x.real.add { y.real with n := -y.real.n }).n < 0 := by
  unfold Ex.cmp
  split
  · cases hx
  · cases hx
  · cases hy
  · dsimp only
    split
    case isTrue h => simp [h]
    case isFalse h => split <;> simp [h]
theorem Ex.inf_cmp (b : Bool) {y : Ex} (hy : y.isInf = false) : (Ex.inf b).cmp y = if b then .lt else .gt := by
  cases y with
  | inf c => cases hy
  | _ => rfl
theorem Ex.cmp_inf {x : Ex} (hx : x.isInf = false) (b : Bool) : x.cmp (.inf b) = if b then .gt else .lt := by
  cases x with
  | inf c => cases hx
  | _ => rfl
theorem Ex.cmp_lt_iff {x y : Ex} (hx : x.real.Plain) (hy : y.real.Plain) : x.cmp y = .lt ↔ x.level < y.level := by
  cases infX : x.isInf with
  | true =>
    obtain ⟨b, rfl⟩ := Ex.exists_inf infX
    cases infY : y.isInf with
    | true =>
      obtain ⟨c, rfl⟩ := Ex.exists_inf infY
      cases b <;> cases c <;> simp [Ex.cmp, Ex.level]
    | false =>
      rw [Ex.inf_cmp b infY, Ex.level_of_not_inf infY]
      cases b <;> simp [Ex.level, EReal.bot_lt_coe]
  | false =>
    cases infY : y.isInf with
    | true =>
      obtain ⟨c, rfl⟩ := Ex.exists_inf infY
      rw [Ex.cmp_inf infX c, Ex.level_of_not_inf infX]
      cases c <;> simp [Ex.level, EReal.coe_lt_top]
    | false =>
      have negY : ({ y.real with n := -y.real.n } : Q).Plain := hy
      rw [Ex.cmp_of_not_inf infX infY, ← Q.rat_neg_iff (Q.add_plain hx negY), Q.add_rat hx negY, Q.rat_neg, Ex.level_of_not_inf infX,
        Ex.level_of_not_inf infY, EReal.coe_lt_coe_iff, Rat.cast_lt, ← sub_eq_add_neg, sub_neg]

/-- The first value is less than the second. -/
def below (x y : Ex) : Bool := match x.cmp y with | .lt => true | _ => false
theorem below_iff {x y : Ex} : below x y = true ↔ x.cmp y = .lt := by
  rw [below]; cases x.cmp y <;> simp

/-! The greatest of the visible scores. -/

/-- A value takes the place of the greatest so far. -/
def maxStep (a : Ex) (p : Ex × Bool) : Ex := if p.2 && below a p.1 then p.1 else a
theorem maxStep_spec {a : Ex} {p : Ex × Bool} (ha : a.real.Plain) (hp : p.1.real.Plain) :
    (maxStep a p = a ∨ (p.2 = true ∧ p.1 = maxStep a p)) ∧ a.level ≤ (maxStep a p).level ∧
      (p.2 = true → p.1.level ≤ (maxStep a p).level) := by
  rw [maxStep]
  split
  case isTrue h =>
    obtain ⟨on, lt⟩ := (Bool.and_eq_true _ _).mp h
    exact ⟨.inr ⟨on, rfl⟩, ((Ex.cmp_lt_iff ha hp).1 (below_iff.1 lt)).le, fun _ => le_rfl⟩
  case isFalse h =>
    refine ⟨.inl rfl, le_rfl, fun on => not_lt.1 fun lt => h ?_⟩
    rw [on, below_iff.2 ((Ex.cmp_lt_iff ha hp).2 lt)]; rfl
theorem foldl_maxStep {ps : List (Ex × Bool)} (h : ∀ p ∈ ps, p.1.real.Plain) {a : Ex} (ha : a.real.Plain) :
    (ps.foldl maxStep a = a ∨ ∃ p ∈ ps, p.2 = true ∧ p.1 = ps.foldl maxStep a) ∧ a.level ≤ (ps.foldl maxStep a).level ∧
      ∀ p ∈ ps, p.2 = true → p.1.level ≤ (ps.foldl maxStep a).level := by
  induction ps generalizing a with
  | nil => exact ⟨.inl rfl, le_rfl, nofun⟩
  | cons p ps ih =>
    obtain ⟨hp, hps⟩ := List.forall_mem_cons.1 h
    obtain ⟨from_, above, aboveP⟩ := maxStep_spec ha hp
    have plain : (maxStep a p).real.Plain := by
      rcases from_ with same | ⟨-, new⟩
      · rwa [same]
      · rwa [← new]
    obtain ⟨fromRest, aboveRest, all⟩ := ih hps plain
    rw [List.foldl_cons]
    refine ⟨?_, above.trans aboveRest, List.forall_mem_cons.2 ⟨fun on => (aboveP on).trans aboveRest, all⟩⟩
    rcases fromRest with same | ⟨r, mem, on, eq⟩
    · rcases from_ with still | ⟨on, new⟩
      · exact .inl (same.trans still)
      · exact .inr ⟨p, List.mem_cons_self, on, new.trans same.symm⟩
    · exact .inr ⟨r, List.mem_cons_of_mem _ mem, on, eq⟩

/-! Values rounded to FP32. -/

theorem flushIn_real_plain (ftz : Bool) {x : Ex} (h : x.real.Plain) : (flushIn ftz x).real.Plain := by
  unfold flushIn
  split
  · split
    · exact ⟨one_ne_zero, rfl⟩
    · exact h
  · exact h
theorem rnd32_real_plain (ftz : Bool) (x : Ex) : (rnd32 ftz x).real.Plain :=
  flushIn_real_plain ftz (decodeEl_real_plain (encodeEl x .f32 .rne false false).1 (t := .f32) (by decide))
theorem d32_real_plain (b : ℕ) : (d32 b).real.Plain := decodeEl_real_plain b (by decide)
theorem decodeEl_cL : decodeEl 0x3FB8AA3B .f32 = .fin cL := by decide
theorem roundRne_fnExp2 (y : Ex) : (roundRne (fnExp2 y).1 .f32).1 = (roundRne (exp2Ex y) .f32).1 := by
  cases y with
  | nan s => cases s <;> rfl
  | _ => rfl
theorem expOf_fst (ftz : Bool) (x m : Ex) (fl : Fl) : (expOf ftz x m fl).1 = expStep271 ftz x m := by
  rw [expStep271, decodeEl_cL, rnd32, roundRne_fnExp2]
  rfl

/-! One query row's step, in the parts that R271 names. -/

/-- The scores of the keys. -/
def Chain.rowScores (ch : Chain) (gs : ℕ) (b : Block) (i : ℕ) : List (Ex × Fl) :=
  b.k.map (fun kr =>
    let ts := ((ch.q.getD i []).zip kr).map (fun p => cellMul (ch.qty == .lg6) ch.ftz ch.qty p.1 b.kt p.2)
    let (acc, fl) := sumGroups ch.ftz gs (.zero false) ts 0
    rf ch.ftz (exactMul (d32 (bits ch.oword.toNat 32 32)) acc) fl)
/-- The scores with whether each position is visible. -/
def Chain.rowSeen (ch : Chain) (gs : ℕ) (b : Block) (i : ℕ) : List (Ex × Bool) :=
  ((ch.rowScores gs b i).zip (List.range b.k.length)).map (fun p => (p.1.1, ch.visible i p.2 b.base))
/-- The scores with whether each counts: visible and not minus infinity. -/
def Chain.rowLive (ch : Chain) (gs : ℕ) (b : Block) (i : ℕ) : List (Ex × Bool) :=
  (ch.rowSeen gs b i).map (fun p => (p.1, isVis p.2 p.1))
/-- The row's maximum so far, the greatest score, and the new maximum. -/
def Chain.rowM0 (ch : Chain) (i : ℕ) : Ex := d32 (ch.m.getD i 0)
def Chain.rowTop (ch : Chain) (gs : ℕ) (b : Block) (i : ℕ) : Ex := (ch.rowLive gs b i).foldl maxStep (.inf true)
def Chain.rowMax (ch : Chain) (gs : ℕ) (b : Block) (i : ℕ) : Ex :=
  if below (ch.rowM0 i) (ch.rowTop gs b i) then ch.rowTop gs b i else ch.rowM0 i
/-- The factor by which the row's sums shrink. -/
def Chain.rowShrink (ch : Chain) (gs : ℕ) (b : Block) (i : ℕ) : Ex × Fl :=
  let fl0 := (ch.rowScores gs b i).foldl (fun f x => f ||| x.2) (0 : Fl)
  if below (ch.rowM0 i) (ch.rowTop gs b i) then expOf ch.ftz (ch.rowM0 i) (ch.rowMax gs b i) fl0 else (.fin (Q.int 1), fl0)
/-- A key's weight, with its pips and flags. -/
def Chain.weight (ch : Chain) (mn : Ex) (p : Ex × Bool) : (Ex × ℕ) × Fl :=
  if !p.2 then ((.zero false, 0), (0 : Fl))
  else if p.1 == .inf false then ((.fin (Q.int 1), 1), 0)
  else let (e, f) := expOf ch.ftz p.1 mn 0; (truncP e ch.ppips, f)
/-- The weights of the keys. -/
def Chain.rowWeights (ch : Chain) (gs : ℕ) (b : Block) (i : ℕ) : List Ex :=
  ((ch.rowLive gs b i).map (ch.weight (ch.rowMax gs b i))).map (fun w => w.1.1)

theorem Chain.rowStep_nm {ch : Chain} {i : ℕ} (h : ch.nm.getD i false = true) (gs gv : ℕ) (b : Block) :
    let r := ch.rowStep gs gv b i
    r.nm = true ∧ r.m = ch.m.getD i 0 ∧ r.l = ch.l.getD i 0 ∧ r.rs = ch.rs.getD i 0 ∧ r.o = ch.o.getD i [] := by
  simp only [Chain.rowStep, h, if_true]
  trivial
theorem Chain.rowStep_nan {ch : Chain} {gs : ℕ} {b : Block} {i : ℕ} (h : ch.nm.getD i false = false)
    (nan : (ch.rowSeen gs b i).any (fun p => p.2 && p.1.isNan) = true) (gv : ℕ) :
    let r := ch.rowStep gs gv b i
    r.nm = true ∧ r.m = 0x7FC00000 ∧ r.l = 0x7FC00000 ∧ r.rs = 0x7FC00000 ∧
      r.o = List.replicate ch.d 0x7FC00000 ++ (ch.o.getD i []).drop ch.d := by
  have step : ch.rowStep gs gv b i = _ := (if_neg (by rw [h]; decide)).trans (if_pos nan)
  rw [step]
  exact ⟨rfl, rfl, rfl, rfl, rfl⟩
theorem Chain.rowStep_numbers {ch : Chain} {gs : ℕ} {b : Block} {i : ℕ} (h : ch.nm.getD i false = false)
    (numbers : (ch.rowSeen gs b i).any (fun p => p.2 && p.1.isNan) = false) (gv : ℕ) :
    let r := ch.rowStep gs gv b i
    let w := (ch.rowShrink gs b i).1
    let ph := ch.rowWeights gs b i
    r.nm = false ∧ r.m = (if below (ch.rowM0 i) (ch.rowTop gs b i) then e32 (ch.rowMax gs b i) else ch.m.getD i 0) ∧
      r.l = e32 (rnd32 ch.ftz (exactSum .rne ((exactMul (d32 (ch.l.getD i 0)) w).1 :: ph)).1) ∧ r.rs = e32 w ∧
      r.o = (List.range ch.d).map (fun n => e32 (sumGroups ch.ftz gv (exactMul (d32 ((ch.o.getD i []).getD n 0)) w).1
        ((ph.zip b.v).map (fun p => exactMul p.1 (flushIn ch.ftz (decodeScaled (p.2.getD n (0, 127)).1 b.vt (p.2.getD n (0, 127)).2))))
        (exactMul (d32 ((ch.o.getD i []).getD n 0)) w).2).1) ++ (ch.o.getD i []).drop ch.d := by
  have step : ch.rowStep gs gv b i = _ := (if_neg (by rw [h]; decide)).trans (if_neg (by rw [← Bool.not_eq_true] at numbers; exact numbers))
  rw [step]
  refine ⟨rfl, rfl, rfl, rfl, congrArg (· ++ _) (List.map_map ..)⟩

/-! The scores and weights one by one. -/

/-- The score of key `j`. -/
def Chain.score (ch : Chain) (gs : ℕ) (b : Block) (i j : ℕ) : Ex := ((ch.rowScores gs b i).getD j (.zero false, 0)).1
theorem Chain.length_rowScores (ch : Chain) (gs : ℕ) (b : Block) (i : ℕ) : (ch.rowScores gs b i).length = b.k.length := List.length_map ..
theorem Chain.getElem?_rowScores {ch : Chain} {gs : ℕ} {b : Block} {i j : ℕ} (h : j < b.k.length) :
    ∃ fl, (ch.rowScores gs b i)[j]? = some (ch.score gs b i j, fl) := by
  rw [← ch.length_rowScores gs b i] at h
  refine ⟨((ch.rowScores gs b i)[j]).2, ?_⟩
  rw [Chain.score, List.getD_eq_getElem _ _ h, List.getElem?_eq_getElem h]
theorem Chain.score_spec {ch : Chain} {gs : ℕ} (hgs : gs ≠ 0) {b : Block} {i j : ℕ} {kr : Els} (h : b.k[j]? = some kr) :
    ∃ acc, accSum ch.ftz gs (.zero false)
        (((ch.q.getD i []).zip kr).map (fun p => (cellMul (ch.qty == .lg6) ch.ftz ch.qty p.1 b.kt p.2).1)) acc ∧
      ch.score gs b i j = rnd32 ch.ftz (exactMul (decodeEl (bits ch.oword.toNat 32 32) .f32) acc).1 := by
  have sum := sumGroups_accSum ch.ftz hgs (.zero false)
    (((ch.q.getD i []).zip kr).map (fun p => cellMul (ch.qty == .lg6) ch.ftz ch.qty p.1 b.kt p.2)) 0
  rw [List.map_map] at sum
  refine ⟨_, sum, ?_⟩
  rw [Chain.score, Chain.rowScores, List.getD_eq_getElem?_getD, List.getElem?_map, h]
  rfl
theorem Chain.score_real_plain (ch : Chain) (gs : ℕ) (b : Block) (i j : ℕ) : (ch.score gs b i j).real.Plain := by
  rw [Chain.score, List.getD_eq_getElem?_getD, Chain.rowScores, List.getElem?_map]
  cases b.k[j]? with
  | none => exact ⟨one_ne_zero, rfl⟩
  | some kr => exact rnd32_real_plain _ _

theorem Chain.getElem?_rowSeen {ch : Chain} {gs : ℕ} {b : Block} {i j : ℕ} (h : j < b.k.length) :
    (ch.rowSeen gs b i)[j]? = some (ch.score gs b i j, ch.visible i j b.base) := by
  obtain ⟨fl, here⟩ := ch.getElem?_rowScores (gs := gs) (i := i) h
  rw [Chain.rowSeen, ← ch.length_rowScores gs b i, List.range_eq_range', ← List.zipIdx_eq_zip_range', List.getElem?_map,
    List.getElem?_zipIdx, here, zero_add]
  rfl
theorem Chain.length_rowSeen (ch : Chain) (gs : ℕ) (b : Block) (i : ℕ) : (ch.rowSeen gs b i).length = b.k.length := by
  simp [Chain.rowSeen, Chain.length_rowScores]
theorem Chain.mem_rowSeen_iff {ch : Chain} {gs : ℕ} {b : Block} {i : ℕ} {p : Ex × Bool} :
    p ∈ ch.rowSeen gs b i ↔ ∃ j, j < b.k.length ∧ p = (ch.score gs b i j, ch.visible i j b.base) := by
  rw [List.mem_iff_getElem?]
  constructor
  · rintro ⟨j, hj⟩
    have lt : j < b.k.length := by rw [← ch.length_rowSeen gs b i]; exact (List.getElem?_eq_some_iff.1 hj).1
    exact ⟨j, lt, Option.some.inj (hj.symm.trans (ch.getElem?_rowSeen lt))⟩
  · rintro ⟨j, lt, rfl⟩
    exact ⟨j, ch.getElem?_rowSeen lt⟩
theorem Chain.any_nan_iff {ch : Chain} {gs : ℕ} {b : Block} {i : ℕ} :
    (ch.rowSeen gs b i).any (fun p => p.2 && p.1.isNan) = true ↔
      ∃ j, (j < b.k.length ∧ ch.visible i j b.base = true) ∧ (ch.score gs b i j).isNan = true := by
  rw [List.any_eq_true]
  constructor
  · rintro ⟨p, mem, h⟩
    obtain ⟨j, lt, rfl⟩ := Chain.mem_rowSeen_iff.1 mem
    obtain ⟨vis, nan⟩ := (Bool.and_eq_true _ _).mp h
    exact ⟨j, ⟨lt, vis⟩, nan⟩
  · rintro ⟨j, ⟨lt, vis⟩, nan⟩
    exact ⟨_, Chain.mem_rowSeen_iff.2 ⟨j, lt, rfl⟩, by rw [vis, nan]; rfl⟩
theorem Chain.mem_rowLive_iff {ch : Chain} {gs : ℕ} {b : Block} {i : ℕ} {p : Ex × Bool} :
    p ∈ ch.rowLive gs b i ↔
      ∃ j, j < b.k.length ∧ p = (ch.score gs b i j, isVis (ch.visible i j b.base) (ch.score gs b i j)) := by
  simp only [Chain.rowLive, List.mem_map, Chain.mem_rowSeen_iff]
  constructor
  · rintro ⟨q, ⟨j, lt, rfl⟩, rfl⟩; exact ⟨j, lt, rfl⟩
  · rintro ⟨j, lt, rfl⟩; exact ⟨_, ⟨j, lt, rfl⟩, rfl⟩
theorem isVis_iff {vis : Bool} {sc : Ex} : isVis vis sc = true ↔ vis = true ∧ sc ≠ .inf true := by simp [isVis]

/-! The new maximum. -/

theorem Chain.rowTop_spec (ch : Chain) (gs : ℕ) (b : Block) (i : ℕ) :
    (ch.rowTop gs b i = .inf true ∨ ∃ j, (j < b.k.length ∧ ch.visible i j b.base = true) ∧ ch.score gs b i j = ch.rowTop gs b i) ∧
      (ch.rowTop gs b i).real.Plain ∧
      ∀ j, j < b.k.length → ch.visible i j b.base = true → ch.score gs b i j ≠ .inf true →
        (ch.score gs b i j).level ≤ (ch.rowTop gs b i).level := by
  have plain : ∀ p ∈ ch.rowLive gs b i, p.1.real.Plain := fun p mem => by
    obtain ⟨j, -, rfl⟩ := Chain.mem_rowLive_iff.1 mem
    exact ch.score_real_plain gs b i j
  obtain ⟨source, -, above⟩ := foldl_maxStep plain (a := .inf true) ⟨one_ne_zero, rfl⟩
  refine ⟨?_, ?_, fun j lt vis low => above _ (Chain.mem_rowLive_iff.2 ⟨j, lt, rfl⟩) (isVis_iff.2 ⟨vis, low⟩)⟩
  · rcases source with start | ⟨p, mem, on, eq⟩
    · exact .inl start
    · obtain ⟨j, lt, rfl⟩ := Chain.mem_rowLive_iff.1 mem
      exact .inr ⟨j, ⟨lt, (isVis_iff.1 on).1⟩, eq⟩
  · rcases source with start | ⟨p, mem, on, eq⟩
    · rw [Chain.rowTop, start]; exact ⟨one_ne_zero, rfl⟩
    · rw [Chain.rowTop, ← eq]; exact plain p mem
theorem Chain.rowM0_real_plain (ch : Chain) (i : ℕ) : (ch.rowM0 i).real.Plain := d32_real_plain _

/-- The new maximum is the greater of the old one and the greatest score. -/
theorem Chain.rowMax_level (ch : Chain) (gs : ℕ) (b : Block) (i : ℕ) :
    (ch.rowMax gs b i).real.Plain ∧ (ch.rowMax gs b i).level = max (ch.rowM0 i).level (ch.rowTop gs b i).level := by
  obtain ⟨-, plain, -⟩ := ch.rowTop_spec gs b i
  have less := Ex.cmp_lt_iff (ch.rowM0_real_plain i) plain
  rw [Chain.rowMax]
  split
  case isTrue h => exact ⟨plain, (max_eq_right (less.1 (below_iff.1 h)).le).symm⟩
  case isFalse h => exact ⟨ch.rowM0_real_plain i, (max_eq_left (not_lt.1 (less.not.1 (below_iff.not.1 h)))).symm⟩
theorem Chain.rowMax_source (ch : Chain) (gs : ℕ) (b : Block) (i : ℕ) : ch.rowMax gs b i = ch.rowM0 i ∨
    ∃ j, (j < b.k.length ∧ ch.visible i j b.base = true) ∧ ch.score gs b i j = ch.rowMax gs b i := by
  obtain ⟨source, plain, -⟩ := ch.rowTop_spec gs b i
  rw [Chain.rowMax]
  split
  case isTrue h =>
    rcases source with bottom | score
    · have less := (Ex.cmp_lt_iff (ch.rowM0_real_plain i) plain).1 (below_iff.1 h)
      rw [bottom] at less
      exact absurd less not_lt_bot
    · exact .inr score
  case isFalse => exact .inl rfl
theorem Chain.cmp_rowMax {ch : Chain} {gs : ℕ} {b : Block} {i : ℕ} {x : Ex} (hx : x.real.Plain)
    (le : x.level ≤ max (ch.rowM0 i).level (ch.rowTop gs b i).level) : (ch.rowMax gs b i).cmp x ≠ .lt := by
  obtain ⟨plain, level⟩ := ch.rowMax_level gs b i
  rw [Ne, Ex.cmp_lt_iff plain hx, level]
  exact not_lt.2 le
theorem Chain.below_rowMax (ch : Chain) (gs : ℕ) (b : Block) (i : ℕ) :
    (ch.rowM0 i).cmp (ch.rowMax gs b i) = .lt ↔ below (ch.rowM0 i) (ch.rowTop gs b i) = true := by
  obtain ⟨-, plain, -⟩ := ch.rowTop_spec gs b i
  obtain ⟨plainMax, level⟩ := ch.rowMax_level gs b i
  rw [Ex.cmp_lt_iff (ch.rowM0_real_plain i) plainMax, level, below_iff, Ex.cmp_lt_iff (ch.rowM0_real_plain i) plain, lt_max_iff]
  simp

/-! The weights. -/

theorem Chain.getElem?_rowWeights {ch : Chain} {gs : ℕ} {b : Block} {i j : ℕ} (h : j < b.k.length) :
    (ch.rowWeights gs b i)[j]? = some (ch.weight (ch.rowMax gs b i)
      (ch.score gs b i j, isVis (ch.visible i j b.base) (ch.score gs b i j))).1.1 := by
  rw [Chain.rowWeights, Chain.rowLive, List.getElem?_map, List.getElem?_map, List.getElem?_map, ch.getElem?_rowSeen h]
  rfl
theorem Chain.length_rowWeights (ch : Chain) (gs : ℕ) (b : Block) (i : ℕ) : (ch.rowWeights gs b i).length = b.k.length := by
  simp [Chain.rowWeights, Chain.rowLive, Chain.length_rowSeen]
theorem Chain.weight_hidden (ch : Chain) (mn sc : Ex) : (ch.weight mn (sc, false)).1.1 = .zero false := rfl
theorem Chain.weight_inf (ch : Chain) (mn : Ex) : (ch.weight mn (.inf false, true)).1.1 = .fin (Q.int 1) := rfl
theorem Chain.weight_number {ch : Chain} {sc : Ex} (h : sc.isInf = false) (mn : Ex) :
    (ch.weight mn (sc, true)).1.1 = (truncP (expStep271 ch.ftz sc mn) ch.ppips).1 := by
  have finite : (sc == .inf false) = false := by
    cases sc with
    | inf b => cases h
    | _ => rfl
  simp only [Chain.weight, Bool.not_true, finite, Bool.false_eq_true, if_false, expOf_fst]
theorem Q.int_one_rat : (Q.int 1).rat = 1 := by norm_num [Q.rat, Q.int]

end Sys2Proof.Machine
end

section
/-! O10: the clauses about the chain, and the obligation. -/

namespace Sys2Proof.Machine

/-- A list whose first `n` entries are given anew. -/
theorem getElem?_put {α : Type} (n : ℕ) (f : ℕ → α) (xs : List α) (i : ℕ) :
    ((List.range n).map f ++ xs.drop n)[i]? = if i < n then some (f i) else xs[i]? := by
  have length : ((List.range n).map f).length = n := by rw [List.length_map, List.length_range]
  split
  case isTrue lt => rw [List.getElem?_append_left (by rwa [length]), List.getElem?_map, List.getElem?_range lt, Option.map_some]
  case isFalse ge =>
    rw [List.getElem?_append_right (by rw [length]; omega), length, List.getElem?_drop, Nat.add_sub_cancel' (by omega)]

/-! A block's step for one row (R271). -/

/-- A row with a NaN score among the visible ones becomes NaN. -/
theorem Chain.rowStep_nan_row {ch : Chain} {gs : ℕ} {b : Block} {i : ℕ} (live : ch.nm.getD i false = false) (gv : ℕ)
    (nan : ∃ j, (j < b.k.length ∧ ch.visible i j b.base = true) ∧ (ch.score gs b i j).isNan = true) :
    let r := ch.rowStep gs gv b i
    r.nm = true ∧ r.m = 0x7FC00000 ∧ r.l = 0x7FC00000 ∧ r.rs = 0x7FC00000 ∧
      (∀ n, n < ch.d → r.o[n]? = some 0x7FC00000) ∧ ∀ n, ch.d ≤ n → r.o[n]? = (ch.o.getD i [])[n]? := by
  obtain ⟨nm, m, l, rs, o⟩ := Chain.rowStep_nan live (Chain.any_nan_iff.2 nan) gv
  refine ⟨nm, m, l, rs, fun n hn => ?_, fun n hn => ?_⟩
  · rw [o, List.getElem?_append_left (by rwa [List.length_replicate]), List.getElem?_replicate_of_lt hn]
  · rw [o, List.getElem?_append_right (by rwa [List.length_replicate]), List.length_replicate, List.getElem?_drop,
      Nat.add_sub_cancel' hn]

/-- The shrink factor and the row's maximum, by whether the maximum rises. -/
theorem Chain.rowShrink_spec (ch : Chain) (gs : ℕ) (b : Block) (i : ℕ) :
    ((ch.rowM0 i).cmp (ch.rowMax gs b i) = .lt →
      (ch.rowShrink gs b i).1 = expStep271 ch.ftz (ch.rowM0 i) (ch.rowMax gs b i)) ∧
      ((ch.rowM0 i).cmp (ch.rowMax gs b i) ≠ .lt → (ch.rowShrink gs b i).1.rat = some 1) := by
  rw [Chain.rowShrink]
  refine ⟨fun rises => ?_, fun stays => ?_⟩
  · rw [if_pos ((ch.below_rowMax gs b i).1 rises), expOf_fst]
  · rw [if_neg ((ch.below_rowMax gs b i).not.1 stays)]
    exact congrArg some Q.int_one_rat

/-- A row whose visible scores are numbers: its maximum, weights, sum and outputs. -/
theorem Chain.rowStep_number_row {ch : Chain} {gs gv : ℕ} (hgv : gv ≠ 0) {b : Block} {i : ℕ} (live : ch.nm.getD i false = false)
    (numbers : ∀ j, j < b.k.length ∧ ch.visible i j b.base = true → (ch.score gs b i j).isNan = false) :
    let r := ch.rowStep gs gv b i
    let o0 := ch.o.getD i []
    let m0 := decodeEl (ch.m.getD i 0) .f32
    let l0 := decodeEl (ch.l.getD i 0) .f32
    let vis (j : ℕ) : Prop := j < b.k.length ∧ ch.visible i j b.base = true
    ∃ (mn w : Ex) (ph : List Ex), r.nm = false ∧ ph.length = b.k.length ∧
      (mn = m0 ∨ ∃ j, vis j ∧ ch.score gs b i j = mn) ∧ mn.cmp m0 ≠ .lt ∧
      (∀ j, vis j → ch.score gs b i j ≠ .inf true → mn.cmp (ch.score gs b i j) ≠ .lt) ∧
      (m0.cmp mn = .lt → w = expStep271 ch.ftz m0 mn ∧ r.m = f32Bits mn) ∧
      (m0.cmp mn ≠ .lt → w.rat = some 1 ∧ r.m = ch.m.getD i 0) ∧ r.rs = f32Bits w ∧
      (∀ j, j < b.k.length → (¬ vis j ∨ ch.score gs b i j = .inf true → ph[j]? = some (.zero false)) ∧
        (vis j → ch.score gs b i j = .inf false → ∃ p, ph[j]? = some p ∧ p.rat = some 1) ∧
        (vis j → (ch.score gs b i j).isInf = false → ph[j]? = some (truncP (expStep271 ch.ftz (ch.score gs b i j) mn) ch.ppips).1)) ∧
      r.l = f32Bits (rnd32 ch.ftz (exactSum .rne ((exactMul l0 w).1 :: ph)).1) ∧
      (∀ n, n < ch.d → ∃ acc, r.o[n]? = some (f32Bits acc) ∧ accSum ch.ftz gv (exactMul (decodeEl (o0.getD n 0) .f32) w).1
        ((ph.zip b.v).map (fun p =>
          (exactMul p.1 (flushIn ch.ftz (decodeScaled (p.2.getD n (0, 127)).1 b.vt (p.2.getD n (0, 127)).2))).1)) acc) ∧
      ∀ n, ch.d ≤ n → r.o[n]? = o0[n]? := by
  intro r o0 m0 l0 vis
  have seen : (ch.rowSeen gs b i).any (fun p => p.2 && p.1.isNan) = false := by
    rw [← Bool.not_eq_true, Chain.any_nan_iff]
    rintro ⟨j, hj, nan⟩
    rw [numbers j hj] at nan
    cases nan
  obtain ⟨nm, m, l, rs, o⟩ := Chain.rowStep_numbers live seen gv
  obtain ⟨-, -, above⟩ := ch.rowTop_spec gs b i
  obtain ⟨shrinks, still⟩ := ch.rowShrink_spec gs b i
  have rises := ch.below_rowMax gs b i
  refine ⟨ch.rowMax gs b i, (ch.rowShrink gs b i).1, ch.rowWeights gs b i, nm, ch.length_rowWeights gs b i, ch.rowMax_source gs b i,
    Chain.cmp_rowMax (ch.rowM0_real_plain i) (le_max_left ..), fun j hj low =>
      Chain.cmp_rowMax (ch.score_real_plain gs b i j) ((above j hj.1 hj.2 low).trans (le_max_right ..)),
    fun h => ⟨shrinks h, m.trans (if_pos (rises.1 h))⟩, fun h => ⟨still h, m.trans (if_neg (rises.not.1 h))⟩, rs, fun j lt => ?_, l,
    fun n hn => ?_, fun n hn => ?_⟩
  · rw [ch.getElem?_rowWeights lt]
    refine ⟨fun hidden => ?_, fun hj inf => ?_, fun hj finite => ?_⟩
    · have off : isVis (ch.visible i j b.base) (ch.score gs b i j) = false := by
        rw [← Bool.not_eq_true, isVis_iff]
        rintro ⟨on, low⟩
        exact hidden.elim (fun out => out ⟨lt, on⟩) low
      rw [off, Chain.weight_hidden]
    · rw [inf, isVis_iff.2 ⟨hj.2, by decide⟩, Chain.weight_inf]
      exact ⟨_, rfl, congrArg some Q.int_one_rat⟩
    · rw [isVis_iff.2 ⟨hj.2, fun inf => by rw [inf] at finite; cases finite⟩, Chain.weight_number finite]
  · have sum := sumGroups_accSum ch.ftz hgv (exactMul (decodeEl (o0.getD n 0) .f32) (ch.rowShrink gs b i).1).1
      (((ch.rowWeights gs b i).zip b.v).map
        (fun p => exactMul p.1 (flushIn ch.ftz (decodeScaled (p.2.getD n (0, 127)).1 b.vt (p.2.getD n (0, 127)).2))))
      (exactMul (decodeEl (o0.getD n 0) .f32) (ch.rowShrink gs b i).1).2
    rw [List.map_map] at sum
    refine ⟨_, ?_, sum⟩
    rw [show r.o = _ from o, getElem?_put, if_pos hn]
    rfl
  · rw [show r.o = _ from o, getElem?_put, if_neg (not_lt.2 hn)]

/-! The step of all rows, and the output of one. -/

theorem Chain.step_spec (ch : Chain) (gs gv : ℕ) (b : Block) :
    let t := (ch.step gs gv b).1
    (∃ nm m l rs o, t = { ch with nm, m, l, rs, o, kpos := (b.base + b.k.length) % 2 ^ 32 }) ∧
    (∀ i, i < ch.nq → let r := ch.rowStep gs gv b i
      t.nm[i]? = some r.nm ∧ t.m[i]? = some r.m ∧ t.l[i]? = some r.l ∧ t.rs[i]? = some r.rs ∧ t.o[i]? = some r.o) ∧
    ∀ i, ch.nq ≤ i → t.nm[i]? = ch.nm[i]? ∧ t.m[i]? = ch.m[i]? ∧ t.l[i]? = ch.l[i]? ∧ t.rs[i]? = ch.rs[i]? ∧ t.o[i]? = ch.o[i]? := by
  intro t
  have put {α : Type} (f : RowRes → α) (xs : List α) (i : ℕ) :
      (((List.range ch.nq).map (ch.rowStep gs gv b)).map f ++ xs.drop ch.nq)[i]? =
        if i < ch.nq then some (f (ch.rowStep gs gv b i)) else xs[i]? := by
    rw [List.map_map, getElem?_put]; rfl
  refine ⟨⟨_, _, _, _, _, rfl⟩, fun i hi => ?_, fun i hi => ?_⟩
  · exact ⟨(put RowRes.nm ch.nm i).trans (if_pos hi), (put RowRes.m ch.m i).trans (if_pos hi), (put RowRes.l ch.l i).trans (if_pos hi),
      (put RowRes.rs ch.rs i).trans (if_pos hi), (put RowRes.o ch.o i).trans (if_pos hi)⟩
  · have out := not_lt.2 hi
    exact ⟨(put RowRes.nm ch.nm i).trans (if_neg out), (put RowRes.m ch.m i).trans (if_neg out), (put RowRes.l ch.l i).trans (if_neg out),
      (put RowRes.rs ch.rs i).trans (if_neg out), (put RowRes.o ch.o i).trans (if_neg out)⟩

theorem Chain.finRow_spec (ch : Chain) (raw : Bool) {i n x : ℕ} (hn : n < ch.d) (hx : (ch.o.getD i [])[n]? = some x) :
    let r := ch.finRow raw i
    let l := decodeEl (ch.l.getD i 0) .f32
    (ch.nm.getD i false = true → r.1[n]? = some (ETy.nanBits ch.oty) ∧ r.2.2 = false) ∧
    (ch.nm.getD i false = false →
      (l.isZero = true → r.1[n]? = some 0 ∧ r.2.2 = true) ∧
      (l.isZero = false → r.2.2 = false ∧ r.1[n]? = some (encodeEl (if raw then decodeEl x .f32 else (fDivX .rne (decodeEl x .f32) l).1)
        ch.oty .rne ch.ftz ch.sat).1)) := by
  intro r l
  have taken : ((ch.o.getD i []).take ch.d)[n]? = some x := by rw [List.getElem?_take_of_lt hn, hx]
  have mapped {β : Type} (f : ℕ → β) : (((ch.o.getD i []).take ch.d).map f)[n]? = some (f x) := by
    rw [List.getElem?_map, taken]; rfl
  refine ⟨fun nm => ?_, fun live => ⟨fun zero => ?_, fun rest => ?_⟩⟩
  · have row : r = _ := if_pos nm
    rw [row]
    exact ⟨mapped _, rfl⟩
  · have row : r = _ := (if_neg (by rw [live]; decide)).trans (if_pos zero)
    rw [row]
    exact ⟨mapped _, rfl⟩
  · have row : r = _ := (if_neg (by rw [live]; decide)).trans (if_neg (by rw [show (d32 (ch.l.getD i 0)).isZero = false from rest]; decide))
    rw [row]
    dsimp only
    rw [List.map_map]
    refine ⟨rfl, (mapped _).trans ?_⟩
    cases raw <;> rfl

/-! The obligation. -/

/-- Settles O10: each clause is the lemma of its operation. -/
theorem exactBeforeRounding : Obligations.ExactBeforeRounding := by
  unfold Obligations.ExactBeforeRounding
  refine ⟨fun rm p q hp hq hpd hqd hpr hqr => ?_, fun rm xs => ?_, fun ar tx isat xs n cin => ?_, cellMul_scaled, fun b t q => pips_fin,
    getElem?_stepTimes, getElem?_stepEnds, fun n k hn => topDigits_spec hn k, fun b k hb => truncP_decodeEl hb k,
    fun ch gs gv b i hgs hgv => ?_, Chain.step_spec, fun ch raw i n x hn hx => ch.finRow_spec raw hn hx⟩
  · have plainP : p.Plain := ⟨hpd, hpr⟩
    have plainQ : q.Plain := ⟨hqd, hqr⟩
    have product : (Ex.fin (p.mul q)).Plain := Ex.plain_fin (Q.mul_plain plainP plainQ)
    refine ⟨fAddX_rat rm (Ex.plain_fin plainP) (Ex.plain_fin plainQ), ?_, fDivX_rat rm plainP plainQ hq,
      fAddX_eq_zero rm plainP (Ex.plain_fin plainQ), fun b => ?_, fun z hz hzd hzr => ⟨?_, fun zero => ?_⟩, fSqrtX_near plainQ⟩
    · rw [exactMul_fin plainP plainQ, ← Q.mul_rat]; rfl
    · rw [fFmaX_fin rm plainP plainQ rfl, fAddX_rat rm product (Ex.plain_zero b), ← Q.mul_rat]
      exact congrArg some (add_zero _)
    · rw [fFmaX_fin rm plainP plainQ rfl, fAddX_rat rm product (Ex.plain_fin ⟨hzd, hzr⟩), ← Q.mul_rat]
      rfl
    · rw [fFmaX_fin rm plainP plainQ rfl]
      exact fAddX_eq_zero rm (Q.mul_plain plainP plainQ) (Ex.plain_fin ⟨hzd, hzr⟩) (by rw [Q.mul_rat]; exact zero)
  · exact ⟨exactSum_rat rm, exactSum_nan rm, fun n => exactSum_inf rm⟩
  · exact ⟨outWord_float ar tx isat xs n cin, outWord_int ar tx isat xs n cin⟩
  · exact ⟨Chain.rowStep_nm (gs := gs) (gv := gv) (b := b), fun live => ⟨ch.score gs b i, fun j kr hkr => Chain.score_spec hgs hkr,
      Chain.rowStep_nan_row live gv, Chain.rowStep_number_row hgv live⟩⟩

end Sys2Proof.Machine
end

section
/-! O58: words and bundles as their fields, low to high. -/
namespace Sys2Proof

/-- A value that a field of `w` bits holds. -/
def Fits (w v : Nat) : Prop := v < 2 ^ w

/-- A word of fields, each its width and its value, the lowest first. -/
def packed : List (Nat × Nat) → Nat
  | [] => 0
  | (w, v) :: r => v + 2 ^ w * packed r

@[simp] theorem bits_packed_skip {k v lo w : Nat} {r : List (Nat × Nat)} (fits : Fits k v) (h : k ≤ lo) :
    bits (packed ((k, v) :: r)) lo w = bits (packed r) (lo - k) w := by
  obtain ⟨d, rfl⟩ := Nat.exists_eq_add_of_le h
  rw [bits, packed, Nat.pow_add, ← Nat.div_div_eq_div_mul, Nat.add_mul_div_left _ _ (by positivity), Nat.div_eq_of_lt fits, Nat.zero_add,
    Nat.add_sub_cancel_left, bits]

@[simp] theorem bits_packed_within {k v lo w : Nat} {r : List (Nat × Nat)} (h : lo + w ≤ k) :
    bits (packed ((k, v) :: r)) lo w = bits v lo w := by
  obtain ⟨d, rfl⟩ := Nat.exists_eq_add_of_le h
  rw [bits, packed, Nat.pow_add, Nat.pow_add, Nat.mul_assoc, Nat.mul_assoc, Nat.add_mul_div_left _ _ (by positivity),
    Nat.add_mul_mod_self_left, bits]

@[simp] theorem bits_packed_across {k v w : Nat} {r : List (Nat × Nat)} (fits : Fits k v) (h : k < w) :
    bits (packed ((k, v) :: r)) 0 w = v + 2 ^ k * bits (packed r) 0 (w - k) := by
  obtain ⟨d, rfl⟩ := Nat.exists_eq_add_of_le h.le
  simp only [bits, packed, Nat.pow_zero, Nat.div_one, Nat.pow_add _ k, Nat.add_sub_cancel_left]
  rw [Nat.mod_mul, Nat.add_mul_mod_self_left, Nat.mod_eq_of_lt fits, Nat.add_mul_div_left _ _ (by positivity), Nat.div_eq_of_lt fits,
    Nat.zero_add]

@[simp] theorem bits_all {w v : Nat} (fits : Fits w v) : bits v 0 w = v := by
  rw [bits, Nat.pow_zero, Nat.div_one, Nat.mod_eq_of_lt fits]

@[simp] theorem bits_above {lo w v : Nat} (fits : Fits lo v) : bits v lo w = 0 := by
  rw [bits, Nat.div_eq_of_lt fits, Nat.zero_mod]

@[simp] theorem bits_zero (lo w : Nat) : bits 0 lo w = 0 := by simp [bits]

/-- Each value fits its field, and the fields `n` bits. -/
def FieldsFit : Nat → List (Nat × Nat) → Prop
  | _, [] => True
  | n, (k, v) :: r => k ≤ n ∧ Fits k v ∧ FieldsFit (n - k) r

@[simp] theorem fieldsFit_nil (n : Nat) : FieldsFit n [] := trivial
@[simp] theorem fieldsFit_cons {n k v : Nat} {r : List (Nat × Nat)} :
    FieldsFit n ((k, v) :: r) ↔ k ≤ n ∧ Fits k v ∧ FieldsFit (n - k) r := Iff.rfl

@[simp] theorem fits_packed {n : Nat} {fs : List (Nat × Nat)} (h : FieldsFit n fs) : Fits n (packed fs) := by
  induction fs generalizing n with
  | nil => exact Nat.two_pow_pos n
  | cons f r ih =>
    obtain ⟨k, v⟩ := f
    obtain ⟨hk, fits, rest⟩ := fieldsFit_cons.1 h
    obtain ⟨d, rfl⟩ := Nat.exists_eq_add_of_le hk
    have rest := ih rest
    rw [Nat.add_sub_cancel_left, Fits] at rest
    rw [Fits] at fits ⊢
    calc v + 2 ^ k * packed r < 2 ^ k + 2 ^ k * packed r := by omega
      _ = 2 ^ k * (packed r + 1) := by ring
      _ ≤ 2 ^ k * 2 ^ d := Nat.mul_le_mul_left _ rest
      _ = 2 ^ (k + d) := (Nat.pow_add ..).symm

@[simp] theorem packed_nil : packed [] = 0 := rfl
@[simp] theorem packed_single (w v : Nat) : packed [(w, v)] = v := by simp [packed]

/-! What fits a field. -/

@[simp] theorem fits_zero (w : Nat) : Fits w 0 := Nat.two_pow_pos w
theorem fits_of_lt {w v n : Nat} (h : v < n) (hn : n ≤ 2 ^ w) : Fits w v := Nat.lt_of_lt_of_le h hn
@[simp] theorem fits_fin {n w : Nat} (i : Fin n) (h : n ≤ 2 ^ w) : Fits w i.val := fits_of_lt i.isLt h
@[simp] theorem fits_fin_four (i : Fin 4) : Fits 2 i.val := i.isLt
@[simp] theorem fits_fin_eight (i : Fin 8) : Fits 3 i.val := i.isLt
@[simp] theorem fits_fin_sixteen (i : Fin 16) : Fits 4 i.val := i.isLt
@[simp] theorem fits_fin_64 (i : Fin 64) : Fits 6 i.val := i.isLt
@[simp] theorem fits_fin_128 (i : Fin 128) : Fits 7 i.val := i.isLt
@[simp] theorem fits_fin_512 (i : Fin 512) : Fits 9 i.val := i.isLt
@[simp] theorem fits_bitVec {n : Nat} (x : BitVec n) : Fits n x.toNat := x.isLt
@[simp] theorem fits_bitVec_of_le {n w : Nat} (x : BitVec n) (h : n ≤ w) : Fits w x.toNat :=
  fits_of_lt x.isLt (Nat.pow_le_pow_right (by decide) h)
@[simp] theorem fits_one (w : Nat) : Fits w 1 ↔ 1 < 2 ^ w := Iff.rfl
@[simp] theorem fits_ofNat (w v : Nat) [v.AtLeastTwo] : Fits w (no_index (OfNat.ofNat v)) ↔ OfNat.ofNat v < 2 ^ w := Iff.rfl
@[simp] theorem fits_bool (b : Bool) : Fits 1 b.toNat := b.toNat_lt
@[simp] theorem fits_eT (t : ETy) : Fits 4 (eT t) := fits_of_lt (n := 16) (by cases t <;> decide) (by decide)
@[simp] theorem fits_eSp (x : Space) : Fits 3 (eSp x) := fits_of_lt (n := 8) (by cases x <;> decide) (by decide)
@[simp] theorem fits_eRm (x : Rm) : Fits 2 (eRm x) := fits_of_lt (n := 4) (by cases x <;> decide) (by decide)

/-! The codes of the operands (R58 to R60) fill separate ranges of a field, and each reads back. -/

theorem eS_lt (x : SSrc) : eS x < 0x80 := by cases x <;> simp only [eS] <;> omega
theorem eS_no_predicate (x : SSrc) : ¬ (0x58 ≤ eS x ∧ eS x < 0x60) := by cases x <;> simp only [eS] <;> omega
theorem eD_lt (x : SDst) : eD x < 0x48 := by cases x <;> simp only [eD] <;> omega
theorem eP_range (i : Fin 8) : 0x58 ≤ eP i ∧ eP i < 0x60 := by simp only [eP]; omega
theorem eR_range (i : Fin 128) : 0x80 ≤ eR i ∧ eR i < 0x100 := by simp only [eR]; omega
@[simp] theorem fits_eS (x : SSrc) : Fits 8 (eS x) := fits_of_lt (eS_lt x) (by decide)
@[simp] theorem fits_eD (x : SDst) : Fits 8 (eD x) := fits_of_lt (eD_lt x) (by decide)
@[simp] theorem fits_eP (i : Fin 8) : Fits 8 (eP i) := fits_of_lt (eP_range i).2 (by decide)
@[simp] theorem fits_eR (i : Fin 128) : Fits 8 (eR i) := fits_of_lt (eR_range i).2 (by decide)
@[simp] theorem fits_eCD (x : CDst) : Fits 8 (eCD x) := by cases x <;> simp [eCD]
@[simp] theorem fits_ePS (x : PSrc) : Fits 8 (ePS x) := by cases x <;> simp [ePS]
@[simp] theorem fits_eRS (x : RSrc) : Fits 8 (eRS x) := by cases x <;> simp [eRS]
@[simp] theorem fits_eOR (x : Option (Fin 128)) : Fits 8 (eOR x) := by cases x <;> simp [eOR]

@[simp] theorem dTyC_eT (t : ETy) : dTyC (eT t) = .ok t := by cases t <;> rfl
@[simp] theorem dSp_eSp (x : Space) : dSp (eSp x) = .ok x := by cases x <;> rfl
@[simp] theorem dRm_eRm (x : Rm) : dRm (eRm x) = x := by cases x <;> rfl
@[simp] theorem dSSrc_eS (x : SSrc) : dSSrc (eS x) = .ok x := by
  cases x with
  | s i => simp [eS, dSSrc]
  | o i => simp [eS, dSSrc, show 64 + i.val < 72 by omega]
  | lx i => simp [eS, dSSrc, show 64 ≤ 72 + i.val by omega, show 72 + i.val < 76 by omega]
  | imm v =>
    have := v.isLt
    rw [eS, dSSrc, if_neg (by omega), if_neg (by omega), if_neg (by omega), if_pos (by omega)]
    simp
@[simp] theorem dSDst_eD (x : SDst) : dSDst (eD x) = .ok x := by
  cases x with
  | s i => simp [eD, dSDst]
  | o i => simp [eD, dSDst, show 64 + i.val < 72 by omega]
@[simp] theorem dPred_eP (i : Fin 8) : dPred (eP i) = .ok i := by
  rw [dPred, if_pos (eP_range i)]
  simp [eP]
@[simp] theorem dRow_eR (i : Fin 128) : dRow (eR i) = .ok i := by
  rw [dRow, if_pos (eR_range i).1]
  simp [eR]
@[simp] theorem dTok_val (i : Tok) : dTok i.val = .ok i := by simp [dTok]
@[simp] theorem dCDst_eCD (x : CDst) : dCDst (eCD x) = .ok x := by
  cases x with
  | sc d =>
    have := eD_lt d
    rw [eCD, dCDst, if_neg (by omega), dSDst_eD]; rfl
  | p i =>
    rw [eCD, dCDst, if_pos (eP_range i)]
    simp [eP]
@[simp] theorem dPSrc_ePS (x : PSrc) : dPSrc (ePS x) = .ok x := by
  cases x with
  | sc a => rw [ePS, dPSrc, if_neg (eS_no_predicate a), dSSrc_eS]; rfl
  | p i =>
    rw [ePS, dPSrc, if_pos (eP_range i)]
    simp [eP]
@[simp] theorem dRSrc_eRS (x : RSrc) : dRSrc (eRS x) = .ok x := by
  cases x with
  | sc a =>
    have := eS_lt a
    rw [eRS, dRSrc, if_neg (by omega), dSSrc_eS]; rfl
  | row i =>
    rw [eRS, dRSrc, if_pos (eR_range i).1]
    simp [eR]
@[simp] theorem dORow_eOR (x : Option (Fin 128)) : dORow (eOR x) = .ok x := by
  cases x with
  | none => rfl
  | some i =>
    have := eR_range i
    rw [eOR, dORow, if_neg (by rw [beq_iff_eq]; omega), dRow_eR]; rfl

theorem bit_eq (x i : Nat) : bit x i = (bits x i 1 == 1) := by simp [bit, bits]

/-! A syllable as its fields: the common fields, opcode, type and modifiers (R54) above 32 bits that its format divides (R56). -/

theorem eB_eq (b : Bool) (i : Nat) : eB b i = 2 ^ i * b.toNat := by cases b <;> simp [eB]

/-- The syllable of these fields. -/
def syllable (g : Guard) (op t md low : Nat) : Nat :=
  packed [(32, low), (13, md), (4, t), (10, op), (1, g.neg.toNat), (3, g.pred.val), (1, g.sq.toNat)]

theorem wG_eq (g : Guard) (op t md d a b c : Nat) :
    wG g op t md d a b c = syllable g op t md (packed [(8, c), (8, b), (8, a), (8, d)]) := by
  simp only [wG, eG, eB_eq, syllable, packed]
  ring
theorem wH_eq (g : Guard) (op t md d a i : Nat) : wH g op t md d a i = syllable g op t md (packed [(16, i), (8, a), (8, d)]) := by
  simp only [wH, eG, eB_eq, syllable, packed]
  ring
theorem wI_eq (g : Guard) (op d md i : Nat) : wI g op d md i = syllable g op 0 (packed [(5, md), (8, d)]) i := by
  simp only [wI, eG, eB_eq, syllable, packed]
  ring

@[simp] theorem zero_zero : zero 0 = .ok () := rfl
@[simp] theorem unused_zero : unused 0 = .ok () := rfl
@[simp] theorem ok_bind {α β : Type} (x : α) (f : α → Dec β) : (Except.ok x >>= f) = f x := rfl

/-- What a reader finds in a syllable of the type `t` with the modifiers `md` (R54). -/
abbrev Holds (w : Nat) (g : Guard) (t md low : Nat) : Prop :=
  dGuard w = g ∧ fTy w = t ∧ dTy w = dTyC t ∧ (ty0 w = if t == 0 then .ok () else .error .type) ∧ fMd w = md ∧
  fDst w = bits low 24 8 ∧ fA w = bits low 16 8 ∧ fB w = bits low 8 8 ∧ fC w = bits low 0 8 ∧ fI16 w = bits low 0 16 ∧ fI32 w = low ∧
  fDstI w = bits md 5 8 ∧ fMdI w = bits md 0 5 ∧
  (∀ lo n, lo + n ≤ 32 → bits w lo n = bits low lo n) ∧ (∀ lo n, 32 ≤ lo → lo + n ≤ 45 → bits w lo n = bits md (lo - 32) n) ∧
  (∀ i, 32 ≤ i → i < 45 → bit w i = (bits md (i - 32) 1 == 1)) ∧ bits w 0 49 = low + 2 ^ 32 * (md + 2 ^ 13 * t)

theorem holds_syllable {g : Guard} {op t md low : Nat} (hop : Fits 10 op) (ht : Fits 4 t) (hmd : Fits 13 md) (hlow : Fits 32 low) :
    Holds (syllable g op t md low) g t md low := by
  have upper {lo n : Nat} (h : 32 ≤ lo) (h' : lo + n ≤ 45) : lo - 32 + n ≤ 13 := by omega
  simp +contextual [Holds, syllable, fTy, dTy, ty0, fMd, fDst, fA, fB, fC, fI16, fI32, fDstI, fMdI, dGuard, bit_eq, hop, ht, hmd, hlow,
    upper]

/-- A reader answers an instruction from a syllable with its opcode. -/
def Reads (op : Nat) (p : Nat → Dec Instr) (w : Nat) (i : Instr) : Prop := Fits 10 op → Fits 64 w ∧ fOp w = op ∧ p w = .ok i

section
variable {op t md d a b c v : Nat} {g : Guard} {p : Nat → Dec Instr} {i : Instr}

theorem reads_syllable {low : Nat} (ht : Fits 4 t) (hmd : Fits 13 md) (hlow : Fits 32 low)
    (read : ∀ w, Holds w g t md low → p w = .ok i) : Reads op p (syllable g op t md low) i := by
  intro hop
  refine ⟨?_, ?_, read _ (holds_syllable hop ht hmd hlow)⟩
  · simp [syllable, hop, ht, hmd, hlow]
  · simp [syllable, fOp, ht, hop, hmd, hlow]

/-- Format G (R56). The modifiers are given as their fields. -/
theorem reads_wG (mods : List (Nat × Nat)) (e : md = packed mods)
    (fits : Fits 4 t ∧ FieldsFit 13 mods ∧ Fits 8 d ∧ Fits 8 a ∧ Fits 8 b ∧ Fits 8 c)
    (read : ∀ w, Holds w g t (packed mods) (packed [(8, c), (8, b), (8, a), (8, d)]) → p w = .ok i) :
    Reads op p (wG g op t md d a b c) i := by
  obtain ⟨ht, hmods, hd, ha, hb, hc⟩ := fits
  rw [wG_eq, e]
  refine reads_syllable ht (fits_packed hmods) ?_ read
  simp [*]
/-- Format G with an immediate of 16 bits. -/
theorem reads_wH (mods : List (Nat × Nat)) (e : md = packed mods)
    (fits : Fits 4 t ∧ FieldsFit 13 mods ∧ Fits 8 d ∧ Fits 8 a ∧ Fits 16 v)
    (read : ∀ w, Holds w g t (packed mods) (packed [(16, v), (8, a), (8, d)]) → p w = .ok i) :
    Reads op p (wH g op t md d a v) i := by
  obtain ⟨ht, hmods, hd, ha, hv⟩ := fits
  rw [wH_eq, e]
  refine reads_syllable ht (fits_packed hmods) ?_ read
  simp [*]
/-- Format I (R56). -/
theorem reads_wI (mods : List (Nat × Nat)) (e : md = packed mods) (fits : FieldsFit 5 mods ∧ Fits 8 d ∧ Fits 32 v)
    (read : ∀ w, Holds w g 0 (packed [(5, packed mods), (8, d)]) v → p w = .ok i) :
    Reads op p (wI g op d md v) i := by
  obtain ⟨hmods, hd, hv⟩ := fits
  rw [wI_eq, e]
  refine reads_syllable (fits_zero 4) ?_ hv read
  simp [*]
end

/-! Modifiers that several readers share, as their fields (R56). -/

theorem flag_fields (b : Bool) : eB b 0 = packed [(1, b.toNat)] := by simp [eB_eq]
theorem sat_fields (sat : Bool) : eB sat 9 = packed [(9, 0), (1, sat.toNat)] := by simp only [eB_eq, packed]; ring
theorem round_fields (rm : Rm) (ftz sat : Bool) :
    eF rm ftz sat = packed [(9, 0), (1, sat.toNat), (1, ftz.toNat), (2, eRm rm)] := by
  simp only [eF, eB_eq, packed]; ring
theorem bitField_fields (pos : Fin 64) (len : Fin 128) : pos.val * 2 ^ 7 + len.val = packed [(7, len.val), (6, pos.val)] := by
  simp only [packed]; ring
theorem access_fields (oc : Fin 16) (sp : Space) (dw pi : Bool) :
    oc.val * 2 ^ 9 + eSp sp * 2 ^ 6 + eB dw 5 + eB pi 4 = packed [(4, 0), (1, pi.toNat), (1, dw.toNat), (3, eSp sp), (4, oc.val)] := by
  simp only [eB_eq, packed]; ring
theorem atom_fields (oc : Fin 16) (sp : Space) (dw : Bool) :
    oc.val * 2 ^ 9 + eSp sp * 2 ^ 6 + eB dw 5 = packed [(5, 0), (1, dw.toNat), (3, eSp sp), (4, oc.val)] := by
  simp only [eB_eq, packed]; ring
theorem mask_fields (ftz : Bool) (m : Option (Fin 64)) : eB ftz 10 + eM m = packed [(8, eM m), (2, 0), (1, ftz.toNat)] := by
  simp only [eB_eq, packed]; ring

/-! The readers of the A and M slots (R64, R65). -/

section
variable {op : Nat} {s : Slot}

theorem reads_bin {k : Bin → Instr} (x : Bin) (hs : x.slot = s) : Reads op (pBin s k) (eBin op x) (k x) := by
  refine reads_wG _ (sat_fields _) ?_ fun w f => ?_
  · simp
  · simp [pBin, f]; simp [packed, ← hs]
theorem reads_una {k : Una → Instr} (x : Una) (hs : x.slot = s) : Reads op (pUna s k) (eUna op x) (k x) := by
  refine reads_wG _ (sat_fields _) ?_ fun w f => ?_
  · simp
  · simp [pUna, f]; simp [packed, ← hs]
theorem reads_bfx {k : Bfx → Instr} (x : Bfx) (hs : x.slot = s) : Reads op (pBfx s k) (eBfx op x) (k x) := by
  refine reads_wG _ (bitField_fields ..) ?_ fun w f => ?_
  · simp
  · simp [pBfx, f, ← hs]
theorem reads_bfi (x : Bfi) : Reads 0x050 (pBfi x.slot) (Instr.bfi x).syllable (.bfi x) := by
  refine reads_wG _ (bitField_fields ..) ?_ fun w f => ?_ <;> simp [pBfi, *]
theorem reads_sel (x : Sel) : Reads 0x055 (pSel x.slot) (Instr.sel x).syllable (.sel x) := by
  refine reads_wG [] rfl ?_ fun w f => ?_ <;> simp [pSel, *]
theorem reads_cmp (x : Cmp) : Reads 0x056 (pCmp x.slot) (Instr.cmp x).syllable (.cmp x) := by
  refine reads_wG [(4, x.cond.val)] (packed_single _ _).symm ?_ fun w f => ?_ <;> simp [pCmp, *]
theorem reads_lea (x : Lea) : Reads 0x058 (pLea x.slot) (Instr.lea x).syllable (.lea x) := by
  refine reads_wG [(4, x.sh.val)] (packed_single _ _).symm ?_ fun w f => ?_ <;> simp [pLea, *]
theorem reads_imm {k : ImmOp → Instr} (x : ImmOp) (hs : x.slot = s) : Reads op (pImm s k) (eImm op x) (k x) := by
  refine reads_wI [(4, 0), (1, x.zx.toNat)] ?_ ?_ fun w f => ?_
  · simp only [eB_eq, packed]; ring
  · simp
  · simp [pImm, f, ← hs]
theorem reads_cmpi (x : Cmpi) : Reads 0x064 (pCmpi x.slot) (Instr.cmpi x).syllable (.cmpi x) := by
  refine reads_wI [(2, x.cond.val), (3, x.p.val)] ?_ ?_ fun w f => ?_
  · simp only [packed]; ring
  · simp
  · simp [pCmpi, f]

theorem reads_fbin {k : FBin → Instr} (x : FBin) : Reads op (pFBin k) (eFBin op x) (k x) := by
  refine reads_wG _ (round_fields ..) ?_ fun w f => ?_ <;> simp [pFBin, *]
theorem reads_ffma (x : FTer) : Reads 0x0A3 pFTer (Instr.ffma x).syllable (.ffma x) := by
  refine reads_wG _ (round_fields ..) ?_ fun w f => ?_ <;> simp [pFTer, *]
theorem reads_funa {k : FUna → Instr} (x : FUna) : Reads op (pFUna k) (eFUna op x) (k x) := by
  refine reads_wG _ (round_fields ..) ?_ fun w f => ?_ <;> simp [pFUna, *]
theorem reads_fcmp (x : FCmp) : Reads 0x0A8 pFCmp (Instr.fcmp x).syllable (.fcmp x) := by
  refine reads_wG [(3, x.cond.val), (7, 0), (1, x.ftz.toNat)] ?_ ?_ fun w f => ?_
  · simp only [eB_eq, packed]; ring
  · simp
  · simp [pFCmp, f]
theorem reads_fcvt (x : FCvt) : Reads 0x0A9 pFCvt (Instr.fcvt x).syllable (.fcvt x) := by
  refine reads_wG [(4, 0), (4, eT x.src), (1, 0), (1, x.sat.toNat), (1, x.ftz.toNat), (2, eRm x.rm)] ?_ ?_ fun w f => ?_
  · simp only [eB_eq, eF, packed]; ring
  · simp
  · simp [pFCvt, f]

theorem reads_load {k : Load → Instr} (x : Load) : Reads op (pLoad k) (eLoad op x) (k x) := by
  refine reads_wH _ (access_fields ..) ?_ fun w f => ?_ <;> simp [pLoad, *]
theorem reads_store {k : Store → Instr} (x : Store) : Reads op (pStore k) (eStore op x) (k x) := by
  refine reads_wH _ (access_fields ..) ?_ fun w f => ?_ <;> simp [pStore, *]
theorem reads_gload {k : GLoad → Instr} (x : GLoad) : Reads op (pGLoad k) (eGLoad op x) (k x) := by
  refine reads_wH [(5, 0), (1, x.dw.toNat), (3, 0), (4, x.oc.val)] ?_ ?_ fun w f => ?_
  · simp only [eB_eq, packed]; ring
  · simp
  · simp [pGLoad, f]
theorem reads_atom {k : Atom → Instr} (x : Atom) : Reads op (pAtom k) (eAtom op x) (k x) := by
  refine reads_wG _ (atom_fields ..) ?_ fun w f => ?_ <;> simp [pAtom, *]
theorem reads_atom2 {k : Atom → Instr} (x : Atom) (hc : x.c = .s 0) : Reads op (pAtom2 k) (eAtom op x) (k x) := by
  refine reads_wG _ (atom_fields ..) ?_ fun w f => ?_
  · simp
  · have whole : pAtom k w = .ok (k x) := by simp [pAtom, f]
    have noThird : fC w = 0 := by simp [f, hc, eS]
    rw [pAtom2, noThird, unused_zero, ok_bind, whole]
theorem reads_multi {k : Multi → Instr} (x : Multi) : Reads op (pMulti k) (eMulti op x) (k x) := by
  refine reads_wG [(7, x.n.val)] (packed_single _ _).symm ?_ fun w f => ?_ <;> simp [pMulti, *]
theorem reads_fence (x : Fence) : Reads 0x130 pFence (Instr.fence x).syllable (.fence x) := by
  refine reads_wI [(2, x.order.val), (3, x.scope.val)] ?_ ?_ fun w f => ?_
  · simp only [packed]; ring
  · simp
  · simp [pFence, f]

theorem reads_br (x : Br) : Reads 0x200 pBr (Instr.br x).syllable (.br x) := by
  refine reads_wI [] rfl ?_ fun w f => ?_ <;> simp [pBr, *]
theorem reads_jr {k : Jr → Instr} (x : Jr) : Reads op (pJr k) (eJr op x) (k x) := by
  refine reads_wG [] rfl ?_ fun w f => ?_ <;> simp [pJr, *]
theorem reads_call (x : Call) : Reads 0x202 pCall (Instr.call x).syllable (.call x) := by
  refine reads_wI [] rfl ?_ fun w f => ?_ <;> simp [pCall, *]
theorem reads_callr (x : Callr) : Reads 0x203 pCallr (Instr.callr x).syllable (.callr x) := by
  refine reads_wG [] rfl ?_ fun w f => ?_ <;> simp [pCallr, *]
theorem reads_loop (x : Loop) : Reads 0x205 pLoop (Instr.loop x).syllable (.loop x) := by
  refine reads_wH [] rfl ?_ fun w f => ?_ <;> simp [pLoop, *]
theorem reads_loopi (x : Loopi) : Reads 0x206 pLoopi (Instr.loopi x).syllable (.loopi x) := by
  have low : x.n.toNat * 2 ^ 16 + x.disp.toNat = packed [(16, x.disp.toNat), (16, x.n.toNat)] := by simp only [packed]; ring
  show Reads _ _ (wI _ _ _ _ _) _
  rw [low]
  refine reads_wI [] rfl ?_ fun w f => ?_
  · simp
  · simp [pLoopi, f]; simp [packed]
theorem reads_pbin {k : PBin → Instr} (x : PBin) : Reads op (pPBin k) (ePBin op x) (k x) := by
  refine reads_wG [(1, x.na.toNat), (1, x.nb.toNat)] ?_ ?_ fun w f => ?_
  · simp only [eB_eq, packed]; ring
  · simp
  · simp [pPBin, f]
theorem reads_puna {k : PUna → Instr} (x : PUna) : Reads op (pPUna k) (ePUna op x) (k x) := by
  refine reads_wG _ (flag_fields _) ?_ fun w f => ?_ <;> simp [pPUna, *]

/-! The readers of the V slot (R66). -/

theorem reads_vbin {k : VBin → Instr} (x : VBin) : Reads op (pVBin k) (eVBin op x) (k x) := by
  refine reads_wG [(3, x.part.val), (6, 0), (1, x.sat.toNat), (1, x.ftz.toNat), (2, eRm x.rm)] ?_ ?_ fun w f => ?_
  · simp only [eB_eq, eF, packed]; ring
  · simp
  · simp [pVBin, f]
theorem reads_vter {k : VTer → Instr} (x : VTer) : Reads op (pVTer k) (eVTer op x) (k x) := by
  refine reads_wG _ (round_fields ..) ?_ fun w f => ?_ <;> simp [pVTer, *]
theorem reads_vuna {k : VUna → Instr} (x : VUna) : Reads op (pVUna k) (eVUna op x) (k x) := by
  refine reads_wG _ (sat_fields _) ?_ fun w f => ?_ <;> simp [pVUna, *]
theorem reads_vlog {k : VLog → Instr} (x : VLog) : Reads op (pVLog k) (eVLog op x) (k x) := by
  refine reads_wG [] rfl ?_ fun w f => ?_ <;> simp [pVLog, *]
theorem reads_vcmp (x : VCmp) : Reads 0x060 pVCmp (Instr.vcmp x).syllable (.vcmp x) := by
  refine reads_wG [(4, x.cond.val)] (packed_single _ _).symm ?_ fun w f => ?_ <;> simp [pVCmp, *]
theorem reads_vsel (x : VSel) : Reads 0x061 pVSel (Instr.vsel x).syllable (.vsel x) := by
  refine reads_wG [] rfl ?_ fun w f => ?_ <;> simp [pVSel, *]
theorem reads_vmov (x : VMov) : Reads 0x062 pVMov (Instr.vmov x).syllable (.vmov x) := by
  refine reads_wG [] rfl ?_ fun w f => ?_ <;> simp [pVMov, *]
theorem reads_vrowS {k : VRowS → Instr} (x : VRowS) : Reads op (pVRowS k) (eVRowS op x) (k x) := by
  refine reads_wG [] rfl ?_ fun w f => ?_ <;> simp [pVRowS, *]
theorem reads_vlane (x : VLane) : Reads 0x064 pVLane (Instr.vlane x).syllable (.vlane x) := by
  refine reads_wG [] rfl ?_ fun w f => ?_ <;> simp [pVLane, *]
theorem reads_viota (x : VIota) : Reads 0x065 pVIota (Instr.viota x).syllable (.viota x) := by
  refine reads_wG [] rfl ?_ fun w f => ?_ <;> simp [pVIota, *]
theorem reads_vcvt (x : VCvt) : Reads 0x070 pVCvt (Instr.vcvt x).syllable (.vcvt x) := by
  refine reads_wG [(3, x.part.val), (1, 0), (4, eT x.src), (1, 0), (1, x.sat.toNat), (1, x.ftz.toNat), (2, eRm x.rm)] ?_ ?_ fun w f => ?_
  · simp only [eB_eq, eF, packed]; ring
  · simp
  · simp [pVCvt, f]
theorem reads_vquant (x : VQuant) : Reads 0x071 pVQuant (Instr.vquant x).syllable (.vquant x) := by
  refine reads_wG [(3, x.part.val), (5, 0), (1, 1), (1, 0), (1, x.ftz.toNat), (2, eRm x.rm)] ?_ ?_ fun w f => ?_
  · simp only [eB_eq, eF, Bool.toNat_false, packed]; ring
  · simp
  · simp [pVQuant, f]
theorem reads_vdequant (x : VDeq) : Reads 0x072 pVDeq (Instr.vdequant x).syllable (.vdequant x) := by
  refine reads_wG [(3, x.part.val), (5, 0), (1, 1), (1, x.sat.toNat), (1, x.ftz.toNat), (2, eRm x.rm)] ?_ ?_ fun w f => ?_
  · simp only [eB_eq, eF, packed]; ring
  · simp
  · simp [pVDeq, f]
theorem reads_vscan (x : VScan) : Reads 0x080 pVScan (Instr.vscan x).syllable (.vscan x) := by
  refine reads_wG [(4, x.op.val)] (packed_single _ _).symm ?_ fun w f => ?_ <;> simp [pVScan, *]
theorem reads_vred (x : VRed) : Reads 0x081 pVRed (Instr.vred x).syllable (.vred x) := by
  refine reads_wG [(4, x.op.val)] (packed_single _ _).symm ?_ fun w f => ?_ <;> simp [pVRed, *]
theorem reads_vperm (x : VPerm) : Reads 0x082 pVPerm (Instr.vperm x).syllable (.vperm x) := by
  refine reads_wG [] rfl ?_ fun w f => ?_ <;> simp [pVPerm, *]
theorem reads_vshuf (x : VShuf) : Reads 0x084 pVShuf (Instr.vshuf x).syllable (.vshuf x) := by
  refine reads_wG [(4, x.pat.val)] (packed_single _ _).symm ?_ fun w f => ?_ <;> simp [pVShuf, *]
/-- `vld`, `vst`, `vldt`, `vstt`: a pitch of four bits (R200). -/
theorem reads_vmem {k : VMem → Instr} (x : VMem) (pitch : Fits 4 x.acc.val) : Reads op (pVMem k) (eVMem op x) (k x) := by
  refine reads_wH [(4, x.acc.val), (1, x.pi.toNat), (1, 0), (3, eSp x.sp), (4, x.oc.val)] ?_ ?_ fun w f => ?_
  · simp only [eB_eq, packed]; ring
  · simp [pitch]
  · simp [pVMem, f, pitch]
/-- `vldm`, `vstm`: a mask index of six bits, and no update of the base (R200). -/
theorem reads_vmemM {k : VMem → Instr} (x : VMem) (still : x.pi = false) : Reads op (pVMemM k) (eVMem op x) (k x) := by
  refine reads_wH [(6, x.acc.val), (3, eSp x.sp), (4, x.oc.val)] ?_ ?_ fun w f => ?_
  · simp only [still, eB_eq, Bool.toNat_false, packed]; ring
  · simp
  · simp [pVMemM, f, ← still]
theorem reads_vfn {k : VFn → Instr} (x : VFn) : Reads op (pVFn k) (eVFn op x) (k x) := by
  refine reads_wG _ (round_fields ..) ?_ fun w f => ?_ <;> simp [pVFn, *]
theorem reads_vtbld (x : VTbld) : Reads 0x0D1 pVTbld (Instr.vtbld x).syllable (.vtbld x) := by
  refine reads_wG [(1, x.part.val)] (packed_single _ _).symm ?_ fun w f => ?_ <;> simp [pVTbld, *]
theorem reads_vtbsw (g : Guard) : Reads 0x0D2 pVTbsw (Instr.vtbsw g).syllable (.vtbsw g) := by
  refine reads_wG [] rfl ?_ fun w f => ?_
  · simp
  · simp [pVTbsw, f]; simp [packed]

theorem eM_eq (m : Option (Fin 64)) : eM m = packed [(6, (m.getD 0).val), (1, 0), (1, m.isSome.toNat)] := by
  cases m with
  | none => rfl
  | some m => simp only [eM, packed]; simp; ring
@[simp] theorem fits_eM (m : Option (Fin 64)) : Fits 8 (eM m) := by simp [eM_eq]
theorem dMask_eM {w t low : Nat} {g : Guard} {ftz : Bool} {m : Option (Fin 64)}
    (f : Holds w g t (packed [(8, eM m), (2, 0), (1, ftz.toNat)]) low) : dMask w = .ok m := by
  have parts : bits (eM m) 6 1 = 0 ∧ bits (eM m) 7 1 = m.isSome.toNat ∧ bits (eM m) 0 6 = (m.getD 0).val := by simp [eM_eq]
  cases m <;> simp [dMask, f, parts]
theorem reads_vfold {k : VFold → Instr} (x : VFold) : Reads op (pVFold k) (eVFold op x) (k x) := by
  refine reads_wG _ (mask_fields ..) ?_ fun w f => ?_
  · simp
  · simp [pVFold, f, dMask_eM f]
theorem reads_vsexp (x : VSexp) : Reads 0x0E1 pVSexp (Instr.vsexp x).syllable (.vsexp x) := by
  refine reads_wG _ (mask_fields ..) ?_ fun w f => ?_
  · simp
  · simp [pVSexp, f, dMask_eM f]
theorem reads_vsdiv (x : VSdiv) : Reads 0x0E2 pVSdiv (Instr.vsdiv x).syllable (.vsdiv x) := by
  refine reads_wG [(10, 0), (1, x.ftz.toNat)] ?_ ?_ fun w f => ?_
  · simp only [eB_eq, packed]; ring
  · simp
  · simp [pVSdiv, f]
theorem reads_vpart (x : VPart) : Reads 0x0F0 pVPart (Instr.vpart x).syllable (.vpart x) := by
  refine reads_wG [(4, x.key.val)] (packed_single _ _).symm ?_ fun w f => ?_ <;> simp [pVPart, *]
theorem reads_vgs {k : VGs → Instr} (x : VGs) : Reads op (pVGs k) (eVGs op x) (k x) := by
  refine reads_wG [(6, 0), (3, eSp x.sp), (4, x.oc.val)] ?_ ?_ fun w f => ?_
  · simp only [packed]; ring
  · simp
  · simp [pVGs, f]

/-! The readers of the E slot (R67). -/

theorem reads_wait (x : Wait) : Reads 0x040 pWait (Instr.wait x).syllable (.wait x) := by
  refine reads_wG [(3, 0), (2, x.n.val), (1, x.all.toNat), (1, x.tt.toNat)] ?_ ?_ fun w f => ?_
  · simp only [eB_eq, packed]; ring
  · simp
  · simp [pWait, f]
theorem reads_waitQ (x : WaitQ) (queue : x.q.val ≠ 0) : Reads 0x040 pWait (Instr.waitQ x).syllable (.waitQ x) := by
  refine reads_wG [(3, x.q.val), (2, x.n.val), (1, x.all.toNat)] ?_ ?_ fun w f => ?_
  · simp only [eB_eq, packed]; ring
  · simp
  · simp [pWait, f, queue]
theorem reads_flagOp {k : FlagOp → Instr} (x : FlagOp) : Reads op (pFlagOp k) (eFlagOp op x) (k x) := by
  refine reads_wH [(3, x.q.val)] (packed_single _ _).symm ?_ fun w f => ?_ <;> simp [pFlagOp, *]
theorem reads_flagNo {k : FlagNo → Instr} (x : FlagNo) : Reads op (pFlagNo k) (eFlagNo op x) (k x) := by
  refine reads_wH [(3, x.q.val)] (packed_single _ _).symm ?_ fun w f => ?_ <;> simp [pFlagNo, *]
theorem reads_eseq (x : Eseq) : Reads 0x045 pEseq (Instr.eseq x).syllable (.eseq x) := by
  refine reads_wG [(3, x.sel.val)] (packed_single _ _).symm ?_ fun w f => ?_ <;> simp [pEseq, *]
@[simp] theorem dSp_zero : dSp 0 = .ok .g := rfl
theorem reads_liveNone (g : Guard) : Reads 0x046 pLive (Instr.liveNone g).syllable (.liveNone g) := by
  refine reads_wG [] rfl ?_ fun w f => ?_ <;> simp [pLive, *]
theorem reads_liveAll (g : Guard) : Reads 0x046 pLive (Instr.liveAll g).syllable (.liveAll g) := by
  refine reads_wG [(3, 1)] (packed_single _ _).symm ?_ fun w f => ?_ <;> simp [pLive, *]
theorem reads_liveS (x : LiveA) : Reads 0x046 pLive (Instr.liveS x).syllable (.liveS x) := by
  refine reads_wG [(3, 2)] (packed_single _ _).symm ?_ fun w f => ?_ <;> simp [pLive, *]
theorem reads_liveT (x : LiveA) : Reads 0x046 pLive (Instr.liveT x).syllable (.liveT x) := by
  refine reads_wG [(3, 3)] (packed_single _ _).symm ?_ fun w f => ?_ <;> simp [pLive, *]
theorem reads_liveR (x : LiveR) : Reads 0x046 pLive (Instr.liveR x).syllable (.liveR x) := by
  refine reads_wG [(3, 4), (3, 0), (3, eSp x.sp)] ?_ ?_ fun w f => ?_
  · simp only [packed]; ring
  · simp
  · simp [pLive, f]
theorem reads_liveRclr (g : Guard) : Reads 0x046 pLive (Instr.liveRclr g).syllable (.liveRclr g) := by
  refine reads_wG [(3, 5)] (packed_single _ _).symm ?_ fun w f => ?_ <;> simp [pLive, *]
theorem reads_endCtx (x : LiveA) : Reads 0x047 pEnd (Instr.endCtx x).syllable (.endCtx x) := by
  refine reads_wG [] rfl ?_ fun w f => ?_ <;> simp [pEnd, *]
theorem reads_cmd {k : Ecmd → Instr} (x : Ecmd) : Reads op (pCmd k) (eCmd op x) (k x) := by
  refine reads_wG [(13, x.md.val)] (packed_single _ _).symm ?_ fun w f => ?_ <;> simp [pCmd, *]
/-- The modifiers of a command choose its constructor (R317, R341). -/
theorem reads_sub {k : Ecmd → Instr} {ks : List (Ecmd → Instr)} {n : Nat} (x : Ecmd) (sub : x.mf 0 4 = n) (hk : ks[n]? = some k) :
    Reads op (pSub ks) (eCmd op x) (k x) := by
  refine reads_wG [(13, x.md.val)] (packed_single _ _).symm ?_ fun w f => ?_
  · simp
  · have chosen : bits w 32 4 = n := by rw [← sub]; simp [f, Ecmd.mf]
    rw [pSub, chosen, hk]
    simp [pCmd, f]
theorem reads_chstat (x : ChStat) : Reads 0x127 pChStat (Instr.chstat x).syllable (.chstat x) := by
  refine reads_wG [(2, x.sel.val)] (packed_single _ _).symm ?_ fun w f => ?_ <;> simp [pChStat, *]
theorem reads_edst {k : Edst → Instr} (x : Edst) : Reads op (pEdst k) (eEdst op x) (k x) := by
  refine reads_wG _ (flag_fields _) ?_ fun w f => ?_ <;> simp [pEdst, *]
theorem reads_eimm {k : Eimm → Instr} (x : Eimm) : Reads op (pEimm k) (eEimm op x) (k x) := by
  refine reads_wI [] rfl ?_ fun w f => ?_ <;> simp [pEimm, *]
theorem reads_rte (g : Guard) : Reads 0x1C1 pRte (Instr.rte g).syllable (.rte g) := by
  refine reads_wG [] rfl ?_ fun w f => ?_
  · simp
  · simp [pRte, f]; simp [packed]
theorem reads_rteDrop (g : Guard) : Reads 0x1C1 pRte (Instr.rteDrop g).syllable (.rteDrop g) := by
  refine reads_wG [(1, 1)] (packed_single _ _).symm ?_ fun w f => ?_
  · simp
  · simp [pRte, f]; simp [packed]
theorem reads_sysrd (x : SysRd) : Reads 0x1C2 pSysRd (Instr.sysrd x).syllable (.sysrd x) := by
  refine reads_wH [] rfl ?_ fun w f => ?_ <;> simp [pSysRd, *]
theorem reads_syswr (x : SysWr) : Reads 0x1C3 pSysWr (Instr.syswr x).syllable (.syswr x) := by
  refine reads_wH [] rfl ?_ fun w f => ?_ <;> simp [pSysWr, *]
theorem reads_ctxOp {k : CtxOp → Instr} (x : CtxOp) : Reads op (pCtxOp k) (eCtxOp op x) (k x) := by
  refine reads_wG [(9, 0), (4, x.oc.val)] ?_ ?_ fun w f => ?_
  · simp only [packed]; ring
  · simp
  · simp [pCtxOp, f]
theorem reads_trace (x : Trc) : Reads 0x1C8 pTrc (Instr.trace x).syllable (.trace x) := by
  refine reads_wG [] rfl ?_ fun w f => ?_ <;> simp [pTrc, *]
end

/-! A syllable that a reader of its slot's map reads decodes to the instruction read. -/

/-- The opcode map of a slot (R64 to R67). -/
def mapOf : Slot → OpMap
  | .a => amapA
  | .m => amapM
  | .v => mapV
  | .e => mapE

theorem decodeAt_eq (s : Slot) (w : Nat) : decodeAt s w = decodeWith (mapOf s) s w := by cases s <;> rfl

theorem lookup_append {m : OpMap} {op : Nat} {p : Nat → Dec Instr} (r : OpMap) (h : lookup m op = some p) : lookup (m ++ r) op = some p := by
  induction m with
  | nil => cases h
  | cons e m ih =>
    rw [List.cons_append]
    unfold lookup at h ⊢
    split
    next eq => rwa [if_pos eq] at h
    next ne => rw [if_neg ne] at h; exact ih h

/-- The integer operations stand in the maps of A and M alike. -/
theorem lookup_mapOf {s : Slot} {op : Nat} {p : Nat → Dec Instr} (am : s.am = true) (h : lookup (mapAM s) op = some p) :
    lookup (mapOf s) op = some p := by
  cases s with
  | a => exact lookup_append mapA h
  | m => exact lookup_append mapM h
  | v => cases am
  | e => cases am

theorem mem_of_lookup {m : OpMap} {op : Nat} {p : Nat → Dec Instr} (h : lookup m op = some p) : (op, p) ∈ m := by
  induction m with
  | nil => cases h
  | cons e m ih =>
    unfold lookup at h
    split at h
    next eq =>
      cases h
      rw [← beq_iff_eq.1 eq]
      exact List.mem_cons_self
    next ne => exact List.mem_cons_of_mem _ (ih h)

/-- Every opcode that names an entry fits the field, and the all-zero syllable is none of them (R63). -/
theorem opcode_of_lookup {s : Slot} {op : Nat} {p : Nat → Dec Instr} (h : lookup (mapOf s) op = some p) : op ≠ 0 ∧ Fits 10 op := by
  have all : ∀ e ∈ mapOf s, e.1 ≠ 0 ∧ e.1 < 1024 := by
    cases s <;> exact List.forall_mem_map.1 (by decide : ∀ o ∈ List.map Prod.fst _, o ≠ 0 ∧ o < 1024)
  exact all _ (mem_of_lookup h)

/-- The syllable of an instruction is one word, and its slot decodes it to the instruction. -/
def Decodes (i : Instr) : Prop := Fits 64 i.syllable ∧ decodeAt i.slotOf i.syllable = .ok i

theorem decodes_of_reads {i : Instr} {op : Nat} {p : Nat → Dec Instr} (wf : i.wf = true) (mapped : lookup (mapOf i.slotOf) op = some p)
    (h : Reads op p i.syllable i) : Decodes i := by
  obtain ⟨nonzero, hop⟩ := opcode_of_lookup mapped
  obtain ⟨word, opcode, read⟩ := h hop
  have live : ¬ (i.syllable == 0) = true := by
    rw [beq_iff_eq]
    intro zero
    rw [zero, fOp, bits_zero] at opcode
    exact nonzero opcode.symm
  refine ⟨word, ?_⟩
  rw [decodeAt_eq, decodeWith, if_neg live, opcode, mapped]
  simp [read, wf]

theorem decodes_of_reads_am {i : Instr} {op : Nat} {p : Nat → Dec Instr} (wf : i.wf = true) (am : i.slotOf.am = true)
    (mapped : lookup (mapAM i.slotOf) op = some p) (h : Reads op p i.syllable i) : Decodes i :=
  decodes_of_reads wf (lookup_mapOf am mapped) h

/-! What well-formedness says of the operands that a syllable has no bits for. -/

theorem Bin.am_of_wf {x : Bin} {sat : Bool} (h : x.wfAM sat = true) : x.slot.am = true := by simp [Bin.wfAM] at h; exact h.1.2
theorem Bin.m_of_wf {x : Bin} {sat : Bool} (h : x.wfM sat = true) : x.slot = .m := by simp [Bin.wfM] at h; exact h.1.2
theorem Una.am_of_wf {x : Una} {sat : Bool} (h : x.wf sat = true) : x.slot.am = true := by simp [Una.wf] at h; exact h.1.2
theorem ImmOp.am_of_wf {x : ImmOp} (h : x.wf = true) : x.slot.am = true := by simp [ImmOp.wf] at h; exact h.2
theorem Bfx.am_of_wf {x : Bfx} (h : x.wf = true) : x.slot.am = true := by simp [Bfx.wf] at h; exact h.1.1.2
theorem Bfi.am_of_wf {x : Bfi} (h : x.wf = true) : x.slot.am = true := by simp [Bfi.wf] at h; exact h.1.1.2
theorem Sel.am_of_wf {x : Sel} (h : x.wf = true) : x.slot.am = true := by simp [Sel.wf] at h; exact h.2
theorem Cmp.am_of_wf {x : Cmp} (h : x.wf = true) : x.slot.am = true := by simp [Cmp.wf] at h; exact h.1.2
theorem Lea.am_of_wf {x : Lea} (h : x.wf = true) : x.slot.am = true := by simp [Lea.wf] at h; exact h.2
theorem Cmpi.am_of_wf {x : Cmpi} (h : x.wf = true) : x.slot.am = true := by simp [Cmpi.wf] at h; exact h.1.2
theorem Atom.c_of_wf {x : Atom} {ts : List ETy} {dw : Bool} (h : x.wf ts dw = true) : x.c = .s 0 := by simp [Atom.wf] at h; exact h.2
theorem VMem.pitch_of_wf {x : VMem} {ld : Bool} (h : x.wf ld = true) : Fits 4 x.acc.val := by
  have none : x.acc = 0 := by simp [VMem.wf] at h; exact h.1.2
  simp [none]
theorem VMem.pitch_of_wfT {x : VMem} {ld : Bool} (h : x.wfT ld = true) : Fits 4 x.acc.val := by
  have small : x.acc.val < 16 := by simp [VMem.wfT] at h; exact h.1.1.2
  exact small
theorem VMem.still_of_wfMask {x : VMem} {ld : Bool} (h : x.wfMask ld = true) : x.pi = false := by simp [VMem.wfMask] at h; exact h.2
theorem WaitQ.queue_of_wf {x : WaitQ} (h : x.wf = true) : x.q.val ≠ 0 := by simp [WaitQ.wf] at h; omega
theorem Ecmd.mf_of_wfRatom {x : Ecmd} {n : Nat} {ts : List ETy} {dw uc : Bool} (h : x.wfRatom n ts dw uc = true) : x.mf 0 4 = n := by
  simp [Ecmd.wfRatom] at h; exact h.1.2
theorem Ecmd.mf_of_wfRflag {x : Ecmd} {n : Nat} {ub : Bool} (h : x.wfRflag n ub = true) : x.mf 0 4 = n := by
  simp [Ecmd.wfRflag] at h; exact h.1.2
theorem Ecmd.mf_of_wfSub {x : Ecmd} {mask n : Nat} {ua ub uc : Bool} (h : x.wfSub mask n ua ub uc = true) : x.mf 0 4 = n := by
  simp [Ecmd.wfSub] at h; exact h.2

/-- Each instruction by its reader; an event is not well formed. -/
theorem decodes_of_wf {i : Instr} (wf : i.wf = true) (notMovl : ∀ x, i ≠ .movl x) : Decodes i := by
  cases i with
  | nop s => cases s <;> exact ⟨fits_zero 64, rfl⟩
  | movl x => exact absurd rfl (notMovl x)
  -- A and M
  | add x | sub x | and x | or x | xor x | andn x | shl x | shr x | sra x | rotl x | min x | max x | minn x | maxn x =>
    exact decodes_of_reads_am wf (Bin.am_of_wf wf) rfl (reads_bin x rfl)
  | neg x | clz x | ctz x | popc x | mov x => exact decodes_of_reads_am wf (Una.am_of_wf wf) rfl (reads_una x rfl)
  | bfx x | bfxn x => exact decodes_of_reads_am wf (Bfx.am_of_wf wf) rfl (reads_bfx x rfl)
  | bfi x => exact decodes_of_reads_am wf (Bfi.am_of_wf wf) rfl (reads_bfi x)
  | sel x => exact decodes_of_reads_am wf (Sel.am_of_wf wf) rfl (reads_sel x)
  | cmp x => exact decodes_of_reads_am wf (Cmp.am_of_wf wf) rfl (reads_cmp x)
  | lea x => exact decodes_of_reads_am wf (Lea.am_of_wf wf) rfl (reads_lea x)
  | addi x | andi x | ori x | xori x | movi x => exact decodes_of_reads_am wf (ImmOp.am_of_wf wf) rfl (reads_imm x rfl)
  | cmpi x => exact decodes_of_reads_am wf (Cmpi.am_of_wf wf) rfl (reads_cmpi x)
  -- M
  | mul x | mulh x | mulhn x | div x | divn x | rem x | remn x =>
    exact decodes_of_reads wf rfl (reads_bin x (Bin.m_of_wf wf))
  | fadd x | fsub x | fmul x | fdiv x | fmin x | fmax x => exact decodes_of_reads wf rfl (reads_fbin x)
  | ffma x => exact decodes_of_reads wf rfl (reads_ffma x)
  | fsqrt x | fclass x => exact decodes_of_reads wf rfl (reads_funa x)
  | fcmp x => exact decodes_of_reads wf rfl (reads_fcmp x)
  | fcvt x => exact decodes_of_reads wf rfl (reads_fcvt x)
  | ld x | ldn x => exact decodes_of_reads wf rfl (reads_load x)
  | st x | stg x => exact decodes_of_reads wf rfl (reads_store x)
  | ldg x | prf x => exact decodes_of_reads wf rfl (reads_gload x)
  | aadd x | aand x | aor x | axor x | amin x | amax x | aminn x | amaxn x | axchg x | afadd x | afmax x =>
    exact decodes_of_reads wf rfl (reads_atom2 x (Atom.c_of_wf wf))
  | acas x => exact decodes_of_reads wf rfl (reads_atom x)
  | pushm x | popm x => exact decodes_of_reads wf rfl (reads_multi x)
  | fence x => exact decodes_of_reads wf rfl (reads_fence x)
  -- A
  | br x => exact decodes_of_reads wf rfl (reads_br x)
  | jr x | ret x => exact decodes_of_reads wf rfl (reads_jr x)
  | call x => exact decodes_of_reads wf rfl (reads_call x)
  | callr x => exact decodes_of_reads wf rfl (reads_callr x)
  | loop x => exact decodes_of_reads wf rfl (reads_loop x)
  | loopi x => exact decodes_of_reads wf rfl (reads_loopi x)
  | pand x | por x | pxor x => exact decodes_of_reads wf rfl (reads_pbin x)
  | pnot x | pmov x => exact decodes_of_reads wf rfl (reads_puna x)
  -- V
  | vadd x | vsub x | vmul x | vmin x | vmax x | vwadd x | vwmul x => exact decodes_of_reads wf rfl (reads_vbin x)
  | vfma x | vfms x => exact decodes_of_reads wf rfl (reads_vter x)
  | vabs x | vneg x | vpopc x | vtbl x => exact decodes_of_reads wf rfl (reads_vuna x)
  | vand x | vor x | vxor x | vshl x | vshr x | vsra x => exact decodes_of_reads wf rfl (reads_vlog x)
  | vcmp x => exact decodes_of_reads wf rfl (reads_vcmp x)
  | vsel x => exact decodes_of_reads wf rfl (reads_vsel x)
  | vmov x => exact decodes_of_reads wf rfl (reads_vmov x)
  | vbcast x | vrot x => exact decodes_of_reads wf rfl (reads_vrowS x)
  | vlane x => exact decodes_of_reads wf rfl (reads_vlane x)
  | viota x => exact decodes_of_reads wf rfl (reads_viota x)
  | vcvt x => exact decodes_of_reads wf rfl (reads_vcvt x)
  | vquant x => exact decodes_of_reads wf rfl (reads_vquant x)
  | vdequant x => exact decodes_of_reads wf rfl (reads_vdequant x)
  | vscan x => exact decodes_of_reads wf rfl (reads_vscan x)
  | vred x => exact decodes_of_reads wf rfl (reads_vred x)
  | vperm x => exact decodes_of_reads wf rfl (reads_vperm x)
  | vshuf x => exact decodes_of_reads wf rfl (reads_vshuf x)
  | vld x | vst x => exact decodes_of_reads wf rfl (reads_vmem x (VMem.pitch_of_wf wf))
  | vldt x | vstt x => exact decodes_of_reads wf rfl (reads_vmem x (VMem.pitch_of_wfT wf))
  | vldm x | vstm x => exact decodes_of_reads wf rfl (reads_vmemM x (VMem.still_of_wfMask wf))
  | vexp2 x | vlog2 x | vrcp x | vrsqrt x | vtanh x | vsigm x => exact decodes_of_reads wf rfl (reads_vfn x)
  | vtbld x => exact decodes_of_reads wf rfl (reads_vtbld x)
  | vtbsw g => exact decodes_of_reads wf rfl (reads_vtbsw g)
  | vsmax x | vmstat x => exact decodes_of_reads wf rfl (reads_vfold x)
  | vsexp x => exact decodes_of_reads wf rfl (reads_vsexp x)
  | vsdiv x => exact decodes_of_reads wf rfl (reads_vsdiv x)
  | vpart x => exact decodes_of_reads wf rfl (reads_vpart x)
  | vgath x | vscat x => exact decodes_of_reads wf rfl (reads_vgs x)
  -- E
  | wait x => exact decodes_of_reads wf rfl (reads_wait x)
  | waitQ x => exact decodes_of_reads wf rfl (reads_waitQ x (WaitQ.queue_of_wf wf))
  | fset x | finc x => exact decodes_of_reads wf rfl (reads_flagOp x)
  | fclr x | fget x => exact decodes_of_reads wf rfl (reads_flagNo x)
  | eseq x => exact decodes_of_reads wf rfl (reads_eseq x)
  | liveNone g => exact decodes_of_reads wf rfl (reads_liveNone g)
  | liveAll g => exact decodes_of_reads wf rfl (reads_liveAll g)
  | liveS x => exact decodes_of_reads wf rfl (reads_liveS x)
  | liveT x => exact decodes_of_reads wf rfl (reads_liveT x)
  | liveR x => exact decodes_of_reads wf rfl (reads_liveR x)
  | liveRclr g => exact decodes_of_reads wf rfl (reads_liveRclr g)
  | endCtx x => exact decodes_of_reads wf rfl (reads_endCtx x)
  | mld x | mldsp x | mstr x | mstrr x | mzero x | mdrain x | mcfg x | mpip x | mabort x
  | chbind x | chkv x | chlink x | chmask x | chfin x | chsave x | chrest x | chdrop x
  | xcopy x | xlist x | xget x | xput x | xfill x | xtrans x | xpub x | xmap x | xmcast x | xextAdd x
  | rld x | rst x | renq x | cmgath x | cmshuf x | cmpol x | cmstat x
  | nest x | spawn x | join x | ecinit x | ecdone x | egput x | egrel x | egdrop x =>
    exact decodes_of_reads wf rfl (reads_cmd x)
  | ratomAdd x | ratomAnd x | ratomOr x | ratomXor x | ratomMin x | ratomMax x | ratomMinn x | ratomMaxn x | ratomXchg x | ratomCas x
  | ratomFadd x | ratomFmax x => exact decodes_of_reads wf rfl (reads_sub x (Ecmd.mf_of_wfRatom wf) rfl)
  | rflagSet x | rflagInc x | rflagClr x => exact decodes_of_reads wf rfl (reads_sub x (Ecmd.mf_of_wfRflag wf) rfl)
  | lbufBind x | lbufRelease x | cmset x | cmsetClose x | cmheld x | cmheldClr x | cmdec x | cmdecRel x =>
    exact decodes_of_reads wf rfl (reads_sub x (Ecmd.mf_of_wfSub wf) rfl)
  | chstat x => exact decodes_of_reads wf rfl (reads_chstat x)
  | prio x | yield x | jrd x => exact decodes_of_reads wf rfl (reads_edst x)
  | trap x | bkpt x => exact decodes_of_reads wf rfl (reads_eimm x)
  | rte g => exact decodes_of_reads wf rfl (reads_rte g)
  | rteDrop g => exact decodes_of_reads wf rfl (reads_rteDrop g)
  | sysrd x => exact decodes_of_reads wf rfl (reads_sysrd x)
  | syswr x => exact decodes_of_reads wf rfl (reads_syswr x)
  | ctxsave x | ctxrest x | dump x => exact decodes_of_reads wf rfl (reads_ctxOp x)
  | trace x => exact decodes_of_reads wf rfl (reads_trace x)
  | _ => cases wf

/-! A bundle is its four syllables (R52). -/

theorem bits_bundle {wa wm wv we : Nat} (fits : Fits 64 wa ∧ Fits 64 wm ∧ Fits 64 wv ∧ Fits 64 we) :
    let w := packed [(64, wa), (64, wm), (64, wv), (64, we)]
    bits w 0 64 = wa ∧ bits w 64 64 = wm ∧ bits w 128 64 = wv ∧ bits w 192 64 = we := by
  simp [fits]

theorem decodeBundle_packed {wa wm wv we : Nat} {a m v e : Instr} (fits : Fits 64 wa ∧ Fits 64 wm ∧ Fits 64 wv ∧ Fits 64 we)
    (ha : (if isMovl wa then decodeMovl wa wm else decodeA wa) = .ok a)
    (hm : (if isMovl wa then (if wm / 2 ^ 32 == 0 then .ok (.nop .m) else .error .movlUpper) else decodeM wm) = .ok m)
    (hv : decodeV wv = .ok v) (he : decodeE we = .ok e) :
    decodeBundle (packed [(64, wa), (64, wm), (64, wv), (64, we)]) = .ok { a, m, v, e } := by
  obtain ⟨ra, rm, rv, re⟩ := bits_bundle fits
  rw [decodeBundle]
  simp only [ra, rm, rv, re, ha, hm, hv, he]
  rfl

theorem isMovl_of_decodeA {w : Nat} {i : Instr} (h : decodeA w = .ok i) : isMovl w = false := by
  by_contra movl
  have opcode : fOp w = 0x070 := by simpa [isMovl] using movl
  have live : ¬ (w == 0) = true := by
    rw [beq_iff_eq]
    rintro rfl
    cases opcode
  rw [decodeA, decodeWith, if_neg live, opcode] at h
  cases h

/-- The lowest bit of a slot's syllable in its bundle (R52). -/
def place (s : Slot) : Nat := 64 * Machine.Slot.num s

/-- A syllable that its slot decodes, alone in its bundle. -/
theorem decodeBundle_alone {s : Slot} {w : Nat} {i : Instr} (fits : Fits 64 w) (h : decodeAt s w = .ok i) :
    ∃ b, decodeBundle (w * 2 ^ place s) = .ok b ∧
      Machine.Bundle.slots b = [Instr.nop .a, .nop .m, .nop .v, .nop .e].set (Machine.Slot.num s) i := by
  cases s with
  | a =>
    have plain := isMovl_of_decodeA h
    refine ⟨{ a := i, m := .nop .m, v := .nop .v, e := .nop .e }, ?_, rfl⟩
    rw [show w * 2 ^ place .a = packed [(64, w), (64, 0), (64, 0), (64, 0)] by simp only [place, Machine.Slot.num, packed]; ring]
    refine decodeBundle_packed (by simp [fits]) ?_ ?_ rfl rfl
    · rw [plain]; exact h
    · rw [plain]; rfl
  | m =>
    refine ⟨{ a := .nop .a, m := i, v := .nop .v, e := .nop .e }, ?_, rfl⟩
    rw [show w * 2 ^ place .m = packed [(64, 0), (64, w), (64, 0), (64, 0)] by simp only [place, Machine.Slot.num, packed]; ring]
    exact decodeBundle_packed (by simp [fits]) rfl h rfl rfl
  | v =>
    refine ⟨{ a := .nop .a, m := .nop .m, v := i, e := .nop .e }, ?_, rfl⟩
    rw [show w * 2 ^ place .v = packed [(64, 0), (64, 0), (64, w), (64, 0)] by simp only [place, Machine.Slot.num, packed]; ring]
    exact decodeBundle_packed (by simp [fits]) rfl rfl h rfl
  | e =>
    refine ⟨{ a := .nop .a, m := .nop .m, v := .nop .v, e := i }, ?_, rfl⟩
    rw [show w * 2 ^ place .e = packed [(64, 0), (64, 0), (64, 0), (64, w)] by simp only [place, Machine.Slot.num, packed]; ring]
    exact decodeBundle_packed (by simp [fits]) rfl rfl rfl h

/-! `movl` takes both scalar slots (R57). -/

theorem fits_bits (x lo w : Nat) : Fits w (bits x lo w) := Nat.mod_lt _ (Nat.two_pow_pos w)
theorem bits_halves (x : BitVec 64) : bits x.toNat 0 32 + bits x.toNat 32 32 * 2 ^ 32 = x.toNat := by
  have := x.isLt
  simp only [bits]
  omega

theorem reads_movl (x : Movl) (wf : x.wf = true) :
    Reads 0x070 (fun w => decodeMovl w (Instr.movl x).upper) (Instr.movl x).syllable (.movl x) := by
  refine reads_wI [] rfl ?_ fun w f => ?_
  · simp [fits_bits]
  · have value : fI32 w + bits (Instr.movl x).upper 0 32 * 2 ^ 32 = x.imm.toNat := by
      rw [show fI32 w = bits x.imm.toNat 0 32 by simp [f], Instr.upper, bits_all (fits_bits _ _ _)]
      exact bits_halves x.imm
    rw [decodeMovl, value]
    simp [f, Instr.wf, wf]

theorem decodeBundle_movl (x : Movl) (wf : x.wf = true) :
    ∃ b, decodeBundle ((Instr.movl x).syllable * 2 ^ place .a + (Instr.movl x).upper * 2 ^ 64) = .ok b ∧
      Machine.Bundle.slots b = [Instr.nop .a, .nop .m, .nop .v, .nop .e].set 0 (.movl x) := by
  obtain ⟨fits, opcode, read⟩ := reads_movl x wf (fits_of_lt (n := 0x071) (by decide) (by decide))
  have movl : isMovl (Instr.movl x).syllable = true := by rw [isMovl, opcode]; rfl
  have upper : (Instr.movl x).upper < 2 ^ 32 := fits_bits _ _ _
  have words : (Instr.movl x).syllable * 2 ^ place .a + (Instr.movl x).upper * 2 ^ 64 =
      packed [(64, (Instr.movl x).syllable), (64, (Instr.movl x).upper), (64, 0), (64, 0)] := by
    simp only [place, Machine.Slot.num, packed]; ring
  refine ⟨{ a := .movl x, m := .nop .m, v := .nop .v, e := .nop .e }, ?_, rfl⟩
  rw [words]
  refine decodeBundle_packed ⟨fits, fits_of_lt upper (by decide), fits_zero _, fits_zero _⟩ ?_ ?_ rfl rfl
  · rw [if_pos movl]; exact read
  · rw [if_pos movl, Nat.div_eq_of_lt upper]; rfl

theorem encode_eq_some {i : Instr} {n : Nat} (h : encode i = some n) : i.wf = true ∧
    n = i.syllable * 2 ^ place i.slotOf + i.upper * 2 ^ 64 := by
  unfold encode at h
  split at h
  next wf =>
    cases h
    refine ⟨wf, ?_⟩
    cases i.slotOf <;> rfl
  next => cases h

theorem upper_eq_zero {i : Instr} (h : ∀ x, i ≠ .movl x) : i.upper = 0 := by
  unfold Instr.upper
  split
  next x => exact absurd rfl (h x)
  next => rfl

theorem decodeBundle_encode {i : Instr} {n : Nat} (h : encode i = some n) :
    ∃ b, decodeBundle n = .ok b ∧ Machine.Bundle.slots b = [Instr.nop .a, .nop .m, .nop .v, .nop .e].set (Machine.Slot.num i.slotOf) i := by
  obtain ⟨wf, rfl⟩ := encode_eq_some h
  by_cases movl : ∃ x, i = .movl x
  · obtain ⟨x, rfl⟩ := movl
    exact decodeBundle_movl x wf
  · have plain : ∀ x, i ≠ .movl x := fun x e => movl ⟨x, e⟩
    obtain ⟨fits, decodes⟩ := decodes_of_wf wf plain
    rw [upper_eq_zero plain, Nat.zero_mul, Nat.add_zero]
    exact decodeBundle_alone fits decodes

/-! What decodes is well formed (R63). -/

theorem exists_of_bind_eq_ok {ε α β : Type} {d : Except ε α} {f : α → Except ε β} {y : β} (h : (d >>= f) = .ok y) :
    ∃ x, d = .ok x ∧ f x = .ok y := by
  cases d with
  | error r => cases h
  | ok x => exact ⟨x, rfl, h⟩

theorem wf_of_checked {i j : Instr} {r : Reject} (h : (if i.wf then Except.ok i else .error r : Dec Instr) = .ok j) : j.wf = true := by
  split at h
  next wf => cases h; exact wf
  next => cases h

theorem wf_of_decodeWith {m : OpMap} {s : Slot} {w : Nat} {i : Instr} (h : decodeWith m s w = .ok i) : i.wf = true := by
  unfold decodeWith at h
  split at h
  next => cases h; rfl
  next =>
    split at h
    next => cases h
    next =>
      obtain ⟨j, -, checked⟩ := exists_of_bind_eq_ok h
      exact wf_of_checked checked

theorem wf_of_decodeMovl {a m : Nat} {i : Instr} (h : decodeMovl a m = .ok i) : i.wf = true := by
  obtain ⟨-, -, h⟩ := exists_of_bind_eq_ok h
  obtain ⟨-, -, h⟩ := exists_of_bind_eq_ok h
  obtain ⟨d, -, checked⟩ := exists_of_bind_eq_ok h
  exact wf_of_checked checked

theorem ok_of_atSlot {s : Slot} {d : Dec Instr} {i : Instr} (h : atSlot s d = .ok i) : d = .ok i := by
  cases d with
  | error r => cases h
  | ok j => cases h; rfl

theorem wf_of_decodeBundle {n : Nat} {b : Bundle} (h : decodeBundle n = .ok b) :
    b.a.wf = true ∧ b.m.wf = true ∧ b.v.wf = true ∧ b.e.wf = true := by
  obtain ⟨a, ha, h⟩ := exists_of_bind_eq_ok h
  obtain ⟨m, hm, h⟩ := exists_of_bind_eq_ok h
  obtain ⟨v, hv, h⟩ := exists_of_bind_eq_ok h
  obtain ⟨e, he, h⟩ := exists_of_bind_eq_ok h
  cases h
  refine ⟨?_, ?_, wf_of_decodeWith (ok_of_atSlot hv), wf_of_decodeWith (ok_of_atSlot he)⟩
  · have ha := ok_of_atSlot ha
    split at ha
    next => exact wf_of_decodeMovl ha
    next => exact wf_of_decodeWith ha
  · have hm := ok_of_atSlot hm
    split at hm
    next =>
      split at hm
      next => cases hm; rfl
      next => cases hm
    next => exact wf_of_decodeWith hm

end Sys2Proof

namespace Sys2Proof.Machine

/-- Settles O58: a well-formed instruction's syllable reads back field by field, and the decoder checks whatever it answers. -/
theorem roundTrip : Obligations.RoundTrip := by
  unfold Obligations.RoundTrip
  refine ⟨fun i n h => decodeBundle_encode h, fun i wf => ?_, fun n b h => ?_⟩
  · simp [encode, wf]
  · obtain ⟨a, m, v, e⟩ := wf_of_decodeBundle h
    simp [Bundle.slots, a, m, v, e]

end Sys2Proof.Machine
end

section
/-! O19: where a context goes after its bundle. -/
namespace Sys2Proof.Machine

/-- The pops leave the innermost loops that do not hold the target, up to the first that does (R113). -/
theorem popTo_spec (t : Word) (l : List LoopEnt) :
    ∃ out, l = out ++ popTo t l ∧ (∀ e ∈ out, ¬ (e.start ≤ t ∧ t ≤ e.fin)) ∧
      ∀ e, (popTo t l).head? = some e → e.start ≤ t ∧ t ≤ e.fin := by
  induction l with
  | nil => exact ⟨[], rfl, nofun, nofun⟩
  | cons e r ih =>
    unfold popTo
    by_cases inside : e.start ≤ t ∧ t ≤ e.fin
    · rw [if_pos (by simpa using inside)]
      refine ⟨[], rfl, nofun, fun f hf => ?_⟩
      cases hf
      exact inside
    · rw [if_neg (by simpa using inside)]
      obtain ⟨out, split, outside, first⟩ := ih
      refine ⟨e :: out, by rw [List.cons_append, ← split], fun f hf => ?_, first⟩
      rcases List.mem_cons.1 hf with rfl | hf
      · exact inside
      · exact outside f hf

theorem loopTest_not_at_end {pc : Word} {l : List LoopEnt} (h : ∀ e, l.head? = some e → e.fin ≠ pc) : loopTest pc l = (l, pc + 32) := by
  cases l with
  | nil => rfl
  | cons e r => exact if_neg (by simpa using h e rfl)
theorem loopTest_again {pc : Word} {e : LoopEnt} {r : List LoopEnt} (atEnd : e.fin = pc) (more : 1 < e.count) :
    loopTest pc (e :: r) = ({ e with count := e.count - 1 } :: r, e.start) := by
  rw [loopTest, if_pos (beq_iff_eq.2 atEnd), if_pos more]
theorem loopTest_used_up {pc : Word} {e : LoopEnt} {r : List LoopEnt} (atEnd : e.fin = pc) (last : e.count ≤ 1) :
    loopTest pc (e :: r) = loopTest pc r := by
  rw [loopTest, if_pos (beq_iff_eq.2 atEnd), if_neg (not_lt.2 last)]

theorem Ctx.advance_ended {x : Ctx} (h : x.ended ≠ none) :
    x.advance = { x with issuing := false, kpos := none, raised := 0, raisedSm := 0, raisedAm := none } := by
  rw [Ctx.advance, if_pos (Option.isSome_iff_ne_none.2 h)]
theorem Ctx.advance_next {x : Ctx} (live : x.ended = none) (h : x.xfer = none) :
    x.advance = { x with issuing := false, kpos := none, raised := 0, raisedSm := 0, raisedAm := none
                         pc := (loopTest x.pc x.loops).2, loops := (loopTest x.pc x.loops).1 } := by
  rw [Ctx.advance, if_neg (by simp [live]), h]
theorem Ctx.advance_loops {x : Ctx} (live : x.ended = none) : x.advance.loops = (loopTest x.pc x.loops).1 := by
  rw [Ctx.advance, if_neg (by simp [live])]
  cases x.xfer with
  | none => rfl
  | some t => dsimp only; split_ifs <;> rfl

/-- The pc and the pending transfer after a bundle that is no delay bundle, the first or the second. -/
theorem Ctx.advance_xfer {x : Ctx} {t : Xfer} (live : x.ended = none) (h : x.xfer = some t) :
    (x.kpos = some 0 → x.advance.pc = x.pc + 32 ∧ x.advance.xfer = some t) ∧
    (x.kpos ≠ some 0 → 1 < t.left → x.advance.pc = x.pc + 32 ∧ x.advance.xfer = some { t with left := t.left - 1 }) ∧
    (x.kpos ≠ some 0 → t.left ≤ 1 → x.advance.pc = t.tgt ∧ x.advance.xfer = some { t with left := 0 }) := by
  rw [Ctx.advance, if_neg (by simp [live]), h]
  dsimp only
  refine ⟨fun own => ?_, fun delay early => ?_, fun delay late => ?_⟩
  · rw [if_pos (by simpa using own)]
    exact ⟨rfl, rfl⟩
  · rw [if_neg (by simpa using delay), if_neg (not_le.2 early)]
    exact ⟨rfl, rfl⟩
  · rw [if_neg (by simpa using delay), if_pos late]
    exact ⟨rfl, rfl⟩

/-- A transfer that has reached its target ends as the target issues. -/
theorem Ctx.toIssue_xfer {x : Ctx} {t : Xfer} (h : x.xfer = some t) :
    (t.left ≠ 0 → x.toIssue.xfer = some t ∧ x.toIssue.loops = x.loops) ∧
    (t.left = 0 → x.toIssue.xfer = none ∧ x.toIssue.loops = if t.pops then popTo t.tgt x.loops else x.loops) := by
  rw [Ctx.toIssue, h]
  dsimp only
  refine ⟨fun pending => ?_, fun reached => ?_⟩
  · rw [if_neg (by simpa using pending)]
    exact ⟨h, rfl⟩
  · rw [if_pos (by simpa using reached)]
    exact ⟨rfl, rfl⟩

/-- Settles O19: the transfer and the loop test are followed case by case. -/
theorem afterABundle : Obligations.AfterABundle := by
  unfold Obligations.AfterABundle
  refine ⟨fun x ended => ?_, fun x t xfer => ?_, fun x live => ⟨fun t xfer => ?_, fun t xfer => (Ctx.advance_xfer live xfer).1,
    fun t xfer delay first => ?_, fun t xfer delay second => (Ctx.advance_xfer live xfer).2.2 delay second.le, fun xfer outside => ?_,
    fun e r xfer loops inside => ?_, fun e r xfer loops atEnd more => ?_, fun e r xfer loops atEnd last => ?_⟩⟩
  · rw [Ctx.advance_ended ended]
    exact ⟨rfl, rfl, rfl, rfl⟩
  · obtain ⟨pending, reached⟩ := Ctx.toIssue_xfer xfer
    refine ⟨pending, fun zero => ?_⟩
    obtain ⟨arrived, loops⟩ := reached zero
    refine ⟨arrived, fun keeps => ?_, fun pops => ?_⟩
    · rw [loops, keeps]; rfl
    · rw [loops, pops]
      exact popTo_spec t.tgt x.loops
  · rw [Ctx.advance_loops live, Ctx.advance_loops (x := { x with xfer := none }) live]
  · obtain ⟨pc, next⟩ := (Ctx.advance_xfer live xfer).2.1 delay (by omega)
    exact ⟨pc, by rw [next, first]⟩
  · rw [Ctx.advance_next live xfer, outside]
    rfl
  · rw [Ctx.advance_next live xfer, loopTest_not_at_end (by rw [loops]; rintro f ⟨⟩; exact Ne.symm inside)]
    exact ⟨rfl, rfl⟩
  · rw [Ctx.advance_next live xfer, loops, loopTest_again atEnd.symm more]
    exact ⟨rfl, rfl⟩
  · rw [Ctx.advance_next live xfer, Ctx.advance_next (x := { x with loops := r }) live xfer, loops, loopTest_used_up atEnd.symm last]
    refine ⟨rfl, fun outer => ?_⟩
    rw [loopTest_not_at_end outer]
    exact ⟨rfl, rfl⟩

end Sys2Proof.Machine
end

section
/-! O5, O21, O57: the immediate forms, the hardwired registers, and words written out. -/
namespace Sys2Proof.Machine

theorem State.immOp_gives {s : State} {x : ImmOp} (acts : s.ctx.acts x.g 1) (f : Word → Word → Word) :
    s.immOp x f = .next (s.gives x.g x.slot 1 (sCode x.d) (f (s.ctx.dsrc x.d) (ImmOp.value x))) :=
  State.finish_plain x.slot (sCode x.d) _ none acts

/-- Settles O5: each form puts its word in flight (R95, R97). -/
theorem immediateResults : Obligations.ImmediateResults := by
  unfold Obligations.ImmediateResults
  intro s x y p
  exact ⟨fun acts => ⟨State.immOp_gives acts _, State.immOp_gives acts _, State.immOp_gives acts _, State.immOp_gives acts _,
    State.finish_plain x.slot (sCode x.d) _ none acts⟩, fun acts => State.finish_plain .a (sCode y.d) y.imm none acts, rfl⟩

theorem Ctx.write_zero (x : Ctx) (v : Word) (r : Option Row) : x.write 0 v r = x := rfl
theorem Ctx.write_p0 (x : Ctx) (v : Word) (r : Option Row) : x.write 0x58 v r = x := rfl

/-- Settles O21: a write to neither code changes the context (R59, R82). -/
theorem hardwiredRegisters : Obligations.HardwiredRegisters := by
  unfold Obligations.HardwiredRegisters
  intro x v r
  refine ⟨rfl, rfl, x.write_zero v r, x.write_p0 v r, ?_⟩
  rw [Ctx.write_zero]
  rfl

/-- Settles O57: each word is decoded by evaluation. -/
theorem decodedWords : Obligations.DecodedWords := by
  unfold Obligations.DecodedWords
  exact ⟨rfl, rfl, rfl, rfl, rfl, rfl, rfl, rfl, rfl, by decide⟩

end Sys2Proof.Machine
end

section
/-! O56: a step, from the agenda or the current core's cycle down to the four syllables of its bundle. -/
namespace Sys2Proof.Machine

variable {s : State} {ex : Instr → State → Out}

/-- The end of a cycle: waits end, the engines of the core act, and the next core's turn comes, after the last with the node's. -/
def State.endsCycle (s : State) (c : CoreId) : State :=
  let t := ((s.did (execWaitEnd c)).did (execWaitTimeout c)).autoCore c
  if c.val = 127 then { t.autoNode with now := t.autoNode.now + 1, cur := 0, sent := [] } else { t with cur := Fin.ofNat 128 (c.val + 1) }

/-- A core with a context that does not wait goes on to its bundle (R80, R106). -/
theorem State.cycle_of_tryIssue {t : State} (busy : (s.core s.cur).busy = true) (awake : s.ctx.wait = none)
    (h : s.boundary.countCycle.tryIssue ex = .next t) : s.cycle ex = .next (t.endsCycle s.cur) := by
  have sequence : s.sequence ex = .next ((t.did (execWaitEnd s.cur)).did (execWaitTimeout s.cur)) := by
    rw [State.sequence, busy]
    simp only [awake, h]
    rfl
  rw [State.cycle, sequence, State.endsCycle]
  simp only [Out.then, beq_iff_eq]
  split_ifs <;> rfl

theorem State.tryIssue_eq_tryWord {w : BitVec 256} (runs : (s.core s.cur).runs = true) (clock : s.clockHeld s.cur = false)
    (due : (s.core s.cur).holdUntil ≤ s.now) (word : (s.core s.cur).word = some w) : s.tryIssue ex = s.tryWord ex w := by
  have free : ¬ (!(s.core s.cur).runs || s.clockHeld s.cur || decide (s.now < (s.core s.cur).holdUntil)) = true := by
    simp [runs, clock, due]
  rw [State.tryIssue]
  dsimp only
  rw [if_neg free, word]

theorem State.tryWord_undefined {w : BitVec 256} {slot : Slot} {r : Reject} (h : decodeBundle w.toNat = .error (slot, r)) :
    let t := (s.setCtx s.ctx.toIssue).precise {} slot .illegal 0
    s.tryWord ex w = .next (t.setCtx t.ctx.issued) := by
  rw [State.tryWord, h]

/-- A bundle that nothing holds issues (R106). -/
theorem State.tryWord_issues {w : BitVec 256} {b : Bundle} (h : decodeBundle w.toNat = .ok b) (whole : s.ctx.endOnly = false)
    (free : s.holds b = false) (xlate : s.xlateHeld b = none) (sys : ∀ va n, s.sysSpan b = some (va, n) → s.sysHeld va n 1024 = none)
    (checked : s.checkedHeld b = (s, true)) : s.tryWord ex w = s.issue ex b := by
  have acting : s.ctx.acting b = b := by rw [Ctx.acting, whole]; rfl
  rw [State.tryWord, h]
  dsimp only
  rw [acting, free, xlate, checked]
  cases span : s.sysSpan b with
  | none => rfl
  | some p =>
    dsimp only
    rw [sys p.1 p.2 span]
    rfl

/-- Syllables that take no trap run in their order. -/
theorem runSlots_cons {n : Nat} {i : Instr} {is : List Instr} {t : State} (h : ex i s = .next t) (quiet : t.trapsOf = n) :
    runSlots ex n (i :: is) s = runSlots ex n is t := by
  rw [runSlots, h]
  exact if_pos (beq_iff_eq.2 quiet)

/-- The state in which the syllables of the bundle at the pc execute, one after the other. -/
def State.atIssue (s : State) : State :=
  let k := s.core s.cur
  let s0 := s.setCore s.cur { k with ctx := k.ctx.toIssue, xlat := none }
  (s0.setCtx { s0.ctx with lastPc := k.ctx.pc, lastQ := k.ctx.lastSeq }).hit s.cur 1 k.ctx.pc k.ctx.lastSeq (fun n => k.bpv[n] == k.ctx.pc)
/-- The state that the syllables left, `t`, with the ports that the bundle has taken, past the bundle. -/
def State.pastBundle (s : State) (b : Bundle) (t : State) : State :=
  let use := (s.ctx.live b).filterMap (fun f => f.port.map (fun p => (p.1, s.now + 1 + p.2)))
  let t5 := t.setCtx { t.ctx with portUse := t.ctx.portUse.filter (fun p => decide (s.now < p.2)) ++ use }
  t5.setCtx t5.ctx.issued

/-- The four syllables execute in slot order (R52, R105). -/
theorem State.issue_runs {b : Bundle} {t1 t2 t3 t4 : State} (whole : s.ctx.endOnly = false)
    (quiet : ∀ t ∈ [t1, t2, t3, t4], t.trapsOf = s.trapsOf) (ha : ex b.a s.atIssue = .next t1) (hm : ex b.m t1 = .next t2)
    (hv : ex b.v t2 = .next t3) (he : ex b.e t3 = .next t4) : s.issue ex b = .next (s.pastBundle b t4) := by
  obtain ⟨q1, q2, q3, q4⟩ : t1.trapsOf = s.trapsOf ∧ t2.trapsOf = s.trapsOf ∧ t3.trapsOf = s.trapsOf ∧ t4.trapsOf = s.trapsOf := by
    simpa using quiet
  have acting : s.ctx.acting b = b := by rw [Ctx.acting, whole]; rfl
  have slots : runSlots ex s.trapsOf [b.a, b.m, b.v, b.e] s.atIssue = (.next t4, none) := by
    rw [runSlots_cons ha q1, runSlots_cons hm q2, runSlots_cons hv q3, runSlots_cons he q4]
    rfl
  have full : (s.core s.cur).ctx.endOnly = false := whole
  rw [State.atIssue] at slots
  rw [State.issue]
  simp only [full, Bool.not_false, Bool.true_and, Bool.false_eq_true, if_false]
  rw [slots]
  dsimp only
  rw [show (s.core s.cur).ctx.acting b = b from acting]
  rfl

/-- Settles O56: the agenda's head, or the cycle of the current core down to its bundle. -/
theorem stepRuns : Obligations.StepRuns := by
  unfold Obligations.StepRuns
  refine ⟨fun s i r agenda => ?_, fun s w idle busy awake => ?_⟩
  · rw [step, agenda]
  · intro u k x runs clock due word ends
    have cycles {t : State} (h : u.tryWord exec w = .next t) : step s = .next (ends t) := by
      rw [step, idle]
      refine State.cycle_of_tryIssue busy awake ?_
      rw [State.tryIssue_eq_tryWord runs clock due word]
      exact h
    refine ⟨?_, fun sl r undefined => cycles (State.tryWord_undefined undefined)⟩
    intro b t1 t2 t3 t4 decoded whole free xlate sys checked s0 s1 ha hm hv he quiet
    refine cycles ?_
    rw [State.tryWord_issues decoded whole free xlate sys checked]
    exact State.issue_runs whole quiet ha hm hv he

end Sys2Proof.Machine
end

section
/-! O1 to O4, O6: integer words. What the results of the A and M slots are as `BitVec` operations (R86 to R94). -/
namespace Sys2Proof.Machine

/-! Wrapped and clamped results (R86). -/

theorem clamp64_eq (sat : Bool) (r : Int) : clamp64 sat r = (satWord sat r, satFlag sat r) := by
  cases sat with
  | false => rfl
  | true =>
    simp only [clamp64, satWord, satFlag, Bool.true_and, decide_eq_true_eq, gt_iff_lt, true_and, if_true]
    rcases lt_or_ge (2 ^ 63 - 1) r with high | notHigh
    · have clamp : clamped r = 2 ^ 63 - 1 := by rw [clamped]; omega
      rw [if_pos high, clamp, if_pos high.ne]
    rw [if_neg notHigh.not_gt]
    rcases lt_or_ge r (-2 ^ 63) with low | notLow
    · have clamp : clamped r = -2 ^ 63 := by rw [clamped]; omega
      rw [if_pos low, clamp, if_pos low.ne']
    · have clamp : clamped r = r := by rw [clamped]; omega
      rw [if_neg notLow.not_gt, clamp, if_neg (not_not_intro rfl)]
theorem ofInt_toInt_add (a b : Word) : BitVec.ofInt 64 (a.toInt + b.toInt) = a + b := by
  rw [BitVec.ofInt_add, BitVec.ofInt_toInt, BitVec.ofInt_toInt]
theorem ofInt_toInt_sub (a b : Word) : BitVec.ofInt 64 (a.toInt - b.toInt) = a - b := by
  rw [Int.sub_eq_add_neg, BitVec.ofInt_add, BitVec.ofInt_neg, BitVec.ofInt_toInt, BitVec.ofInt_toInt, BitVec.sub_eq_add_neg]

/-! Shifts and rotation (R87). -/

theorem shlW_eq (a b : Word) : shlW a b = a <<< b := by
  rw [shlW, BitVec.shiftLeft_eq']
  split
  case isTrue far => exact (BitVec.shiftLeft_eq_zero far).symm
  case isFalse => rw [← Nat.shiftLeft_eq, ← BitVec.toNat_inj]; simp
theorem shrW_eq (a b : Word) : shrW a b = a >>> b := by
  rw [shrW, BitVec.ushiftRight_eq']
  split
  case isTrue far => exact (BitVec.ushiftRight_eq_zero far).symm
  case isFalse => rw [← Nat.shiftRight_eq_div_pow, ← BitVec.toNat_ushiftRight, BitVec.ofNat_toNat, BitVec.setWidth_eq]
theorem sraW_eq (a b : Word) : sraW a b = a.sshiftRight' b := by
  rw [sraW, BitVec.sshiftRight_eq']
  split
  case isTrue far =>
    ext i hi
    rw [BitVec.getElem_sshiftRight, dif_neg (by omega)]
    split
    case isTrue neg => exact (neg.trans (BitVec.getElem_allOnes i hi).symm).symm
    case isFalse pos => simp [Bool.eq_false_iff.2 pos]
  case isFalse =>
    have floor : a.toInt / 2 ^ b.toNat = (a.sshiftRight b.toNat).toInt := by
      rw [BitVec.toInt_sshiftRight, Int.shiftRight_eq_div_pow]; norm_cast
    rw [floor, BitVec.ofInt_toInt]
theorem rotlW_eq (a b : Word) : rotlW a b = a <<< (b.toNat % 64) ||| a >>> ((64 - b.toNat % 64) % 64) := by
  rw [rotlW, BitVec.rotateLeft_def, Nat.mod_mod]
  by_cases still : b.toNat % 64 = 0
  · simp [still, BitVec.ushiftRight_eq_zero (x := a) (le_refl 64)]
  · rw [Nat.mod_eq_of_lt (a := 64 - b.toNat % 64) (by omega)]

/-! Least and greatest (R89), and the conditions of R90. -/

theorem minW_signed (a b : Word) : minW true a b = if a.sle b then a else b := by simp [minW, BitVec.sle_eq_decide]
theorem maxW_signed (a b : Word) : maxW true a b = if b.sle a then a else b := by simp [maxW, BitVec.sle_eq_decide]
theorem minW_unsigned (a b : Word) : minW false a b = if a.ule b then a else b := by simp [minW, BitVec.ule_eq_decide]
theorem maxW_unsigned (a b : Word) : maxW false a b = if b.ule a then a else b := by simp [maxW, BitVec.ule_eq_decide]

theorem cmpHolds_iff {cond : Nat} (h : cond < 12) (a b : Word) : cmpHolds cond a b = true ↔ condTrue cond a b := by
  interval_cases cond <;>
    simp [cmpHolds, condTrue, BitVec.slt_eq_decide, BitVec.sle_eq_decide, BitVec.ult_eq_decide, BitVec.ule_eq_decide]
theorem boolW_of_true {b : Bool} (h : b = true) : boolW b = 1 := by rw [h]; rfl
theorem boolW_of_not {b : Bool} (h : ¬ b = true) : boolW b = 0 := by rw [Bool.eq_false_iff.2 h]; rfl

/-! Counts (R88). -/

theorem clzN_spec (x k : Nat) : clzN x k ≤ k ∧ (∀ i < clzN x k, x.testBit (k - 1 - i) = false) ∧
    (clzN x k < k → x.testBit (k - 1 - clzN x k) = true) := by
  induction k with
  | zero => simp [clzN]
  | succ k ih =>
    obtain ⟨le, zeros, one⟩ := ih
    rw [clzN, bit_eq_testBit]
    cases top : x.testBit k with
    | true => simp [top]
    | false =>
      rw [if_neg (by decide)]
      refine ⟨by omega, fun i hi => ?_, fun lt => ?_⟩
      · cases i with
        | zero => exact top
        | succ i => rw [show k + 1 - 1 - (i + 1) = k - 1 - i by omega]; exact zeros i (by omega)
      · rw [show k + 1 - 1 - (1 + clzN x k) = k - 1 - clzN x k by omega]; exact one (by omega)
theorem ctzN_spec (x i k : Nat) : ctzN x i k ≤ k ∧ (∀ j < ctzN x i k, x.testBit (i + j) = false) ∧
    (ctzN x i k < k → x.testBit (i + ctzN x i k) = true) := by
  induction k generalizing i with
  | zero => simp [ctzN]
  | succ k ih =>
    obtain ⟨le, zeros, one⟩ := ih (i + 1)
    rw [ctzN, bit_eq_testBit]
    cases low : x.testBit i with
    | true => simp [low]
    | false =>
      rw [if_neg (by decide)]
      refine ⟨by omega, fun j hj => ?_, fun lt => ?_⟩
      · cases j with
        | zero => exact low
        | succ j => rw [show i + (j + 1) = i + 1 + j by omega]; exact zeros j (by omega)
      · rw [← Nat.add_assoc]; exact one (by omega)
theorem leadingZeros_clzN (a : Word) : leadingZeros a (clzN a.toNat 64) := by
  obtain ⟨le, zeros, one⟩ := clzN_spec a.toNat 64
  refine ⟨le, fun i hi => ?_, fun lt => ?_⟩
  · rw [BitVec.getMsbD_eq_getLsbD, BitVec.getLsbD, zeros i hi, Bool.and_false]
  · rw [BitVec.getMsbD_eq_getLsbD, BitVec.getLsbD, one lt, decide_eq_true lt, Bool.and_true]
theorem trailingZeros_ctzN (a : Word) : trailingZeros a (ctzN a.toNat 0 64) := by
  obtain ⟨le, zeros, one⟩ := ctzN_spec a.toNat 0 64
  simp only [Nat.zero_add] at zeros one
  exact ⟨le, zeros, one⟩
theorem popcount_eq_countP (x k : Nat) : popcount x k = (List.range k).countP x.testBit := by
  induction k with
  | zero => rfl
  | succ k ih => rw [popcount, ih, List.range_succ, List.countP_append, List.countP_singleton, bit_eq_testBit, Nat.add_comm]
theorem ones_eq_popcount (a : Word) : ones a = popcount a.toNat 64 := (popcount_eq_countP a.toNat 64).symm

/-! Bit fields (R91) and addresses (R92). -/

theorem ofNat_bits (a : Word) (pos len : Nat) : BitVec.ofNat len (bits a.toNat pos len) = a.extractLsb' pos len := by
  rw [← BitVec.toNat_inj, BitVec.extractLsb'_toNat, bits, BitVec.toNat_ofNat, Nat.mod_mod, Nat.shiftRight_eq_div_pow]
theorem field_signed (a : Word) (pos : Nat) {len : Nat} (h : 1 ≤ len) :
    BitVec.ofInt 64 (sext (bits a.toNat pos len) len) = (a.extractLsb' pos len).signExtend 64 := by
  rw [sext_eq_toInt _ h, ofNat_bits]; rfl
theorem field_unsigned (a : Word) (pos len : Nat) : BitVec.ofNat 64 (bits a.toNat pos len) = (a.extractLsb' pos len).setWidth 64 := by
  rw [← BitVec.ofNat_toNat, BitVec.extractLsb'_toNat, Nat.shiftRight_eq_div_pow, bits]
/-- The field of `len` bits at `pos` is replaced, as a sum of the parts above, in and below it. -/
theorem replaced_field (x y pos len : Nat) : x - bits x pos len * 2 ^ pos + y % 2 ^ len * 2 ^ pos =
    2 ^ pos * (2 ^ len * (x / 2 ^ (pos + len)) + y % 2 ^ len) + x % 2 ^ pos := by
  have low := Nat.div_add_mod x (2 ^ pos)
  have high := Nat.div_add_mod (x / 2 ^ pos) (2 ^ len)
  rw [Nat.div_div_eq_div_mul, ← Nat.pow_add] at high
  rw [bits]
  generalize x / 2 ^ pos % 2 ^ len = field at *
  generalize x % 2 ^ pos = below at *
  have whole : x = 2 ^ pos * (2 ^ len * (x / 2 ^ (pos + len))) + field * 2 ^ pos + below := by
    conv_lhs => rw [← low, ← high]
    ring
  generalize 2 ^ len * (x / 2 ^ (pos + len)) = above at *
  rw [show x - field * 2 ^ pos = 2 ^ pos * above + below by omega]
  ring
theorem getLsbD_bfiW (a b : Word) {pos len : Nat} (h : pos + len ≤ 64) (i : Nat) : (bfiW a b pos len).getLsbD i =
    if pos ≤ i ∧ i < pos + len then b.getLsbD (i - pos) else a.getLsbD i := by
  rw [bfiW, replaced_field, BitVec.getLsbD_ofNat, Nat.testBit_two_pow_mul_add _ (Nat.mod_lt _ (Nat.two_pow_pos pos)),
    Nat.testBit_two_pow_mul_add _ (Nat.mod_lt _ (Nat.two_pow_pos len)), Nat.testBit_mod_two_pow, Nat.testBit_mod_two_pow,
    Nat.testBit_div_two_pow]
  by_cases inWord : i < 64
  · rw [decide_eq_true inWord, Bool.true_and]
    by_cases below : i < pos
    · rw [if_pos below, if_neg (by omega), decide_eq_true below, Bool.true_and]; rfl
    · rw [if_neg below]
      by_cases inside : i < pos + len
      · rw [if_pos (by omega), if_pos ⟨by omega, inside⟩, decide_eq_true (by omega), Bool.true_and]; rfl
      · rw [if_neg (by omega), if_neg (by omega), show i - pos - len + (pos + len) = i by omega]; rfl
  · rw [decide_eq_false inWord, Bool.false_and, if_neg (by omega), BitVec.getLsbD_of_ge a i (by omega)]
theorem scaled_eq_shift (a : Word) (n : Nat) : BitVec.ofNat 64 (a.toNat * 2 ^ n) = a <<< n := by
  rw [← Nat.shiftLeft_eq, ← BitVec.toNat_inj]; simp

/-! Products, quotients and remainders (R93, R94). -/

theorem highWord_signed (a b : Word) :
    BitVec.ofInt 64 (a.toInt * b.toInt / 2 ^ 64) = (a.signExtend 128 * b.signExtend 128).extractLsb' 64 64 := by
  have product : (a.signExtend 128 * b.signExtend 128).toInt = a.toInt * b.toInt := by
    rw [BitVec.toInt_mul, BitVec.toInt_signExtend_of_le (by decide), BitVec.toInt_signExtend_of_le (by decide)]
    have ha := a.le_toInt
    have ha' := a.toInt_lt
    have hb := b.le_toInt
    have hb' := b.toInt_lt
    have bound : |a.toInt * b.toInt| ≤ 2 ^ 63 * 2 ^ 63 := by
      rw [abs_mul]
      exact mul_le_mul (abs_le.2 ⟨ha, ha'.le⟩) (abs_le.2 ⟨hb, hb'.le⟩) (abs_nonneg _) (by norm_num)
    obtain ⟨low, high⟩ := abs_le.1 bound
    exact Int.bmod_eq_of_le (by norm_num at *; omega) (by norm_num at *; omega)
  generalize a.signExtend 128 * b.signExtend 128 = p at *
  have shifted : a.toInt * b.toInt / 2 ^ 64 = (p.sshiftRight 64).toInt := by
    rw [BitVec.toInt_sshiftRight, Int.shiftRight_eq_div_pow, product]; norm_cast
  rw [shifted]
  change (p.sshiftRight 64).signExtend 64 = _
  rw [BitVec.signExtend_eq_setWidth_of_le _ (by decide)]
  ext i hi
  simp [BitVec.getLsbD_sshiftRight, show 64 + i < 128 by omega, show ¬ 128 ≤ i by omega]
theorem highWord_unsigned (a b : Word) :
    BitVec.ofNat 64 (a.toNat * b.toNat / 2 ^ 64) = (a.setWidth 128 * b.setWidth 128).extractLsb' 64 64 := by
  have small : a.toNat * b.toNat < 2 ^ 128 :=
    calc a.toNat * b.toNat < 2 ^ 64 * 2 ^ 64 := Nat.mul_lt_mul_of_lt_of_lt a.isLt b.isLt
      _ = 2 ^ 128 := by norm_num
  have wide (x : Word) : (x.setWidth 128).toNat = x.toNat := BitVec.toNat_setWidth_of_le (by decide)
  rw [← BitVec.toNat_inj, BitVec.extractLsb'_toNat, BitVec.toNat_ofNat, BitVec.toNat_mul, wide, wide, Nat.mod_eq_of_lt small,
    Nat.shiftRight_eq_div_pow]

theorem sdiv_eq_ofInt (a b : Word) : a.sdiv b = BitVec.ofInt 64 (a.toInt.tdiv b.toInt) := by
  rw [← BitVec.toInt_inj, BitVec.toInt_sdiv, BitVec.toInt_ofInt]
theorem srem_eq_ofInt (a b : Word) : a.srem b = BitVec.ofInt 64 (a.toInt.tmod b.toInt) := by
  rw [← BitVec.toInt_srem, BitVec.ofInt_toInt]
/-- Also of -2^63 and -1, whose quotient wraps. -/
theorem divRes_signed (a : Word) {b : Word} (h : b ≠ 0) : BitVec.ofInt 64 (divRes true a b).1 = a.sdiv b ∧
    BitVec.ofInt 64 (divRes true a b).2.1 = a.srem b ∧ (divRes true a b).2.2 = 0 := by
  have nonzero : (b.toInt == 0) = false := by
    rw [beq_eq_false_iff_ne]; exact fun e => h (BitVec.toInt_inj.1 e)
  rw [sdiv_eq_ofInt, srem_eq_ofInt, divRes, if_pos rfl, divmod, nonzero, if_neg (by decide)]
  split
  case isTrue extreme =>
    obtain ⟨ha, hb⟩ : a.toInt = -2 ^ 63 ∧ b.toInt = -1 := by simpa using extreme
    rw [ha, hb]; decide
  case isFalse => exact ⟨rfl, rfl, rfl⟩
theorem divRes_unsigned (a : Word) {b : Word} (h : b ≠ 0) : BitVec.ofInt 64 (divRes false a b).1 = a / b ∧
    BitVec.ofInt 64 (divRes false a b).2.1 = a % b ∧ (divRes false a b).2.2 = 0 := by
  have nonzero : ((b.toNat : Int) == 0) = false := by
    rw [beq_eq_false_iff_ne]; exact fun e => h (BitVec.toNat_inj.1 (Int.natCast_eq_zero.1 e))
  rw [divRes, if_neg (by decide), divmod, nonzero, if_neg (by decide), Bool.false_and, Bool.false_and, if_neg (by decide)]
  refine ⟨?_, ?_, rfl⟩
  · rw [← Int.ofNat_tdiv, BitVec.ofInt_natCast, ← BitVec.toNat_udiv, BitVec.ofNat_toNat, BitVec.setWidth_eq]
  · rw [← Int.ofNat_tmod, BitVec.ofInt_natCast, ← BitVec.toNat_umod, BitVec.ofNat_toNat, BitVec.setWidth_eq]
theorem divRes_zero_words (signed : Bool) (a : Word) :
    BitVec.ofInt 64 (divRes signed a 0).1 = 0 ∧ BitVec.ofInt 64 (divRes signed a 0).2.1 = a := by
  cases signed with
  | true => exact ⟨rfl, BitVec.ofInt_toInt⟩
  | false =>
    refine ⟨rfl, ?_⟩
    change BitVec.ofInt 64 (a.toNat : Int) = a
    rw [BitVec.ofInt_natCast, BitVec.ofNat_toNat, BitVec.setWidth_eq]

end Sys2Proof.Machine
end

section
/-! O1 to O4, O6: the integer instructions. Each form's word, put in flight by `State.finish`. -/
namespace Sys2Proof.Machine

theorem State.bin_gives {s : State} {x : Bin} (acts : s.ctx.acts x.g 1) {f : Word → Word → Word} {v : Word}
    (h : f (s.ctx.src x.a) (s.ctx.src x.b) = v) : s.bin x f = .next (s.gives x.g x.slot 1 (sCode x.d) v) := by
  rw [← h]; exact State.finish_plain x.slot (sCode x.d) _ none acts
/-- A result that may be clamped, of any latency (R86). -/
theorem State.finish_clamped {s : State} {g : Guard} {lat : Nat} (slot : Slot) (code : Nat) {sat : Bool} {r : Int}
    (acts : s.ctx.acts g lat) (quiet : s.ctx.enabled (satFlag sat r) = false) :
    s.finish g slot lat code (clamp64 sat r).1 none (clamp64 sat r).2 =
      .next (s.gives g slot lat code (satWord sat r) none (satFlag sat r)) := by
  rw [clamp64_eq]; exact State.finish_gives slot code _ none acts quiet

/-- Settles O1: each form puts its word in flight; without `.sat` a sum and a difference wrap (R86, R87, R89). -/
theorem integerResults : Obligations.IntegerResults := by
  unfold Obligations.IntegerResults
  intro s x acts a b r
  have gives {f : Word → Word → Word} {v : Word} (h : f a b = v) : s.bin x f = r v := State.bin_gives acts h
  have wraps {v w : Word} (h : v = w) : s.alu x.g x.slot (sCode x.d) v 0 = r w := by
    rw [h]; exact State.finish_plain x.slot (sCode x.d) w none acts
  refine ⟨fun noSat => ⟨?_, ?_⟩, gives rfl, gives rfl, gives rfl, gives (f := fun a b => a &&& ~~~b) rfl,
    gives (shlW_eq a b), gives (shrW_eq a b), gives (sraW_eq a b), gives (rotlW_eq a b), gives (minW_signed a b), gives (maxW_signed a b),
    gives (minW_unsigned a b), gives (maxW_unsigned a b)⟩
  · change execAdd x s = _
    rw [execAdd, noSat]
    exact wraps (ofInt_toInt_add a b)
  · change execSub x s = _
    rw [execSub, noSat]
    exact wraps (ofInt_toInt_sub a b)

/-- Settles O2: the clamp of the model is that of R86. -/
theorem saturatingResults : Obligations.SaturatingResults := by
  unfold Obligations.SaturatingResults
  intro s x y
  exact ⟨State.finish_clamped x.slot (sCode x.d), State.finish_clamped x.slot (sCode x.d), State.finish_clamped y.slot (sCode y.d),
    State.finish_clamped .m (sCode x.d)⟩

/-- Settles O3: counts, fields and addresses as the model computes them are those of R88, R91 and R92. -/
theorem bitFieldResults : Obligations.BitFieldResults := by
  unfold Obligations.BitFieldResults
  intro s u f h c l
  refine ⟨fun acts => ?_, fun acts len _ => ⟨?_, ?_⟩, fun acts _ fits => ?_, fun acts => ?_, fun acts => ?_⟩
  · have gives (v : Word) := State.finish_plain u.slot (sCode u.d) v none acts
    refine ⟨⟨_, leadingZeros_clzN _, gives _⟩, ⟨_, trailingZeros_ctzN _, gives _⟩, ?_, gives _⟩
    rw [ones_eq_popcount]
    exact gives _
  · rw [← field_signed _ _ len]
    exact State.finish_plain f.slot (sCode f.d) _ none acts
  · rw [← field_unsigned]
    exact State.finish_plain f.slot (sCode f.d) _ none acts
  · exact ⟨_, State.finish_plain h.slot (sCode h.d) _ none acts, getLsbD_bfiW _ _ fits⟩
  · exact State.finish_plain c.slot (sCode c.d) _ none acts
  · rw [← scaled_eq_shift]
    exact State.finish_plain l.slot (sCode l.d) _ none acts

/-- A comparison gives 1 where the condition of R90 holds, and 0 where it does not. -/
theorem State.finish_compares {s : State} {g : Guard} {cond : Nat} (slot : Slot) (code : Nat) (a b : Word) (acts : s.ctx.acts g 1)
    (h : cond < 12) :
    (condTrue cond a b → s.alu g slot code (boolW (cmpHolds cond a b)) = .next (s.gives g slot 1 code 1)) ∧
      (¬ condTrue cond a b → s.alu g slot code (boolW (cmpHolds cond a b)) = .next (s.gives g slot 1 code 0)) := by
  rw [← cmpHolds_iff h]
  refine ⟨fun holds => ?_, fun fails => ?_⟩
  · rw [boolW_of_true holds]; exact State.finish_plain slot code 1 none acts
  · rw [boolW_of_not fails]; exact State.finish_plain slot code 0 none acts

/-- Settles O4: the four conditions of `cmpi` are the codes 0, 2, 6 and 10 of R90. -/
theorem compareResults : Obligations.CompareResults := by
  unfold Obligations.CompareResults
  intro s x y
  refine ⟨fun acts cond => State.finish_compares x.slot (cCode x.d) _ _ acts cond, fun acts => ?_⟩
  change let h : Prop := _; (h → execCmpi y s = _) ∧ (¬ h → execCmpi y s = _)
  rw [execCmpi]
  have compares (cond : Nat) := State.finish_compares (cond := cond) y.slot (cCode (.p y.p)) (s.ctx.src y.src) (y.imm.signExtend 64) acts
  generalize y.cond = cond
  match cond with
  | 0 => exact compares 0 (by decide)
  | 1 => exact compares 2 (by decide)
  | 2 => exact compares 6 (by decide)
  | 3 => exact compares 10 (by decide)

/-- Settles O6: the quotients are those of `BitVec` also where they wrap (R93, R94). -/
theorem productsAndQuotients : Obligations.ProductsAndQuotients := by
  unfold Obligations.ProductsAndQuotients
  intro s x a b r
  have gives {lat : Nat} {i v : Word} {fl e : Fl} (acts : s.ctx.acts x.g lat) (hv : i = v) (hf : e = fl)
      (quiet : s.ctx.enabled fl = false) : s.finish x.g .m lat (sCode x.d) i none e = r lat v fl := by
    rw [hv, hf]; exact State.finish_gives .m (sCode x.d) v none acts quiet
  refine ⟨fun acts => ⟨gives acts (highWord_signed a b) rfl s.ctx.enabled_zero, gives acts (highWord_unsigned a b) rfl s.ctx.enabled_zero⟩,
    fun acts nonzero => ?_, fun acts zero quiet => ?_⟩
  · obtain ⟨quot, rem, flags⟩ := divRes_signed a nonzero
    obtain ⟨quotn, remn, flagsn⟩ := divRes_unsigned a nonzero
    have quiet := s.ctx.enabled_zero
    exact ⟨gives acts quot flags quiet, gives acts quotn flagsn quiet, gives acts rem flags quiet, gives acts remn flagsn quiet⟩
  · have flags (signed : Bool) : (divRes signed a b).2.2 = Fl.dz := by rw [zero]; exact divRes_zero signed a
    have words (signed : Bool) : BitVec.ofInt 64 (divRes signed a b).1 = 0 ∧ BitVec.ofInt 64 (divRes signed a b).2.1 = a := by
      rw [zero]; exact divRes_zero_words signed a
    obtain ⟨quot, rem⟩ := words true
    obtain ⟨quotn, remn⟩ := words false
    exact ⟨gives acts quot (flags true) quiet, gives acts quotn (flags false) quiet, gives acts rem (flags true) quiet,
      gives acts remn (flags false) quiet⟩

end Sys2Proof.Machine
end

section
/-! O8: the special cases of floating arithmetic, exactly and as encoded (R31, R34, R99). -/
namespace Sys2Proof.Machine

/-! What the scalar types encode without rounding (R31). -/

theorem fWord_nan {t : ETy} (f3 : t.f3 = true) (fl : Fl) (rm : Rm) (ftz sat : Bool) :
    fWord (.nan false, fl) t rm ftz sat = (BitVec.ofNat 64 (ETy.nanBits t), fl) := by
  have encoded : encodeEl (.nan false) t rm ftz sat = (ETy.nanBits t, 0) := by
    cases t with
    | f32 | f16 | bf16 => rfl
    | _ => cases f3
  rw [fWord, encoded]
  exact congrArg _ (BitVec.or_zero ..)
theorem fWord_zero {t : ETy} (f3 : t.f3 = true) (n : Bool) (fl : Fl) (rm : Rm) (ftz sat : Bool) :
    fWord (.zero n, fl) t rm ftz sat = (BitVec.ofNat 64 (withSign t n 0), fl) := by
  have encoded : encodeEl (.zero n) t rm ftz sat = (withSign t n 0, 0) := by
    cases t with
    | f32 | f16 | bf16 => rfl
    | _ => cases f3
  rw [fWord, encoded]
  exact congrArg _ (BitVec.or_zero ..)
theorem fWord_inf {t : ETy} (f3 : t.f3 = true) (n : Bool) (fl : Fl) (rm : Rm) (ftz : Bool) :
    fWord (.inf n, fl) t rm ftz false = (BitVec.ofNat 64 (withSign t n (ETy.infBits t)), fl) := by
  have encoded : encodeEl (.inf n) t rm ftz false = (withSign t n (ETy.infBits t), 0) := by
    cases t with
    | f32 | f16 | bf16 => rfl
    | _ => cases f3
  rw [fWord, encoded]
  exact congrArg _ (BitVec.or_zero ..)

/-! Kinds of values. -/

theorem Ex.isNan_of_isSig {x : Ex} (h : x.isSig = true) : x.isNan = true := by
  cases x with
  | nan s => rfl
  | _ => cases h
theorem Ex.isSig_of_not_nan {x : Ex} (h : x.isNan = false) : x.isSig = false := by
  cases x with
  | nan s => cases h
  | _ => rfl
theorem Ex.negate_isNan (x : Ex) : x.negate.isNan = x.isNan := by cases x <;> rfl
theorem Ex.negate_isSig (x : Ex) : x.negate.isSig = x.isSig := by cases x <;> rfl

/-! Operands that are NaN: NV for a signalling one, else no flag. -/

/-- The exact result of an operation of which some operand is a NaN, and whether one is signalling. -/
def nanResult (sig : Bool) : Ex × Fl := (.nan false, if sig then Fl.nv else 0)

theorem fAddX_nan (rm : Rm) {x y : Ex} (h : (x.isNan || y.isNan) = true) : fAddX rm x y = nanResult (x.isSig || y.isSig) := by
  simp [fAddX, exactSum, nanResult, h]
theorem fSubX_nan (rm : Rm) {x y : Ex} (h : (x.isNan || y.isNan) = true) :
    fAddX rm x y.negate = nanResult (x.isSig || y.isSig) := by
  rw [fAddX_nan rm (by rwa [Ex.negate_isNan]), Ex.negate_isSig]
theorem exactMul_nan {x y : Ex} (h : (x.isNan || y.isNan) = true) : exactMul x y = nanResult (x.isSig || y.isSig) := by
  cases x with
  | nan s => cases y <;> simp [exactMul, nanResult, Ex.isSig]
  | _ => cases y with
    | nan u => simp [exactMul, nanResult, Ex.isSig]
    | _ => cases h
theorem fDivX_nan (rm : Rm) {x y : Ex} (h : (x.isNan || y.isNan) = true) : fDivX rm x y = nanResult (x.isSig || y.isSig) := by
  have nan : anyNan [x, y] = true := by simpa [anyNan] using h
  have sig : anySig [x, y] = (x.isSig || y.isSig) := by simp [anySig]
  rw [fDivX, sig, nan, nanResult]
  cases x.isSig || y.isSig <;> rfl
theorem fSqrtX_nan {x : Ex} (h : x.isNan = true) : fSqrtX x = nanResult x.isSig := by
  cases x with
  | nan s => rfl
  | _ => cases h

/-! Results with no number (NV), and infinite ones. -/

theorem fAddX_opposite (rm : Rm) (n : Bool) : fAddX rm (.inf n) (.inf (!n)) = (.nan false, Fl.nv) := by cases n <;> rfl
theorem fSqrtX_negative {x : Ex} (nan : x.isNan = false) (zero : x.isZero = false) (neg : x.neg = true) :
    fSqrtX x = (.nan false, Fl.nv) := by
  cases x with
  | nan s => cases nan
  | zero n => cases zero
  | inf n => cases neg; rfl
  | fin q => exact if_pos (by simpa [Ex.neg] using neg)

/-- A zero times an infinity. -/
def zeroByInf (x y : Ex) : Prop := (x.isZero = true ∧ y.isInf = true) ∨ (x.isInf = true ∧ y.isZero = true)

theorem fFmaX_invalid (rm : Rm) {x y z : Ex} (h : (x.isSig = true ∨ y.isSig = true ∨ z.isSig = true) ∨ zeroByInf x y) :
    fFmaX rm x y z = (.nan false, Fl.nv) := by
  unfold fFmaX
  split
  · rfl
  · refine if_pos ?_
    rcases h with sig | byInf
    · simp_all [anySig]
    · simpa [zeroByInf] using byInf
theorem fFmaX_quiet (rm : Rm) {x y z : Ex} (sig : ¬ (x.isSig = true ∨ y.isSig = true ∨ z.isSig = true)) (byInf : ¬ zeroByInf x y)
    (nan : x.isNan = true ∨ y.isNan = true ∨ z.isNan = true) : fFmaX rm x y z = (.nan false, 0) := by
  rw [fFmaX, if_neg (by simpa [anySig, ← or_assoc] using sig), if_neg (by simpa [zeroByInf] using byInf),
    if_pos (by simpa [anyNan] using nan)]
/-- With numbers and infinities alone, and no zero times an infinity, `ffma` is a sum. -/
theorem fFmaX_sum (rm : Rm) {x y z : Ex} (byInf : ¬ zeroByInf x y) (hx : x.isNan = false) (hy : y.isNan = false) (hz : z.isNan = false) :
    fFmaX rm x y z = fAddX rm (exactMul x y).1 z := by
  rw [fFmaX, if_neg (by simp [anySig, Ex.isSig_of_not_nan, hx, hy, hz]), if_neg (by simpa [zeroByInf] using byInf),
    if_neg (by simp [anyNan, hx, hy, hz])]
  rfl
theorem exactMul_inf {x y : Ex} (hx : x.isNan = false) (hy : y.isNan = false) (byInf : ¬ zeroByInf x y)
    (inf : x.isInf = true ∨ y.isInf = true) : (exactMul x y).1 = .inf (x.neg != y.neg) := by
  cases x <;> cases y <;> simp_all [exactMul, zeroByInf, Ex.isNan, Ex.isInf, Ex.isZero, Ex.neg]
theorem exactMul_finite {x y : Ex} (hx : x.isNan = false) (hy : y.isNan = false) (hx' : x.isInf = false) (hy' : y.isInf = false) :
    (exactMul x y).1.isFin = true := by
  cases x <;> cases y <;> simp_all [exactMul, Ex.isNan, Ex.isInf, Ex.isFin]
theorem fAddX_inf (rm : Rm) {x y : Ex} {n : Bool} (h : x = .inf n ∨ y = .inf n) (hx : x ≠ .inf (!n)) (hy : y ≠ .inf (!n))
    (nanX : x.isNan = false) (nanY : y.isNan = false) : fAddX rm x y = (.inf n, 0) :=
  exactSum_inf rm (by simpa [eq_comm] using h) (by simp [hx.symm, hy.symm]) (by simp [nanX, nanY])

end Sys2Proof.Machine
end

section
/-! O8: the special cases as instructions (R99). -/
namespace Sys2Proof.Machine

theorem State.fbin_gives {s : State} {x : FBin} {lat : Nat} {op : Rm → Ex → Ex → Ex × Fl} {v : Word} {fl : Fl} (acts : s.ctx.acts x.g lat)
    (h : fWord (op x.rm (s.ctx.fsrc x.t x.ftz x.a) (s.ctx.fsrc x.t x.ftz x.b)) x.t x.rm x.ftz x.sat = (v, fl))
    (quiet : s.ctx.enabled fl = false) : s.fbin x lat op = .next (s.gives x.g .m lat (sCode x.d) v none fl) := by
  obtain ⟨rfl, rfl⟩ := Prod.ext_iff.1 h
  exact State.finish_gives .m (sCode x.d) _ none acts quiet
theorem exec_ffma_gives {s : State} {y : FTer} {v : Word} {fl : Fl} (acts : s.ctx.acts y.g 4)
    (h : fWord (fFmaX y.rm (s.ctx.fsrc y.t y.ftz y.a) (s.ctx.fsrc y.t y.ftz y.b) (s.ctx.fsrc y.t y.ftz y.c)) y.t y.rm y.ftz y.sat = (v, fl))
    (quiet : s.ctx.enabled fl = false) : exec (.ffma y) s = .next (s.gives y.g .m 4 (sCode y.d) v none fl) := by
  obtain ⟨rfl, rfl⟩ := Prod.ext_iff.1 h
  exact State.finish_gives .m (sCode y.d) _ none acts quiet
theorem exec_fsqrt_gives {s : State} {z : FUna} {v : Word} {fl : Fl} (acts : s.ctx.acts z.g 14)
    (h : fWord (fSqrtX (s.ctx.fsrc z.t z.ftz z.a)) z.t z.rm z.ftz z.sat = (v, fl)) (quiet : s.ctx.enabled fl = false) :
    exec (.fsqrt z) s = .next (s.gives z.g .m 14 (sCode z.d) v none fl) := by
  obtain ⟨rfl, rfl⟩ := Prod.ext_iff.1 h
  exact State.finish_gives .m (sCode z.d) _ none acts quiet

/-- Settles O8: each special case has its exact result, which encodes without rounding. -/
theorem floatSpecialCases : Obligations.FloatSpecialCases := by
  unfold Obligations.FloatSpecialCases
  refine ⟨fun s y f3 => ?_, fun s z f3 => ?_, fun s x f3 => ?_⟩
  · intro a b d sig byInf nan gives
    have ofExact {e : Ex × Fl} {n : Nat} {fl : Fl} (he : fFmaX y.rm a b d = e)
        (hw : fWord e y.t y.rm y.ftz y.sat = (BitVec.ofNat 64 n, fl)) : gives n fl :=
      fun acts quiet => exec_ffma_gives acts (he ▸ hw) quiet
    have numbers (h : ¬ nan) : a.isNan = false ∧ b.isNan = false ∧ d.isNan = false := by simpa [nan] using h
    refine ⟨fun invalid => ofExact (fFmaX_invalid _ invalid) (fWord_nan f3 ..),
      fun quiet finite isNan => ofExact (fFmaX_quiet _ quiet finite isNan) (fWord_nan f3 ..), fun finite noNan inf => ?_,
      fun noNan ha hb n hd noSat => ?_⟩
    · obtain ⟨na, nb, nd⟩ := numbers noNan
      have sum : fFmaX y.rm a b d = fAddX y.rm (.inf (a.neg != b.neg)) d := by
        rw [fFmaX_sum _ finite na nb nd, exactMul_inf na nb finite inf]
      have opposite : (a.neg == b.neg) = !(a.neg != b.neg) := (Bool.not_not _).symm
      refine ⟨fun hd => ofExact (sum.trans ?_) (fWord_nan f3 ..), fun hd noSat => ofExact (sum.trans ?_) (noSat ▸ fWord_inf f3 ..)⟩
      · rw [hd, opposite]; exact fAddX_opposite _ _
      · rw [opposite] at hd
        exact fAddX_inf _ (.inl rfl) (by simp) hd rfl nd
    · obtain ⟨na, nb, nd⟩ := numbers noNan
      have finite : ¬ zeroByInf a b := by simp [zeroByInf, ha, hb]
      have product := exactMul_finite na nb ha hb
      refine ofExact ((fFmaX_sum _ finite na nb nd).trans (fAddX_inf _ (.inr hd) (fun e => ?_) (by simp [hd]) (Ex.isNan_of_isFin product) nd))
        (noSat ▸ fWord_inf f3 ..)
      rw [e] at product
      cases product
  · intro a gives
    have ofExact {e : Ex × Fl} {n : Nat} {fl : Fl} (he : fSqrtX a = e) (hw : fWord e z.t z.rm z.ftz z.sat = (BitVec.ofNat 64 n, fl)) :
        gives n fl := fun acts quiet => exec_fsqrt_gives acts (he ▸ hw) quiet
    refine ⟨fun sig => ofExact (fSqrtX_nan (Ex.isNan_of_isSig sig)) ?_, fun nan quiet => ofExact (fSqrtX_nan nan) ?_,
      fun nan zero neg => ofExact (fSqrtX_negative nan zero neg) (fWord_nan f3 ..),
      fun n zero => ofExact (congrArg fSqrtX zero) (fWord_zero f3 ..),
      fun inf noSat => ofExact (congrArg fSqrtX inf) ?_⟩
    · rw [sig]; exact fWord_nan f3 ..
    · rw [quiet]; exact fWord_nan f3 ..
    · rw [noSat]; exact fWord_inf f3 false 0 z.rm z.ftz
  · intro a b nan all
    have gives {lat : Nat} {op : Rm → Ex → Ex → Ex × Fl} {fl : Fl} (acts : s.ctx.acts x.g lat) (quiet : s.ctx.enabled fl = false)
        (he : op x.rm a b = (.nan false, fl)) :
        s.fbin x lat op = .next (s.gives x.g .m lat (sCode x.d) (BitVec.ofNat 64 (ETy.nanBits x.t)) none fl) :=
      State.fbin_gives acts (he ▸ fWord_nan f3 ..) quiet
    have withNan (h : (a.isNan || b.isNan) = true) : all (if (a.isSig || b.isSig) then Fl.nv else 0) :=
      ⟨fun acts quiet => gives acts quiet (fAddX_nan _ h), fun acts quiet => gives acts quiet (fSubX_nan _ h),
        fun acts quiet => gives acts quiet (exactMul_nan h), fun acts quiet => gives acts quiet (fDivX_nan _ h)⟩
    refine ⟨fun sig => ?_, fun qa qb isNan => ?_, fun n ha hb acts quiet => gives acts quiet ?_, fun n ha hb acts quiet => gives acts quiet ?_,
      fun n m h acts quiet => gives acts quiet ?_, fun n m h acts quiet => gives acts quiet ?_, fun q m ha hb noSat acts quiet => ?_⟩
    · have isSig : (a.isSig || b.isSig) = true := by simpa using sig
      have isNan : (a.isNan || b.isNan) = true := by simpa using sig.imp Ex.isNan_of_isSig Ex.isNan_of_isSig
      simpa only [isSig, if_true] using withNan isNan
    · have noSig : (a.isSig || b.isSig) = false := by simp [qa, qb]
      simpa only [noSig, Bool.false_eq_true, if_false] using withNan (by simpa using isNan)
    · rw [ha, hb]; exact fAddX_opposite _ n
    · rw [ha, hb]; exact fAddX_opposite _ n
    · rcases h with ⟨ha, hb⟩ | ⟨ha, hb⟩ <;> rw [ha, hb] <;> rfl
    · rcases h with ⟨ha, hb⟩ | ⟨ha, hb⟩ <;> rw [ha, hb] <;> rfl
    · refine State.fbin_gives acts ?_ quiet
      change fWord (fDivX x.rm a b) x.t x.rm x.ftz x.sat = _
      rw [ha, hb, noSat]
      exact fWord_inf f3 (decide (q.n < 0) != m) Fl.dz x.rm x.ftz

end Sys2Proof.Machine
end

section
/-! O11: selection, comparison, classification and conversion (R100 to R103). -/
namespace Sys2Proof.Machine

/-! Numbers that are not zero. -/

theorem Ex.dy_nonzero {n e : ℤ} {z : Bool} {q : Q} (h : Ex.dy n e z = .fin q) : q.n ≠ 0 := by
  unfold Ex.dy at h
  split at h
  case isTrue => cases h
  case isFalse zero => cases h; simpa using zero
theorem Ex.ofInt_nonzero {n : ℤ} {q : Q} (h : Ex.ofInt n = .fin q) : q.n ≠ 0 := by
  unfold Ex.ofInt at h
  split at h
  case isTrue => cases h
  case isFalse zero => cases h; simpa using zero
theorem decodeEl_nonzero {b : ℕ} {t : ETy} {q : Q} (h : decodeEl b t = .fin q) (ht : t ≠ .lg6) : q.n ≠ 0 := by
  have notLog : (t == .lg6) = false := by simpa using ht
  unfold decodeEl at h
  simp only [notLog, Bool.false_eq_true, if_false] at h
  split at h
  · exact Ex.ofInt_nonzero h
  split at h
  · cases h
  split at h
  · split at h <;> cases h
  · exact Ex.dy_nonzero h
theorem flushIn_fin {ftz : Bool} {x : Ex} {q : Q} (h : flushIn ftz x = .fin q) : x = .fin q := by
  cases x with
  | fin p =>
    unfold flushIn at h
    dsimp only at h
    split at h
    · cases h
    · exact h
  | _ => cases h
theorem ETy.f3_not_lg6 {t : ETy} (f3 : t.f3 = true) : t ≠ .lg6 := by rintro rfl; cases f3

/-! The order with -0 below +0 (R100). -/

/-- A zero compares equal to no number that is not zero. -/
theorem Ex.zero_cmp_fin {n : Bool} {q : Q} (plain : q.Plain) (h : (Ex.zero n).cmp (.fin q) = .eq) : q.n = 0 := by
  have negated : ({ q with n := -q.n } : Q).Plain := plain
  have zero : ({ n := 0 } : Q).Plain := ⟨one_ne_zero, rfl⟩
  have balance : (Q.add { n := 0 } { q with n := -q.n }).n = 0 := by
    unfold Ex.cmp at h
    dsimp only [Ex.real] at h
    split at h
    · cases h
    · split at h
      case isTrue e => simpa using e
      case isFalse => cases h
  rw [← Q.rat_eq_zero_iff (Q.add_plain zero negated), Q.add_rat zero negated, Q.rat_zero, zero_add, Q.rat_neg, neg_eq_zero,
    Q.rat_eq_zero_iff plain] at balance
  exact balance
/-- `x < y` of two operands, -0 below +0. -/
def lessR100 (x y : Ex) : Prop := x.cmp y = .lt ∨ (x.cmp y = .eq ∧ x = .zero true ∧ y = .zero false)
theorem totalLt_iff {x y : Ex} (number : ∀ q, y = .fin q → q.Plain ∧ q.n ≠ 0) (hy : y.isNan = false) :
    totalLt x y = true ↔ lessR100 x y := by
  unfold totalLt lessR100
  cases order : x.cmp y with
  | lt => simp
  | gt => simp
  | eq =>
    cases x with
    | zero n => cases y with
      | nan s => cases hy
      | inf b => cases b <;> cases order
      | zero m => simp [Ex.isZero, Ex.neg]
      | fin q => exact absurd (Ex.zero_cmp_fin (number q rfl).1 order) (number q rfl).2
    | _ => simp [Ex.isZero]

/-! Selection (R100). -/

/-- An operand of R100, and the pattern that stands for it: its own, or a zero's of its sign. -/
def operandR100 (t : ETy) (ftz : Bool) (a : Nat) : Ex := flushIn ftz (decodeEl a t)
def patternR100 (t : ETy) (ftz : Bool) (a : Nat) : Nat :=
  if (operandR100 t ftz a).isZero then withSign t (operandR100 t ftz a).neg 0 else a % 2 ^ ETy.bits t

theorem fMinMax_eq (mx : Bool) (t : ETy) (ftz : Bool) (a b : Nat) : fMinMax mx t ftz a b =
    let x := operandR100 t ftz a
    let y := operandR100 t ftz b
    if anySig [x, y] then (ETy.nanBits t, Fl.nv)
    else if x.isNan && y.isNan then (ETy.nanBits t, 0)
    else if x.isNan then (patternR100 t ftz b, 0)
    else if y.isNan then (patternR100 t ftz a, 0)
    else if mx then (if totalLt x y then patternR100 t ftz b else patternR100 t ftz a, 0)
    else (if totalLt y x then patternR100 t ftz b else patternR100 t ftz a, 0) := by
  simp only [fMinMax, decodeEl_mod]
  rfl
theorem operandR100_number {t : ETy} (f3 : t.f3 = true) {ftz : Bool} {a : Nat} {q : Q} (h : operandR100 t ftz a = .fin q) :
    q.Plain ∧ q.n ≠ 0 :=
  have decoded := flushIn_fin h
  ⟨(decodeEl_fin decoded (ETy.f3_not_lg6 f3)).1, decodeEl_nonzero decoded (ETy.f3_not_lg6 f3)⟩

section
variable {t : ETy} {ftz : Bool} {a b : Nat} (mx : Bool)

theorem fMinMax_signalling (h : (operandR100 t ftz a).isSig = true ∨ (operandR100 t ftz b).isSig = true) :
    fMinMax mx t ftz a b = (ETy.nanBits t, Fl.nv) := by
  rw [fMinMax_eq]
  exact if_pos (by simpa [anySig] using h)
variable (ha : (operandR100 t ftz a).isSig = false) (hb : (operandR100 t ftz b).isSig = false)
include ha hb
theorem fMinMax_nans (na : (operandR100 t ftz a).isNan = true) (nb : (operandR100 t ftz b).isNan = true) :
    fMinMax mx t ftz a b = (ETy.nanBits t, 0) := by
  simp [fMinMax_eq, anySig, ha, hb, na, nb]
theorem fMinMax_second (na : (operandR100 t ftz a).isNan = true) (nb : (operandR100 t ftz b).isNan = false) :
    fMinMax mx t ftz a b = (patternR100 t ftz b, 0) := by
  simp [fMinMax_eq, anySig, ha, hb, na, nb]
theorem fMinMax_first (na : (operandR100 t ftz a).isNan = false) (nb : (operandR100 t ftz b).isNan = true) :
    fMinMax mx t ftz a b = (patternR100 t ftz a, 0) := by
  simp [fMinMax_eq, anySig, ha, hb, na, nb]
end

/-- Of two numbers the second is selected when it is strictly less, or for `fmax` strictly greater. -/
theorem fMinMax_numbers {t : ETy} (f3 : t.f3 = true) {ftz : Bool} {a b : Nat} (na : (operandR100 t ftz a).isNan = false)
    (nb : (operandR100 t ftz b).isNan = false) :
    (lessR100 (operandR100 t ftz b) (operandR100 t ftz a) → fMinMax false t ftz a b = (patternR100 t ftz b, 0)) ∧
      (¬ lessR100 (operandR100 t ftz b) (operandR100 t ftz a) → fMinMax false t ftz a b = (patternR100 t ftz a, 0)) ∧
      (lessR100 (operandR100 t ftz a) (operandR100 t ftz b) → fMinMax true t ftz a b = (patternR100 t ftz b, 0)) ∧
      (¬ lessR100 (operandR100 t ftz a) (operandR100 t ftz b) → fMinMax true t ftz a b = (patternR100 t ftz a, 0)) := by
  rw [← totalLt_iff (fun _ => operandR100_number f3) na, ← totalLt_iff (fun _ => operandR100_number f3) nb]
  simp +contextual [fMinMax_eq, anySig, Ex.isSig_of_not_nan, na, nb]

/-! Comparison (R101), classification (R102). -/

theorem fCmpX_spec {cond : Nat} (h : cond < 8) (x y : Ex) :
    ((fCmpX cond x y).1 = true ↔ fcondTrue cond x y) ∧ (fCmpX cond x y).2 = fcondFlag cond x y := by
  interval_cases cond <;> simp [fCmpX, fcondTrue, fcondFlag, anySig]
theorem fClassBits_eq (t : ETy) (a : Nat) : fClassBits t a = 2 ^ fclassBit t (decodeEl a t) := by
  unfold fClassBits fclassBit
  cases decodeEl a t with
  | nan s => cases s <;> rfl
  | inf n => cases n <;> rfl
  | zero n => cases n <;> rfl
  | fin q => dsimp only; split_ifs <;> rfl

/-! The instructions. -/

theorem exec_fmin_gives {s : State} {x : FBin} {n : Nat} {fl : Fl} (acts : s.ctx.acts x.g 2)
    (h : fMinMax false x.t x.ftz (s.ctx.src x.a).toNat (s.ctx.src x.b).toNat = (n, fl)) (quiet : s.ctx.enabled fl = false) :
    exec (.fmin x) s = .next (s.gives x.g .m 2 (sCode x.d) (BitVec.ofNat 64 n) none fl) := by
  obtain ⟨rfl, rfl⟩ := Prod.ext_iff.1 h
  exact State.finish_gives .m (sCode x.d) _ none acts quiet
theorem exec_fmax_gives {s : State} {x : FBin} {n : Nat} {fl : Fl} (acts : s.ctx.acts x.g 2)
    (h : fMinMax true x.t x.ftz (s.ctx.src x.a).toNat (s.ctx.src x.b).toNat = (n, fl)) (quiet : s.ctx.enabled fl = false) :
    exec (.fmax x) s = .next (s.gives x.g .m 2 (sCode x.d) (BitVec.ofNat 64 n) none fl) := by
  obtain ⟨rfl, rfl⟩ := Prod.ext_iff.1 h
  exact State.finish_gives .m (sCode x.d) _ none acts quiet
theorem exec_fcmp_gives {s : State} {c : FCmp} {r : Bool} {fl : Fl} (acts : s.ctx.acts c.g 2)
    (h : fCmpX c.cond.val (s.ctx.fsrc c.t c.ftz c.a) (s.ctx.fsrc c.t c.ftz c.b) = (r, fl)) (quiet : s.ctx.enabled fl = false) :
    exec (.fcmp c) s = .next (s.gives c.g .m 2 (cCode c.d) (if r then 1 else 0) none fl) := by
  obtain ⟨rfl, rfl⟩ := Prod.ext_iff.1 h
  exact State.finish_gives .m (cCode c.d) _ none acts quiet

/-- Settles O11: the order of the model is that of R100 on what the scalar types decode to. -/
theorem floatSelectCompareConvert : Obligations.FloatSelectCompareConvert := by
  unfold Obligations.FloatSelectCompareConvert
  intro s x c k v
  refine ⟨fun f3 => ?_, ?_, fun acts => ?_, fun acts quiet => State.finish_gives .m (sCode v.d) _ none acts quiet⟩
  · intro w pa pb a b za zb less gives
    have least {n : Nat} {fl : Fl} (h : fMinMax false x.t x.ftz (s.ctx.src x.a).toNat (s.ctx.src x.b).toNat = (n, fl)) :
        gives (.fmin x) n fl := fun acts quiet => exec_fmin_gives acts h quiet
    have greatest {n : Nat} {fl : Fl} (h : fMinMax true x.t x.ftz (s.ctx.src x.a).toNat (s.ctx.src x.b).toNat = (n, fl)) :
        gives (.fmax x) n fl := fun acts quiet => exec_fmax_gives acts h quiet
    refine ⟨fun sig => ⟨least (fMinMax_signalling _ sig), greatest (fMinMax_signalling _ sig)⟩, fun ha hb =>
      ⟨fun na nb => ⟨least (fMinMax_nans _ ha hb na nb), greatest (fMinMax_nans _ ha hb na nb)⟩,
        fun na nb => ⟨least (fMinMax_second _ ha hb na nb), greatest (fMinMax_second _ ha hb na nb)⟩,
        fun na nb => ⟨least (fMinMax_first _ ha hb na nb), greatest (fMinMax_first _ ha hb na nb)⟩, fun na nb => ?_⟩⟩
    obtain ⟨minSecond, minFirst, maxSecond, maxFirst⟩ := fMinMax_numbers f3 na nb
    exact ⟨fun h => least (minSecond h), fun h => least (minFirst h), fun h => greatest (maxSecond h), fun h => greatest (maxFirst h)⟩
  · intro a b fl acts quiet
    obtain ⟨holds, flags⟩ := fCmpX_spec c.cond.isLt a b
    refine ⟨fun h => ?_, fun h => ?_⟩
    · exact exec_fcmp_gives acts (Prod.ext (holds.2 h) flags) quiet
    · exact exec_fcmp_gives acts (Prod.ext (Bool.eq_false_iff.2 fun e => h (holds.1 e)) flags) quiet
  · rw [← fClassBits_eq]
    exact State.finish_plain .m (sCode k.d) _ none acts

end Sys2Proof.Machine
end

section
/-! O14: what an instruction that only gives results changes (R80, R108). -/
namespace Sys2Proof.Machine

/-! A trap counts, unless the syllable's fault kills it. -/

theorem State.bufStore_traps (s : State) (c : CoreId) (sp : Space) (off : Nat) (bs : List Byte) :
    ((s.bufStore c sp off bs).core c).traps = (s.core c).traps := by
  unfold State.bufStore
  dsimp only
  split
  · rw [State.setCtxOf, State.core_setCore]; rfl
  · rfl
theorem State.takeTrap_traps (s : State) (c : CoreId) (r : TrapRec) (t0 : Nat) :
    ((s.takeTrap c r t0).core c).traps = (s.core c).traps := by
  have traced (ty eng : Nat) (pc : Word) (seq : BitVec 32) (p0 p1 : Word) :
      ((s.traceRec c ty eng pc seq p0 p1).core c).traps = (s.core c).traps := by
    obtain ⟨v, core, -⟩ := s.traceRec_core c ty eng pc seq p0 p1
    rw [core]
  unfold State.takeTrap
  dsimp only
  split
  · rw [State.core_setCore, State.bufStore_traps, traced]
  · rw [State.core_setCore, traced]
/-- ARITH counts as a trap, or is killed and changes nothing. -/
theorem State.arith_noTrap {s : State} {g : Guard} {slot : Slot} {fl : Fl} (quiet : s.noTrap (s.arith g slot fl)) :
    s.arith g slot fl = s := by
  cases killed : (s.core s.cur).ctx.faultKills g with
  | true => rw [State.arith, if_pos killed]
  | false =>
    rw [State.noTrap, State.arith, if_neg (by rw [killed]; decide)] at quiet
    simp only [State.takeTrap_cur, State.setCtx_cur, State.core_setCore, State.takeTrap_traps, State.core_setCtx] at quiet
    omega

/-! The shape of a context with results added. -/

/-- Results in flight and flags of FPSTAT are added to the context; nothing else changes. -/
def Ctx.adding (c : Ctx) (fs : List Flight) (fl raised : Fl) : Ctx :=
  { c with flight := c.flight ++ fs, fpstat := c.fpstat ||| fl.setWidth 64, raised }

theorem Ctx.adding_nothing (c : Ctx) : c.adding [] 0 c.raised = c := by simp [Ctx.adding]
theorem Ctx.fly_adding (c : Ctx) (fs : List Flight) (fl raised : Fl) (g : Guard) (lat : Nat) (f : Flight) :
    ∃ gs, gs.length ≤ fs.length + 1 ∧ (c.adding fs fl raised).fly g lat f = c.adding gs fl raised := by
  unfold Ctx.fly
  split
  · exact ⟨fs, by omega, rfl⟩
  · exact ⟨fs ++ [f], by simp, by simp [Ctx.adding]⟩
theorem Ctx.resultFl_adding (c : Ctx) (now : Nat) (g : Guard) (slot : Slot) (lat code : Nat) (v : Word) (r : Option Row) (fl : Fl) :
    ∃ fs fl' raised, fs.length ≤ 1 ∧ c.resultFl now g slot lat code v r fl = c.adding fs fl' raised := by
  unfold Ctx.resultFl
  split
  · obtain ⟨fs, len, flown⟩ := c.fly_adding [] 0 c.raised g lat
      { fin := now + lat, born := now, code, slot, val := v, row := r, sq := true, flags := fl }
    rw [Ctx.adding_nothing] at flown
    exact ⟨fs, 0, c.raised, len, flown⟩
  · obtain ⟨fs, len, flown⟩ := c.fly_adding [] 0 c.raised g lat { fin := now + lat, born := now, code, slot, val := v, row := r }
    rw [Ctx.adding_nothing] at flown
    refine ⟨fs, fl, c.raised ||| fl, len, ?_⟩
    rw [flown]
    simp [Ctx.raise, Ctx.orFlags, Ctx.adding]

/-! What a step that gives results can do. -/

/-- At most two results and some flags are added; nothing else changes. -/
def State.GivesOnly (s t : State) : Prop := ∃ fs fl raised, fs.length ≤ 2 ∧ t = s.setCtx (s.ctx.adding fs fl raised)

theorem State.givesOnly_self (s : State) : s.GivesOnly s :=
  ⟨[], 0, s.ctx.raised, by decide, by rw [Ctx.adding_nothing, State.setCtx_ctx]⟩
theorem State.finish_givesOnly {s t : State} {g : Guard} {slot : Slot} {lat code : Nat} {v : Word} {r : Option Row} {fl : Fl}
    (h : s.finish g slot lat code v r fl = .next t) (quiet : s.noTrap t) : s.GivesOnly t := by
  unfold State.finish at h
  split at h
  · cases h; exact s.givesOnly_self
  split at h
  · cases h; exact s.givesOnly_self
  split at h
  · cases h; rw [State.arith_noTrap quiet]; exact s.givesOnly_self
  · cases h
    obtain ⟨fs, fl', raised, len, eq⟩ := s.ctx.resultFl_adding s.now g slot lat code v r fl
    exact ⟨fs, fl', raised, by omega, by rw [eq]⟩
/-- `vquant` gives a row and its scales (R193). -/
theorem execVquant_givesOnly {s t : State} {x : VQuant} (h : execVquant x s = .next t) (quiet : s.noTrap t) : s.GivesOnly t := by
  unfold execVquant at h
  dsimp only at h
  split at h
  · cases h; exact s.givesOnly_self
  split at h
  · cases h; exact s.givesOnly_self
  split at h
  · cases h; rw [State.arith_noTrap quiet]; exact s.givesOnly_self
  · cases h
    obtain ⟨fs, fl, raised, len, eq⟩ := s.ctx.resultFl_adding s.now x.g .v 6 (rCode x.d) _ _ _
    rw [eq]
    obtain ⟨gs, len', flown⟩ := s.ctx.fly_adding fs fl raised x.g 6 _
    exact ⟨gs, fl, raised, by omega, congrArg s.setCtx flown⟩

/-- The outcome is that of one result of some latency, code, word and flags. -/
def Out.Finishes (s : State) (o : Out) : Prop := ∃ g slot lat code v r fl, o = s.finish g slot lat code v r fl

theorem State.finish_finishes (s : State) (g : Guard) (slot : Slot) (lat code : Nat) (v : Word) (r : Option Row) (fl : Fl) :
    Out.Finishes s (s.finish g slot lat code v r fl) := ⟨g, slot, lat, code, v, r, fl, rfl⟩
theorem Out.ite_finishes {s : State} {p : Prop} {_ : Decidable p} {a b : Out} (ha : Out.Finishes s a) (hb : Out.Finishes s b) :
    Out.Finishes s (if p then a else b) := by
  split
  · exact ha
  · exact hb
theorem State.vels_finishes (s : State) (g : Guard) (lat : Nat) (d : Fin 128) (w : Nat) (r : List Nat × Fl) :
    Out.Finishes s (s.vels g lat d w r) := s.finish_finishes g .v lat (rCode d) _ _ _
/-- The forms with an integer and a floating type have a latency for each. -/
theorem State.vbin_finishes (s : State) (x : VBin) (latI latF : Nat) (fi : Int → Int → Int) (ff : Nat → Nat → Nat × Fl) :
    Out.Finishes s (s.vbin x latI latF fi ff) := Out.ite_finishes (s.vels_finishes ..) (s.vels_finishes ..)
theorem State.vuna_finishes (s : State) (x : VUna) (fi : Int → Int) (ff : Nat → Nat) : Out.Finishes s (s.vuna x fi ff) :=
  Out.ite_finishes (s.vels_finishes ..) (s.vels_finishes ..)
theorem State.vwide_finishes (s : State) (x : VBin) (fi : Int → Int → Int) (ff : Rm → Ex → Ex → Ex × Fl) :
    Out.Finishes s (s.vwide x fi ff) := Out.ite_finishes (s.vels_finishes ..) (s.vels_finishes ..)

theorem execVabs_finishes (s : State) (x : VUna) : Out.Finishes s (execVabs x s) := s.vuna_finishes x _ _

/-- Of the instructions that only give results, all but `vquant` give one. -/
theorem exec_finishes {i : Instr} (s : State) (only : resultOnly i = true) :
    Out.Finishes s (exec i s) ∨ ∃ x, i = .vquant x := by
  cases i with
  | add x | sub x | neg x | and x | or x | xor x | andn x | shl x | shr x | sra x | rotl x | clz x | ctz x | popc x | bfx x | bfxn x
  | bfi x | min x | max x | minn x | maxn x | sel x | cmp x | mov x | lea x | addi x | andi x | ori x | xori x | cmpi x | movi x | movl x
  | mul x | mulh x | mulhn x | div x | divn x | rem x | remn x | fadd x | fsub x | fmul x | ffma x | fdiv x | fsqrt x | fmin x | fmax x
  | fcmp x | fcvt x | fclass x | pand x | por x | pxor x | pnot x | pmov x | eseq x | vfma x | vfms x | vand x | vor x | vxor x | vshl x
  | vshr x | vsra x | vpopc x | vsel x | vmov x | vbcast x | vlane x | viota x | vdequant x | vscan x | vred x | vperm x | vrot x | vshuf x
  | vexp2 x | vlog2 x | vrcp x | vrsqrt x | vtanh x | vsigm x => exact .inl (s.finish_finishes ..)
  | vadd x | vsub x | vmul x | vmin x | vmax x => exact .inl (s.vbin_finishes ..)
  | vabs x => exact .inl (execVabs_finishes s x)
  | vneg x => exact .inl (s.vuna_finishes ..)
  | vwadd x | vwmul x => exact .inl (s.vwide_finishes ..)
  | vcmp x | vcvt x | vtbl x => exact .inl (Out.ite_finishes (s.vels_finishes ..) (s.vels_finishes ..))
  | vquant x => exact .inr ⟨x, rfl⟩
  | _ => cases only
theorem exec_givesOnly {i : Instr} {s t : State} (only : resultOnly i = true) (h : exec i s = .next t) (quiet : s.noTrap t) :
    s.GivesOnly t := by
  rcases exec_finishes s only with ⟨g, slot, lat, code, v, r, fl, one⟩ | ⟨x, rfl⟩
  · exact State.finish_givesOnly (one.symm.trans h) quiet
  · exact execVquant_givesOnly h quiet

/-! The obligation. -/

theorem flags_below_enables (w : Word) (fl : Fl) : (w ||| fl.setWidth 64) >>> 16 = w >>> 16 := by
  ext i hi
  simp only [BitVec.getElem_ushiftRight, BitVec.getLsbD_or, BitVec.getLsbD_setWidth]
  rw [BitVec.getLsbD_of_ge fl (16 + i) (by omega), Bool.and_false, Bool.or_false]

/-- Settles O14: results and flags are added to the context, which the other cores and memory are no part of. -/
theorem resultFrame : Obligations.ResultFrame := by
  unfold Obligations.ResultFrame
  intro i s t only h quiet
  obtain ⟨fs, fl, raised, len, rfl⟩ := exec_givesOnly only h quiet
  rw [State.ctx_setCtx]
  exact ⟨fun _ => rfl, fun c other => State.core_setCore_ne _ _ _ _ other, rfl, rfl, rfl, rfl, rfl, flags_below_enables _ fl,
    ⟨fs, rfl, len⟩, _, _, _, rfl⟩

end Sys2Proof.Machine
end

section
/-! O20: when a result lands (R80, R82). -/
namespace Sys2Proof.Machine

/-! What a write to each range of codes changes (R59). -/

/-- An operation that changes each register file by a function of that file, and nothing else. -/
def Ctx.PerFile (w : Ctx → Ctx) : Prop :=
  ∃ (fs : Vector Word 64 → Vector Word 64) (fo : Vector Word 8 → Vector Word 8) (fp : Vector Bool 8 → Vector Bool 8)
    (frows : Vector Row 128 → Vector Row 128), ∀ x, w x = { x with s := fs x.s, o := fo x.o, p := fp x.p, rows := frows x.rows }

theorem Ctx.perFile_id : Ctx.PerFile (fun x => x) := ⟨id, id, id, id, fun _ => rfl⟩
theorem Ctx.perFile_ite {p : Prop} [Decidable p] {w w' : Ctx → Ctx} (h : Ctx.PerFile w) (h' : Ctx.PerFile w') :
    Ctx.PerFile (fun x => if p then w x else w' x) := by
  by_cases hp : p
  · simpa only [if_pos hp] using h
  · simpa only [if_neg hp] using h'
theorem Ctx.PerFile.leaves {w : Ctx → Ctx} (h : Ctx.PerFile w) (x : Ctx) :
    (w x).lx = x.lx ∧ (w x).fpstat = x.fpstat ∧ (w x).tokDue = x.tokDue := by
  obtain ⟨fs, fo, fp, frows, shape⟩ := h
  rw [shape]
  exact ⟨rfl, rfl, rfl⟩
/-- What is left in the register files depends on what stood in them alone. -/
theorem Ctx.PerFile.registers {w : Ctx → Ctx} (h : Ctx.PerFile w) {x y : Ctx}
    (same : x.s = y.s ∧ x.o = y.o ∧ x.p = y.p ∧ x.rows = y.rows) :
    (w x).s = (w y).s ∧ (w x).o = (w y).o ∧ (w x).p = (w y).p ∧ (w x).rows = (w y).rows := by
  obtain ⟨fs, fo, fp, frows, shape⟩ := h
  obtain ⟨hs, ho, hp, hrows⟩ := same
  rw [shape x, shape y]
  exact ⟨congrArg fs hs, congrArg fo ho, congrArg fp hp, congrArg frows hrows⟩
theorem Ctx.write_perFile (code : Nat) (v : Word) (r : Option Row) : Ctx.PerFile (fun x => x.write code v r) := by
  refine Ctx.perFile_ite perFile_id (Ctx.perFile_ite ⟨(·.setIfInBounds code v), id, id, id, fun _ => rfl⟩
    (Ctx.perFile_ite ⟨id, (·.setIfInBounds (code - 0x40) v), id, id, fun _ => rfl⟩ (Ctx.perFile_ite perFile_id
      (Ctx.perFile_ite (Ctx.perFile_ite perFile_id ⟨id, id, (·.setIfInBounds (code - 0x58) (v != 0)), id, fun _ => rfl⟩)
        (Ctx.perFile_ite perFile_id ?_)))))
  cases r with
  | none => exact Ctx.perFile_id
  | some row => exact ⟨id, id, id, (·.setIfInBounds (code - 0x80) row), fun _ => rfl⟩
theorem Ctx.write_main (x : Ctx) {i : Fin 64} (h : i ≠ 0) (v : Word) (r : Option Row) :
    x.write i.val v r = { x with s := x.s.setIfInBounds i.val v } := by
  have nonzero : ¬ (i.val == 0) = true := by rw [beq_iff_eq]; exact fun e => h (Fin.ext e)
  unfold Ctx.write
  rw [if_neg nonzero, if_pos i.isLt]
theorem Ctx.write_operand (x : Ctx) (i : Fin 8) (v : Word) (r : Option Row) :
    x.write (0x40 + i.val) v r = { x with o := x.o.setIfInBounds i.val v } := by
  unfold Ctx.write
  rw [if_neg (by simp), if_neg (by omega), if_pos (by omega), Nat.add_sub_cancel_left]
theorem Ctx.write_predicate (x : Ctx) {i : Fin 8} (h : i ≠ 0) (v : Word) (r : Option Row) :
    x.write (0x58 + i.val) v r = { x with p := x.p.setIfInBounds i.val (v != 0) } := by
  have notP0 : ¬ (0x58 + i.val == 0x58) = true := by rw [beq_iff_eq]; exact fun e => h (Fin.ext (Nat.left_eq_add.1 e.symm))
  unfold Ctx.write
  rw [if_neg (by simp), if_neg (by omega), if_neg (by omega), if_neg (by omega), if_pos (by omega), if_neg notP0,
    Nat.add_sub_cancel_left]
theorem Ctx.write_row (x : Ctx) (i : Fin 128) (v : Word) (r : Row) :
    x.write (0x80 + i.val) v (some r) = { x with rows := x.rows.setIfInBounds i.val r } := by
  unfold Ctx.write
  rw [if_neg (by simp), if_neg (by omega), if_neg (by omega), if_neg (by omega), if_neg (by omega), if_neg (by omega),
    Nat.add_sub_cancel_left]

/-! A result reaches its latch, then its register. -/

/-- The latch takes the result, and FPSTAT and SMSTAT its flags. -/
def Ctx.arrives (c : Ctx) (f : Flight) : Ctx := ((if f.latch then c.setLx f.slot f.val else c).orFlags f.flags).orSm f.sm f.am

theorem Ctx.orSm_shape (c : Ctx) (b : BitVec 3) (am : Option (Fin 128)) :
    ∃ st m0 m1, c.orSm b am = { c with smstat := st, smam0 := m0, smam1 := m1 } := by
  unfold Ctx.orSm
  cases am with
  | none => exact ⟨_, _, _, rfl⟩
  | some r => dsimp only; split <;> exact ⟨_, _, _, rfl⟩
theorem Ctx.arrives_takes (c : Ctx) (f : Flight) :
    (c.arrives f).lx = (if f.latch then c.lx.setIfInBounds (Slot.num f.slot) f.val else c.lx) ∧
      (c.arrives f).fpstat = c.fpstat ||| f.flags.setWidth 64 := by
  obtain ⟨st, m0, m1, sm⟩ := ((if f.latch then c.setLx f.slot f.val else c).orFlags f.flags).orSm_shape f.sm f.am
  rw [Ctx.arrives, sm]
  cases f.latch <;> exact ⟨rfl, rfl⟩
/-- The registers other than latches, the results in flight and the token writes due stand. -/
theorem Ctx.arrives_leaves (c : Ctx) (f : Flight) :
    ((c.arrives f).s = c.s ∧ (c.arrives f).o = c.o ∧ (c.arrives f).p = c.p ∧ (c.arrives f).rows = c.rows) ∧
      (c.arrives f).flight = c.flight ∧ (c.arrives f).tokDue = c.tokDue := by
  obtain ⟨st, m0, m1, sm⟩ := ((if f.latch then c.setLx f.slot f.val else c).orFlags f.flags).orSm_shape f.sm f.am
  rw [Ctx.arrives, sm]
  cases f.latch <;> exact ⟨⟨rfl, rfl, rfl, rfl⟩, rfl, rfl⟩

/-- The destination is a main-file register that is not s0. -/
def Flight.main (f : Flight) : Bool := 0 < f.code && f.code < 0x40
/-- What stands in a context whose one result `f` comes due at cycle `now`. -/
def Ctx.lands (c : Ctx) (f : Flight) (now : Nat) : Ctx :=
  if f.main && now < f.fin + 2 then { c.arrives f with flight := [{ f with landed := true }] } else (c.arrives f).deliver f

theorem landOne_early {now : Nat} {c : Ctx} {f : Flight} (h : now < f.fin) : landOne now c f = { c with flight := c.flight ++ [f] } :=
  if_pos h
theorem landOne_due {now : Nat} {c : Ctx} {f : Flight} (due : f.fin ≤ now) (fresh : f.landed = false) (alone : c.flight = []) :
    landOne now c f = c.lands f now := by
  have flight : (c.arrives f).flight = [] := (c.arrives_leaves f).2.1.trans alone
  rw [landOne, if_neg (by omega), Ctx.lands, fresh]
  change (if f.main then if f.fin + 2 ≤ now then (if f.main then c.arrives f else (c.arrives f).deliver f).deliver f
    else { (if f.main then c.arrives f else (c.arrives f).deliver f) with
      flight := (if f.main then c.arrives f else (c.arrives f).deliver f).flight ++ [{ f with landed := true }] }
    else (if f.main then c.arrives f else (c.arrives f).deliver f)) = _
  cases f.main with
  | false => rfl
  | true =>
    simp only [if_true, Bool.true_and, decide_eq_true_eq]
    by_cases late : f.fin + 2 ≤ now
    · rw [if_pos late, if_neg (by omega)]
    · rw [if_neg late, if_pos (by omega), flight]; rfl

/-- Where the result goes changes neither the latches nor FPSTAT nor the token writes due. -/
theorem Ctx.lands_takes (c : Ctx) (f : Flight) (now : Nat) :
    (c.lands f now).lx = (if f.latch then c.lx.setIfInBounds (Slot.num f.slot) f.val else c.lx) ∧
      (c.lands f now).fpstat = c.fpstat ||| f.flags.setWidth 64 ∧ (c.lands f now).tokDue = c.tokDue := by
  obtain ⟨lx, fpstat⟩ := c.arrives_takes f
  obtain ⟨-, -, tokDue⟩ := c.arrives_leaves f
  unfold Ctx.lands
  split
  · exact ⟨lx, fpstat, tokDue⟩
  · obtain ⟨sameLx, sameFpstat, sameTokDue⟩ := (Ctx.write_perFile f.code f.val f.row).leaves (c.arrives f)
    exact ⟨sameLx.trans lx, sameFpstat.trans fpstat, sameTokDue.trans tokDue⟩
/-- A main-file destination waits until two cycles after `fin`. -/
theorem Ctx.lands_waiting (c : Ctx) {f : Flight} {now : Nat} (main : f.main = true) (early : now < f.fin + 2) :
    (c.lands f now).s = c.s ∧ (c.lands f now).flight ≠ [] := by
  obtain ⟨⟨regs, -⟩, -⟩ := c.arrives_leaves f
  rw [Ctx.lands, main, decide_eq_true early, Bool.true_and, if_pos rfl]
  exact ⟨regs, List.cons_ne_nil _ _⟩
/-- Otherwise the register is written, and the result is no longer in flight. -/
theorem Ctx.lands_writing (c : Ctx) {f : Flight} {now : Nat} (h : f.main = true → f.fin + 2 ≤ now) :
    let y := c.lands f now
    let z := c.write f.code f.val f.row
    (y.s = z.s ∧ y.o = z.o ∧ y.p = z.p ∧ y.rows = z.rows) ∧ y.flight = c.flight := by
  obtain ⟨regs, flight, -⟩ := c.arrives_leaves f
  have reached : ¬ (f.main && decide (now < f.fin + 2)) = true := by
    rw [Bool.and_eq_true, decide_eq_true_eq]; exact fun ⟨main, early⟩ => absurd (h main) (by omega)
  rw [show c.lands f now = (c.arrives f).deliver f from if_neg reached]
  exact ⟨(Ctx.write_perFile f.code f.val f.row).registers regs, ((c.arrives f).deliver_keeps f).2.trans flight⟩

/-- A context with one result in flight that comes due, where nothing else waits to land. -/
theorem Ctx.land_one {x : Ctx} {f : Flight} {now : Nat} (one : x.flight = [f]) (fresh : f.landed = false) (due : f.fin ≤ now) :
    ∃ rs u, x.land now = { ({ x with flight := [], rowsIn := rs } : Ctx).lands f now with undo := u } := by
  refine ⟨(now, rowsLanding [f] now), (x.land now).undo, ?_⟩
  rw [← landOne_due due fresh rfl, Ctx.land, one]
  rfl
theorem Ctx.land_early {x : Ctx} {f : Flight} {now : Nat} (one : x.flight = [f]) (still : x.undo = []) (early : now < f.fin) :
    x.land now = { x with rowsIn := (x.land now).rowsIn } := by
  cases x
  cases one
  cases still
  simp only [Ctx.land, List.foldl_cons, List.foldl_nil, landOne_early early]
  rfl
theorem Ctx.landToks_nothing {x : Ctx} (h : x.tokDue = []) (now : Nat) : x.landToks now = x := by
  cases x
  cases h
  rfl

theorem exec_resultLand {s : State} {c : CoreId} (runs : (s.core c).stop = none) (h : ((s.ctxOf c).land s.now).tokDue = []) :
    exec (.resultLand c) s = .next (s.setCtxOf c ((s.ctxOf c).land s.now)) := by
  change execResultLand c s = _
  rw [execResultLand, runs]
  simp [Ctx.landToks_nothing h]
theorem exec_resultLand_stopped {s : State} {c : CoreId} {st : Stop} (stop : (s.core c).stop = some st) (h : (s.ctxOf c).tokDue = []) :
    exec (.resultLand c) s = .next s := by
  change execResultLand c s = _
  rw [execResultLand, stop]
  simp [Ctx.landToks_nothing h]

theorem Ctx.settle_one {x : Ctx} {f : Flight} (one : x.flight = [f]) (t0 : Nat) :
    x.settle t0 = if f.landed = true ∧ f.fin + 2 ≤ t0 then ({ x with flight := [] } : Ctx).deliver f else x := by
  rw [Ctx.settle_eq, one, List.foldl_cons, List.foldl_nil, Ctx.settleStep]
  simp [← one]

/-! Registers after a write. -/

theorem Ctx.rs_set {x y : Ctx} {i : Fin 64} {v : Word} (h : i ≠ 0) (hs : y.s = x.s.setIfInBounds i.val v) :
    y.rs i = v ∧ ∀ j, j ≠ i → y.rs j = x.rs j := by
  refine ⟨by simp [Ctx.rs, h, hs], fun j other => ?_⟩
  simp [Ctx.rs, hs, show i.val ≠ j.val from fun e => other (Fin.ext e.symm)]
theorem Ctx.row_set {x y : Ctx} {i : Fin 128} {r : Row} (hr : y.rows = x.rows.setIfInBounds i.val r) :
    y.row i = r ∧ ∀ j, j ≠ i → y.row j = x.row j := by
  refine ⟨by simp [Ctx.row, hr], fun j other => ?_⟩
  simp [Ctx.row, hr, show i.val ≠ j.val from fun e => other (Fin.ext e.symm)]
theorem Ctx.pr_set {x y : Ctx} {i : Fin 8} {b : Bool} (h : i ≠ 0) (hp : y.p = x.p.setIfInBounds i.val b) : y.pr i = b := by
  simp [Ctx.pr, hp, h]

theorem Flight.main_of_code {f : Flight} {i : Fin 64} (h : i ≠ 0) (code : f.code = i.val) : f.main = true := by
  have := i.isLt
  have nonzero : i.val ≠ 0 := fun e => h (Fin.ext e)
  simp [Flight.main, code]; omega
theorem Flight.not_main {f : Flight} (h : f.code = 0 ∨ 0x40 ≤ f.code) (P : Prop) : f.main = true → P := by
  intro main
  simp [Flight.main] at main; omega

theorem Slot.ix_val (s : Slot) : (Slot.ix s).val = Slot.num s := by cases s <;> rfl

/-- Settles O20: what RESULT_LAND does with one result, by its code and the cycle. -/
theorem resultsLand : Obligations.ResultsLand := by
  unfold Obligations.ResultsLand
  intro s c f t0 x
  refine ⟨fun st stop toks => exec_resultLand_stopped stop toks, fun one => Ctx.settle_one one t0, fun runs one toks still fresh =>
    ⟨fun early => ?_, fun due => ?_⟩⟩
  · have land := Ctx.land_early one still early
    exact ⟨_, exec_resultLand runs (by rw [land]; exact toks), land⟩
  · obtain ⟨rs, u, land⟩ := Ctx.land_one one fresh due
    obtain ⟨lx, fpstat, tokDue⟩ := ({ x with flight := [], rowsIn := rs } : Ctx).lands_takes f s.now
    have writes := ({ x with flight := [], rowsIn := rs } : Ctx).lands_writing (f := f) (now := s.now)
    refine ⟨_, exec_resultLand runs (by rw [land]; exact tokDue.trans toks), ?_⟩
    rw [State.ctxOf_setCtxOf, land]
    refine ⟨fun latch => ?_, fun noLatch => ?_, fpstat, fun i nonzero code early => ?_, fun i nonzero code late => ?_, fun i code => ?_,
      fun i nonzero code => ?_, fun i r code row => ?_, fun code => ?_⟩
    · rw [latch, if_pos rfl] at lx
      simp [lx, Slot.ix_val]
    · rw [noLatch] at lx
      exact lx
    · exact Ctx.lands_waiting _ (Flight.main_of_code nonzero code) early
    · obtain ⟨⟨regs, -⟩, flight⟩ := writes fun _ => late
      rw [code, Ctx.write_main _ nonzero] at regs
      obtain ⟨here, others⟩ := Ctx.rs_set nonzero regs
      exact ⟨here, others, flight⟩
    · obtain ⟨⟨regs, operands, -⟩, -⟩ := writes (Flight.not_main (by omega) _)
      rw [code, Ctx.write_operand] at regs operands
      exact ⟨by simp [operands], regs⟩
    · obtain ⟨⟨-, -, predicates, -⟩, -⟩ := writes (Flight.not_main (by omega) _)
      rw [code, Ctx.write_predicate _ nonzero] at predicates
      exact Ctx.pr_set nonzero predicates
    · obtain ⟨⟨-, -, -, rows⟩, -⟩ := writes (Flight.not_main (by omega) _)
      rw [code, row, Ctx.write_row] at rows
      exact Ctx.row_set rows
    · obtain ⟨regs, -⟩ := writes (Flight.not_main (by omega) _)
      rcases code with code | code <;> rw [code] at regs <;> exact regs

end Sys2Proof.Machine
end

section
/-! O12, O13: predicate logic, `eseq` (R114, R118), and syllables whose guard reads false (R105). -/
namespace Sys2Proof.Machine

/-- A predicate result (R114). -/
theorem State.pred_gives {s : State} {g : Guard} (d : Fin 8) (v : Bool) (acts : s.ctx.acts g 1) :
    s.pred g d v = .next (s.gives g .a 1 (0x58 + d.val) (if v then 1 else 0)) :=
  State.finish_plain .a (0x58 + d.val) (boolW v) none acts

/-- Settles O12: each form is one predicate or number of latency 1. -/
theorem predicateResults : Obligations.PredicateResults := by
  unfold Obligations.PredicateResults
  intro s x y e
  refine ⟨fun acts => ⟨State.pred_gives x.d _ acts, State.pred_gives x.d _ acts, ?_⟩, fun acts => ?_,
    fun acts _ => ⟨fun zero => ?_, fun j sel => ?_⟩⟩
  · dsimp only
    rw [← Bool.bne_eq_xor]
    exact State.pred_gives x.d _ acts
  · have negated (b : Bool) : (if !b then 1 else 0 : Word) = if b then 0 else 1 := by cases b <;> rfl
    refine ⟨(State.pred_gives y.d _ acts).trans ?_, State.pred_gives y.d _ acts⟩
    rw [negated]
    rfl
  · change execEseq e s = _
    rw [execEseq, zero]
    exact State.finish_plain .e (sCode e.d) _ none acts
  · change execEseq e s = _
    rw [execEseq, sel]
    have number : s.ctx.comp.toArray.getD (j.val + 1 - 1) 0 = s.ctx.comp[j.val] := by
      simp [Array.getD]
    rw [if_neg (by simp), number]
    exact State.finish_plain .e (sCode e.d) _ none acts

/-! A guard that reads false (R105): the meanings test it first, or in both branches of a choice by the type. -/

section
variable {s : State} {g : Guard} (off : s.ctx.guard g = false)
include off

theorem Out.unless_off (o : Out) : (if !s.ctx.guard g then .next s else o) = .next s := if_pos (by rw [off]; rfl)
theorem Out.when_off (o : Out) : (if s.ctx.guard g then o else .next s) = .next s := if_neg (by rw [off]; decide)
theorem State.finish_off (slot : Slot) (lat code : Nat) (v : Word) (r : Option Row) (fl : Fl) :
    s.finish g slot lat code v r fl = .next s := Out.unless_off off _
end

theorem Out.ite_same {p : Prop} {_ : Decidable p} {a b o : Out} (ha : a = o) (hb : b = o) : (if p then a else b) = o := by
  rw [ha, hb, ite_self]
theorem State.vbin_off {s : State} {x : VBin} (latI latF : Nat) (fi : Int → Int → Int) (ff : Nat → Nat → Nat × Fl)
    (off : s.ctx.guard x.g = false) : s.vbin x latI latF fi ff = .next s :=
  Out.ite_same (State.finish_off off ..) (State.finish_off off ..)
theorem State.vuna_off {s : State} {x : VUna} (fi : Int → Int) (ff : Nat → Nat) (off : s.ctx.guard x.g = false) :
    s.vuna x fi ff = .next s := Out.ite_same (State.finish_off off ..) (State.finish_off off ..)
theorem execVabs_off {s : State} {x : VUna} (off : s.ctx.guard x.g = false) : execVabs x s = .next s := State.vuna_off _ _ off
theorem State.vwide_off {s : State} {x : VBin} (fi : Int → Int → Int) (ff : Rm → Ex → Ex → Ex × Fl) (off : s.ctx.guard x.g = false) :
    s.vwide x fi ff = .next s := Out.ite_same (State.finish_off off ..) (State.finish_off off ..)

section
variable {i : Instr} {f : Facts} {s : State} (h : facts i = some f) (off : s.ctx.guard f.g = false)
include h off

/-- The instructions that give results (R80). -/
theorem exec_off_of_resultOnly (only : resultOnly i = true) : exec i s = .next s := by
  cases i with
  | add x | sub x | neg x | and x | or x | xor x | andn x | shl x | shr x | sra x | rotl x | clz x | ctz x | popc x | bfx x | bfxn x
  | bfi x | min x | max x | minn x | maxn x | sel x | cmp x | mov x | lea x | addi x | andi x | ori x | xori x | cmpi x | movi x | movl x
  | mul x | mulh x | mulhn x | div x | divn x | rem x | remn x | fadd x | fsub x | fmul x | ffma x | fdiv x | fsqrt x | fmin x | fmax x
  | fcmp x | fcvt x | fclass x | pand x | por x | pxor x | pnot x | pmov x | eseq x | vfma x | vfms x | vand x | vor x | vxor x | vshl x
  | vshr x | vsra x | vpopc x | vsel x | vmov x | vbcast x | vlane x | viota x | vdequant x | vscan x | vred x | vperm x | vrot x | vshuf x
  | vexp2 x | vlog2 x | vrcp x | vrsqrt x | vtanh x | vsigm x =>
    cases h; exact State.finish_off (g := x.g) off ..
  | vadd x | vsub x | vmul x | vmin x | vmax x => cases h; exact State.vbin_off _ _ _ _ off
  | vabs x => cases h; exact execVabs_off off
  | vneg x => cases h; exact State.vuna_off _ _ off
  | vwadd x | vwmul x => cases h; exact State.vwide_off _ _ off
  | vcmp x | vcvt x | vtbl x => cases h; exact Out.ite_same (State.finish_off (g := x.g) off ..) (State.finish_off (g := x.g) off ..)
  | vquant x => cases h; exact Out.unless_off (g := x.g) off _
  | _ => cases only
/-- The command syllables (R117). -/
theorem exec_off_of_push (push : f.push = true) : exec i s = .next s := by
  cases i with
  | mld x | mldsp x | mstr x | mstrr x | mzero x | mdrain x | mcfg x | mpip x | mabort x | chbind x | chkv x | chlink x | chmask x
  | chfin x | chsave x | chrest x | chstat x | chdrop x | xcopy x | xlist x | xget x | xput x | xfill x | xtrans x | xpub x | xmap x
  | xmcast x | xextAdd x | xextRelease x | rld x | rst x | ratomAdd x | ratomAnd x | ratomOr x | ratomXor x | ratomMin x | ratomMax x
  | ratomMinn x | ratomMaxn x | ratomXchg x | ratomCas x | ratomFadd x | ratomFmax x | renq x | rflagSet x | rflagInc x | rflagClr x
  | lbufBind x | lbufRelease x | cmset x | cmsetClose x | cmheld x | cmheldClr x | cmdec x | cmdecRel x | cmgath x | cmshuf x | cmpol x
  | cmstat x | spawn x | ecinit x | ecdone x | egput x | egrel x | egdrop x | fset x | finc x | fclr x | fget x | waitQ x =>
    cases h; exact Out.unless_off (g := x.g) off _
  | _ => cases h <;> cases push
/-- All others: transfers, loops, declarations, accesses, waits, tables, tasks, system. -/
theorem exec_off_of_other (only : resultOnly i = false) (push : f.push = false) : exec i s = .next s := by
  cases i with
  | br x | jr x | call x | callr x | ret x | loop x | loopi x | liveR x | wait x | ld x | ldn x | st x | ldg x | stg x | prf x | pushm x
  | popm x | aadd x | aand x | aor x | axor x | amin x | amax x | aminn x | amaxn x | axchg x | acas x | afadd x | afmax x | vld x | vldt x
  | vldm x | vgath x | vst x | vstt x | vstm x | vscat x | vtbld x | vsmax x | vsexp x | vsdiv x | vmstat x | vpart x | nest x | join x
  | prio x | yield x | sysrd x | ctxsave x | ctxrest x | dump x | jrd x =>
    cases h; exact Out.unless_off (g := x.g) off _
  | liveS x | liveT x | endCtx x | trap x | syswr x | trace x => cases h; exact Out.when_off (g := x.g) off _
  | liveNone g | liveAll g | liveRclr g | rte g | rteDrop g | vtbsw g => cases h; exact Out.when_off (g := g) off _
  | bkpt x => cases h; exact if_pos (by rw [off]; rfl)
  | fence x => rfl
  | _ => cases h <;> cases push <;> cases only
end

/-- Settles O13: each meaning tests its guard first, most of them in an operation that several share. -/
theorem guardFalseDoesNothing : Obligations.GuardFalseDoesNothing := by
  unfold Obligations.GuardFalseDoesNothing
  intro i f s h off
  cases only : resultOnly i with
  | true => exact exec_off_of_resultOnly h off only
  | false =>
    cases push : f.push with
    | true => exact exec_off_of_push h off push
    | false => exact exec_off_of_other h off only push

end Sys2Proof.Machine
end

section
/-! O16 to O18: control transfers and hardware loops (R107 to R113). -/
namespace Sys2Proof.Machine

/-! A taken transfer (R107, R108). -/

theorem Ctx.PerFile.comp {w w' : Ctx → Ctx} (h : Ctx.PerFile w) (h' : Ctx.PerFile w') : Ctx.PerFile (fun x => w' (w x)) := by
  obtain ⟨fs, fo, fp, frows, shape⟩ := h
  obtain ⟨fs', fo', fp', frows', shape'⟩ := h'
  exact ⟨fs' ∘ fs, fo' ∘ fo, fp' ∘ fp, frows' ∘ frows, fun x => (congrArg w' (shape x)).trans (shape' _)⟩
/-- The base updates of loads that are undone change the register files alone. -/
theorem Ctx.foldl_write_perFile (us : List (Nat × Nat × Word)) :
    Ctx.PerFile (fun x => us.foldl (fun (c : Ctx) u => c.write u.2.1 u.2.2 none) x) := by
  induction us with
  | nil => exact Ctx.perFile_id
  | cons u us ih => exact (Ctx.write_perFile u.2.1 u.2.2 none).comp ih
theorem contains_nonzero (l : List Nat) (n : Nat) : (n != 0 && (l.filter (· != 0)).contains n) = (l.filter (· != 0)).contains n := by
  rw [Bool.eq_iff_iff]
  simp +contextual
/-- What the machine does at a taken transfer is what the statements say of one: undoing base updates touches the registers alone, so it
does not matter that the machine drops results before and after it. -/
theorem Ctx.take_eq_taken (c : Ctx) (now : Nat) (tgt : Word) (pops : Bool) : c.take now tgt pops = c.taken now tgt pops := by
  obtain ⟨fs, fo, fp, frows, shape⟩ := Ctx.foldl_write_perFile (c.undo.filter fun u =>
    (((c.flight.filter fun f => f.dies now).map Flight.pid).filter (· != 0)).contains u.1)
  dsimp only at shape
  have dies (f : Flight) : (f.sq && decide (f.born < now) && decide (now + 3 ≤ f.fin)) = f.dies now := rfl
  have pending : c.pend.filter (fun p => !p.dies now) = (c.taken now tgt pops).pend := by
    refine List.filter_congr fun p _ => ?_
    unfold Pend.dies
    cases p.kill with
    | none => rfl
    | some f => simp [← decide_not]
  unfold Ctx.take Ctx.killOlder Ctx.unload Ctx.taken
  simp only [dies, contains_nonzero, shape, List.filter_filter, Bool.and_assoc, pending]
  rfl

/-! Where a transfer may be taken, and what it does (R107, R109, R110). -/

theorem Ctx.noTransfer_eq_false_iff (c : Ctx) : c.noTransfer = false ↔ c.mayTransfer := by
  unfold Ctx.noTransfer Ctx.mayTransfer
  cases c.xfer <;> simp [and_assoc]
theorem State.transfer_taken {s : State} {g : Guard} {tgt : Word} (pops : Bool) (f : Ctx → Ctx) (on : s.ctx.guard g = true)
    (may : s.ctx.mayTransfer) (aligned : tgt.toNat % 32 = 0) : s.transfer g tgt pops f = .next (s.jumps (f s.ctx) tgt pops) := by
  unfold State.transfer State.jumps
  simp only [on, aligned, (Ctx.noTransfer_eq_false_iff _).2 may, Ctx.take_eq_taken]
  rfl
/-- Where it is not taken: ALIGN for a misaligned target, else ILLEGAL (R109, R110). -/
theorem State.transfer_traps {s : State} {g : Guard} {tgt : Word} (pops : Bool) (f : Ctx → Ctx) (on : s.ctx.guard g = true) :
    (tgt.toNat % 32 ≠ 0 → s.transfer g tgt pops f = .next (s.precise g .a .align tgt.toNat)) ∧
      (tgt.toNat % 32 = 0 → ¬ s.ctx.mayTransfer → s.transfer g tgt pops f = .next (s.precise g .a .illegal 0)) := by
  refine ⟨fun odd => by simp [State.transfer, on, odd], fun aligned mayNot => ?_⟩
  rw [← Ctx.noTransfer_eq_false_iff, Bool.not_eq_false] at mayNot
  simp [State.transfer, on, aligned, mayNot]
/-- The link is a result of latency 1 (R110). -/
theorem State.gives_link {s : State} {g : Guard} (d : SDst) (acts : s.ctx.acts g 1) :
    (s.gives g .a 1 (sCode d) (s.ctx.pc + 96)).ctx = Ctx.link s.now g d s.ctx := by
  obtain ⟨-, alive⟩ := acts
  simp [State.gives, Ctx.link, Ctx.result, Ctx.fly, alive]

/-- Settles O16: each of the five is `State.transfer` with its target, its pops and its link. -/
theorem transfers : Obligations.Transfers := by
  unfold Obligations.Transfers
  intro s b j c d may
  refine ⟨fun on aligned => ?_, fun on aligned => ⟨?_, ?_⟩, fun acts aligned => ?_, fun acts aligned => ?_⟩
  · exact State.transfer_taken true id on may aligned
  · exact State.transfer_taken true id on may aligned
  · exact State.transfer_taken false id on may aligned
  · rw [State.gives_link c.link acts]
    exact State.transfer_taken false (Ctx.link s.now c.g c.link) acts.1 may aligned
  · rw [State.gives_link d.link acts]
    exact State.transfer_taken false (Ctx.link s.now d.g d.link) acts.1 may aligned

/-! Loops (R112). -/

/-- A loop whose body ends `disp` bundles ahead has room: a free entry, and an end within the enclosing body. -/
def Ctx.fitsLoop (c : Ctx) (disp : BitVec 16) : Prop :=
  1 ≤ disp.toInt ∧ c.loops.length < 4 ∧ ∀ l, c.loops.head? = some l → (c.bundleAt disp.toInt).toNat ≤ l.fin.toNat

theorem State.openLoop_fits {s : State} {g : Guard} {disp : BitVec 16} (n : Nat) (on : s.ctx.guard g = true) (fits : s.ctx.fitsLoop disp) :
    s.openLoop g n disp = if n = 0 then s.transfer g (s.ctx.bundleAt disp.toInt + 32) false id
      else .next (s.setCtx { s.ctx with
        loops := { start := s.ctx.pc + 32, fin := s.ctx.bundleAt disp.toInt, count := n } :: s.ctx.loops }) := by
  obtain ⟨ahead, room, inner⟩ := fits
  unfold State.openLoop
  dsimp only
  rw [if_neg (by rw [on]; decide), if_neg (Int.not_lt.2 ahead), if_neg (Nat.not_le.2 room), if_neg]
  · simp only [beq_iff_eq]
    rfl
  · split
    next l r first =>
      rw [decide_eq_true_iff]
      exact Nat.not_lt.2 (inner l (by rw [first]; rfl))
    next => decide
theorem State.openLoop_unfit {s : State} {g : Guard} {disp : BitVec 16} (n : Nat) (on : s.ctx.guard g = true)
    (unfit : ¬ s.ctx.fitsLoop disp) : s.openLoop g n disp = .next (s.precise g .a .illegal 0) := by
  unfold State.openLoop
  dsimp only
  rw [if_neg (by rw [on]; decide)]
  by_cases ahead : disp.toInt < 1
  · rw [if_pos ahead]
  by_cases full : 4 ≤ s.ctx.loops.length
  · rw [if_neg ahead, if_pos full]
  rw [if_neg ahead, if_neg full, if_pos]
  split
  next l r loops =>
    refine decide_eq_true (Nat.not_le.1 fun inner => unfit ⟨Int.not_lt.1 ahead, Nat.not_le.1 full, fun l' first => ?_⟩)
    rw [loops] at first
    cases first
    exact inner
  next loops => exact absurd ⟨Int.not_lt.1 ahead, Nat.not_le.1 full, by rw [loops]; nofun⟩ unfit

/-- `loop` takes its count from the low 32 bits of its operand. -/
theorem exec_loop (x : Loop) (s : State) : exec (.loop x) s = s.openLoop x.g ((s.ctx.src x.a).setWidth 32).toNat x.disp := by
  rw [BitVec.toNat_setWidth]; rfl

/-- Settles O18: a loop that fits opens or, with a count of 0, is a transfer past its body. -/
theorem loopsOpen : Obligations.LoopsOpen := by
  unfold Obligations.LoopsOpen
  intro s x y e fits opened
  refine ⟨fun on room => ⟨fun some => ?_, fun none may aligned => ?_⟩, fun on room => ⟨fun some => ?_, fun none may aligned => ?_⟩,
    fun on room => ?_, fun on room => ?_⟩
  · rw [exec_loop, State.openLoop_fits _ on room, if_neg some]
  · rw [exec_loop, State.openLoop_fits _ on room, if_pos none]
    exact State.transfer_taken false id on may aligned
  · exact (State.openLoop_fits _ on room).trans (if_neg (mt BitVec.eq_of_toNat_eq some))
  · refine (State.openLoop_fits _ on room).trans ((if_pos (by rw [none]; rfl)).trans ?_)
    exact State.transfer_taken false id on may aligned
  · rw [exec_loop, State.openLoop_unfit _ on room]
  · exact State.openLoop_unfit _ on room

/-- Settles O17: a loop that fits with a count of 0 is a transfer too. -/
theorem transferTraps : Obligations.TransferTraps := by
  unfold Obligations.TransferTraps
  intro s b j c d x y traps e fits
  refine ⟨State.transfer_traps true id, State.transfer_traps true id, State.transfer_traps false id,
    State.transfer_traps false (Ctx.link s.now c.g c.link), State.transfer_traps false (Ctx.link s.now d.g d.link),
    fun room none on => ?_, fun room none on => ?_⟩
  · have past : exec (.loop x) s = s.transfer x.g (e x.disp + 32) false id := by
      rw [exec_loop, State.openLoop_fits _ on room, if_pos none]
    rw [past]
    exact State.transfer_traps false id on
  · have past : exec (.loopi y) s = s.transfer y.g (e y.disp + 32) false id :=
      (State.openLoop_fits _ on room).trans (if_pos (by rw [none]; rfl))
    rw [past]
    exact State.transfer_traps false id on

end Sys2Proof.Machine
end

section
/-! O31, O32: wait conditions (R119), and how a sequencer wait begins (R120). -/
namespace Sys2Proof.Machine

/-! The fields of a condition word. -/

theorem bits_eq_extract (w : Word) (lo n : Nat) : bits w.toNat lo n = (w.extractLsb' lo n).toNat := by
  rw [BitVec.extractLsb'_toNat, Nat.shiftRight_eq_div_pow]; rfl
theorem bits_low_word (w : Word) : bits w.toNat 0 32 = (w.setWidth 32).toNat := by
  rw [BitVec.toNat_setWidth, bits, pow_zero, Nat.div_one]

/-! What each kind of condition asks (R119). -/

theorem State.flag_eq (s : State) {f : Nat} (h : f < 512) : s.flag f = s.flags[f] := by
  simp [State.flag, h]
theorem State.cond_flag {s : State} {w : Word} (c : CoreId) (kind : condKind w = 0) :
    s.cond c w = flagCmp (bits w.toNat 26 3) (s.flag (condObj w)).toNat (bits w.toNat 32 32) := by
  unfold State.cond; rw [kind]; rfl
theorem State.cond_token {s : State} {w : Word} (c : CoreId) (kind : condKind w = 1) :
    s.cond c w = !(s.ctxOf c).toks.contains (Fin.ofNat 64 (condObj w)) := by
  unfold State.cond; rw [kind]; rfl
theorem State.cond_commands {s : State} {w : Word} (c : CoreId) (kind : condKind w = 2) :
    s.cond c w = (s.ctxOf c).cmds.all (fun m => m.done || m.aside || Eng.code m.eng != condObj w ||
      !seqLe m.seq (BitVec.ofNat 32 (bits w.toNat 32 32))) := by
  unfold State.cond; rw [kind]; rfl
theorem State.cond_join {s : State} {w : Word} (c : CoreId) (kind : condKind w = 3) :
    s.cond c w = ((((s.ctxOf c).joins.toList.getD (condObj w) {}).pend == 0 : Bool)) := by
  unfold State.cond; rw [kind]; rfl
theorem State.cond_queue {s : State} {w : Word} (c : CoreId) (kind : condKind w = 4) :
    s.cond c w = decide ((s.eq (condObj w)).rel.toNat < (s.eq (condObj w)).put.toNat) := by
  unfold State.cond; rw [kind]; rfl

/-- Settles O32: the five kinds, each over the fields of the word. -/
theorem conditionsHold : Obligations.ConditionsHold := by
  unfold Obligations.ConditionsHold
  intro s c w obj val cmp kind
  have objIs : condObj w = obj := bits_eq_extract w 0 10
  have valIs : bits w.toNat 32 32 = val := bits_eq_extract w 32 32
  have cmpIs : bits w.toNat 26 3 = cmp := bits_eq_extract w 26 3
  have kindIs : condKind w = kind := bits_eq_extract w 29 3
  refine ⟨fun k h => ?_, fun k h => ?_, fun k => ?_, fun k h => ?_, fun k h => ?_⟩
  · rw [State.cond_flag c (kindIs.trans k), objIs, valIs, cmpIs, State.flag_eq s h]
    intro f
    change flagCmp cmp f val = true ↔ _
    generalize cmp = n
    match n with
    | 0 | 1 | 2 | 3 | 4 | _ + 5 => simp [flagCmp]
  · have tok : Fin.ofNat 64 obj = (⟨obj, h⟩ : Tok) := Fin.ext (Nat.mod_eq_of_lt h)
    rw [State.cond_token c (kindIs.trans k), objIs, tok]
    simp
  · rw [State.cond_commands c (kindIs.trans k), objIs, valIs]
    simp [seqLe, or_iff_not_imp_left]
  · rw [State.cond_join c (kindIs.trans k), objIs]
    simp [h]
  · have queue : s.eq obj = s.eqs[obj] := by simp [State.eq, Nat.mod_eq_of_lt h]
    rw [State.cond_queue c (kindIs.trans k), objIs, queue, decide_eq_true_iff]

/-! The checks of a command syllable, one after another (R117). -/

theorem need_met {ok : Bool} (h : ok = true) (cls : TrapClass) (addr : Nat) (k : Unit → Chk Unit) : (need ok cls addr >>= k) = k () := by
  rw [need, if_pos h]; rfl
theorem need_failed {ok : Bool} (h : ok = false) (cls : TrapClass) (addr : Nat) (k : Unit → Chk Unit) :
    (need ok cls addr >>= k) = .error (cls, addr) := by
  rw [need, if_neg (by rw [h]; decide)]; rfl
theorem need_ok {ok : Bool} (h : ok = true) (cls : TrapClass) (addr : Nat) : need ok cls addr = .ok () := if_pos h
theorem need_error {ok : Bool} (h : ok = false) (cls : TrapClass) (addr : Nat) : need ok cls addr = .error (cls, addr) :=
  if_neg (by rw [h]; decide)
theorem State.command_ok {α : Type} {s : State} {g : Guard} {chk : Chk α} {r : α} (f : α → State) (on : s.ctx.guard g = true)
    (ok : chk = .ok r) : s.command g chk f = .next (f r) := by
  rw [ok]; exact if_neg (by rw [on]; decide)
theorem State.command_error {α : Type} {s : State} {g : Guard} {chk : Chk α} {cls : TrapClass} {addr : Nat} (f : α → State)
    (on : s.ctx.guard g = true) (failed : chk = .error (cls, addr)) : s.command g chk f = .next (s.precise g .e cls addr) := by
  rw [failed]; exact if_neg (by rw [on]; decide)
theorem all_eq_false_of_mem {l : List Word} {p : Word → Bool} {w : Word} (hw : w ∈ l) (bad : p w = false) : l.all p = false :=
  List.all_eq_false.2 ⟨w, hw, by rw [bad]; decide⟩

/-! A sequencer wait (R120). -/

theorem State.condChk_malformed {s : State} {ws : List Word} {w : Word} (fn : Nat) (hw : w ∈ ws) (bad : condOk w = false) :
    s.condChk fn ws = .error (.illegal, 0) :=
  need_failed (all_eq_false_of_mem hw bad) _ _ _
theorem State.condChk_outside {s : State} {ws : List Word} {w : Word} {fn : Nat} (formed : ∀ w ∈ ws, condOk w = true) (hw : w ∈ ws)
    (kind : condKind w = 0) (outside : s.flagOk fn (condObj w) = false) : s.condChk fn ws = .error (.access, 0) := by
  refine (need_met (List.all_eq_true.2 formed) _ _ _).trans (need_error (all_eq_false_of_mem hw ?_) _ _)
  rw [kind, outside]; rfl
theorem State.condChk_passes {s : State} {ws : List Word} {fn : Nat} (formed : ∀ w ∈ ws, condOk w = true)
    (granted : ∀ w ∈ ws, condKind w = 0 → s.flagOk fn (condObj w) = true) : s.condChk fn ws = .ok () := by
  refine (need_met (List.all_eq_true.2 formed) _ _ _).trans (need_ok (List.all_eq_true.2 fun w hw => ?_) _ _)
  by_cases kind : condKind w = 0
  · rw [granted w hw kind, Bool.or_true]
  · rw [bne_iff_ne.2 kind, Bool.true_or]

/-- Settles O31: the checks pass, or the first that fails is the trap. -/
theorem waitsBegin : Obligations.WaitsBegin := by
  unfold Obligations.WaitsBegin
  intro s x on ws
  refine ⟨fun formed granted => ?_, fun w hw bad => ?_, fun formed w hw kind outside => ?_⟩
  · refine ⟨_, State.command_ok _ on (State.condChk_passes formed granted), rfl, rfl, rfl, rfl, ?_, rfl, rfl⟩
    rw [← bits_low_word]
  · exact State.command_error _ on (State.condChk_malformed _ hw bad)
  · exact State.command_error _ on (State.condChk_outside formed hw kind outside)

end Sys2Proof.Machine
end

section
/-! O34: flag operations and engine-queue waits are pushed as commands (R116, R117, R121, R122). -/
namespace Sys2Proof.Machine

/-! The set-map beside a push. -/

theorem State.push_setmap {s : State} (m : Cmd) (room : s.ctx.inFlight < 32) :
    (s.push m).ctx.setmap = s.ctx.setmap ∧ (s.push m).cur = s.cur := by
  obtain ⟨ts, hi, b, v, -, core, -, cur, -, -⟩ := State.push_shape s m room
  refine ⟨?_, cur⟩
  rw [State.ctx, State.ctxOf, cur, core]
theorem State.pushed.setMap {s t : State} {e : Eng} {i : Instr} {tok : Tok} (h : s.pushed t e i tok) (cur : t.cur = s.cur)
    (map : BitVec 512) : s.pushed (t.setCtx { t.ctx with setmap := map }) e i tok := by
  obtain ⟨entry, next, pending, kept, flight, bytes⟩ := h
  obtain ⟨hs, ho, hp, hlx, hrows, hfp, hsm, hloops, hpc, hst, htv, hti, others⟩ := kept
  have standing : s.regsKept (t.setCtx { t.ctx with setmap := map }) := by
    unfold State.regsKept
    rw [State.ctx_setCtx]
    refine ⟨hs, ho, hp, hlx, hrows, hfp, hsm, hloops, hpc, hst, htv, hti, fun c other => ?_⟩
    rw [State.setCtx, State.setCtxOf, State.core_setCore_ne _ _ _ _ (by rw [cur]; exact other), others c other]
  unfold State.pushed
  rw [State.ctx_setCtx]
  exact ⟨entry, next, pending, standing, flight, bytes⟩
theorem getLsbD_or_shiftLeft_one (m : BitVec 512) (f i : Fin 512) :
    (m ||| (1 : BitVec 512) <<< f.val).getLsbD i = (m.getLsbD i || i == f) := by
  rw [BitVec.getLsbD_or]
  congr 1
  rw [Bool.eq_iff_iff, beq_iff_eq, Fin.ext_iff]
  simp
  omega

/-! Flag operations (R116). -/

theorem State.flagCmd_pushes {s : State} {g : Guard} {f : Fin 512} (q : Fin 8) (tok : Tok) (a : Word) (sets : Bool) (i : Instr)
    (room : s.ctx.inFlight < 32) (on : s.ctx.guard g = true) (granted : s.flagOk s.ctx.fn.val f.val = true) :
    ∃ t, s.flagCmd g q tok a f sets i = .next t ∧ s.pushed t (engOfQ q.val) i tok ∧
      t.ctx.setmap = if sets then s.ctx.setmap ||| (1 : BitVec 512) <<< f.val else s.ctx.setmap := by
  have push := State.push_pushed s { eng := engOfQ q.val, ins := i, tok, a, aside := true } room rfl rfl rfl
  obtain ⟨map, cur⟩ := State.push_setmap (s := s) { eng := engOfQ q.val, ins := i, tok, a, aside := true } room
  refine ⟨_, State.command_ok _ on (need_ok granted _ _), ?_⟩
  cases sets with
  | false => exact ⟨push, map⟩
  | true =>
    refine ⟨push.setMap cur _, ?_⟩
    rw [if_pos rfl, if_pos rfl, State.ctx_setCtx, map]
theorem State.flagCmd_outside {s : State} {g : Guard} {f : Fin 512} (q : Fin 8) (tok : Tok) (a : Word) (sets : Bool) (i : Instr)
    (on : s.ctx.guard g = true) (outside : s.flagOk s.ctx.fn.val f.val = false) :
    s.flagCmd g q tok a f sets i = .next (s.precise g .e .access 0) :=
  State.command_error _ on (need_error outside _ _)
/-- The three that change a flag enter it in the set-map (R122). -/
theorem State.flagCmd_enters {s : State} {g : Guard} {f : Fin 512} (q : Fin 8) (tok : Tok) (a : Word) (i : Instr)
    (room : s.ctx.inFlight < 32) (on : s.ctx.guard g = true) (granted : s.flagOk s.ctx.fn.val f.val = true) :
    ∃ t, s.flagCmd g q tok a f true i = .next t ∧ s.pushed t (engOfQ q.val) i tok ∧
      ∀ i : Fin 512, t.ctx.setmap.getLsbD i = (s.ctx.setmap.getLsbD i || i == f) := by
  obtain ⟨t, goes, push, map⟩ := State.flagCmd_pushes q tok a true i room on granted
  exact ⟨t, goes, push, fun j => by rw [map, if_pos rfl, getLsbD_or_shiftLeft_one]⟩

/-! Engine-queue waits (R121, R122). -/

section
variable {s : State} {ws : List Word} (formed : ∀ c ∈ ws, condOk c = true ∧ condKind c = 0)
  (granted : ∀ c ∈ ws, s.flagOk s.ctx.fn.val (condObj c) = true)
include formed granted

theorem State.chkWaitQ_eq : s.chkWaitQ ws = need (ws.all (fun w => s.ctx.forwarded (condObj w))) .fwdWait := by
  refine (need_met (List.all_eq_true.2 fun c hc => ?_) _ _ _).trans (need_met (List.all_eq_true.2 granted) _ _ _)
  obtain ⟨ok, kind⟩ := formed c hc
  rw [ok, kind]; rfl
theorem State.chkWaitQ_passes (known : ∀ c ∈ ws, s.ctx.forwarded (condObj c) = true) : s.chkWaitQ ws = .ok () :=
  (State.chkWaitQ_eq formed granted).trans (need_ok (List.all_eq_true.2 known) _ _)
theorem State.chkWaitQ_unknown {c : Word} (hc : c ∈ ws) (unknown : s.ctx.forwarded (condObj c) = false) :
    s.chkWaitQ ws = .error (.fwdWait, 0) :=
  (State.chkWaitQ_eq formed granted).trans (need_error (all_eq_false_of_mem hc unknown) _ _)
end

/-- Settles O34: the checks pass and the command is pushed, or the first that fails is the trap. -/
theorem flagCommandsPush : Obligations.FlagCommandsPush := by
  unfold Obligations.FlagCommandsPush
  intro s x y w room inMap
  refine ⟨fun on granted => ⟨State.flagCmd_enters _ _ _ _ room on granted, State.flagCmd_enters _ _ _ _ room on granted⟩,
    fun on granted => ⟨State.flagCmd_enters _ _ _ _ room on granted, State.flagCmd_pushes _ _ _ false _ room on granted⟩,
    fun on outside => ⟨State.flagCmd_outside _ _ _ _ _ on outside, State.flagCmd_outside _ _ _ _ _ on outside⟩,
    fun on => ?_⟩
  intro ws formed granted
  refine ⟨fun known => ?_, fun c hc unknown => ?_⟩
  · exact ⟨_, State.command_ok _ on (State.chkWaitQ_passes formed granted known), State.push_pushed s _ room rfl rfl rfl,
      (State.push_setmap _ room).1⟩
  · exact State.command_error _ on (State.chkWaitQ_unknown formed granted hc unknown)

end Sys2Proof.Machine
end

section
/-! O33: how a wait ends (R120). -/
namespace Sys2Proof.Machine

/-! What the end of a wait leaves of the cores. -/

/-- A record of the wait log changes memory, its error marks and the count alone (R439). -/
theorem State.logWait_shape (s : State) (c : CoreId) (eng : Nat) (ws : List Word) (h : Nat) (tmo : Bool) (pc : Word) (seq : BitVec 32)
    (t : Nat) : ∃ mem ecc waitN, s.logWait c eng ws h tmo pc seq t = { s with mem, ecc, waitN } := by
  unfold State.logWait
  dsimp only
  split
  · exact ⟨_, _, _, rfl⟩
  · exact ⟨_, _, _, rfl⟩
theorem State.logWait_core (s : State) (c d : CoreId) (eng : Nat) (ws : List Word) (h : Nat) (tmo : Bool) (pc : Word) (seq : BitVec 32)
    (t : Nat) : (s.logWait c eng ws h tmo pc seq t).core d = s.core d := by
  obtain ⟨mem, ecc, waitN, shape⟩ := s.logWait_shape c eng ws h tmo pc seq t
  rw [shape]; rfl
theorem State.logWait_ctxOf (s : State) (c d : CoreId) (eng : Nat) (ws : List Word) (h : Nat) (tmo : Bool) (pc : Word) (seq : BitVec 32)
    (t : Nat) : (s.logWait c eng ws h tmo pc seq t).ctxOf d = s.ctxOf d := congrArg Core.ctx (s.logWait_core c d eng ws h tmo pc seq t)
theorem State.logWait_now (s : State) (c : CoreId) (eng : Nat) (ws : List Word) (h : Nat) (tmo : Bool) (pc : Word) (seq : BitVec 32)
    (t : Nat) : (s.logWait c eng ws h tmo pc seq t).now = s.now := by
  obtain ⟨mem, ecc, waitN, shape⟩ := s.logWait_shape c eng ws h tmo pc seq t
  rw [shape]
theorem foldl_cores {f : State → Nat → State} (h : ∀ s n, (f s n).cores = s.cores) (l : List Nat) (s : State) :
    (l.foldl f s).cores = s.cores := by
  induction l generalizing s with
  | nil => rfl
  | cons n l ih => rw [List.foldl_cons, ih, h]
theorem foldl_still {f : State → Nat → State} {s : State} (h : ∀ n, f s n = s) (l : List Nat) : l.foldl f s = s := by
  induction l with
  | nil => rfl
  | cons n l ih => rw [List.foldl_cons, h, ih]

/-! The own wait of a core, apart from those of its saved contexts. -/

/-- What a wait ends with now: the bits of its true conditions, where they hold or, for the time-out, where they do not and the
deadline has come. -/
def State.waitResult (s : State) (c : CoreId) (tmo : Bool) (w : WaitSt) : Option Nat :=
  let h := s.condBits c w.conds
  let e := condEnds w.conds.length h w.all
  if tmo then (if !e && decide (w.deadline ≤ s.now) then some h else none) else (if e then some h else none)
/-- The wait of the context on core `c` ends, if it does now. -/
def State.endOwnWait (s : State) (c : CoreId) (tmo : Bool) : State :=
  match (s.ctxOf c).wait with
  | some w => (match s.waitResult c tmo w with | some h => s.endWait c w h tmo | none => s)
  | none => s

theorem State.endWaits_cores (s : State) (c : CoreId) (tmo : Bool) : (s.endWaits c tmo).cores = (s.endOwnWait c tmo).cores := by
  unfold State.endWaits
  refine foldl_cores (fun t n => ?_) _ _
  dsimp only
  split
  · split
    · rfl
    · split
      · rfl
      · split <;> rfl
  · rfl
theorem State.endWaits_core (s : State) (c d : CoreId) (tmo : Bool) : (s.endWaits c tmo).core d = (s.endOwnWait c tmo).core d := by
  unfold State.core
  rw [State.endWaits_cores]
theorem State.endWaits_ctxOf (s : State) (c d : CoreId) (tmo : Bool) : (s.endWaits c tmo).ctxOf d = (s.endOwnWait c tmo).ctxOf d :=
  congrArg Core.ctx (s.endWaits_core c d tmo)
/-- Nothing ends where the own wait does not and no saved context belongs to the core. -/
theorem State.endWaits_still {s : State} {c : CoreId} {tmo : Bool} (own : s.endOwnWait c tmo = s) (others : ∀ v ∈ s.saved, v.core ≠ c) :
    s.endWaits c tmo = s := by
  have still : s.endWaits c tmo = (List.range (s.endOwnWait c tmo).saved.length).foldl _ (s.endOwnWait c tmo) := rfl
  rw [still, own]
  refine foldl_still (fun n => ?_) _
  dsimp only
  split
  next v at_ => rw [if_pos (bne_iff_ne.2 (others v (List.mem_of_getElem? at_)))]
  next => rfl

section
variable {s : State} {c : CoreId} {tmo : Bool} {w : WaitSt} (waits : (s.ctxOf c).wait = some w)
include waits

theorem State.endOwnWait_ends {h : Nat} (result : s.waitResult c tmo w = some h) : s.endOwnWait c tmo = s.endWait c w h tmo := by
  rw [State.endOwnWait, waits]; dsimp only; rw [result]
theorem State.endOwnWait_still (result : s.waitResult c tmo w = none) : s.endOwnWait c tmo = s := by
  rw [State.endOwnWait, waits]; dsimp only; rw [result]
end

/-! When a wait ends, and what it leaves. -/

theorem condEnds_iff (n h : Nat) (all : Bool) : condEnds n h all = true ↔ if all then h = 2 ^ n - 1 else h ≠ 0 := by
  cases all <;> simp [condEnds]
theorem State.waitResult_met {s : State} {c : CoreId} {w : WaitSt} (met : condEnds w.conds.length (s.condBits c w.conds) w.all = true) :
    s.waitResult c false w = some (s.condBits c w.conds) := by simp [State.waitResult, met]
theorem State.waitResult_unmet {s : State} {c : CoreId} {w : WaitSt} (unmet : condEnds w.conds.length (s.condBits c w.conds) w.all = false) :
    s.waitResult c false w = none ∧
      s.waitResult c true w = if w.deadline ≤ s.now then some (s.condBits c w.conds) else none := by simp [State.waitResult, unmet]
theorem State.endWait_running {s : State} {c : CoreId} {w : WaitSt} {h : Nat} {tmo : Bool} (runs : (s.core c).stop = none)
    (quiet : (tmo && w.tt) = false) : ((s.endWait c w h tmo).ctxOf c).wait = none ∧
      ((s.endWait c w h tmo).ctxOf c).flight = (s.ctxOf c).flight ++
        [{ fin := s.now + 1, born := s.now, code := sCode w.d, slot := .e, val := BitVec.ofNat 64 (h + b2n tmo * 2 ^ 8) }] := by
  unfold State.endWait
  rw [runs]
  simp only [quiet, Bool.false_eq_true, if_false, State.logWait_ctxOf, State.ctxOf_setCore]
  exact ⟨trivial, trivial⟩
theorem State.endWait_stopped {s : State} {c : CoreId} {w : WaitSt} {st : Stop} {h : Nat} {tmo : Bool} (stopped : (s.core c).stop = some st) :
    (s.endWait c w h tmo).ctxOf c = (s.ctxOf c).waitOver w (h + b2n tmo * 2 ^ 8) st.since tmo := by
  unfold State.endWait
  rw [stopped]
  simp only [State.logWait_ctxOf, State.ctxOf_setCtxOf]

/-! The trap of a time-out (R402). -/

theorem Ctx.advance_trapvec (x : Ctx) : x.advance.trapvec = x.trapvec := by
  unfold Ctx.advance
  dsimp only
  (repeat' split) <;> rfl
/-- A trap after its bundle, at a place where no handler takes it and the next bundle can issue, is reported. -/
theorem State.afterBundle_reports {s : State} {c : CoreId} (r : TrapRec) (unhandled : (s.ctxOf c).trapvec.getLsbD 0 = false)
    (soon : (s.core c).holdUntil ≤ s.now + 1) : ∃ st v, ((s.afterBundle c r).core c).stop = some st ∧ st.rcd = some v ∧
      v.cls = r.cls ∧ v.pc = r.pc ∧ v.esw = r.esw := by
  obtain ⟨t, after, vec, hold, now⟩ : ∃ t : State, (if (s.ctxOf c).issuing then s.setCtxOf c (s.ctxOf c).advance else s) = t ∧
      (t.ctxOf c).trapvec.getLsbD 0 = false ∧ (t.core c).holdUntil = (s.core c).holdUntil ∧ t.now = s.now := by
    refine ⟨_, rfl, ?_⟩
    split
    · refine ⟨?_, ?_, rfl⟩
      · rw [State.ctxOf_setCtxOf, Ctx.advance_trapvec]; exact unhandled
      · rw [State.setCtxOf, State.core_setCore]
    · exact ⟨unhandled, rfl, rfl⟩
  unfold State.afterBundle
  dsimp only
  rw [after, if_pos (by rw [hold, now]; exact soon)]
  obtain ⟨-, -, -, st, v, stop, -, rcd, cls, -, esw, pc, -⟩ :=
    State.takeTrap_reports t c { r with rpc := (t.core c).ctx.pc } (t.now + 1) vec
  exact ⟨st, v, stop, rcd, cls, pc, esw⟩
theorem State.endWait_traps {s : State} {c : CoreId} {w : WaitSt} (h : Nat) (runs : (s.core c).stop = none) (traps : w.tt = true)
    (unhandled : (s.ctxOf c).trapvec.getLsbD 0 = false) (soon : (s.core c).holdUntil ≤ s.now + 1) :
    ∃ st v, ((s.endWait c w h true).core c).stop = some st ∧ st.rcd = some v ∧ v.cls = .timeout ∧ v.pc = w.pc ∧
      v.esw = BitVec.ofNat 64 (h + 2 ^ 8) := by
  unfold State.endWait
  rw [runs]
  simp only [traps, Bool.and_self, if_true]
  refine State.afterBundle_reports _ ?_ ?_
  · rw [State.logWait_ctxOf, State.ctxOf_setCore]; exact unhandled
  · rw [State.logWait_core, State.core_setCore, State.logWait_now]; exact max_le soon le_rfl

/-- Settles O33: the own wait ends or stands, and the waits of saved contexts touch no core. -/
theorem waitsEnd : Obligations.WaitsEnd := by
  unfold Obligations.WaitsEnd
  intro s c w waits h met ends
  have metIff : condEnds w.conds.length h w.all = true ↔ met := condEnds_iff _ _ _
  have ended (isMet : met) : (s.endWaits c false).ctxOf c = (s.endWait c w h false).ctxOf c := by
    rw [State.endWaits_ctxOf, State.endOwnWait_ends waits (State.waitResult_met (metIff.2 isMet))]
  have unmet (notMet : ¬ met) := State.waitResult_unmet (Bool.eq_false_iff.2 fun e => notMet (metIff.1 e))
  have timedOut (notMet : ¬ met) (late : w.deadline ≤ s.now) : s.endOwnWait c true = s.endWait c w h true :=
    State.endOwnWait_ends waits ((unmet notMet).2.trans (if_pos late))
  refine ⟨fun runs isMet => ⟨_, rfl, ?_⟩, fun st stopped isMet => ⟨_, rfl, ?_⟩, fun runs notMet late quiet => ⟨_, rfl, ?_⟩,
    fun runs notMet late traps unhandled soon => ?_, fun others => ⟨fun notMet => ?_, fun notMet early => ?_⟩⟩
  · show _ ∧ _
    rw [ended isMet]
    exact State.endWait_running runs rfl
  · show _ ∧ _
    rw [ended isMet, State.endWait_stopped stopped]
    exact ⟨rfl, rfl⟩
  · show _ ∧ _
    rw [State.endWaits_ctxOf, timedOut notMet late]
    exact State.endWait_running runs (by rw [quiet]; rfl)
  · obtain ⟨st, r, stop, record⟩ := State.endWait_traps h runs traps unhandled soon
    refine ⟨_, st, r, rfl, ?_, record⟩
    rw [State.endWaits_core, timedOut notMet late]
    exact stop
  · exact congrArg Host.Outcome.next (State.endWaits_still (State.endOwnWait_still waits (unmet notMet).1) others)
  · exact congrArg Host.Outcome.next (State.endWaits_still
      (State.endOwnWait_still waits ((unmet notMet).2.trans (if_neg (Nat.not_le.2 early)))) others)

end Sys2Proof.Machine
end

section
/-! O35: flag operations perform, and engine-queue waits complete (R116, R121). -/
namespace Sys2Proof.Machine

/-! Breakpoint hits and trace records beside an operation. -/

/-- The flags stand, and of each context everything but its breakpoint hits. -/
def State.HitsOnly (s t : State) : Prop := t.flags = s.flags ∧ ∀ c, ∃ h, t.ctxOf c = { s.ctxOf c with hits := h }

theorem State.hitsOnly_refl (s : State) : s.HitsOnly s := ⟨rfl, fun _ => ⟨_, rfl⟩⟩
theorem State.HitsOnly.trans {s t u : State} (h : s.HitsOnly t) (h' : t.HitsOnly u) : s.HitsOnly u := by
  refine ⟨h'.1.trans h.1, fun c => ?_⟩
  obtain ⟨i, one⟩ := h.2 c
  obtain ⟨j, two⟩ := h'.2 c
  exact ⟨j, by rw [two, one]⟩
/-- A core is replaced by one whose context differs in its hits alone. -/
theorem State.hitsOnly_setCore (s : State) (c : CoreId) {k : Core} {h : List Hit} (same : k.ctx = { s.ctxOf c with hits := h }) :
    s.HitsOnly (s.setCore c k) := by
  refine ⟨rfl, fun d => ?_⟩
  by_cases own : d = c
  · rw [own, State.ctxOf_setCore]; exact ⟨h, same⟩
  · rw [State.ctxOf, State.core_setCore_ne _ _ _ _ own]; exact ⟨_, rfl⟩
theorem State.hitsOnly_hit (s : State) (c : CoreId) (kind : Nat) (pc : Word) (seq : BitVec 32) (p : Fin 4 → Bool) :
    s.HitsOnly (s.hit c kind pc seq p) := by
  obtain ⟨b, h, shape⟩ := s.hit_core c kind pc seq p
  rw [shape]
  exact s.hitsOnly_setCore c rfl
theorem foldl_hitsOnly {f : State → Nat → State} (h : ∀ (s : State) n, s.HitsOnly (f s n)) (l : List Nat) (s : State) :
    s.HitsOnly (l.foldl f s) := by
  induction l generalizing s with
  | nil => exact s.hitsOnly_refl
  | cons n l ih => exact (h s n).trans (ih _)
theorem State.hitsOnly_flagHits (s : State) (f : Nat) (v : BitVec 32) : s.HitsOnly (s.flagHits f v) := by
  unfold State.flagHits
  dsimp only
  split
  · exact s.hitsOnly_refl
  · refine (foldl_hitsOnly (fun t n => ?_) _ s).trans (foldl_hitsOnly (fun t n => ?_) _ _)
    · split
      · exact t.hitsOnly_hit ..
      · exact t.hitsOnly_refl
    · split
      · exact t.hitsOnly_refl
      next v _ =>
        obtain ⟨b, h, shape⟩ := Core.hit_shape (t.core v.core) v.ctx 3 v.ctx.lastPc v.ctx.lastQ _
        rw [shape]
        exact t.hitsOnly_setCore v.core (h := (t.ctxOf v.core).hits) rfl
theorem State.hitsOnly_traceRec (s : State) (c : CoreId) (ty eng : Nat) (pc : Word) (seq : BitVec 32) (p0 p1 : Word) :
    s.HitsOnly (s.traceRec c ty eng pc seq p0 p1) := by
  constructor
  · unfold State.traceRec
    dsimp only
    split
    · rfl
    · split_ifs <;> rfl
  · intro d
    obtain ⟨v, own, others⟩ := s.traceRec_core c ty eng pc seq p0 p1
    by_cases h : d = c
    · rw [h, State.ctxOf, own]; exact ⟨_, rfl⟩
    · rw [State.ctxOf, others d h]; exact ⟨_, rfl⟩

/-- A flag takes its value; of the contexts, breakpoint hits alone change (R434). -/
theorem State.setFlag_flags (s : State) (f : Fin 512) (v : BitVec 32) (by_ : Setter) :
    (s.setFlag f.val v by_).flags = s.flags.set f.val v ∧ ∀ c, ∃ h, (s.setFlag f.val v by_).ctxOf c = { s.ctxOf c with hits := h } := by
  obtain ⟨flags, ctxs⟩ := State.hitsOnly_flagHits
    { s with flags := s.flags.setIfInBounds f.val v, setters := s.setters.setIfInBounds f.val by_ } f.val v
  refine ⟨flags.trans ?_, ctxs⟩
  ext i hi
  simp [Vector.getElem_set, Vector.getElem_setIfInBounds]

/-! A command of one entry completes (R13, R118). -/

theorem Ctx.tokenWrite_files (x : Ctx) (tok : Tok) (v : Word) :
    (x.tokenWrite tok v).o = x.o ∧ (x.tokenWrite tok v).p = x.p ∧ (x.tokenWrite tok v).rows = x.rows ∧ (x.tokenWrite tok v).cmds = x.cmds := by
  unfold Ctx.tokenWrite
  split <;> exact ⟨rfl, rfl, rfl, rfl⟩
theorem Ctx.rs_tokenWrite_same (x : Ctx) {tok : Tok} (named : tok ≠ 0) (v : Word) :
    (x.tokenWrite tok v).rs tok = v ∧ tok ∉ (x.tokenWrite tok v).toks := by
  rw [Ctx.tokenWrite, if_neg (by simpa using named)]
  exact ⟨by simp [Ctx.rs, named], by simp⟩
theorem Ctx.rs_tokenWrite_other (x : Ctx) {tok i : Tok} (other : i ≠ tok) (v : Word) : (x.tokenWrite tok v).rs i = x.rs i := by
  unfold Ctx.tokenWrite
  split
  · rfl
  · have apart : tok.val ≠ i.val := fun e => other (Fin.ext e.symm)
    simp [Ctx.rs, apart]
theorem Ctx.setCmd_done {x : Ctx} {m e : Cmd} (done : m.done = true) (he : e ∈ (x.setCmd m).cmds) (same : e.seq = m.seq) : e.done = true := by
  obtain ⟨o, -, replaced⟩ := List.mem_map.1 he
  split at replaced
  · rw [← replaced, done]
  next apart => exact absurd (beq_iff_eq.2 (by rw [replaced, same])) apart

/-- The context that a completion leaves, and the flags. -/
theorem State.completeCmd_shape (s : State) (c : CoreId) (m : Cmd) (v : Word) : (s.completeCmd c m v).flags = s.flags ∧
    ∃ h, (s.completeCmd c m v).ctxOf c =
      { (((s.ctxOf c).setCmd { m with done := true, res := v }).tokenWrite m.tok v).retireCmds m.eng with hits := h } := by
  unfold State.completeCmd
  dsimp only
  generalize written : (s.putCmd c { m with done := true, res := v }).setCtxOf c _ = t
  have flags : t.flags = s.flags := by rw [← written]; rfl
  have ctx : t.ctxOf c = (((s.ctxOf c).setCmd { m with done := true, res := v }).tokenWrite m.tok v).retireCmds m.eng := by
    rw [← written, State.ctxOf_setCtxOf, State.ctxOf_putCmd]
  obtain ⟨kept, hits⟩ := (t.hitsOnly_traceRec c 3 (Eng.code m.eng) m.pc m.seq v 0).trans (State.hitsOnly_hit _ c 2 m.pc m.seq _)
  rw [← ctx]
  exact ⟨kept.trans flags, hits c⟩
/-- The registers and the pending tokens stand as a context's commands retire and breakpoints hit. -/
theorem Ctx.retireCmds_leaves (x : Ctx) (e : Eng) (h : List Hit) (i : Tok) :
    ({ x.retireCmds e with hits := h } : Ctx).rs i = x.rs i ∧ ({ x.retireCmds e with hits := h } : Ctx).toks = x.toks := by
  unfold Ctx.rs
  exact ⟨rfl, rfl⟩
/-- A command `m'`, which completes for `m`, does so in a state whose context holds what it held in `s`, but for its breakpoint hits. -/
theorem State.complete_completed {s u : State} {c : CoreId} {m m' : Cmd} {h : List Hit} (same : u.ctxOf c = { s.ctxOf c with hits := h })
    (one : m'.inb = none) (seq : m'.seq = m.seq) (tok : m'.tok = m.tok) (v : Word) :
    completed s (u.complete c m' v) c m v ∧ (u.complete c m' v).flags = u.flags := by
  have complete : u.complete c m' v = u.completeCmd c m' v := by rw [State.complete, one]
  obtain ⟨flags, i, shape⟩ := u.completeCmd_shape c m' v
  obtain ⟨ho, hp, hrows, hcmds⟩ := ((u.ctxOf c).setCmd { m' with done := true, res := v }).tokenWrite_files m'.tok v
  have regs (i : Tok) : ((u.ctxOf c).setCmd { m' with done := true, res := v }).rs i = (s.ctxOf c).rs i := by rw [same]; rfl
  rw [complete]
  unfold completed tokenGot
  rw [shape, ← seq, ← tok]
  refine ⟨⟨fun e he number => ?_, fun named => ?_, fun j other => ?_, ?_, ?_, ?_⟩, flags⟩
  · have kept := List.mem_of_mem_filter he
    rw [hcmds] at kept
    exact Ctx.setCmd_done rfl kept number
  · obtain ⟨reg, pending⟩ := Ctx.retireCmds_leaves _ m'.eng i m'.tok
    rw [reg, pending]
    exact Ctx.rs_tokenWrite_same _ named v
  · obtain ⟨reg, -⟩ := Ctx.retireCmds_leaves _ m'.eng i j
    rw [reg, Ctx.rs_tokenWrite_other _ other, regs]
  · exact ho.trans (by rw [same]; rfl)
  · exact hp.trans (by rw [same]; rfl)
  · exact hrows.trans (by rw [same]; rfl)

/-! Flag operations (R116). -/

theorem incClamp_eq (old : BitVec 32) (a : Word) : incClamp old a = fincValue old a := by
  have addend : sext a.toNat 32 = (a.setWidth 32).toInt := by rw [sext_eq_toInt _ (by decide), BitVec.ofNat_toNat]
  unfold incClamp fincValue
  rw [addend]
  dsimp only
  generalize (old.toNat : Int) + (a.setWidth 32).toInt = r
  have above : (2 ^ 32 ≤ r) = (2 ^ 32 - 1 < r) := propext (by omega)
  simp only [above]

theorem clamp_bit (b : Bool) : ((if b then 1 <<< 32 else 0 : Nat) : Word) = if b then 0x100000000 else 0 := by cases b <;> rfl

/-- The flag takes its new value, if the operation changes it. -/
def State.flagTakes (s : State) (f : Fin 512) (new : Option (BitVec 32)) (by_ : Setter) : State :=
  match new with
  | some v => s.setFlag f.val v by_
  | none => s
/-- What a performed flag operation leaves: the flag's new value, and the old one as the token, with the clamp in bit 32. -/
def State.flagDone (s : State) (r : CmdRef) (m : Cmd) (f : Fin 512) (new : Option (BitVec 32)) (clamp : Bool) : State :=
  (s.flagTakes f new (s.setterOf r.core (Eng.code m.eng))).complete r.core { m with eff := new.isSome }
    ((s.flag f.val).setWidth 64 ||| (if clamp then 0x100000000 else 0))

theorem State.flagTakes_flags (s : State) (f : Fin 512) (new : Option (BitVec 32)) (by_ : Setter) :
    (s.flagTakes f new by_).flags = s.flags.set f.val (new.getD s.flags[f.val]) ∧
      ∀ c, ∃ h, (s.flagTakes f new by_).ctxOf c = { s.ctxOf c with hits := h } := by
  cases new with
  | none => exact ⟨(Vector.set_getElem_self f.isLt).symm, fun _ => ⟨_, rfl⟩⟩
  | some v => exact s.setFlag_flags f v by_
theorem State.flagDone_performs (s : State) (r : CmdRef) {m : Cmd} (f : Fin 512) (new : Option (BitVec 32)) (clamp : Bool)
    (one : m.inb = none) : (s.flagDone r m f new clamp).flags = s.flags.set f.val (new.getD s.flags[f.val]) ∧
      completed s (s.flagDone r m f new clamp) r.core m
        ((s.flags[f.val]).setWidth 64 ||| (if clamp then 0x100000000 else 0)) := by
  obtain ⟨set, ctxs⟩ := s.flagTakes_flags f new (s.setterOf r.core (Eng.code m.eng))
  obtain ⟨hits, same⟩ := ctxs r.core
  rw [State.flagDone, State.flag_eq s f.isLt]
  obtain ⟨done, flags⟩ := State.complete_completed (m := m) (m' := { m with eff := new.isSome }) same one rfl rfl
    ((s.flags[f.val]).setWidth 64 ||| (if clamp then 0x100000000 else 0))
  exact ⟨flags.trans set, done⟩

section
variable {s : State} {r : CmdRef} {m : Cmd} (found : s.cmd? r = some m)
include found

/-- The four operations, once the earlier commands of their queue have completed. -/
theorem exec_flagPerform (ready : ((s.ctxOf r.core).earlier m).all (fun e => e.eng != m.eng) = true) :
    (∀ x, m.ins = .fset x → exec (.flagPerform r) s = .next (s.flagDone r m x.flag (some (m.a.setWidth 32)) false)) ∧
      (∀ x, m.ins = .fclr x → exec (.flagPerform r) s = .next (s.flagDone r m x.flag (some 0) false)) ∧
      (∀ x, m.ins = .fget x → exec (.flagPerform r) s = .next (s.flagDone r m x.flag none false)) ∧
      (∀ x, m.ins = .finc x → exec (.flagPerform r) s =
        .next (s.flagDone r m x.flag (some (fincValue s.flags[x.flag.val] m.a).1) (fincValue s.flags[x.flag.val] m.a).2)) := by
  have runs : exec (.flagPerform r) s = execFlagPerform r s := rfl
  rw [runs]
  unfold execFlagPerform
  rw [found]
  cases m
  refine ⟨?_, ?_, ?_, ?_⟩ <;> rintro x ⟨⟩ <;> refine (if_neg (by rw [ready]; decide)).trans ?_
  · rfl
  · rfl
  · rfl
  · rw [← incClamp_eq, ← State.flag_eq s x.flag.isLt]
    dsimp only
    rw [clamp_bit]
    rfl

theorem engineWaitSatisfied_completes {x : WaitQ} (ins : m.ins = .waitQ x) (one : m.inb = none) (started : m.started = true)
    (met : condEnds (m.ext.map (BitVec.ofNat 64)).length (s.condBits r.core (m.ext.map (BitVec.ofNat 64))) x.all = true) :
    ∃ t, exec (.engineWaitSatisfied r) s = .next t ∧
      completed s t r.core m (BitVec.ofNat 64 (s.condBits r.core (m.ext.map (BitVec.ofNat 64)))) := by
  have goes : exec (.engineWaitSatisfied r) s = .next (State.complete (s.logWait r.core x.q.val (m.ext.map (BitVec.ofNat 64))
      (s.condBits r.core (m.ext.map (BitVec.ofNat 64))) false m.pc m.seq (s.now - m.start)) r.core m
      (BitVec.ofNat 64 (s.condBits r.core (m.ext.map (BitVec.ofNat 64))))) := by
    change execEngineWaitSatisfied r s = _
    unfold execEngineWaitSatisfied
    rw [found]
    dsimp only
    rw [ins]
    exact if_pos (by rw [started, met]; rfl)
  exact ⟨_, goes, (State.complete_completed (h := (s.ctxOf r.core).hits) (State.logWait_ctxOf ..) one rfl rfl _).1⟩
end

/-- Settles O35: each operation leaves what `State.flagDone` says, and a satisfied wait completes. -/
theorem flagOperationsPerform : Obligations.FlagOperationsPerform := by
  unfold Obligations.FlagOperationsPerform
  intro s r m found one c sets
  have performed {x : Fin 512} {new : Option (BitVec 32)} {clamp : Bool}
      (goes : exec (.flagPerform r) s = .next (s.flagDone r m x new clamp)) :
      sets x (new.getD s.flags[x.val]) ((s.flags[x.val]).setWidth 64 ||| (if clamp then 0x100000000 else 0)) := by
    obtain ⟨flags, done⟩ := s.flagDone_performs r x new clamp one
    exact ⟨_, goes, flags, done⟩
  have unclamped {x : Fin 512} {new : Option (BitVec 32)} (goes : exec (.flagPerform r) s = .next (s.flagDone r m x new false)) :
      sets x (new.getD s.flags[x.val]) ((s.flags[x.val]).setWidth 64) := by
    simpa only [Bool.false_eq_true, if_false, BitVec.ofNat_eq_ofNat, BitVec.or_zero] using performed goes
  refine ⟨fun ready => ?_, fun x ins started => ?_⟩
  · obtain ⟨fset, fclr, fget, finc⟩ := exec_flagPerform found ready
    exact ⟨fun x ins => unclamped (fset x ins), fun x ins => unclamped (fclr x ins), fun x ins => unclamped (fget x ins),
      fun x ins => performed (finc x ins)⟩
  · intro ws h met
    exact engineWaitSatisfied_completes found ins one started ((condEnds_iff _ _ _).2 met)

end Sys2Proof.Machine
end

section
/-! O22: bytes of memory. What a write reads back as, and a range of bytes as a number (R2, R128). -/
namespace Sys2Proof.Machine

/-- Bytes read back as written. -/
theorem Memory.read_write_same {m : Memory} (canonical : m.wf = true) (a : Nat) (bs : List Byte) :
    (m.write a bs).read a bs.length = bs := by
  rw [Memory.read_get _ _ _ (Memory.write_wf m a bs canonical)]
  refine List.ext_getElem (by simp) (fun i _ hi => ?_)
  rw [List.getElem_map, List.getElem_range, Memory.get_write_in m a bs i hi]

/-- Settles O22: a byte that the write covers, one that it does not, the canonical form, and the bytes together. -/
theorem readAfterWrite : Obligations.ReadAfterWrite := by
  unfold Obligations.ReadAfterWrite
  intro m a bs canonical
  exact ⟨m.get_write_in a bs, m.get_write_out a bs, m.write_wf a bs canonical, Memory.read_write_same canonical a bs⟩

/-! A range of bytes as a number. -/

theorem Memory.num_congr {m m' : Memory} {n : Nat} : ∀ {a : Nat}, (∀ i, i < n → m.get (a + i) = m'.get (a + i)) → m.num a n = m'.num a n := by
  induction n with
  | zero => intro a _; rfl
  | succ n ih =>
    intro a same
    have rest : m.num (a + 1) n = m'.num (a + 1) n := ih fun i hi => by
      rw [Nat.add_assoc, Nat.add_comm 1 i]; exact same (i + 1) (by omega)
    have first : m.get a = m'.get a := same 0 (Nat.succ_pos n)
    rw [Memory.num, Memory.num, rest, first]
theorem Memory.num_lt (m : Memory) (n : Nat) : ∀ a, m.num a n < 256 ^ n := by
  induction n with
  | zero => intro a; exact Nat.one_pos
  | succ n ih =>
    intro a
    have low : (m.get a).toNat < 256 := (m.get a).isLt
    rw [Memory.num, Nat.pow_succ]
    have := ih (a + 1)
    omega
/-- A byte of the number is the byte of memory. -/
theorem Memory.get_of_num (m : Memory) (n : Nat) : ∀ {a i : Nat}, i < n → m.get (a + i) = BitVec.ofNat 8 (m.num a n / 2 ^ (8 * i)) := by
  induction n with
  | zero => intro a i hi; exact absurd hi (Nat.not_lt_zero i)
  | succ n ih =>
    intro a i hi
    have low : (m.get a).toNat < 256 := (m.get a).isLt
    cases i with
    | zero =>
      apply BitVec.eq_of_toNat_eq
      simp only [Memory.num, Nat.mul_zero, pow_zero, Nat.div_one, BitVec.toNat_ofNat, Nat.add_zero]
      omega
    | succ i =>
      have tail : ((m.get a).toNat + 256 * m.num (a + 1) n) / 256 = m.num (a + 1) n := by omega
      rw [← Nat.add_assoc, Nat.add_right_comm, ih (Nat.lt_of_succ_lt_succ hi), Memory.num, Nat.mul_succ, Nat.add_comm (8 * i),
        pow_add, ← Nat.div_div_eq_div_mul, show 2 ^ 8 = 256 from rfl, tail]
/-- A byte of a value's little-endian bytes. -/
theorem getElem_leBytes (n : Nat) : ∀ (v : Nat) {i : Nat} (hi : i < (leBytes v n).length),
    (leBytes v n)[i] = BitVec.ofNat 8 (v / 2 ^ (8 * i)) := by
  induction n with
  | zero => intro v i hi; exact absurd hi (Nat.not_lt_zero i)
  | succ n ih =>
    intro v i hi
    cases i with
    | zero => simp [leBytes]
    | succ i => simp only [leBytes, List.getElem_cons_succ, ih, Nat.mul_succ, Nat.add_comm (8 * i), pow_add, ← Nat.div_div_eq_div_mul,
        Nat.reducePow]
/-- A value written as bytes reads back, cut to their number. -/
theorem Memory.num_write_leBytes (m : Memory) (a n v : Nat) : (m.write a (leBytes v n)).num a n = v % 256 ^ n := by
  rw [← leNat_leBytes, ← Memory.num_read]
  congr 1
  refine List.ext_getElem (by simp [leBytes_length]) (fun i _ hi => ?_)
  rw [List.getElem_map, List.getElem_range, Memory.get_write_in m a _ i hi]
/-- A range that a write does not reach keeps its number. -/
theorem Memory.num_write_apart (m : Memory) {a b n : Nat} {bs : List Byte} (apart : b + n ≤ a ∨ a + bs.length ≤ b) :
    (m.write a bs).num b n = m.num b n :=
  Memory.num_congr fun i hi => m.get_write_out a bs (b + i) (by omega)
theorem bytesKept_write {s t : State} {a v n : Nat} (h : t.mem = s.mem.write a (leBytes v n)) : bytesKept s t a n := by
  intro b outside
  rw [h, Memory.get_write_out _ _ _ _ (by rwa [leBytes_length])]

end Sys2Proof.Machine
end

section
/-! O23, O24: the checks of the own core's buffers (R129, R130, R147), loads at issue and in their port cycle (R146 to R149). -/
namespace Sys2Proof.Machine

/-! What the buffers refuse. -/

section
variable {c : Ctx} {sp : Space} {addr w : Nat} {wr : Bool}

theorem Ctx.scalarFault_of_letsIn (h : c.letsIn sp addr w wr) : c.scalarFault sp addr w wr = none := by
  obtain ⟨aligned, inside, notWb, upper, shown⟩ := h
  have wb : ¬ (sp == .wb && wr) = true := by
    rw [Bool.and_eq_true, beq_iff_eq]; exact fun both => notWb both.2 both.1
  have jb : ¬ (sp == .jb && decide (addr < 0x8000)) = true := by simpa using upper
  rw [Ctx.scalarFault, if_neg (by simpa using aligned), if_neg (Nat.not_lt.2 inside), if_neg wb, if_neg jb, shown]
  rfl
theorem Ctx.scalarFault_misaligned (h : addr % w ≠ 0) : c.scalarFault sp addr w wr = some .align := if_pos (by simpa using h)
theorem Ctx.scalarFault_refused (aligned : addr % w = 0) (h : ¬ c.letsIn sp addr w wr) : c.scalarFault sp addr w wr = some .buffer := by
  rw [Ctx.scalarFault, if_neg (by simpa using aligned)]
  split_ifs with inside notWb upper hidden
  · rfl
  · rfl
  · rfl
  · rfl
  · refine absurd ⟨aligned, Nat.not_lt.1 inside, ?_, ?_, Bool.eq_false_iff.2 hidden⟩ h
    · rw [Bool.and_eq_true, beq_iff_eq] at notWb; exact fun write wb => notWb ⟨wb, write⟩
    · simpa using upper
/-- Some check refuses it. -/
theorem Ctx.scalarFault_some (h : ¬ c.letsIn sp addr w wr) : ∃ cls, c.scalarFault sp addr w wr = some cls := by
  by_cases aligned : addr % w = 0
  · exact ⟨_, Ctx.scalarFault_refused aligned h⟩
  · exact ⟨_, Ctx.scalarFault_misaligned aligned⟩
end

/-! A load at issue (R147). -/

section
variable {s : State} {x : Load}

theorem State.loadLocal_queues (quiet : Bool) (acts : s.ctx.acts x.g 4)
    (lets : s.ctx.letsIn x.sp (accAddr (s.ctx.src x.a) x.off x.pi) (accW x.t x.dw) false) :
    s.loadLocal x quiet = .next (s.queuing (s.portOp .m x.sp (.load (accAddr (s.ctx.src x.a) x.off x.pi) (accW x.t x.dw) x.t x.dw)) 1
      (loadFlights s.now x.g x.d s.ctx.nextPort x.pi x.a (s.ctx.src x.a + x.off.signExtend 64))) := by
  obtain ⟨on, lives⟩ := acts
  unfold State.loadLocal
  dsimp only
  rw [Ctx.scalarFault_of_letsIn lets, on, lives]
  rfl
theorem State.loadLocal_traps {cls : TrapClass} (on : s.ctx.guard x.g = true)
    (refused : s.ctx.scalarFault x.sp (accAddr (s.ctx.src x.a) x.off x.pi) (accW x.t x.dw) false = some cls) :
    s.loadLocal x false = .next (s.precise x.g .m cls (accAddr (s.ctx.src x.a) x.off x.pi)) := by
  unfold State.loadLocal
  dsimp only
  rw [refused, on]
  rfl
theorem State.loadLocal_quiet {cls : TrapClass} (acts : s.ctx.acts x.g 4)
    (refused : s.ctx.scalarFault x.sp (accAddr (s.ctx.src x.a) x.off x.pi) (accW x.t x.dw) false = some cls) :
    s.loadLocal x true = .next (s.setCtx { s.ctx with flight := s.ctx.flight ++
      [{ fin := s.now + 4, born := s.now, code := sCode x.d, slot := .m, val := 0, sq := x.g.sq }] }) := by
  obtain ⟨on, lives⟩ := acts
  unfold State.loadLocal
  dsimp only
  rw [refused, on, Ctx.result, Ctx.fly, lives]
  rfl
end

/-! The port cycle (R148, R204). -/

/-- The context of core `c` past the port cycle of its one waiting access. -/
def Ctx.unqueued (x : Ctx) : Ctx := { x with portQ := [] }

theorem State.portStep_performs {s : State} {c : CoreId} {o : PortOp} (h : s.performs c o) :
    s.portStep c = (s.setCtxOf c (s.ctxOf c).unqueued).portAct c o := by
  obtain ⟨one, due⟩ := h
  simp [State.portStep, one, due, Ctx.unqueued]

theorem State.rowEcc_eq_none_iff (s : State) (c : CoreId) (sp : Space) (off n : Nat) :
    (s.rowEcc c sp [(off, n)]).isSome = false ↔ s.sound (bufKey c sp off) n := by
  have marks : s.rowEcc c sp [(off, n)] = none ↔ s.ecc.filter (fun w => w < bufKey c sp off + n && bufKey c sp off < w + 8) = [] := by
    simp [State.rowEcc, List.min?_eq_none_iff]
  rw [Option.isSome_eq_false_iff, Option.isNone_iff_eq_none, marks, List.filter_eq_nil_iff, State.sound]
  refine forall₂_congr fun w _ => ?_
  simp only [Bool.and_eq_true, decide_eq_true_eq]
  omega

theorem accExt_eq_extended (t : ETy) (dw : Bool) (v : Nat) : accExt t dw v = extended t dw v := by
  have signed (w : Nat) (hw : 0 < w) : BitVec.ofInt 64 (sext v w) = (BitVec.ofNat w v).signExtend 64 := by
    rw [sext_eq_toInt v hw, BitVec.signExtend]
  unfold accExt extended
  cases t with
  | i8 => rw [signed 8 (by decide)]; rfl
  | i32 => rw [signed 32 (by decide)]; rfl
  | _ => rfl

/-- The record of a load's uncorrectable error, the load's result being `f` (R149). -/
def PortOp.eccPend (o : PortOp) (off : Nat) (f : Flight) : Pend :=
  { cls := .ecc, pc := o.pc, slot := o.slot, seq := o.seq, addr := off, due := o.at_ + 1, syl := o.syl, fatal := o.slot == .e,
    kill := if f.sq then some f.fin else none }

section
variable {s : State} {c : CoreId} (bare : (s.ctxOf c).frameFl = [])
include bare

theorem State.inFrame_nothing (p : Flight → Bool) (f : State → Flight → Nat × Nat → State) : s.inFrame c p f = s := by
  rw [State.inFrame, bare]
  rfl
theorem State.give_flight (pid : Nat) (v : Word) (r : Option Row) : s.give c pid v r = s.setCtxOf c { s.ctxOf c with
    flight := (s.ctxOf c).flight.map (fun f => if f.pid == pid then { f with val := v, row := r } else f) } := by
  unfold State.give
  exact State.inFrame_nothing (by rw [State.ctxOf_setCtxOf]; exact bare) _ _
/-- What the error of the one load in flight leaves. -/
theorem State.loadEcc_one {o : PortOp} {f : Flight} (one : (s.ctxOf c).flight = [f]) (number : f.pid = o.pid) (named : o.pid ≠ 0)
    (still : (s.ctxOf c).undo = []) (off : Nat) : s.loadEcc c o off = s.setCtxOf c { s.ctxOf c with
      flight := [], undo := [], pend := (s.ctxOf c).pend ++ [o.eccPend off f] } := by
  have found : ((s.ctxOf c).flight ++ (s.ctxOf c).frameFl).find? (fun g => g.pid == o.pid) = some f := by simp [one, bare, number]
  have gone : (s.ctxOf c).unload [o.pid] = { s.ctxOf c with flight := [], undo := [] } := by
    simp [Ctx.unload, still, one, number, named]
  rw [State.loadEcc, found]
  dsimp only
  rw [State.inFrame_nothing bare, gone]
  rfl
end

/-- The port cycle of a load whose bytes are sound. -/
theorem State.portStep_load {s : State} {c : CoreId} {o : PortOp} {f : Flight} {off w : Nat} {t : ETy} {dw : Bool} (canonical : s.mem.wf = true)
    (performs : s.performs c o) (act : o.act = .load off w t dw) (bare : (s.ctxOf c).frameFl = []) (one : (s.ctxOf c).flight = [f])
    (number : f.pid = o.pid) (sound : s.sound (bufKey c o.sp off) w) :
    s.portStep c = s.setCtxOf c { s.ctxOf c with
      portQ := [], flight := [{ f with val := extended t dw (s.mem.num (bufKey c o.sp off) w), row := none }] } := by
  have clear := ((s.setCtxOf c (s.ctxOf c).unqueued).rowEcc_eq_none_iff c o.sp off w).2 sound
  have bytes : (s.setCtxOf c (s.ctxOf c).unqueued).bufN c o.sp off w = s.mem.num (bufKey c o.sp off) w := Memory.readN_num _ _ _ canonical
  rw [State.portStep_performs performs, State.portAct, act]
  dsimp only
  rw [clear, bytes, accExt_eq_extended, State.give_flight (by rw [State.ctxOf_setCtxOf]; exact bare)]
  simp [Ctx.unqueued, one, number]
/-- And of one whose bytes are not. -/
theorem State.portStep_load_fails {s : State} {c : CoreId} {o : PortOp} {f : Flight} {off w : Nat} {t : ETy} {dw : Bool}
    (performs : s.performs c o) (act : o.act = .load off w t dw) (bare : (s.ctxOf c).frameFl = []) (one : (s.ctxOf c).flight = [f])
    (number : f.pid = o.pid) (named : o.pid ≠ 0) (still : (s.ctxOf c).undo = []) (unsound : ¬ s.sound (bufKey c o.sp off) w) :
    ∃ p, p.addr = off ∧ s.loadFails (s.portStep c) c o f p := by
  have ctx := s.ctxOf_setCtxOf c (s.ctxOf c).unqueued
  have marked : ((s.setCtxOf c (s.ctxOf c).unqueued).rowEcc c o.sp [(off, w)]).isSome = true :=
    Bool.not_eq_false _ ▸ (State.rowEcc_eq_none_iff _ c o.sp off w).not.2 unsound
  have step : s.portStep c = (s.setCtxOf c (s.ctxOf c).unqueued).loadEcc c o off := by
    rw [State.portStep_performs performs, State.portAct, act]
    exact if_pos marked
  rw [step, State.loadEcc_one (by rw [ctx]; exact bare) (by rw [ctx]; exact one) number named (by rw [ctx]; exact still), ctx]
  refine ⟨o.eccPend off f, rfl, ?_⟩
  unfold State.loadFails
  rw [State.ctxOf_setCtxOf]
  exact ⟨rfl, rfl, rfl, rfl, rfl, rfl, rfl, rfl, rfl, rfl, rfl, rfl⟩

/-- Settles O23: a load waits for its port cycle, which reads the bytes, or finds them marked. -/
theorem localLoads : Obligations.LocalLoads := by
  unfold Obligations.LocalLoads
  refine ⟨fun s x acts => ?_, fun s c o f off w t dw canonical performs act bare one number named => ?_⟩
  · intro w addr lets
    exact ⟨State.loadLocal_queues false acts lets, State.loadLocal_queues true acts lets⟩
  · exact ⟨State.portStep_load canonical performs act bare one number,
      fun unsound still => State.portStep_load_fails performs act bare one number named still unsound⟩

/-! A store at issue. -/

theorem execSt_traps {s : State} {x : Store} {cls : TrapClass} (on : s.ctx.guard x.g = true)
    (refused : s.ctx.scalarFault x.sp (accAddr (s.ctx.src x.a) x.off x.pi) (accW x.t x.dw) true = some cls) :
    execSt x s = .next (s.precise x.g .m cls (accAddr (s.ctx.src x.a) x.off x.pi)) := by
  unfold execSt
  dsimp only
  rw [refused, on]
  rfl

/-- Settles O24: each refusal of the buffers is the class of the trap, or for `ldn` a result of 0. -/
theorem localAccessTraps : Obligations.LocalAccessTraps := by
  unfold Obligations.LocalAccessTraps
  refine fun s x y => ⟨fun on => ?_, fun on => ?_⟩
  · refine ⟨fun misaligned => State.loadLocal_traps on (Ctx.scalarFault_misaligned misaligned),
      fun aligned refused => State.loadLocal_traps on (Ctx.scalarFault_refused aligned refused), fun refused lives => ?_⟩
    obtain ⟨cls, fault⟩ := Ctx.scalarFault_some refused
    exact State.loadLocal_quiet ⟨on, lives⟩ fault
  · exact ⟨fun misaligned => execSt_traps on (Ctx.scalarFault_misaligned misaligned),
      fun aligned refused => execSt_traps on (Ctx.scalarFault_refused aligned refused)⟩

end Sys2Proof.Machine
end

section
/-! O25: stores of the own core's buffers, at issue and in their port cycle (R147 to R149, R203, R206). -/
namespace Sys2Proof.Machine

/-! The bits that a piece writes (R203). -/

/-- Numbers with no common bit add as they are joined. -/
theorem add_eq_or_of_and_eq_zero {x y : Nat} (apart : x &&& y = 0) : x + y = x ||| y := by
  have small {v : Nat} (h : v ≤ x + y) : v % 2 ^ (x + y) = v := Nat.mod_eq_of_lt (h.trans_lt Nat.lt_two_pow_self)
  have words : BitVec.ofNat (x + y) x &&& BitVec.ofNat (x + y) y = 0#(x + y) := by rw [← BitVec.ofNat_and, apart]
  have sum := congrArg BitVec.toNat (BitVec.add_eq_or_of_and_eq_zero _ _ words)
  rwa [BitVec.toNat_add_of_and_eq_zero words, BitVec.toNat_or, BitVec.toNat_ofNat, BitVec.toNat_ofNat, small (by omega),
    small (by omega)] at sum
/-- The bits outside a mask, as a difference. -/
theorem testBit_sub_and (x m i : Nat) : (x - (x &&& m)).testBit i = (x.testBit i && !m.testBit i) := by
  have split : (x ^^^ (x &&& m)) + (x &&& m) = x := by
    rw [add_eq_or_of_and_eq_zero] <;> refine Nat.eq_of_testBit_eq fun j => ?_ <;>
      simp only [Nat.testBit_and, Nat.testBit_or, Nat.testBit_xor, Nat.zero_testBit] <;> cases x.testBit j <;> cases m.testBit j <;> rfl
  rw [show x - (x &&& m) = x ^^^ (x &&& m) by omega, Nat.testBit_xor, Nat.testBit_and]
  cases x.testBit i <;> cases m.testBit i <;> rfl
theorem testBit_masked (x v m i : Nat) :
    (x - (x &&& m) + (v &&& m)).testBit i = (x.testBit i && !m.testBit i || v.testBit i && m.testBit i) := by
  have apart : (x - (x &&& m)) &&& (v &&& m) = 0 := Nat.eq_of_testBit_eq fun j => by
    rw [Nat.testBit_and, testBit_sub_and, Nat.testBit_and, Nat.zero_testBit]
    cases m.testBit j <;> simp
  rw [add_eq_or_of_and_eq_zero apart, Nat.testBit_or, testBit_sub_and, Nat.testBit_and]

/-- What a piece makes of the number that its bytes held. -/
def Piece.over (p : Piece) (old : Nat) : Nat := if p.mask + 1 == 2 ^ (8 * p.n) then p.val else old - (old &&& p.mask) + (p.val &&& p.mask)
theorem Piece.testBit_over (p : Piece) (old : Nat) {i : Nat} (hi : i < 8 * p.n) :
    (p.over old).testBit i = (old.testBit i && !p.mask.testBit i || p.val.testBit i && p.mask.testBit i) := by
  unfold Piece.over
  split
  next whole =>
    have mask : p.mask = 2 ^ (8 * p.n) - 1 := by have := beq_iff_eq.1 whole; omega
    simp [mask, Nat.testBit_two_pow_sub_one, hi]
  · exact testBit_masked old p.val p.mask i
/-- One byte of it, as `putByte` has it. -/
theorem Piece.byte_over (p : Piece) (old : Nat) {i : Nat} (hi : i < p.n) :
    BitVec.ofNat 8 (p.over old / 2 ^ (8 * i)) =
      (BitVec.ofNat 8 (old / 2 ^ (8 * i)) &&& ~~~BitVec.ofNat 8 (p.mask / 2 ^ (8 * i))) |||
        (BitVec.ofNat 8 (p.val / 2 ^ (8 * i)) &&& BitVec.ofNat 8 (p.mask / 2 ^ (8 * i))) := by
  refine BitVec.eq_of_getLsbD_eq fun j hj => ?_
  simp only [BitVec.getLsbD_or, BitVec.getLsbD_and, BitVec.getLsbD_not, BitVec.getLsbD_ofNat, Nat.testBit_div_two_pow, hj, decide_true,
    Bool.true_and]
  exact p.testBit_over old (by omega)

theorem putByte_cons (p : Piece) (ps : List Piece) (base b : Nat) (v : Byte) :
    putByte (p :: ps) base b v = putByte ps base b (putByte [p] base b v) := List.foldl_cons ..

/-! A unit writes bytes of a buffer. -/

/-- The context with its marks of written JB pages (R419) as given. -/
def Ctx.withPages (x : Ctx) (m : BitVec 64) : Ctx := { x with jbPages := m }
theorem Ctx.withPages_withPages (x : Ctx) (m n : BitVec 64) : (x.withPages m).withPages n = x.withPages n := rfl
/-- What stands of a context past a port cycle that writes memory. -/
theorem Ctx.unqueued_withPages_leaves (x : Ctx) (m : BitVec 64) : (x.unqueued.withPages m).portQ = [] ∧
    (x.unqueued.withPages m).flight = x.flight ∧ (x.unqueued.withPages m).s = x.s := ⟨rfl, rfl, rfl⟩
theorem Ctx.withPages_same (x : Ctx) : x.withPages x.jbPages = x := rfl
theorem State.bufStore_ctxOf (s : State) (c : CoreId) (sp : Space) (off : Nat) (bs : List Byte) :
    ∃ m, (s.bufStore c sp off bs).ctxOf c = (s.ctxOf c).withPages m := by
  unfold State.bufStore
  dsimp only
  split
  · exact ⟨_, State.ctxOf_setCtxOf ..⟩
  · exact ⟨_, (s.ctxOf c).withPages_same.symm⟩
theorem State.bufStore_ecc (s : State) (c : CoreId) (sp : Space) (off : Nat) (bs : List Byte) :
    (s.bufStore c sp off bs).ecc = clearEcc s.ecc (bufKey c sp off) bs.length true := by
  unfold State.bufStore
  dsimp only
  split <;> rfl

/-! The pieces of a store, one after the other. -/

section
variable (s : State) (c : CoreId) (sp : Space)

theorem State.putPiece_eq (p : Piece) :
    s.putPiece c sp p = s.bufStore c sp p.off (leBytes (p.over (s.mem.readN (bufKey c sp p.off) p.n)) p.n) := rfl
theorem State.putPiece_whole (off n v : Nat) : s.putPiece c sp (wholePiece off n v) = s.bufStore c sp off (leBytes (v % 2 ^ (8 * n)) n) := by
  have whole (old : Nat) : (wholePiece off n v).over old = v % 2 ^ (8 * n) :=
    if_pos (beq_iff_eq.2 (Nat.sub_add_cancel Nat.one_le_two_pow))
  rw [State.putPiece_eq, whole]
  rfl
variable {s} in
theorem State.get_putPiece (canonical : s.mem.wf = true) (p : Piece) (b : Nat) :
    (s.putPiece c sp p).mem.get b = putByte [p] (bufKey c sp 0) b (s.mem.get b) := by
  have place := bufKey_add c sp p.off
  rw [State.putPiece_eq, State.bufStore_mem, Memory.readN_num _ _ _ canonical, place, putByte, List.foldl_cons, List.foldl_nil]
  split
  next inside =>
    obtain ⟨i, rfl⟩ := Nat.exists_eq_add_of_le inside.1
    have hi : i < p.n := by omega
    rw [Memory.get_write_in _ _ _ i (by rwa [leBytes_length]), getElem_leBytes, p.byte_over _ hi, ← Memory.get_of_num _ _ hi,
      Nat.add_sub_cancel_left]
  next outside => rw [Memory.get_write_out _ _ _ _ (by rw [leBytes_length]; omega)]

/-- The bytes of the pieces, before the check bits. -/
def State.putAll (ps : List Piece) : State := ps.foldl (fun s p => s.putPiece c sp p) s

theorem State.putAll_cons (p : Piece) (ps : List Piece) : s.putAll c sp (p :: ps) = (s.putPiece c sp p).putAll c sp ps := List.foldl_cons ..
theorem State.putAll_concat (ps : List Piece) (p : Piece) : s.putAll c sp (ps ++ [p]) = (s.putAll c sp ps).putPiece c sp p := List.foldl_concat ..
theorem State.putAll_ctxOf (ps : List Piece) : ∃ m, (s.putAll c sp ps).ctxOf c = (s.ctxOf c).withPages m := by
  induction ps generalizing s with
  | nil => exact ⟨_, (s.ctxOf c).withPages_same.symm⟩
  | cons p ps ih =>
    rw [State.putAll_cons]
    obtain ⟨m, first⟩ := s.bufStore_ctxOf c sp p.off (leBytes (p.over (s.mem.readN (bufKey c sp p.off) p.n)) p.n)
    obtain ⟨n, rest⟩ := ih (s.putPiece c sp p)
    rw [State.putPiece_eq, first, Ctx.withPages_withPages] at rest
    exact ⟨n, rest⟩
theorem State.mem_ecc_of_putAll {ps : List Piece} {w : Nat} (h : w ∈ (s.putAll c sp ps).ecc) : w ∈ s.ecc := by
  induction ps generalizing s with
  | nil => exact h
  | cons p ps ih =>
    rw [State.putAll_cons] at h
    have first := ih (s.putPiece c sp p) h
    rw [State.putPiece_eq, State.bufStore_ecc] at first
    exact List.mem_of_mem_filter first
variable {s} in
theorem State.get_putAll (ps : List Piece) (canonical : s.mem.wf = true) (b : Nat) :
    (s.putAll c sp ps).mem.get b = putByte ps (bufKey c sp 0) b (s.mem.get b) := by
  induction ps generalizing s with
  | nil => rfl
  | cons p ps ih =>
    have kept : (s.putPiece c sp p).mem.wf = true := by
      rw [State.putPiece_eq, State.bufStore_mem]; exact Memory.write_wf _ _ _ canonical
    rw [State.putAll_cons, ih kept, State.get_putPiece c sp canonical, ← putByte_cons]

/-- The marks that a store leaves (R149, R206). -/
theorem State.mem_ecc_putPieces {fresh : Bool} {ps : List Piece} {w : Nat} (h : w ∈ (s.putPieces c sp fresh ps).ecc) :
    w ∈ s.ecc ∧ (w < bufKey c sp 0 ∨ ∃ i < 8, coversByte ps (w - bufKey c sp 0 + i) = false) ∧
      (fresh = true → ∀ p ∈ ps, bufKey c sp 0 + p.off + p.n ≤ w ∨ w + 8 ≤ bufKey c sp 0 + p.off) := by
  obtain ⟨before, stays⟩ := List.mem_filter.1 h
  obtain ⟨apart, uncovered⟩ := Bool.or_eq_false_iff.1 (Bool.not_eq_true' _ ▸ stays)
  refine ⟨s.mem_ecc_of_putAll c sp before, ?_, fun isFresh p hp => ?_⟩
  · simpa [Nat.lt_or_ge, or_iff_not_imp_left] using uncovered
  · rw [isFresh, Bool.true_and, List.any_eq_false] at apart
    have := apart p hp
    simp only [Bool.and_eq_true, decide_eq_true_eq] at this
    omega
end

/-! Stores in their port cycle. -/

section
variable {s : State} {c : CoreId} {o : PortOp} {fresh : Bool} {ps : List Piece} (performs : s.performs c o) (act : o.act = .store fresh ps)
include performs act

theorem State.portStep_store : s.portStep c = (s.setCtxOf c (s.ctxOf c).unqueued).putPieces c o.sp fresh ps := by
  rw [State.portStep_performs performs, State.portAct, act]
theorem State.portStep_store_ctxOf : ∃ m, (s.portStep c).ctxOf c = (s.ctxOf c).unqueued.withPages m := by
  obtain ⟨m, h⟩ := (s.setCtxOf c (s.ctxOf c).unqueued).putAll_ctxOf c o.sp ps
  rw [State.ctxOf_setCtxOf] at h
  exact ⟨m, by rw [State.portStep_store performs act]; exact h⟩
theorem State.mem_ecc_portStep {w : Nat} (h : w ∈ (s.portStep c).ecc) :
    w ∈ s.ecc ∧ (w < bufKey c o.sp 0 ∨ ∃ i < 8, coversByte ps (w - bufKey c o.sp 0 + i) = false) ∧
      (fresh = true → ∀ p ∈ ps, bufKey c o.sp 0 + p.off + p.n ≤ w ∨ w + 8 ≤ bufKey c o.sp 0 + p.off) := by
  rw [State.portStep_store performs act] at h
  exact (s.setCtxOf c (s.ctxOf c).unqueued).mem_ecc_putPieces c o.sp h
theorem State.portStep_store_sound (isFresh : fresh = true) {p : Piece} (hp : p ∈ ps) : (s.portStep c).sound (bufKey c o.sp 0 + p.off) p.n := by
  intro w hw
  obtain ⟨-, -, apart⟩ := State.mem_ecc_portStep performs act hw
  exact apart isFresh p hp
end

/-- One piece of whole bytes. -/
theorem State.portStep_store_whole {s : State} {c : CoreId} {o : PortOp} {fresh : Bool} {off n v : Nat} (performs : s.performs c o)
    (act : o.act = .store fresh [wholePiece off n v]) : (s.portStep c).mem = s.mem.write (bufKey c o.sp off) (leBytes (v % 2 ^ (8 * n)) n) := by
  rw [State.portStep_store performs act]
  change ((s.setCtxOf c _).putPiece c o.sp (wholePiece off n v)).mem = _
  rw [State.putPiece_whole, State.bufStore_mem]
  rfl

/-! A store at issue. -/

theorem Ctx.kills_queue (x : Ctx) (now : Nat) (slot : Slot) (syl : Word) (sp : Space) (act : PortAct) (g : Guard) (lat : Nat) :
    (x.queue now slot syl sp act).kills g lat = x.kills g lat := rfl
theorem execSt_queues {s : State} {x : Store} (acts : s.ctx.acts x.g 1)
    (lets : s.ctx.letsIn x.sp (accAddr (s.ctx.src x.a) x.off x.pi) (accW x.t x.dw) true) :
    execSt x s = .next (s.queuing (s.portOp .m x.sp
        (.store true [wholePiece (accAddr (s.ctx.src x.a) x.off x.pi) (accW x.t x.dw) (s.ctx.src x.d).toNat])) 0 (if x.pi then
      [{ fin := s.now + 1, born := s.now, code := srcCode x.a, slot := .m, val := s.ctx.src x.a + x.off.signExtend 64, sq := x.g.sq }] else [])) := by
  obtain ⟨on, lives⟩ := acts
  unfold execSt
  dsimp only
  rw [Ctx.scalarFault_of_letsIn lets, on]
  by_cases pi : x.pi = true
  · rw [if_pos pi, if_pos pi, Ctx.result, Ctx.fly, Ctx.kills_queue, lives]
    rfl
  · rw [if_neg pi, if_neg pi, State.queuing, List.append_nil]
    rfl

/-- Settles O25: a store waits for its port cycle, which writes its pieces in their order and clears the marks they cover. -/
theorem localStores : Obligations.LocalStores := by
  unfold Obligations.LocalStores
  refine ⟨fun s x acts => ?_, fun s c o fresh ps canonical performs act => ?_⟩
  · intro w addr a lets o
    refine ⟨execSt_queues acts lets, fun u canonical performs => ?_⟩
    intro t
    have wrote : t.mem = _ := State.portStep_store_whole performs rfl
    obtain ⟨m, ctx⟩ := State.portStep_store_ctxOf performs rfl
    have sound : t.sound (bufKey s.cur x.sp 0 + addr) w := State.portStep_store_sound performs rfl rfl (List.mem_singleton.2 rfl)
    obtain ⟨-, flight, regs⟩ := (u.ctxOf s.cur).unqueued_withPages_leaves m
    rw [← ctx] at flight regs
    refine ⟨?_, bytesKept_write wrote, ?_, flight, regs⟩
    · rw [wrote]
      refine (Memory.num_write_leBytes u.mem _ w _).trans ?_
      rw [pow_mul]
      exact Nat.mod_mod _ _
    · rwa [← bufKey_add] at sound
  · intro base t
    obtain ⟨m, ctx⟩ := State.portStep_store_ctxOf performs act
    obtain ⟨queue, flight, -⟩ := (s.ctxOf c).unqueued_withPages_leaves m
    rw [← ctx] at queue flight
    refine ⟨fun b => ?_, queue, flight, fun w hw => ?_, fun isFresh p hp => State.portStep_store_sound performs act isFresh hp⟩
    · change (s.portStep c).mem.get b = _
      rw [State.portStep_store performs act]
      exact State.get_putAll (s := s.setCtxOf c (s.ctxOf c).unqueued) c o.sp ps canonical b
    · obtain ⟨before, uncovered, -⟩ := State.mem_ecc_portStep performs act hw
      exact ⟨before, uncovered⟩

end Sys2Proof.Machine
end

section
/-! O26: `pushm` and `popm` (R157). -/
namespace Sys2Proof.Machine

/-! What stands of a context beside its memory accesses. -/

/-- The registers that `State.regsKept` speaks of are the same in two contexts. -/
def Ctx.regsAs (x y : Ctx) : Prop :=
  x.s = y.s ∧ x.o = y.o ∧ x.p = y.p ∧ x.lx = y.lx ∧ x.rows = y.rows ∧ x.fpstat = y.fpstat ∧ x.smstat = y.smstat ∧ x.loops = y.loops ∧
  x.pc = y.pc ∧ x.status = y.status ∧ x.trapvec = y.trapvec ∧ x.trapinfo = y.trapinfo

theorem State.regsKept_iff (s t : State) : s.regsKept t ↔ t.ctx.regsAs s.ctx ∧ ∀ c, c ≠ s.cur → t.core c = s.core c := by
  simp only [State.regsKept, Ctx.regsAs, and_assoc]
theorem State.core_setCtx_ne (s : State) (x : Ctx) {c : CoreId} (h : c ≠ s.cur) : (s.setCtx x).core c = s.core c :=
  State.core_setCore_ne _ _ _ _ h

/-! The hold of the next bundle. -/

theorem State.ctx_holdMulti (s : State) (n : Nat) : (s.holdMulti n).ctx = s.ctx := State.ctxOf_setCore ..
theorem State.holdMulti_holds (s : State) (n : Nat) : s.now + (n + 7) / 8 ≤ ((s.holdMulti n).core s.cur).holdUntil := by
  unfold State.holdMulti
  rw [State.core_setCore]
  exact Nat.le_max_right _ _
theorem State.core_holdMulti_ne (s : State) (n : Nat) {c : CoreId} (h : c ≠ s.cur) : (s.holdMulti n).core c = s.core c :=
  State.core_setCore_ne _ _ _ _ h

/-- A context that keeps its registers takes the place of the current one, and the next bundle is held. -/
theorem State.regsKept_holdMulti {s : State} {x : Ctx} (regs : x.regsAs s.ctx) (n : Nat) : s.regsKept ((s.setCtx x).holdMulti n) := by
  refine (s.regsKept_iff _).2 ⟨?_, fun c other => ?_⟩
  · rw [State.ctx_holdMulti, State.ctx_setCtx]; exact regs
  · exact (State.core_holdMulti_ne (s.setCtx x) n other).trans (s.core_setCtx_ne x other)

/-! `pushm` and `popm` at issue. -/

theorem Ctx.byCode_eq_regAt (c : Ctx) (code : Nat) : c.byCode code = c.regAt code := by
  unfold Ctx.byCode Ctx.regAt
  by_cases main : code < 64
  · rw [if_pos main, dif_pos main]
    congr 1
    exact Fin.ext (Nat.mod_eq_of_lt main)
  · rw [if_neg main, dif_neg main]
    split
    next operand => simp [Array.getD, operand]
    next beyond => simp [Array.getD, beyond]
theorem spOf_toNat {off : Nat} (aligned : off % 8 = 0) (inside : off < 2 ^ 18) : (spOf off).toNat = off := by
  rw [spOf, BitVec.toNat_ofNat]
  omega

/-- The access that a `pushm` queues, and the one that a `popm` does. -/
def State.pushOp (s : State) (x : Multi) : PortOp :=
  s.portOp .m .jb (.store false ((List.range x.n.val).map (fun i => wholePiece (s.ctx.sp.toNat + 8 * i) 8 (s.ctx.regAt (x.f.val + i)).toNat)))
def State.popOp (s : State) (x : Multi) : PortOp := s.portOp .m .jb (.pop (s.ctx.sp.toNat - 8 * x.n.val) x.n.val)
/-- The results that a `popm` puts in flight. -/
def State.popFlights (s : State) (x : Multi) : List Flight :=
  (List.range x.n.val).map (fun i =>
    { fin := s.now + (3 + (x.n.val + 7) / 8), born := s.now, code := x.f.val + i, slot := .m, val := 0, latch := false,
      pid := s.ctx.nextPort + i })
/-- The contexts that they leave. -/
def State.pushCtx (s : State) (x : Multi) : Ctx :=
  { s.ctx with portQ := s.ctx.portQ ++ [s.pushOp x], sp := spOf (s.ctx.sp.toNat + 8 * x.n.val) }
def State.popCtx (s : State) (x : Multi) : Ctx :=
  { s.ctx with portQ := s.ctx.portQ ++ [s.popOp x], nextPort := s.ctx.nextPort + x.n.val, flight := s.ctx.flight ++ s.popFlights x,
               sp := spOf (s.ctx.sp.toNat - 8 * x.n.val) }

section
variable {s : State} {x : Multi} (on : s.ctx.guard x.g = true)
include on

theorem execPushm_queues (low : 0x8000 ≤ s.ctx.sp.toNat) (high : s.ctx.sp.toNat + 8 * x.n.val ≤ 0x3FFF8) :
    execPushm x s = .next ((s.setCtx (s.pushCtx x)).holdMulti x.n.val) := by
  unfold execPushm State.pushCtx State.pushOp
  dsimp only
  rw [on, if_neg (by simp), if_neg (by simp; omega)]
  simp only [Ctx.byCode_eq_regAt]
  rfl
theorem execPushm_traps (outside : s.ctx.sp.toNat < 0x8000 ∨ 0x3FFF8 < s.ctx.sp.toNat + 8 * x.n.val) :
    execPushm x s = .next (s.precise x.g .m .buffer s.ctx.sp.toNat) := by
  unfold execPushm
  dsimp only
  rw [on, if_neg (by simp), if_pos (by simpa using outside)]
theorem execPopm_queues (low : 0x8000 + 8 * x.n.val ≤ s.ctx.sp.toNat) :
    execPopm x s = .next ((s.setCtx (s.popCtx x)).holdMulti x.n.val) := by
  unfold execPopm State.popCtx State.popOp State.popFlights
  dsimp only
  rw [on, if_neg (by simp), if_neg (by omega)]
  simp only [← Nat.add_assoc]
  rfl
theorem execPopm_traps (outside : s.ctx.sp.toNat < 0x8000 + 8 * x.n.val) :
    execPopm x s = .next (s.precise x.g .m .buffer s.ctx.sp.toNat) := by
  unfold execPopm
  dsimp only
  rw [on, if_neg (by simp), if_pos outside]
end

/-! The port cycle of a `pushm`: words one after the other. -/

theorem State.putAll_words (s : State) (c : CoreId) (sp : Space) (a : Nat) (f : Nat → Word) (n : Nat) :
    let t := s.putAll c sp ((List.range n).map (fun i => wholePiece (a + 8 * i) 8 (f i).toNat))
    (∀ i, i < n → t.mem.num (bufKey c sp (a + 8 * i)) 8 = (f i).toNat) ∧ bytesKept s t (bufKey c sp a) (8 * n) := by
  induction n with
  | zero => exact ⟨fun i hi => absurd hi (Nat.not_lt_zero i), fun b _ => rfl⟩
  | succ n ih =>
    obtain ⟨words, kept⟩ := ih
    have key (i : Nat) : bufKey c sp (a + 8 * i) = bufKey c sp a + 8 * i := by
      rw [bufKey_add c sp (a + 8 * i), bufKey_add c sp a, Nat.add_assoc]
    have length (v : Nat) : (leBytes v 8).length = 8 := leBytes_length v 8
    rw [List.range_succ, List.map_append, List.map_singleton, State.putAll_concat, State.putPiece_whole]
    simp only [bytesKept, State.bufStore_mem]
    refine ⟨fun i hi => ?_, fun b outside => ?_⟩
    · rcases Nat.lt_succ_iff_lt_or_eq.1 hi with earlier | rfl
      · rw [Memory.num_write_apart _ (by rw [key, key, length]; omega), words i earlier]
      · rw [Memory.num_write_leBytes]
        have := (f i).isLt
        omega
    · rw [Memory.get_write_out _ _ _ _ (by rw [key, length]; omega)]
      exact kept b (by omega)

/-! The port cycle of a `popm`: each result takes its word. -/

/-- A result with its value. -/
def Flight.got (f : Flight) (v : Word) : Flight := { f with val := v, row := none }
/-- The context with other results in flight. -/
def Ctx.withFlight (x : Ctx) (fs : List Flight) : Ctx := { x with flight := fs }

/-- The results `fl 0`, `fl 1` and on, numbered from `pid`: the first `k` take the values that `v` reads beside the context. -/
theorem State.foldl_give {s : State} {c : CoreId} {n pid : Nat} {fl : Nat → Flight} {v : State → Nat → Word} (bare : (s.ctxOf c).frameFl = [])
    (flight : (s.ctxOf c).flight = (List.range n).map fl) (numbers : ∀ i, i < n → (fl i).pid = pid + i)
    (beside : ∀ x i, v (s.setCtxOf c x) i = v s i) (k : Nat) :
    (List.range k).foldl (fun (t : State) i => t.give c (pid + i) (v t i) none) s =
      s.setCtxOf c ((s.ctxOf c).withFlight ((List.range n).map (fun i => if i < k then (fl i).got (v s i) else fl i))) := by
  induction k with
  | zero =>
    have same : (s.ctxOf c).withFlight ((List.range n).map fl) = s.ctxOf c := by rw [← flight]; rfl
    simp only [List.range_zero, List.foldl_nil, Nat.not_lt_zero, if_false, same, State.setCtxOf_ctxOf]
  | succ k ih =>
    rw [List.range_succ, List.foldl_concat, ih, beside, State.give_flight (by rw [State.ctxOf_setCtxOf]; exact bare), State.ctxOf_setCtxOf,
      State.setCtxOf_setCtxOf]
    refine congrArg (fun fs => s.setCtxOf c ((s.ctxOf c).withFlight fs)) ?_
    rw [Ctx.withFlight, List.map_map]
    refine List.map_congr_left fun i hi => ?_
    have number := numbers i (List.mem_range.1 hi)
    rcases Nat.lt_trichotomy i k with before | rfl | after
    · simp [before, Nat.lt_succ_of_lt before, Flight.got, number, before.ne]
    · simp [Flight.got, number]
    · simp [after.not_gt, (show ¬ i < k + 1 by omega), number, after.ne']

theorem State.portStep_pop {s : State} {c : CoreId} {o : PortOp} {off n : Nat} {fl : Nat → Flight} (canonical : s.mem.wf = true)
    (performs : s.performs c o) (act : o.act = .pop off n) (bare : (s.ctxOf c).frameFl = [])
    (flight : (s.ctxOf c).flight = (List.range n).map fl) (numbers : ∀ i, i < n → (fl i).pid = o.pid + i) :
    s.portStep c = s.setCtxOf c ((s.ctxOf c).unqueued.withFlight
      ((List.range n).map (fun i => (fl i).got (BitVec.ofNat 64 (s.mem.num (bufKey c o.sp (off + 8 * i)) 8))))) := by
  have ctx := s.ctxOf_setCtxOf c (s.ctxOf c).unqueued
  rw [State.portStep_performs performs, State.portAct, act]
  dsimp only
  rw [State.foldl_give (v := fun t i => BitVec.ofNat 64 (t.bufN c o.sp (off + 8 * i) 8)) (by rw [ctx]; exact bare)
    (by rw [ctx]; exact flight) numbers (fun _ _ => rfl), ctx, State.setCtxOf_setCtxOf]
  congr 2
  refine List.map_congr_left fun i hi => ?_
  rw [if_pos (List.mem_range.1 hi), State.bufN, State.setCtxOf_mem, Memory.readN_num _ _ _ canonical]

/-- Settles O26: both queue an access and hold the next bundle; the port cycles move the words one by one. -/
theorem stackMultiple : Obligations.StackMultiple := by
  unfold Obligations.StackMultiple
  refine ⟨fun s x on _ _ _ => ?_, fun s c o off n fl canonical performs act bare flight numbers =>
    State.portStep_pop canonical performs act bare flight numbers⟩
  intro sp n aligned
  have held (x' : Ctx) : ((s.setCtx x').holdMulti n).ctx = x' := by rw [State.ctx_holdMulti, State.ctx_setCtx]
  refine ⟨fun low high => ⟨?_, fun u _ performs => ?_⟩, fun low high => ?_, fun outside => execPushm_traps on outside,
    fun outside => execPopm_traps on outside⟩
  · refine ⟨_, execPushm_queues on low high, ?_, State.regsKept_holdMulti ?_ n, ?_, rfl, ?_, (s.setCtx (s.pushCtx x)).holdMulti_holds n⟩
    · rw [held]; exact spOf_toNat (by omega) (by omega)
    · exact ⟨rfl, rfl, rfl, rfl, rfl, rfl, rfl, rfl, rfl, rfl, rfl, rfl⟩
    · rw [held]; rfl
    · rw [held]; rfl
  · obtain ⟨words, kept⟩ := State.putAll_words (u.setCtxOf s.cur (u.ctxOf s.cur).unqueued) s.cur .jb sp (fun i => s.ctx.regAt (x.f.val + i)) n
    have step : u.portStep s.cur = _ := State.portStep_store performs rfl
    intro t
    change (∀ i, i < n → (u.portStep s.cur).mem.num _ 8 = _) ∧ bytesKept u (u.portStep s.cur) _ _
    rw [step]
    exact ⟨words, kept⟩
  · refine ⟨_, execPopm_queues on low, ?_, State.regsKept_holdMulti ?_ n, rfl, ?_, ?_, ?_, (s.setCtx (s.popCtx x)).holdMulti_holds n⟩
    · rw [held]; exact spOf_toNat (by omega) (by omega)
    · exact ⟨rfl, rfl, rfl, rfl, rfl, rfl, rfl, rfl, rfl, rfl, rfl, rfl⟩
    · rw [held]; rfl
    · rw [held]; rfl
    · rw [held]; rfl

end Sys2Proof.Machine
end

section
/-! O27: the atomics on the own core's buffers (R154 to R156). -/
namespace Sys2Proof.Machine

/-! The read-modify-write (R154). -/

theorem sext_mod (x w : Nat) : sext (x % 2 ^ w) w = sext x w := by unfold sext; rw [Nat.mod_mod]
theorem Ex.isZero_and_neg_iff {x : Ex} : (x.isZero && x.neg) = true ↔ x = .zero true := by
  cases x <;> simp [Ex.isZero, Ex.neg]
/-- The floating maximum, which looks at 32 bits of its operand. -/
theorem AOp.apply_fmax (old b c : Nat) : AOp.fmax.apply 4 old b c = rmw .fmax 4 old b c := by
  have read : decodeEl (b % 2 ^ (8 * 4)) .f32 = decodeEl b .f32 := decodeEl_mod b .f32
  simp only [AOp.apply, rmw, AOp.apply.anySigE, read]
  generalize decodeEl old .f32 = x
  generalize decodeEl b .f32 = y
  cases signalling : x.isSig || y.isSig with
  | true => simp [ETy.nanBits]
  | false =>
    cases nx : x.isNan <;> cases ny : y.isNan
    · cases order : x.cmp y with
      | lt => simp
      | gt => simp
      | eq => simp [Ex.isZero_and_neg_iff, -Bool.and_eq_true]
    all_goals simp [ETy.nanBits]
theorem AOp.apply_eq_rmw (op : AOp) {w : Nat} (old b c : Nat) (single : op = .fadd ∨ op = .fmax → w = 4) :
    op.apply w old b c = rmw op w old b c := by
  cases op with
  | add => simp [AOp.apply, rmw]
  | min | max => simp only [AOp.apply, rmw, sext_mod]
  | cas => simp only [AOp.apply, rmw, beq_iff_eq]
  | fadd =>
    obtain rfl := single (.inl rfl)
    have read : decodeEl (b % 2 ^ (8 * 4)) .f32 = decodeEl b .f32 := decodeEl_mod b .f32
    simp only [AOp.apply, rmw, fAddX, read]
  | fmax =>
    obtain rfl := single (.inr rfl)
    exact AOp.apply_fmax old b c
  | and | or | xor | minn | maxn | xchg => rfl

/-! An atomic at issue. -/

theorem Ctx.tokenPend_zero (x : Ctx) : x.tokenPend 0 = x := rfl
/-- A pending token changes no register. -/
theorem Ctx.tokenPend_regsAs (x : Ctx) (tok : Tok) : (x.tokenPend tok).regsAs x := by
  obtain ⟨ts, shape, -⟩ := x.tokenPend_toks tok
  rw [shape]
  exact ⟨rfl, rfl, rfl, rfl, rfl, rfl, rfl, rfl, rfl, rfl, rfl, rfl⟩
theorem Ctx.mem_tokenPend (x : Ctx) {tok : Tok} (named : tok ≠ 0) : tok ∈ (x.tokenPend tok).toks := by
  obtain ⟨ts, shape, pending⟩ := x.tokenPend_toks tok
  rw [shape]
  exact pending named

/-- The access that a local atomic queues, and the context with it. -/
def State.atomOp (s : State) (x : Atom) (op : AOp) : PortOp :=
  s.portOp .m x.sp (.atom op (s.ctx.src x.a).toNat (accW x.t x.dw) (s.ctx.src x.b).toNat (s.ctx.src x.c).toNat x.t x.dw x.tok)
def State.atomCtx (s : State) (x : Atom) (op : AOp) : Ctx := { s.ctx with portQ := s.ctx.portQ ++ [s.atomOp x op] }

theorem State.atomic_queues {s : State} {x : Atom} (op : AOp) (i : Instr) (on : s.ctx.guard x.g = true) (near : x.sp ≠ .g)
    (lets : s.ctx.letsIn x.sp (s.ctx.src x.a).toNat (accW x.t x.dw) true) :
    s.atomic x op i = .next (s.setCtx ((s.atomCtx x op).tokenPend x.tok)) := by
  unfold State.atomic State.atomLocal
  dsimp only
  rw [on, if_neg (by simp), if_pos (by simpa using near), Ctx.scalarFault_of_letsIn lets]
  rfl

/-! Its port cycle. -/

/-- The context with other token writes to come. -/
def Ctx.withDue (x : Ctx) (ds : List (Nat × Tok × Word)) : Ctx := { x with tokDue := ds }
theorem Ctx.withDue_leaves (x : Ctx) (m : BitVec 64) (ds : List (Nat × Tok × Word)) :
    ((x.unqueued.withPages m).withDue ds).flight = x.flight ∧ ((x.unqueued.withPages m).withDue ds).s = x.s ∧
      ((x.unqueued.withPages m).withDue ds).tokDue = ds ∧ x.unqueued.tokDue = x.tokDue := ⟨rfl, rfl, rfl, rfl⟩
/-- The context whose atomic of token `tok` has met an uncorrectable error, recorded in `p`. -/
def Ctx.atomFails (x : Ctx) (tok : Tok) (p : Pend) : Ctx := { x with toks := x.toks.filter (fun t => tok == 0 || t != tok), pend := x.pend ++ [p] }

section
variable {s : State} {c : CoreId} {o : PortOp} {op : AOp} {off w b d : Nat} {ty : ETy} {dw : Bool} {tok : Tok}

/-- The bank ALU writes the new contents, and the old ones are due in the token. -/
theorem State.atomPort_writes (canonical : s.mem.wf = true) (sound : s.sound (bufKey c o.sp off) w) :
    (s.atomPort c o op off w b d ty dw tok).mem =
        s.mem.write (bufKey c o.sp off) (leBytes (op.apply w (s.mem.num (bufKey c o.sp off) w) b d) w) ∧
      ∃ m, (s.atomPort c o op off w b d ty dw tok).ctxOf c = ((s.ctxOf c).withPages m).withDue (if tok = 0 then (s.ctxOf c).tokDue else
        (s.ctxOf c).tokDue ++ [(o.at_ + 4, tok, extended ty dw (s.mem.num (bufKey c o.sp off) w))]) := by
  have clear := (s.rowEcc_eq_none_iff c o.sp off w).2 sound
  have bytes : s.bufN c o.sp off w = s.mem.num (bufKey c o.sp off) w := Memory.readN_num _ _ _ canonical
  obtain ⟨m, ctx⟩ := s.bufStore_ctxOf c o.sp off (leBytes (op.apply w (s.mem.num (bufKey c o.sp off) w) b d) w)
  unfold State.atomPort
  dsimp only
  rw [clear, if_neg Bool.false_ne_true, bytes, accExt_eq_extended]
  by_cases unnamed : tok = 0
  · rw [if_pos (beq_iff_eq.2 unnamed), if_pos unnamed]
    exact ⟨State.bufStore_mem .., m, ctx⟩
  · rw [if_neg (by simpa using unnamed), if_neg unnamed, State.ctxOf_setCtxOf, State.setCtxOf_mem, ctx]
    exact ⟨State.bufStore_mem .., m, rfl⟩
theorem State.atomPort_fails (unsound : ¬ s.sound (bufKey c o.sp off) w) : ∃ p : Pend, p.cls = .ecc ∧ p.addr = off ∧ p.tok = tok ∧
    s.atomPort c o op off w b d ty dw tok = s.setCtxOf c ((s.ctxOf c).atomFails tok p) := by
  have marked : (s.rowEcc c o.sp [(off, w)]).isSome = true := Bool.not_eq_false _ ▸ (s.rowEcc_eq_none_iff c o.sp off w).not.2 unsound
  unfold State.atomPort
  dsimp only
  rw [if_pos marked]
  exact ⟨_, rfl, rfl, rfl, rfl⟩

theorem State.portStep_atom (performs : s.performs c o) (act : o.act = .atom op off w b d ty dw tok) :
    s.portStep c = (s.setCtxOf c (s.ctxOf c).unqueued).atomPort c o op off w b d ty dw tok := by
  rw [State.portStep_performs performs, State.portAct, act]
theorem State.portStep_atom_writes (canonical : s.mem.wf = true) (performs : s.performs c o) (act : o.act = .atom op off w b d ty dw tok)
    (single : op = .fadd ∨ op = .fmax → w = 4) (sound : s.sound (bufKey c o.sp off) w) :
    (s.portStep c).mem = s.mem.write (bufKey c o.sp off) (leBytes (rmw op w (s.mem.num (bufKey c o.sp off) w) b d) w) ∧
      ((s.portStep c).ctxOf c).flight = (s.ctxOf c).flight ∧ ((s.portStep c).ctxOf c).s = (s.ctxOf c).s ∧
      ((s.portStep c).ctxOf c).tokDue = if tok = 0 then (s.ctxOf c).tokDue else
        (s.ctxOf c).tokDue ++ [(o.at_ + 4, tok, extended ty dw (s.mem.num (bufKey c o.sp off) w))] := by
  obtain ⟨mem, m, after⟩ := State.atomPort_writes (s := s.setCtxOf c (s.ctxOf c).unqueued) (o := o) (op := op) (b := b) (d := d) (ty := ty)
    (dw := dw) (tok := tok) canonical sound
  rw [State.setCtxOf_mem, AOp.apply_eq_rmw op _ b d single] at mem
  rw [State.ctxOf_setCtxOf, State.setCtxOf_mem] at after
  rw [State.portStep_atom performs act, mem, after]
  obtain ⟨flight, regs, due, before⟩ := (s.ctxOf c).withDue_leaves m (if tok = 0 then (s.ctxOf c).unqueued.tokDue else
    (s.ctxOf c).unqueued.tokDue ++ [(o.at_ + 4, tok, extended ty dw (s.mem.num (bufKey c o.sp off) w))])
  exact ⟨rfl, flight, regs, due.trans (by rw [before])⟩
theorem State.portStep_atom_fails (performs : s.performs c o) (act : o.act = .atom op off w b d ty dw tok)
    (unsound : ¬ s.sound (bufKey c o.sp off) w) : (s.portStep c).mem = s.mem ∧ (tok ≠ 0 → tok ∉ ((s.portStep c).ctxOf c).toks) ∧
      ∃ p, ((s.portStep c).ctxOf c).pend = (s.ctxOf c).pend ++ [p] ∧ p.cls = .ecc ∧ p.addr = off ∧ p.tok = tok := by
  obtain ⟨p, cls, addr, token, after⟩ := State.atomPort_fails (s := s.setCtxOf c (s.ctxOf c).unqueued) (o := o) (op := op) (b := b) (d := d)
    (ty := ty) (dw := dw) (tok := tok) unsound
  rw [State.portStep_atom performs act, after, State.ctxOf_setCtxOf, State.setCtxOf_setCtxOf, State.ctxOf_setCtxOf]
  exact ⟨rfl, fun named => by simp [Ctx.atomFails, named], p, rfl, cls, addr, token⟩
end

/-- Settles O27: an atomic waits for its port cycle, where the bank ALU writes, or an error marks the token. -/
theorem localAtomics : Obligations.LocalAtomics := by
  unfold Obligations.LocalAtomics
  refine ⟨fun s x on near => ?_, fun s c o op off w b d ty dw tok canonical performs act single => ?_⟩
  · intro w addr lets does
    have queues (i : Instr) (op : AOp) (run : exec i s = s.atomic x op i) : does i op := by
      refine ⟨_, run.trans (State.atomic_queues op i on near lets), ?_, (s.regsKept_iff _).2 ⟨?_, fun c => s.core_setCtx_ne _⟩, rfl, ?_, ?_,
        fun named => ?_, fun unnamed => ?_⟩ <;> rw [State.ctx_setCtx]
      · obtain ⟨ts, shape, -⟩ := (s.atomCtx x op).tokenPend_toks x.tok
        rw [shape]; rfl
      · exact (s.atomCtx x op).tokenPend_regsAs x.tok
      · obtain ⟨ts, shape, -⟩ := (s.atomCtx x op).tokenPend_toks x.tok
        rw [shape]; rfl
      · obtain ⟨ts, shape, -⟩ := (s.atomCtx x op).tokenPend_toks x.tok
        rw [shape]; rfl
      · exact (s.atomCtx x op).mem_tokenPend named
      · rw [unnamed]; rfl
    exact ⟨queues _ _ rfl, queues _ _ rfl, queues _ _ rfl, queues _ _ rfl, queues _ _ rfl, queues _ _ rfl, queues _ _ rfl, queues _ _ rfl,
      queues _ _ rfl, queues _ _ rfl, queues _ _ rfl, queues _ _ rfl⟩
  · intro a old t
    refine ⟨fun sound => ?_, State.portStep_atom_fails performs act⟩
    obtain ⟨wrote, flight, regs, due⟩ := State.portStep_atom_writes canonical performs act single sound
    refine ⟨?_, bytesKept_write wrote, flight, regs, fun named => due.trans (if_neg named), fun unnamed => due.trans (if_pos unnamed)⟩
    exact (congrArg (fun m => Memory.num m a w) wrote).trans (s.mem.num_write_leBytes a w _)

end Sys2Proof.Machine
end

section
/-! O28: global accesses at issue (R150 to R156, R366). -/
namespace Sys2Proof.Machine

/-! What the kinds of an address refuse (R150, R366). -/

section
variable {s : State} {fn pa n : Nat} {k : AccK}

theorem State.scalarKind_buffer (kind : paKind pa = 2 ∨ paKind pa = 3) : s.scalarKind fn pa n k = some .buffer := by
  unfold State.scalarKind
  rcases kind with kind | kind <;> simp [kind]
theorem State.scalarKind_window (kind : paKind pa = 4) : s.scalarKind fn pa n k = if k = .wr then none else some .buffer := by
  unfold State.scalarKind
  simp [kind]
theorem State.scalarKind_atomic_refused (atomic : k = .at) (far : paKind pa ≠ 0 ∨ paNode pa ≠ s.nodeId) :
    s.scalarKind fn pa n k = some .buffer := by
  unfold State.scalarKind
  have refused : (paKind pa != 0 || paNode pa != s.nodeId) = true := by simpa using far
  simp [atomic, refused]
theorem State.scalarKind_atomic (atomic : k = .at) (kind : paKind pa = 0) (near : paNode pa = s.nodeId) : s.scalarKind fn pa n k = none := by
  unfold State.scalarKind
  simp [atomic, kind, near]
theorem State.scalarKind_control_far (plain : k ≠ .at) (kind : paKind pa = 5) (far : paNode pa ≠ s.nodeId) :
    s.scalarKind fn pa n k = if ctlRow (paOff pa) n k = some true then none else some .buffer := by
  unfold State.scalarKind
  simp [plain, kind, far]
theorem State.scalarKind_control (plain : k ≠ .at) (kind : paKind pa = 5) (near : paNode pa = s.nodeId) :
    s.scalarKind fn pa n k = s.ctlCheck fn (paOff pa) n k := by
  unfold State.scalarKind
  simp [plain, kind, near]
theorem State.scalarKind_plain (plain : k ≠ .at) (kind : paKind pa < 2 ∨ 5 < paKind pa) : s.scalarKind fn pa n k = none := by
  unfold State.scalarKind
  simp [plain, (show paKind pa ≠ 2 by omega), (show paKind pa ≠ 3 by omega), (show paKind pa ≠ 4 by omega), (show paKind pa ≠ 5 by omega)]
theorem State.ctlCheck_outside {off : Nat} (row : ctlRow off n k = none) : s.ctlCheck fn off n k = some .buffer := by
  rw [State.ctlCheck, row]
theorem State.ctlCheck_row {off : Nat} {ok : Bool} (row : ctlRow off n k = some ok) :
    s.ctlCheck fn off n k = if s.ctlOwner off ≠ fn then some .access else if ok = true then none else some .buffer := by
  simp [State.ctlCheck, row]
end

/-! The check of a global access, in its order. -/

section
variable {s u : State} {va n pa : Nat} {k : AccK} {cls : TrapClass}

theorem State.gCheck_misaligned (h : va % n ≠ 0) : s.gCheck va n k = (s, .error .align) := if_pos (by simpa using h)
theorem State.gCheck_untranslated (aligned : va % n = 0) (h : s.xlate s.cur va n k = (u, .error cls)) : s.gCheck va n k = (u, .error cls) := by
  rw [State.gCheck, if_neg (by simpa using aligned), h]
theorem State.gCheck_passes (aligned : va % n = 0) (h : s.xlate s.cur va n k = (u, .ok pa))
    (kind : u.scalarKind u.ctx.fn.val pa n k = none) : s.gCheck va n k = (u, .ok pa) := by
  rw [State.gCheck, if_neg (by simpa using aligned), h]
  dsimp only
  rw [kind]
theorem State.gCheck_refused (aligned : va % n = 0) (h : s.xlate s.cur va n k = (u, .ok pa))
    (kind : u.scalarKind u.ctx.fn.val pa n k = some cls) : s.gCheck va n k = (u, .error cls) := by
  rw [State.gCheck, if_neg (by simpa using aligned), h]
  dsimp only
  rw [kind]
end

/-! A check fills TLBs alone. -/

/-- The clock, memory, the current context and every other core stand. -/
def State.TlbsOnly (s u : State) : Prop := u.cur = s.cur ∧ u.now = s.now ∧ u.mem = s.mem ∧ u.ctx = s.ctx ∧ ∀ c, c ≠ s.cur → u.core c = s.core c

theorem State.tlbsOnly_refl (s : State) : s.TlbsOnly s := ⟨rfl, rfl, rfl, rfl, fun _ _ => rfl⟩
theorem State.tlbsOnly_tlbFill (s : State) (e : TlbEnt) : s.TlbsOnly (s.tlbFill s.cur e) := by
  have core (c : CoreId) : (s.tlbFill s.cur e).core c = (s.setCore s.cur { s.core s.cur with tlb := tlbAdd (s.core s.cur).tlb 256 e }).core c := rfl
  refine ⟨rfl, rfl, rfl, ?_, fun c other => (core c).trans (State.core_setCore_ne _ _ _ _ other)⟩
  exact (congrArg Core.ctx (core s.cur)).trans (by rw [State.core_setCore]; rfl)
theorem State.xlate_tlbsOnly {s u : State} {va n : Nat} {k : AccK} {r : Except TrapClass Nat} (h : s.xlate s.cur va n k = (u, r)) :
    s.TlbsOnly u := by
  obtain same | ⟨e, filled⟩ := s.xlate_fst s.cur va n k
  · rw [h] at same; rw [show u = s from same]; exact s.tlbsOnly_refl
  · rw [h] at filled; rw [show u = _ from filled]; exact s.tlbsOnly_tlbFill e
theorem State.gCheck_tlbsOnly {s u : State} {va n : Nat} {k : AccK} {r : Except TrapClass Nat} (h : s.gCheck va n k = (u, r)) : s.TlbsOnly u := by
  have first : (s.gCheck va n k).1 = u := by rw [h]
  rw [← first]
  by_cases aligned : va % n = 0
  · have walks : (s.gCheck va n k).1 = (s.xlate s.cur va n k).1 := by
      rw [State.gCheck, if_neg (by simpa using aligned)]
      dsimp only
      split
      · rfl
      · split <;> rfl
    rw [walks]
    exact State.xlate_tlbsOnly (r := (s.xlate s.cur va n k).2) rfl
  · rw [State.gCheck_misaligned aligned]
    exact s.tlbsOnly_refl
theorem State.TlbsOnly.regsKept {s u : State} (h : s.TlbsOnly u) : s.regsKept u := by
  obtain ⟨-, -, -, ctx, others⟩ := h
  exact (s.regsKept_iff u).2 ⟨by rw [ctx]; exact ⟨rfl, rfl, rfl, rfl, rfl, rfl, rfl, rfl, rfl, rfl, rfl, rfl⟩, others⟩

/-! An access goes out (R151, R152, R155). -/

/-- An access as its issue describes it (R151, R152, R155). -/
def GAcc.asked (ins : Instr) (va pa width cls : Nat) (tok : Tok) (b c : Word) : GAcc :=
  { id := 0, ins, pc := 0, seq := 0, va, pa, cls, tok, width, b, c }
/-- The context with one more access outstanding. -/
def Ctx.sends (x : Ctx) (g : GAcc) : Ctx := { x.tokenPend g.tok with gacc := x.gacc ++ [g], nextAcc := x.nextAcc + 1 }
/-- The state with the request of an access to this node's HBM in its channel's queue (R143). -/
def State.borrows (s : State) (g : GAcc) : State :=
  if paKind g.pa == 0 && paNode g.pa == s.nodeId then
    s.addTrack { core := s.cur, src := .acc s.ctx.nextAcc, chan := chanOf g.pa, ready := s.now + 1, borrowed := true, fn := s.ctx.fn.val }
  else s
theorem State.issueAcc_eq (s : State) (g : GAcc) : s.issueAcc g = (s.borrows g).setCtx (s.ctx.sends
    { g with id := s.ctx.nextAcc, born := (s.borrows g).now, syl := ((s.borrows g).core (s.borrows g).cur).syllable .m, pc := s.ctx.pc,
             seq := s.ctx.lastSeq.toNat }) := rfl
theorem State.TlbsOnly.borrows {s u : State} (h : s.TlbsOnly u) (g : GAcc) : s.TlbsOnly (u.borrows g) := by
  unfold State.borrows
  split
  · exact h
  · exact h
theorem State.issueAcc_issued {s u : State} (h : s.TlbsOnly u) (g : GAcc) : s.issued (u.issueAcc g) g.ins g.va g.pa g.width g.cls g.tok := by
  obtain ⟨cur, now, mem, -, others⟩ := h.borrows g
  obtain ⟨-, -, -, same, -⟩ := h
  obtain ⟨ts, shape, pending⟩ := s.ctx.tokenPend_toks g.tok
  rw [State.issueAcc_eq, same]
  unfold State.issued
  rw [State.ctx_setCtx, Ctx.sends, shape]
  refine ⟨⟨_, rfl, rfl, rfl, rfl, rfl, rfl, rfl, rfl, rfl, now⟩, rfl, pending, (s.regsKept_iff _).2 ⟨?_, fun c other => ?_⟩, rfl, mem⟩
  · rw [State.ctx_setCtx]
    exact ⟨rfl, rfl, rfl, rfl, rfl, rfl, rfl, rfl, rfl, rfl, rfl, rfl⟩
  · rw [State.core_setCtx_ne _ _ (by rw [cur]; exact other), others c other]

section
variable {s u : State} {pa : Nat} {cls : TrapClass}

theorem execLdg_issues {x : GLoad} (on : s.ctx.guard x.g = true)
    (h : s.gCheck (s.ctx.src x.a + x.off.signExtend 64).toNat (accW x.t x.dw) .rd = (u, .ok pa)) :
    ∃ t, execLdg x s = .next t ∧ s.issued t (.ldg x) (s.ctx.src x.a + x.off.signExtend 64).toNat pa (accW x.t x.dw) x.oc.val x.tok := by
  refine ⟨_, ?_, State.issueAcc_issued (State.gCheck_tlbsOnly h) (GAcc.asked (.ldg x)
    (s.ctx.src x.a + x.off.signExtend 64).toNat pa (accW x.t x.dw) x.oc.val x.tok 0 0)⟩
  unfold execLdg
  dsimp only
  rw [on, offAddr, h]
  rfl
theorem execLdg_traps {x : GLoad} (on : s.ctx.guard x.g = true)
    (h : s.gCheck (s.ctx.src x.a + x.off.signExtend 64).toNat (accW x.t x.dw) .rd = (u, .error cls)) :
    execLdg x s = .next (u.precise x.g .m cls (s.ctx.src x.a + x.off.signExtend 64).toNat) := by
  unfold execLdg
  dsimp only
  rw [on, offAddr, h]
  rfl
theorem execPrf_translated {x : GLoad} (on : s.ctx.guard x.g = true)
    (h : s.xlate s.cur (s.ctx.src x.a + x.off.signExtend 64).toNat 1 .rd = (u, .ok pa)) : execPrf x s = .next u := by
  unfold execPrf
  dsimp only
  rw [on, offAddr, h]
  rfl
theorem execPrf_untranslated {x : GLoad} (on : s.ctx.guard x.g = true)
    (h : s.xlate s.cur (s.ctx.src x.a + x.off.signExtend 64).toNat 1 .rd = (u, .error cls)) : execPrf x s = .next s := by
  unfold execPrf
  dsimp only
  rw [on, offAddr, h]
  rfl

theorem State.issued.winSend {t : State} {i : Instr} {va n k : Nat} {tok : Tok} (h : s.issued t i va pa n k tok) (c : CoreId) (src : WinSrc)
    (idx at_ : Nat) (bs : List Byte) (sh : Bool) (ready : Nat) : s.issued (t.winSend c src idx at_ bs sh ready) i va pa n k tok := h
theorem execStg_issues {y : Store} (on : s.ctx.guard y.g = true)
    (h : s.gCheck (s.ctx.src y.a + y.off.signExtend 64).toNat (accW y.t y.dw) .wr = (u, .ok pa)) :
    ∃ t, execStg y s = .next t ∧ s.issued t (.stg y) (s.ctx.src y.a + y.off.signExtend 64).toNat pa (accW y.t y.dw) y.oc.val 0 := by
  have issued := State.issueAcc_issued (State.gCheck_tlbsOnly h) (GAcc.asked (.stg y)
    (s.ctx.src y.a + y.off.signExtend 64).toNat pa (accW y.t y.dw) y.oc.val 0 (u.ctx.src y.d) 0)
  unfold execStg
  dsimp only
  rw [on, offAddr, h, if_neg (by simp)]
  refine ⟨_, rfl, ?_⟩
  split
  · exact issued.winSend ..
  · exact issued
theorem execStg_traps {y : Store} (on : s.ctx.guard y.g = true)
    (h : s.gCheck (s.ctx.src y.a + y.off.signExtend 64).toNat (accW y.t y.dw) .wr = (u, .error cls)) :
    execStg y s = .next (u.precise y.g .m cls (s.ctx.src y.a + y.off.signExtend 64).toNat) := by
  unfold execStg
  dsimp only
  rw [on, offAddr, h]
  rfl

theorem State.atomic_issues {z : Atom} (op : AOp) (i : Instr) (on : s.ctx.guard z.g = true) (space : z.sp = .g)
    (h : s.gCheck (s.ctx.src z.a).toNat (accW z.t z.dw) .at = (u, .ok pa)) :
    ∃ t, s.atomic z op i = .next t ∧ s.issued t i (s.ctx.src z.a).toNat pa (accW z.t z.dw) z.oc.val z.tok := by
  refine ⟨_, ?_, State.issueAcc_issued (State.gCheck_tlbsOnly h) (GAcc.asked i (s.ctx.src z.a).toNat pa
    (accW z.t z.dw) z.oc.val z.tok (u.ctx.src z.b) (u.ctx.src z.c))⟩
  unfold State.atomic
  dsimp only
  rw [on, space, h]
  rfl
theorem State.atomic_traps {z : Atom} (op : AOp) (i : Instr) (on : s.ctx.guard z.g = true) (space : z.sp = .g)
    (h : s.gCheck (s.ctx.src z.a).toNat (accW z.t z.dw) .at = (u, .error cls)) :
    s.atomic z op i = .next (u.precise z.g .m cls (s.ctx.src z.a).toNat) := by
  unfold State.atomic
  dsimp only
  rw [on, space, h]
  rfl
end

/-- Settles O28: the check by its parts, and what each access does with its answer. -/
theorem globalAccesses : Obligations.GlobalAccesses := by
  unfold Obligations.GlobalAccesses
  refine ⟨fun s u va n pa k cls => ⟨State.gCheck_misaligned, State.gCheck_untranslated, fun aligned translated => ?_⟩,
    fun s u x y z f pa cls => ⟨fun on => ?_, fun on => ?_, fun on space passes => ?_, fun on space fails => ?_, rfl⟩⟩
  · intro kind far ctl pass fail
    have passes (h : u.scalarKind u.ctx.fn.val pa n k = none) : pass := State.gCheck_passes aligned translated h
    have fails {cls : TrapClass} (h : u.scalarKind u.ctx.fn.val pa n k = some cls) : fail cls := State.gCheck_refused aligned translated h
    refine ⟨fun buffer => fails (State.scalarKind_buffer buffer), fun window read => fails ((State.scalarKind_window window).trans (if_neg read)),
      fun window write => passes ((State.scalarKind_window window).trans (if_pos write)),
      fun atomic refused => fails (State.scalarKind_atomic_refused atomic refused),
      fun atomic hbm near => passes (State.scalarKind_atomic atomic hbm (not_not.1 near)), fun plain control away => ?_,
      fun plain control near => ?_, fun plain memory => passes (State.scalarKind_plain plain memory)⟩
    · have row := State.scalarKind_control_far (s := u) (fn := u.ctx.fn.val) (n := n) plain control away
      exact ⟨fun allowed => passes (row.trans (if_pos allowed)), fun refused => fails (row.trans (if_neg refused))⟩
    · have row := State.scalarKind_control (s := u) (fn := u.ctx.fn.val) (n := n) plain control (not_not.1 near)
      refine ⟨fun outside => fails (row.trans (State.ctlCheck_outside outside)), fun ok named => ?_⟩
      have owned := row.trans (State.ctlCheck_row named)
      refine ⟨fun foreign => fails (owned.trans (if_pos foreign)), fun own => ⟨fun allowed => ?_, fun refused => ?_⟩⟩
      · exact passes (owned.trans ((if_neg (not_not.2 own)).trans (if_pos allowed)))
      · exact fails (owned.trans ((if_neg (not_not.2 own)).trans (if_neg (by rw [refused]; decide))))
  · refine ⟨execLdg_issues on, execLdg_traps on, fun translated => ?_, execPrf_untranslated on⟩
    have filled := State.xlate_tlbsOnly translated
    obtain ⟨-, -, mem, ctx, -⟩ := id filled
    exact ⟨execPrf_translated on translated, filled.regsKept, mem, congrArg Ctx.gacc ctx⟩
  · exact ⟨execStg_issues on, execStg_traps on⟩
  · intro goes
    have issues (op : AOp) (i : Instr) (run : exec i s = s.atomic z op i) : goes i := by
      obtain ⟨t, sent, issued⟩ := State.atomic_issues op i on space passes
      exact ⟨t, run.trans sent, issued⟩
    exact ⟨issues _ _ rfl, issues _ _ rfl, issues _ _ rfl, issues _ _ rfl, issues _ _ rfl, issues _ _ rfl, issues _ _ rfl, issues _ _ rfl,
      issues _ _ rfl, issues _ _ rfl, issues _ _ rfl, issues _ _ rfl⟩
  · have traps (op : AOp) (i : Instr) (run : exec i s = s.atomic z op i) : exec i s = .next (u.precise z.g .m cls (s.ctx.src z.a).toNat) :=
      run.trans (State.atomic_traps op i on space fails)
    simp only [List.forall_mem_cons]
    exact ⟨traps _ _ rfl, traps _ _ rfl, traps _ _ rfl, traps _ _ rfl, traps _ _ rfl, traps _ _ rfl, traps _ _ rfl, traps _ _ rfl,
      traps _ _ rfl, traps _ _ rfl, traps _ _ rfl, traps _ _ rfl, fun _ none => absurd none List.not_mem_nil⟩

end Sys2Proof.Machine
end

section
/-! O29: the answers of global accesses. An answered access leaves the outstanding ones; its token, its bytes, or both are written. -/
namespace Sys2Proof.Machine

/-- What an access reads does not depend on the requests and packets that wait. -/
theorem State.gRead_waiting (s : State) (ts : List TrackReq) (ps : List Pkt) (pa n : Nat) (ans : Answer) :
    ({ s with tracks := ts, pkts := ps } : State).gRead pa n ans = s.gRead pa n ans := rfl
theorem Ctx.gacc_tokenWrite (x : Ctx) (tok : Tok) (v : Word) : (x.tokenWrite tok v).gacc = x.gacc := by
  unfold Ctx.tokenWrite
  split <;> rfl
theorem Ctx.dropAcc_leaves (x : Ctx) (id : Nat) :
    (x.dropAcc id).s = x.s ∧ (x.dropAcc id).o = x.o ∧ (x.dropAcc id).p = x.p ∧ (x.dropAcc id).rows = x.rows ∧
      (x.dropAcc id).pend = x.pend := ⟨rfl, rfl, rfl, rfl, rfl⟩
theorem Ctx.rs_dropAcc (x : Ctx) (id : Nat) (i : Tok) : (x.dropAcc id).rs i = x.rs i := by unfold Ctx.rs; rfl
theorem Ctx.markTok_marks (x : Ctx) (g : GAcc) (cls : TrapClass) : (x.markTok g cls).gacc = x.gacc ∧ (x.markTok g cls).s = x.s ∧
    g.tok ∉ (x.markTok g cls).toks ∧
    ∃ p, (x.markTok g cls).pend = x.pend ++ [p] ∧ p.cls = cls ∧ p.pc = g.pc ∧ p.tok = g.tok ∧ p.addr = g.va := by
  refine ⟨rfl, rfl, ?_, _, rfl, rfl, rfl, rfl, rfl⟩
  unfold Ctx.markTok
  simp
theorem Ctx.recordStore_records (x : Ctx) (g : GAcc) (cls : TrapClass) : (x.recordStore g cls).gacc = x.gacc ∧
    ∃ p, (x.recordStore g cls).pend = x.pend ++ [p] ∧ p.cls = cls ∧ p.pc = g.pc ∧ p.store = true := ⟨rfl, _, rfl, rfl, rfl, rfl⟩

section
variable {s t : State} {a : AccAns} {g : GAcc}

/-- The access has performed and its token is written. -/
theorem tokenGot_of_ctxOf {c : CoreId} {id : Nat} {tok : Tok} {v : Word} (h : t.ctxOf c = ((s.ctxOf c).dropAcc id).tokenWrite tok v) :
    tokenGot s t c tok v := by
  obtain ⟨ho, hp, hrows, -⟩ := ((s.ctxOf c).dropAcc id).tokenWrite_files tok v
  obtain ⟨-, ho', hp', hrows', -⟩ := (s.ctxOf c).dropAcc_leaves id
  unfold tokenGot
  rw [h, ho, hp, hrows]
  exact ⟨fun named => Ctx.rs_tokenWrite_same _ named v,
    fun i other => (Ctx.rs_tokenWrite_other _ other v).trans (Ctx.rs_dropAcc ..), ho', hp', hrows'⟩

/-- The state in which an answer that came is taken: its request and its packet wait no more. -/
def State.answered (s : State) (a : AccAns) : State := (s.dropTrack a.core (.acc a.id) 0).dropPkt (.acc a.core a.id)
theorem State.answered_gRead (s : State) (a : AccAns) (pa n : Nat) (ans : Answer) : (s.answered a).gRead pa n ans = s.gRead pa n ans :=
  s.gRead_waiting _ _ pa n ans

/-- The load gives its token the bytes. -/
theorem execLdgReturn_ok {x : GLoad} {bs : List Byte} (found : s.acc? a = some g) (ins : g.ins = .ldg x)
    (reads : s.gRead g.pa g.width a.ans = .ok bs) : execLdgReturn a s = .next ((s.answered a).setCtxOf a.core
      (((s.ctxOf a.core).dropAcc a.id).tokenWrite x.tok (accExt x.t x.dw (leNat bs)))) := by
  rw [← State.answered_gRead s a] at reads
  unfold execLdgReturn
  rw [found]
  dsimp only
  rw [ins, ← State.answered, reads]
  rfl
theorem execLdgReturn_error {x : GLoad} {cls : TrapClass} (found : s.acc? a = some g) (ins : g.ins = .ldg x)
    (reads : s.gRead g.pa g.width a.ans = .error cls) :
    execLdgReturn a s = .next ((s.answered a).setCtxOf a.core (((s.ctxOf a.core).dropAcc a.id).markTok g cls)) := by
  rw [← State.answered_gRead s a] at reads
  unfold execLdgReturn
  rw [found]
  dsimp only
  rw [ins, ← State.answered, reads]
  rfl

/-- The store's bytes land in this node's HBM or slices. -/
theorem execStgAck_own {x : Store} (found : s.acc? a = some g) (ins : g.ins = .stg x) (near : paNode g.pa = s.nodeId)
    (kind : paKind g.pa < 2) : execStgAck a s = .next (((s.answered a).store (paKey g.pa) (leBytes g.b.toNat g.width)).setCtxOf a.core
      ((s.ctxOf a.core).dropAcc a.id)) := by
  have own : (paNode g.pa == (s.answered a).nodeId) = true := beq_iff_eq.2 near
  have window : (paKind g.pa == 4) = false := by simp; omega
  have control : (paKind g.pa == 5) = false := by simp; omega
  have pool : decide (0x10 ≤ paKind g.pa) = false := by simp; omega
  unfold execStgAck
  rw [found]
  dsimp only
  rw [ins, ← State.answered]
  dsimp only
  rw [own, window, control, pool]
  rfl
/-- The failure that reached a store to another node is recorded. -/
theorem execStgAck_fails {x : Store} {cls : TrapClass} (found : s.acc? a = some g) (ins : g.ins = .stg x)
    (far : paNode g.pa ≠ s.nodeId) (fails : a.ans = .fail cls) :
    execStgAck a s = .next ((s.answered a).setCtxOf a.core (((s.ctxOf a.core).dropAcc a.id).recordStore g cls)) := by
  have own : (paNode g.pa == (s.answered a).nodeId) = false := beq_eq_false_iff_ne.2 far
  unfold execStgAck
  rw [found]
  dsimp only
  rw [ins, ← State.answered]
  dsimp only
  rw [own, fails]
  rfl

/-- The atomic gives its token the old contents and writes the new ones. -/
theorem execGlobalAtomicReturn_ok {op : AOp} {x : Atom} {bs : List Byte} (found : s.acc? a = some g) (atom : atomOf g.ins = some (op, x))
    (reads : s.gRead g.pa g.width (.ok []) = .ok bs) : execGlobalAtomicReturn a s = .next
      (((s.dropTrack a.core (.acc a.id) 0).setCtxOf a.core
        (((s.ctxOf a.core).dropAcc a.id).tokenWrite x.tok (accExt x.t x.dw (leNat bs)))).store (paKey g.pa)
          (leBytes (op.apply g.width (leNat bs) g.b.toNat g.c.toNat) g.width)) := by
  have reads' : (s.dropTrack a.core (.acc a.id) 0).gRead g.pa g.width (.ok []) = .ok bs := (s.gRead_waiting _ s.pkts ..).trans reads
  unfold execGlobalAtomicReturn
  rw [found]
  dsimp only
  rw [atom]
  dsimp only
  rw [reads']
  rfl
end

/-- Settles O29: the five answers, each the state that its event leaves, read by the rules of the context's part it changes. -/
theorem globalReturns : Obligations.GlobalReturns := by
  unfold Obligations.GlobalReturns
  intro s a g bs cls found c gone
  refine ⟨fun x ins => ⟨fun reads => ⟨_, execLdgReturn_ok found ins reads, ?_, tokenGot_of_ctxOf (State.ctxOf_setCtxOf ..), rfl,
      fun d other => State.core_setCore_ne _ _ _ _ other⟩, fun reads => ⟨_, execLdgReturn_error found ins reads, ?_⟩⟩,
    fun x ins near kind => ⟨_, execStgAck_own found ins near kind, ?_, ?_, bytesKept_write rfl, ?_⟩,
    fun x ins far fails => ⟨_, execStgAck_fails found ins far fails, ?_⟩,
    fun op x atom reads => ⟨_, execGlobalAtomicReturn_ok found atom reads, ?_, tokenGot_of_ctxOf (State.ctxOf_setCtxOf ..),
      bytesKept_write rfl, Memory.num_write_leBytes ..⟩⟩
  · exact (congrArg Ctx.gacc (State.ctxOf_setCtxOf ..)).trans (Ctx.gacc_tokenWrite ..)
  · obtain ⟨acc, regs, unmarked, recorded⟩ := ((s.ctxOf c).dropAcc a.id).markTok_marks g cls
    dsimp only [gone]
    rw [State.ctxOf_setCtxOf]
    exact ⟨acc, regs, unmarked, recorded⟩
  · exact congrArg Ctx.gacc (State.ctxOf_setCtxOf ..)
  · exact Memory.num_write_leBytes ..
  · exact (congrArg Ctx.s (State.ctxOf_setCtxOf ..)).trans (Ctx.dropAcc_leaves ..).1
  · obtain ⟨acc, recorded⟩ := ((s.ctxOf c).dropAcc a.id).recordStore_records g cls
    dsimp only [gone]
    rw [State.ctxOf_setCtxOf]
    exact ⟨acc, rfl, recorded⟩
  · exact (congrArg Ctx.gacc (State.ctxOf_setCtxOf ..)).trans (Ctx.gacc_tokenWrite ..)

end Sys2Proof.Machine
end

section
/-! O36, O37: rows and their elements. What a row made of elements holds, and when an instruction gives such a row (R177, R178, R182). -/
namespace Sys2Proof.Machine

/-! Elements packed into a number. -/

/-- Elements of width `w` as one number, the first lowest. -/
def packed (xs : List Nat) (w : Nat) : Nat := xs.foldr (fun x a => a * 2 ^ w + x % 2 ^ w) 0

theorem packed_lt (xs : List Nat) (w : Nat) : packed xs w < 2 ^ (w * xs.length) := by
  induction xs with
  | nil => simp [packed]
  | cons x xs ih =>
    have low := Nat.mod_lt x (Nat.two_pow_pos w)
    calc packed xs w * 2 ^ w + x % 2 ^ w < (packed xs w + 1) * 2 ^ w := by rw [Nat.succ_mul]; omega
      _ ≤ 2 ^ (w * xs.length) * 2 ^ w := Nat.mul_le_mul_right _ ih
      _ = 2 ^ (w * (xs.length + 1)) := by rw [← Nat.pow_add, Nat.mul_succ]
theorem bits_packed (xs : List Nat) (w e : Nat) : bits (packed xs w) (w * e) w = xs[e]?.getD 0 % 2 ^ w := by
  have pos := Nat.two_pow_pos w
  induction xs generalizing e with
  | nil => simp [packed, bits]
  | cons x xs ih =>
    cases e with
    | zero =>
      change (packed xs w * 2 ^ w + x % 2 ^ w) / 2 ^ 0 % 2 ^ w = x % 2 ^ w
      rw [Nat.pow_zero, Nat.div_one, Nat.mul_comm, Nat.mul_add_mod, Nat.mod_mod]
    | succ e =>
      change (packed xs w * 2 ^ w + x % 2 ^ w) / 2 ^ (w * (e + 1)) % 2 ^ w = xs[e]?.getD 0 % 2 ^ w
      rw [← ih e, bits, Nat.mul_succ, Nat.add_comm (w * e), Nat.pow_add, ← Nat.div_div_eq_div_mul, Nat.mul_comm (packed xs w),
        Nat.mul_add_div pos, Nat.div_eq_of_lt (Nat.mod_lt x pos), Nat.add_zero]

/-! Elements of a row. -/

theorem el_eq_bits (r : Row) (w e : Nat) : el r w e = bits r.toNat (w * e) w := by
  rw [el, BitVec.extractLsb'_toNat, bits, Nat.shiftRight_eq_div_pow]
theorem el_lt (r : Row) (w e : Nat) : el r w e < 2 ^ w := BitVec.isLt _
theorem rowEls_eq (r : Row) (w : Nat) : rowEls r w = (List.range (4096 / w)).map (el r w) := by
  rw [rowEls]
  exact List.map_congr_left fun e _ => (el_eq_bits r w e).symm
/-- The element `e` of a row made of elements. -/
theorem el_rowOf (xs : List Nat) {w e : Nat} (h : e < 4096 / w) : el (rowOf xs w) w e = xs[e]?.getD 0 % 2 ^ w := by
  have inside : w * e + w ≤ 4096 := by
    rw [← Nat.mul_succ, Nat.mul_comm]; exact Nat.mul_le_of_le_div _ _ _ h
  rw [← bits_packed, el]
  refine Nat.eq_of_testBit_eq fun i => ?_
  rw [bits, Nat.testBit_mod_two_pow, Nat.testBit_div_two_pow, BitVec.testBit_toNat, BitVec.getLsbD_extractLsb', rowOf, BitVec.getLsbD_ofNat]
  by_cases hi : i < w
  · rw [decide_eq_true hi, decide_eq_true (show w * e + i < 4096 by omega), Nat.add_comm i]; rfl
  · simp [hi]
theorem el_bcast (v : Word) {w e : Nat} (h : e < 4096 / w) : el (bcast v w) w e = v.toNat % 2 ^ w := by
  rw [bcast, el_rowOf _ h, List.getElem?_replicate, if_pos h, Option.getD_some, Nat.mod_mod]

/-- Some elements of a row, from one on. -/
theorem take_drop_rowEls (r : Row) {w lo n : Nat} (h : lo + n ≤ 4096 / w) :
    ((rowEls r w).drop lo).take n = (List.range n).map (fun e => el r w (lo + e)) := by
  refine List.ext_getElem (by simp [rowEls_eq]; omega) fun i _ _ => by simp [rowEls_eq]
theorem zip_map_range {α β : Type} (n : Nat) (f : Nat → α) (g : Nat → β) :
    ((List.range n).map f).zip ((List.range n).map g) = (List.range n).map (fun e => (f e, g e)) := List.zip_map'
theorem zip_range {α : Type} (n : Nat) (f : Nat → α) : ((List.range n).map f).zip (List.range n) = (List.range n).map (fun e => (f e, e)) := by
  simpa using zip_map_range n f id

/-! Flags of several elements. -/

theorem getLsbD_foldl_or {α : Type} (g : α → Fl) (xs : List α) (a : Fl) (b : Nat) :
    (xs.foldl (fun a x => a ||| g x) a).getLsbD b = true ↔ a.getLsbD b = true ∨ ∃ x ∈ xs, (g x).getLsbD b = true := by
  induction xs generalizing a with
  | nil => simp
  | cons x xs ih => rw [List.foldl_cons, ih, BitVec.getLsbD_or, Bool.or_eq_true, List.exists_mem_cons_iff, or_assoc]
theorem mapFl_map {α β : Type} (f : β → Nat × Fl) (g : α → β) (xs : List α) : mapFl f (xs.map g) = mapFl (fun x => f (g x)) xs := by
  simp only [mapFl, List.map_map]; rfl
theorem mapFl_fst {α : Type} (f : α → Nat × Fl) (xs : List α) : (mapFl f xs).1 = xs.map (fun x => (f x).1) := by
  simp [mapFl]
theorem getLsbD_mapFl {α : Type} (f : α → Nat × Fl) (xs : List α) (b : Nat) :
    (mapFl f xs).2.getLsbD b = true ↔ ∃ x ∈ xs, (f x).2.getLsbD b = true := by
  have flags := getLsbD_foldl_or Prod.snd (xs.map f) 0 b
  simpa [mapFl] using flags

/-! Instructions that give a row. -/

section
variable {s : State} {i : Instr} {g : Guard} {lat w : Nat} {d : Fin 128}

/-- From the list of its elements, and their flags. -/
theorem State.givesRow_of_vels {p : List Nat × Fl} {f : Nat → Nat × Fl} (h : exec i s = s.vels g lat d w p)
    (elements : ∀ e, e < 4096 / w → p.1[e]? = some (f e).1) (small : ∀ e, e < 4096 / w → (f e).1 < 2 ^ w)
    (flags : ∀ b, p.2.getLsbD b = true ↔ ∃ e, e < 4096 / w ∧ (f e).2.getLsbD b = true) : s.givesRow i g lat d w f := by
  refine fun acts => ⟨rowOf p.1 w, p.2, fun e he => ?_, flags, fun quiet => h.trans (State.finish_gives .v _ _ _ acts quiet)⟩
  rw [el_rowOf p.1 he, elements e he, Option.getD_some, Nat.mod_eq_of_lt (small e he)]
/-- Each element from its place, with its flags. -/
theorem State.givesRow_of_mapFl {f : Nat → Nat × Fl} (h : exec i s = s.vels g lat d w (mapFl f (List.range (4096 / w))))
    (small : ∀ e, e < 4096 / w → (f e).1 < 2 ^ w) : s.givesRow i g lat d w f :=
  State.givesRow_of_vels h (fun e he => by simp [mapFl, he]) small (fun b => (getLsbD_mapFl f _ b).trans (by simp))
/-- Without flags. -/
theorem State.givesRow_of_map {f : Nat → Nat} (h : exec i s = s.vels g lat d w ((List.range (4096 / w)).map f, 0))
    (small : ∀ e, e < 4096 / w → f e < 2 ^ w) : s.givesRow i g lat d w (fun e => (f e, 0)) :=
  State.givesRow_of_vels h (fun e he => by simp [he]) small (fun b => by simp)
end

end Sys2Proof.Machine
end

section
/-! O36: element-wise rows. The element that each operation leaves, and its flags (R182 to R189). -/
namespace Sys2Proof.Machine

/-! Widths (R23, R24) and encodings. -/

theorem ETy.sw_pos (t : ETy) : 0 < ETy.sw t := by cases t <;> decide
theorem ETy.bits_le_sw (t : ETy) : ETy.bits t ≤ ETy.sw t := by cases t <;> decide
theorem ETy.bits_of_isInt {t : ETy} (h : ETy.isInt t = true) : ETy.bits t = ETy.sw t := by revert h; cases t <;> decide
theorem ETy.bits_of_f3 {t : ETy} (h : t.f3 = true) : ETy.bits t = ETy.sw t := by revert h; cases t <;> decide
theorem ETy.isFloat_of_f3 {t : ETy} (h : t.f3 = true) : ETy.isFloat t = true := by revert h; cases t <;> decide
theorem ETy.not_isFloat_of_isInt {t : ETy} (h : ETy.isInt t = true) : ETy.isFloat t = false := by revert h; cases t <;> decide

theorem wrapInt_lt (k : Int) (w : Nat) : wrapInt k w < 2 ^ w := by
  have pos : (0 : Int) < 2 ^ w := by positivity
  have := Int.emod_lt_of_pos k pos
  have := Int.emod_nonneg k pos.ne'
  rw [wrapInt]
  zify
  omega
theorem wrapInt_eq_toNat (k : Int) (w : Nat) : wrapInt k w = (BitVec.ofInt w k).toNat := by
  rw [BitVec.toNat_ofInt, wrapInt]; push_cast; rfl
theorem withSign_lt {t : ETy} (n : Bool) {m : Nat} (h : m < ETy.signBit t) : withSign t n m < 2 ^ ETy.bits t := by
  have double : 2 ^ ETy.bits t = 2 * ETy.signBit t := by cases t <;> rfl
  unfold withSign
  split <;> omega
theorem nanBits_lt (t : ETy) : ETy.nanBits t < 2 ^ ETy.bits t := by cases t <;> decide
theorem maxBits_lt (t : ETy) : ETy.maxBits t < ETy.signBit t := by cases t <;> decide
theorem infBits_lt {t : ETy} (h : t ≠ .f8a) : ETy.infBits t < ETy.signBit t := by revert h; cases t <;> decide
theorem signBit_pos (t : ETy) : 0 < ETy.signBit t := Nat.two_pow_pos _
theorem encodeEl_lt_of_isInt (x : Ex) {t : ETy} (int : ETy.isInt t = true) (rm : Rm) (ftz sat : Bool) :
    (encodeEl x t rm ftz sat).1 < 2 ^ ETy.bits t := by
  unfold encodeEl
  rw [if_pos int]
  cases x with
  | fin q => dsimp only; split_ifs <;> dsimp only <;> exact wrapInt_lt ..
  | inf n => exact wrapInt_lt _ (ETy.bits t)
  | _ => exact Nat.two_pow_pos _
theorem encodeEl_lg6_lt (x : Ex) (rm : Rm) (ftz sat : Bool) : (encodeEl x .lg6 rm ftz sat).1 < 2 ^ ETy.bits .lg6 := by
  change _ < 64
  unfold encodeEl
  rw [if_neg (by decide), if_pos (by decide)]
  cases x with
  | fin q =>
    have code := wrapInt_lt (lg6Code q rm).1 5
    have sign : (if q.n < 0 then 0x20 else 0) ≤ 0x20 := by split <;> decide
    dsimp only
    split_ifs at sign ⊢ <;> dsimp only <;> omega
  | inf n => dsimp only; split <;> decide
  | nan s => exact (by decide : 16 < 64)
  | zero n => exact (by decide : 16 < 64)
theorem encodeEl_float_lt (x : Ex) {t : ETy} (notInt : ¬ ETy.isInt t = true) (notLog : ¬ (t == .lg6) = true) (rm : Rm) (ftz sat : Bool) :
    (encodeEl x t rm ftz sat).1 < 2 ^ ETy.bits t := by
  have max (n : Bool) : withSign t n (ETy.maxBits t) < 2 ^ ETy.bits t := withSign_lt n (maxBits_lt t)
  have zero (n : Bool) : withSign t n 0 < 2 ^ ETy.bits t := withSign_lt n (signBit_pos t)
  have inf (n : Bool) (h : ¬ (t == .f8a) = true) : withSign t n (ETy.infBits t) < 2 ^ ETy.bits t :=
    withSign_lt n (infBits_lt (by simpa using h))
  have nan := nanBits_lt t
  unfold encodeEl
  rw [if_neg notInt, if_neg notLog]
  cases x with
  | nan s => exact nan
  | zero n => exact zero n
  | inf n =>
    dsimp only
    split_ifs with _ h
    exacts [max n, nan, inf n h]
  | fin q =>
    dsimp only
    split
    · exact zero _
    split
    case isTrue fits => exact withSign_lt _ (fits.trans_lt (maxBits_lt t))
    split
    · exact max _
    split
    · dsimp only
      split_ifs with h
      exacts [nan, inf _ h]
    · exact max _
/-- An encoding fits its type (R31). -/
theorem encodeEl_lt (x : Ex) (t : ETy) (rm : Rm) (ftz sat : Bool) : (encodeEl x t rm ftz sat).1 < 2 ^ ETy.bits t := by
  by_cases int : ETy.isInt t = true
  · exact encodeEl_lt_of_isInt x int rm ftz sat
  by_cases log : (t == .lg6) = true
  · rw [beq_iff_eq.1 log]; exact encodeEl_lg6_lt x rm ftz sat
  · exact encodeEl_float_lt x int log rm ftz sat
theorem fEl_lt (t : ETy) (rm : Rm) (ftz sat : Bool) (r : Ex × Fl) : (fEl t rm ftz sat r).1 < 2 ^ ETy.sw t :=
  (encodeEl_lt ..).trans_le (Nat.pow_le_pow_right two_pos (ETy.bits_le_sw t))
theorem patternR100_lt (t : ETy) (ftz : Bool) (a : Nat) : patternR100 t ftz a < 2 ^ ETy.bits t := by
  unfold patternR100
  split
  · exact withSign_lt _ (signBit_pos t)
  · exact Nat.mod_lt _ (Nat.two_pow_pos _)
theorem fMinMax_lt (mx : Bool) (t : ETy) (ftz : Bool) (a b : Nat) : (fMinMax mx t ftz a b).1 < 2 ^ ETy.bits t := by
  have nan := nanBits_lt t
  have first := patternR100_lt t ftz a
  have second := patternR100_lt t ftz b
  rw [fMinMax_eq]
  dsimp only
  split_ifs <;> assumption

/-! Integer elements (R29, R183). -/

section
variable {t : ETy} (int : ETy.isInt t = true)
include int

theorem ival_eq_elInt {b : Nat} (h : b < 2 ^ ETy.sw t) : ival t b = elInt t b := by
  rw [← ETy.bits_of_isInt int] at h
  have := elInt_eq t b
  rw [Nat.mod_eq_of_lt h] at this
  exact this.symm
theorem ival_el (r : Row) (e : Nat) : ival t (el r (ETy.sw t) e) = elInt t (el r (ETy.sw t) e) := ival_eq_elInt int (el_lt ..)
theorem intRes_eq_intEl (sat : Bool) (v : Int) : intRes t sat v = intEl t sat v := by
  have bounds : ETy.lo t ≤ ETy.hi t := by cases t <;> decide
  unfold intRes intEl
  rw [ETy.bits_of_isInt int]
  simp only [wrapInt_eq_toNat]
  cases sat with
  | false => rfl
  | true =>
    rcases lt_or_ge v (ETy.lo t) with low | notLow
    · rw [max_eq_left (by omega)]
      simp [low, low.ne']
    rcases lt_or_ge (ETy.hi t) v with high | notHigh
    · have clamp : max (ETy.lo t) (min v (ETy.hi t)) = ETy.hi t := by omega
      rw [clamp]
      simp [notLow.not_gt, high, high.ne]
    · have clamp : max (ETy.lo t) (min v (ETy.hi t)) = v := by omega
      rw [clamp]
      simp [notLow.not_gt, notHigh.not_gt]
end
theorem intEl_lt (t : ETy) (sat : Bool) (v : Int) : (intEl t sat v).1 < 2 ^ ETy.sw t := BitVec.isLt _

/-! Two, three and one operands (R183). -/

section
variable {s : State} {i : Instr}

theorem State.vbin_float {x : VBin} {latI latF : Nat} {fi : Int → Int → Int} {ff : Nat → Nat → Nat × Fl}
    (h : exec i s = s.vbin x latI latF fi ff) (f3 : x.t.f3 = true) (small : ∀ a b, (ff a b).1 < 2 ^ ETy.sw x.t) :
    s.givesRow i x.g latF x.d (ETy.sw x.t)
      (fun e => ff (el (s.ctx.row x.a) (ETy.sw x.t) e) (el (s.ctx.rsrc (ETy.sw x.t) x.b) (ETy.sw x.t) e)) := by
  refine State.givesRow_of_mapFl (h.trans ?_) fun e _ => small _ _
  unfold State.vbin
  dsimp only
  rw [ETy.isFloat_of_f3 f3, if_pos rfl, rowEls_eq, rowEls_eq, zip_map_range, mapFl_map]
/-- An operation of R99 on each pair of elements. -/
theorem State.vbin_op {x : VBin} {latI latF : Nat} {fi : Int → Int → Int} {op : Rm → Ex → Ex → Ex × Fl}
    (h : exec i s = s.vbin x latI latF fi (fop2 op x.t x.rm x.ftz x.sat)) (f3 : x.t.f3 = true) :
    s.givesRow i x.g latF x.d (ETy.sw x.t) (fun e => fEl x.t x.rm x.ftz x.sat
      (op x.rm (flushIn x.ftz (decodeEl (el (s.ctx.row x.a) (ETy.sw x.t) e) x.t))
        (flushIn x.ftz (decodeEl (el (s.ctx.rsrc (ETy.sw x.t) x.b) (ETy.sw x.t) e) x.t)))) :=
  State.vbin_float h f3 fun _ _ => fEl_lt ..
theorem State.vbin_int {x : VBin} {latI latF : Nat} {fi : Int → Int → Int} {ff : Nat → Nat → Nat × Fl} (op : Int → Int → Int)
    (h : exec i s = s.vbin x latI latF fi ff) (int : ETy.isInt x.t = true) (same : ∀ p q, fi p q = op p q) :
    s.givesRow i x.g latI x.d (ETy.sw x.t) (fun e => intEl x.t x.sat (op (elInt x.t (el (s.ctx.row x.a) (ETy.sw x.t) e))
      (elInt x.t (el (s.ctx.rsrc (ETy.sw x.t) x.b) (ETy.sw x.t) e)))) := by
  refine State.givesRow_of_mapFl (h.trans ?_) fun e _ => intEl_lt ..
  unfold State.vbin
  dsimp only
  rw [ETy.not_isFloat_of_isInt int, if_neg Bool.false_ne_true, rowEls_eq, rowEls_eq, zip_map_range, mapFl_map]
  simp only [intRes_eq_intEl int, ival_el int, same]
/-- `vfma`, and with the third operand negated `vfms`. -/
theorem State.vter_gives {y : VTer} (negz : Bool) (h : exec i s = s.vter y negz) :
    let u (n : Nat) : Ex := flushIn y.ftz (decodeEl n y.t)
    s.givesRow i y.g 4 y.d (ETy.sw y.t) (fun e => fEl y.t y.rm y.ftz y.sat (fFmaX y.rm (u (el (s.ctx.row y.a) (ETy.sw y.t) e))
      (u (el (s.ctx.rsrc (ETy.sw y.t) y.b) (ETy.sw y.t) e))
      (bif negz then (u (el (s.ctx.row y.c) (ETy.sw y.t) e)).negate else u (el (s.ctx.row y.c) (ETy.sw y.t) e)))) := by
  refine State.givesRow_of_mapFl (h.trans ?_) fun e _ => fEl_lt ..
  unfold State.vter
  dsimp only
  rw [rowEls_eq, rowEls_eq, rowEls_eq, zip_map_range, zip_map_range, mapFl_map]
  cases negz <;> rfl
theorem State.vuna_float {z : VUna} {fi : Int → Int} {ff : Nat → Nat} (op : Nat → Nat) (h : exec i s = s.vuna z fi ff)
    (f3 : z.t.f3 = true) (same : ∀ a, a < 2 ^ ETy.sw z.t → ff a = op a ∧ op a < 2 ^ ETy.sw z.t) :
    s.givesRow i z.g 2 z.d (ETy.sw z.t) (fun e => (op (el (s.ctx.row z.a) (ETy.sw z.t) e), 0)) := by
  refine State.givesRow_of_map (h.trans ?_) fun e _ => (same _ (el_lt ..)).2
  unfold State.vuna
  dsimp only
  rw [ETy.isFloat_of_f3 f3, if_pos rfl, rowEls_eq, List.map_map]
  refine congrArg (fun xs => s.vels _ _ _ _ (xs, 0)) (List.map_congr_left fun e _ => ?_)
  exact (same _ (el_lt ..)).1
theorem State.vuna_int {z : VUna} {fi : Int → Int} {ff : Nat → Nat} (op : Int → Int) (h : exec i s = s.vuna z fi ff)
    (int : ETy.isInt z.t = true) (same : ∀ p, fi p = op p) :
    s.givesRow i z.g 2 z.d (ETy.sw z.t) (fun e => intEl z.t z.sat (op (elInt z.t (el (s.ctx.row z.a) (ETy.sw z.t) e)))) := by
  refine State.givesRow_of_mapFl (h.trans ?_) fun e _ => intEl_lt ..
  unfold State.vuna
  dsimp only
  rw [ETy.not_isFloat_of_isInt int, if_neg Bool.false_ne_true, rowEls_eq, mapFl_map]
  simp only [intRes_eq_intEl int, ival_el int, same]
end

end Sys2Proof.Machine
end

section
/-! O36: the element-wise instructions. -/
namespace Sys2Proof.Machine

/-! Bits of an element (R183 to R186). -/

theorem add_two_pow_eq_xor {c k : Nat} (h : c < 2 ^ k) : c + 2 ^ k = c ^^^ 2 ^ k := by
  refine Nat.eq_of_testBit_eq fun i => ?_
  rw [Nat.testBit_xor, Nat.testBit_two_pow, Nat.add_comm]
  rcases Nat.lt_trichotomy i k with lt | rfl | gt
  · rw [Nat.testBit_two_pow_add_gt lt]; simp [lt.ne']
  · rw [Nat.testBit_two_pow_add_eq]; simp
  · rw [Nat.testBit_lt_two_pow (h.trans (Nat.pow_lt_pow_right (by decide) gt)),
      Nat.testBit_lt_two_pow (calc 2 ^ k + c < 2 ^ (k + 1) := by rw [Nat.pow_succ]; omega
        _ ≤ 2 ^ i := Nat.pow_le_pow_right (by decide) gt)]
    simp [gt.ne]
/-- The top bit of `k + 1` is inverted. -/
theorem flip_top {b k : Nat} (h : b < 2 ^ (k + 1)) : (if b < 2 ^ k then b + 2 ^ k else b - 2 ^ k) = b ^^^ 2 ^ k := by
  split
  case isTrue low => exact add_two_pow_eq_xor low
  case isFalse high =>
    obtain ⟨c, rfl⟩ := Nat.exists_eq_add_of_le' (not_lt.1 high)
    rw [Nat.pow_succ] at h
    rw [add_two_pow_eq_xor (by omega), Nat.xor_assoc, Nat.xor_self, Nat.xor_zero, ← add_two_pow_eq_xor (by omega), Nat.add_sub_cancel]

theorem shl_eq {w a n : Nat} (ha : a < 2 ^ w) : (if w ≤ n then 0 else a * 2 ^ n % 2 ^ w) = (BitVec.ofNat w a <<< n).toNat := by
  rw [BitVec.toNat_shiftLeft, BitVec.toNat_ofNat, Nat.mod_eq_of_lt ha, Nat.shiftLeft_eq]
  split
  case isTrue far =>
    obtain ⟨k, rfl⟩ := Nat.exists_eq_add_of_le far
    rw [Nat.pow_add, ← Nat.mul_assoc, Nat.mul_right_comm, Nat.mul_mod_left]
  case isFalse => rfl
theorem shr_eq {w a n : Nat} (ha : a < 2 ^ w) : (if w ≤ n then 0 else a / 2 ^ n) = (BitVec.ofNat w a >>> n).toNat := by
  rw [BitVec.toNat_ushiftRight, BitVec.toNat_ofNat, Nat.mod_eq_of_lt ha, Nat.shiftRight_eq_div_pow]
  split
  case isTrue far => exact (Nat.div_eq_of_lt (ha.trans_le (Nat.pow_le_pow_right two_pos far))).symm
  case isFalse => rfl
theorem sra_eq {w a n : Nat} (pos : 0 < w) :
    (if w ≤ n then (if bit a (w - 1) then 2 ^ w - 1 else 0) else wrapInt (sext a w / 2 ^ n) w) =
      ((BitVec.ofNat w a).sshiftRight n).toNat := by
  split
  case isTrue far =>
    have sign : (BitVec.ofNat w a).msb = bit a (w - 1) := by
      rw [bit_eq_testBit, BitVec.msb_eq_getLsbD_last, BitVec.getLsbD_ofNat]
      simp [pos]
    rw [← sign]
    have fill : (BitVec.ofNat w a).sshiftRight n = if (BitVec.ofNat w a).msb then BitVec.allOnes w else 0#w := by
      ext i hi
      rw [BitVec.getElem_sshiftRight, dif_neg (by omega)]
      split <;> simp_all
    rw [fill]
    split <;> simp
  case isFalse =>
    have floor : sext a w / 2 ^ n = ((BitVec.ofNat w a).sshiftRight n).toInt := by
      rw [sext_eq_toInt _ pos, BitVec.toInt_sshiftRight, Int.shiftRight_eq_div_pow]; norm_cast
    rw [floor, wrapInt_eq_toNat, BitVec.ofInt_toInt]
theorem popcount_eq_countP_of_lt {a w k : Nat} (ha : a < 2 ^ w) (h : w ≤ k) : popcount a k = (List.range w).countP a.testBit := by
  obtain ⟨n, rfl⟩ := Nat.exists_eq_add_of_le h
  have above : ((List.range n).map (w + ·)).countP a.testBit = 0 := by
    rw [List.countP_eq_zero]
    simp only [List.forall_mem_map]
    intro i _
    rw [Nat.testBit_lt_two_pow (ha.trans_le (Nat.pow_le_pow_right two_pos (Nat.le_add_right ..)))]
    decide
  rw [popcount_eq_countP, List.range_add, List.countP_append, above, Nat.add_zero]

/-! Comparisons (R187). -/

theorem vcmpInt_iff {t : ETy} (int : ETy.isInt t = true) {cond : Nat} (h : cond < 6 ∨ cond = 8 ∨ cond = 9) {a b : Nat}
    (ha : a < 2 ^ ETy.sw t) (hb : b < 2 ^ ETy.sw t) : vcmpInt t cond a b = true ↔ vcondTrue t cond a b := by
  unfold vcmpInt
  rw [ival_eq_elInt int ha, ival_eq_elInt int hb]
  obtain h | rfl | rfl := h
  · interval_cases cond <;> simp [vcondTrue]
  · simp [vcondTrue]
  · simp [vcondTrue]

section
variable {s : State} {i : Instr}

theorem State.vshift_gives {k : VLog} {f : Nat → Nat → Nat → Nat} (op : Nat → Nat → Nat) (h : exec i s = s.vshift k f)
    (same : ∀ a n, a < 2 ^ ETy.sw k.t → f (ETy.sw k.t) a n = op a n ∧ op a n < 2 ^ ETy.sw k.t) :
    s.givesRow i k.g 2 k.d (ETy.sw k.t) (fun e =>
      (op (el (s.ctx.row k.a) (ETy.sw k.t) e) (el (s.ctx.rsrc (ETy.sw k.t) k.b) (ETy.sw k.t) e), 0)) := by
  refine State.givesRow_of_map (h.trans ?_) fun e _ => (same _ _ (el_lt ..)).2
  unfold State.vshift
  dsimp only
  rw [rowEls_eq, rowEls_eq, zip_map_range, List.map_map]
  refine congrArg (fun xs => s.vels _ _ _ _ (xs, 0)) (List.map_congr_left fun e _ => ?_)
  exact (same _ _ (el_lt ..)).1
end

section
variable (s : State)

variable {s} in
theorem State.vrow_gives {g : Guard} {lat : Nat} (d : Fin 128) (r : Row) (acts : s.ctx.acts g lat) :
    s.vrow g lat d r = .next (s.gives g .v lat (0x80 + d.val) (r.setWidth 64) (some r)) := State.finish_plain .v _ _ _ acts
theorem execVpopc_gives (z : VUna) : s.givesRow (.vpopc z) z.g 2 z.d (ETy.sw z.t)
    (fun e => ((List.range (ETy.sw z.t)).countP (fun i => (el (s.ctx.row z.a) (ETy.sw z.t) e).testBit i), 0)) := by
  have width : ETy.sw z.t ≤ 32 := by cases z.t <;> decide
  refine State.givesRow_of_map (Eq.trans (b := execVpopc z s) rfl ?_) fun e _ => ?_
  · rw [execVpopc, rowEls_eq, List.map_map]
    refine congrArg (fun xs => s.vels _ _ _ _ (xs, 0)) (List.map_congr_left fun e _ => ?_)
    exact popcount_eq_countP_of_lt (el_lt ..) width
  · refine lt_of_le_of_lt List.countP_le_length ?_
    rw [List.length_range]
    exact Nat.lt_two_pow_self
theorem execVsel_gives (l : VSel) : s.givesRow (.vsel l) l.g 2 l.d (ETy.sw l.t) (fun e =>
    (if el (s.ctx.row l.c) (ETy.sw l.t) e ≠ 0 then el (s.ctx.row l.a) (ETy.sw l.t) e
      else el (s.ctx.rsrc (ETy.sw l.t) l.b) (ETy.sw l.t) e, 0)) := by
  refine State.givesRow_of_map (Eq.trans (b := execVsel l s) rfl ?_) fun e _ => ?_
  · rw [execVsel, rowEls_eq, rowEls_eq, rowEls_eq, zip_map_range, zip_map_range, List.map_map]
    refine congrArg (fun xs => s.vels _ _ _ _ (xs, 0)) (List.map_congr_left fun e _ => ?_)
    simp only [Function.comp, bne_iff_ne]
  · split <;> exact el_lt ..
/-- A comparison's element: all ones where it holds. -/
theorem execVcmp_float {c : VCmp} (f3 : c.t.f3 = true) (cond : c.cond.val < 8) :
    let w := ETy.sw c.t
    let a (e : Nat) : Ex := decodeEl (el (s.ctx.row c.a) w e) c.t
    let b (e : Nat) : Ex := decodeEl (el (s.ctx.rsrc w c.b) w e) c.t
    ∃ f : Nat → Nat × Fl, (∀ e, e < 4096 / w → (fcondTrue c.cond.val (a e) (b e) → (f e).1 = 2 ^ w - 1) ∧
        (¬ fcondTrue c.cond.val (a e) (b e) → (f e).1 = 0)) ∧
      (∀ e, (f e).2 = fcondFlag c.cond.val (a e) (b e)) ∧ s.givesRow (.vcmp c) c.g 4 c.d w f := by
  intro w a b
  refine ⟨fun e => (if (fCmpX c.cond.val (a e) (b e)).1 then 2 ^ w - 1 else 0, (fCmpX c.cond.val (a e) (b e)).2), fun e _ => ?_,
    fun e => (fCmpX_spec cond (a e) (b e)).2, State.givesRow_of_mapFl (Eq.trans (b := execVcmp c s) rfl ?_) fun e _ => ?_⟩
  · rw [← (fCmpX_spec cond (a e) (b e)).1]
    exact ⟨fun h => if_pos h, fun h => if_neg h⟩
  · rw [execVcmp, if_pos (ETy.isFloat_of_f3 f3), rowEls_eq, rowEls_eq, zip_map_range, mapFl_map]
  · have := Nat.two_pow_pos w
    dsimp only
    split <;> omega
theorem execVcmp_int {c : VCmp} (int : ETy.isInt c.t = true) (cond : c.cond.val < 6 ∨ c.cond = 8 ∨ c.cond = 9) :
    let w := ETy.sw c.t
    let a := el (s.ctx.row c.a) w
    let b := el (s.ctx.rsrc w c.b) w
    ∃ f : Nat → Nat × Fl, (∀ e, e < 4096 / w → (vcondTrue c.t c.cond.val (a e) (b e) → (f e).1 = 2 ^ w - 1) ∧
        (¬ vcondTrue c.t c.cond.val (a e) (b e) → (f e).1 = 0)) ∧
      (∀ e, (f e).2 = 0) ∧ s.givesRow (.vcmp c) c.g 2 c.d w f := by
  intro w a b
  have cond' : c.cond.val < 6 ∨ c.cond.val = 8 ∨ c.cond.val = 9 := cond.imp_right (Or.imp (congrArg Fin.val) (congrArg Fin.val))
  refine ⟨fun e => (if vcmpInt c.t c.cond.val (a e) (b e) then 2 ^ w - 1 else 0, 0), fun e _ => ?_, fun _ => rfl,
    State.givesRow_of_map (Eq.trans (b := execVcmp c s) rfl ?_) fun e _ => ?_⟩
  · rw [← vcmpInt_iff int cond' (el_lt ..) (el_lt ..)]
    exact ⟨fun h => if_pos h, fun h => if_neg h⟩
  · rw [execVcmp, if_neg (by simp [ETy.not_isFloat_of_isInt int]), rowEls_eq, rowEls_eq, zip_map_range, List.map_map]
    rfl
  · have := Nat.two_pow_pos w
    split <;> omega
end

/-- Settles O36: each element of the row is the operation's on the elements of its place. -/
theorem vectorArithmetic : Obligations.VectorArithmetic := by
  unfold Obligations.VectorArithmetic
  intro s x y z k c l m v
  refine ⟨fun w e _ he => el_bcast _ he, ?_, fun f3 => ?_, ?_, ?_, ⟨execVcmp_float s, execVcmp_int s⟩, execVsel_gives s l, fun acts => ?_⟩
  · intro w a b u fl it
    refine ⟨fun f3 => ?_, fun int => ?_⟩
    · have best (mx : Bool) (a b : Nat) : (fMinMax mx x.t x.ftz a b).1 < 2 ^ ETy.sw x.t :=
        ETy.bits_of_f3 f3 ▸ fMinMax_lt mx x.t x.ftz a b
      have sum := State.vbin_op (i := .vadd x) (s := s) (op := fAddX) rfl f3
      have difference := State.vbin_op (i := .vsub x) (s := s) (op := fSubX) rfl f3
      have product := State.vbin_op (i := .vmul x) (s := s) (op := fMulX) rfl f3
      exact ⟨sum, difference, product, State.vbin_float rfl f3 (best false), State.vbin_float rfl f3 (best true)⟩
    · exact ⟨State.vbin_int (fun p q => p + q) rfl int fun _ _ => rfl, State.vbin_int (fun p q => p - q) rfl int fun _ _ => rfl,
        State.vbin_int (fun p q => p * q) rfl int fun _ _ => rfl,
        State.vbin_int (fun p q => if p ≤ q then p else q) rfl int min_def,
        State.vbin_int (fun p q => if q ≤ p then p else q) rfl int fun p q => by rw [max_comm, max_def]⟩
  · exact ⟨State.vter_gives false rfl, State.vter_gives true rfl⟩
  · intro w a
    have abs : exec (.vabs z) s = s.vuna z (fun v => v.natAbs) (fun b => b % ETy.signBit z.t) := rfl
    have neg : exec (.vneg z) s = s.vuna z (fun v => -v)
      (fun b => if b < ETy.signBit z.t then b + ETy.signBit z.t else b - ETy.signBit z.t) := rfl
    refine ⟨fun f3 => ⟨State.vuna_float (fun b => b % 2 ^ (w - 1)) abs f3 fun b hb => ?_,
      State.vuna_float (fun b => b ^^^ 2 ^ (w - 1)) neg f3 fun b hb => ?_⟩,
      fun int => ⟨State.vuna_int (fun p => |p|) abs int fun p => p.natCast_natAbs, State.vuna_int (fun p => -p) neg int fun _ => rfl⟩,
      execVpopc_gives s z⟩
    · rw [ETy.signBit, ETy.bits_of_f3 f3]
      exact ⟨rfl, (Nat.mod_le ..).trans_lt hb⟩
    · have top : w = w - 1 + 1 := (Nat.sub_add_cancel (ETy.sw_pos z.t)).symm
      rw [ETy.signBit, ETy.bits_of_f3 f3]
      exact ⟨flip_top (top ▸ hb), Nat.xor_lt_two_pow hb (Nat.pow_lt_pow_right (by decide) (by omega))⟩
  · intro w a b
    have left : exec (.vshl k) s = s.vshift k (fun w a n => if w ≤ n then 0 else a * 2 ^ n % 2 ^ w) := rfl
    have right : exec (.vshr k) s = s.vshift k (fun w a n => if w ≤ n then 0 else a / 2 ^ n) := rfl
    have signed : exec (.vsra k) s = s.vshift k (fun w a n =>
      if w ≤ n then (if bit a (w - 1) then 2 ^ w - 1 else 0) else wrapInt (sext a w / 2 ^ n) w) := rfl
    exact ⟨fun acts => ⟨State.vrow_gives k.d _ acts, State.vrow_gives k.d _ acts, State.vrow_gives k.d _ acts⟩,
      State.vshift_gives (fun a n => (BitVec.ofNat w a <<< n).toNat) left fun a n ha => ⟨shl_eq ha, BitVec.isLt _⟩,
      State.vshift_gives (fun a n => (BitVec.ofNat w a >>> n).toNat) right fun a n ha => ⟨shr_eq ha, BitVec.isLt _⟩,
      State.vshift_gives (fun a n => ((BitVec.ofNat w a).sshiftRight n).toNat) signed fun a n _ => ⟨sra_eq (ETy.sw_pos k.t), BitVec.isLt _⟩⟩
  · exact State.vrow_gives m.d _ acts

end Sys2Proof.Machine
end

section
/-! O37: rows whose elements move, or are converted (R189 to R194, R197 to R199). -/
namespace Sys2Proof.Machine

/-! Shares of a row (R191). -/

theorem share_fits {p a b n : Nat} (pos : 0 < b) (h : p < a / b) : p * (n / a) + n / a ≤ n / b := by
  rw [Nat.le_div_iff_mul_le pos, ← Nat.succ_mul]
  calc (p + 1) * (n / a) * b = n / a * ((p + 1) * b) := by ring
    _ ≤ n / a * (a / b * b) := Nat.mul_le_mul_left _ (Nat.mul_le_mul_right _ h)
    _ ≤ n / a * a := Nat.mul_le_mul_left _ (Nat.div_mul_le_self ..)
    _ ≤ n := Nat.div_mul_le_self ..
/-- Elements put in the place of others. -/
theorem getElem?_splice {α : Type} (xs ys : List α) {lo n : Nat} (len : ys.length = n) (fits : lo + n ≤ xs.length) (e : Nat) :
    (xs.take lo ++ ys ++ xs.drop (lo + n))[e]? = if lo ≤ e ∧ e < lo + n then ys[e - lo]? else xs[e]? := by
  subst len
  have start : (xs.take lo).length = lo := by rw [List.length_take]; omega
  rcases Nat.lt_or_ge e lo with before | from_
  · rw [if_neg (by omega), List.append_assoc, List.getElem?_append_left (by omega), List.getElem?_take_of_lt before]
  rcases Nat.lt_or_ge e (lo + ys.length) with inside | after
  · rw [if_pos ⟨from_, inside⟩, List.getElem?_append_left (by rw [List.length_append]; omega), List.getElem?_append_right (by omega), start]
  · rw [if_neg (by omega), List.getElem?_append_right (by rw [List.length_append]; omega), List.length_append, start, List.getElem?_drop,
      Nat.add_sub_cancel' after]

/-! Elements that move (R189, R190, R197 to R199). -/

theorem rot_index (e k : Nat) {E : Nat} (pos : 0 < E) : (e + E - k % E) % E = (((e : Int) - (k : Nat)) % E).toNat := by
  have rest := Nat.mod_lt k pos
  have whole := Nat.mod_add_div k E
  have shift : (e : Int) - (k : Nat) = ((e + E - k % E : Nat) : Int) + E * (-(k / E : Nat) - 1) := by
    rw [Nat.cast_sub (by omega)]
    nth_rw 1 [← whole]
    push_cast
    ring
  rw [shift, Int.add_mul_emod_self_left, ← Int.natCast_mod, Int.toNat_natCast]

section
variable (s : State)

theorem execVbcast_gives (x : VRowS) : s.givesRow (.vbcast x) x.g 2 x.d (ETy.sw x.t)
    (fun _ => (el (s.ctx.row x.a) (ETy.sw x.t) ((s.ctx.src x.b).toNat % (4096 / ETy.sw x.t)), 0)) := by
  refine State.givesRow_of_map (Eq.trans (b := execVbcast x s) rfl ?_) fun _ _ => el_lt ..
  rw [execVbcast, ← el_eq_bits, List.map_const', List.length_range]
theorem execVrot_gives (x : VRowS) : s.givesRow (.vrot x) x.g 3 x.d (ETy.sw x.t) (fun e => (el (s.ctx.row x.a) (ETy.sw x.t)
    (((e : Int) - ((s.ctx.src x.b).toNat % 2 ^ 32 : Nat)) % (4096 / ETy.sw x.t : Nat)).toNat, 0)) := by
  have pos : 0 < 4096 / ETy.sw x.t := by cases x.t <;> decide
  refine State.givesRow_of_map (Eq.trans (b := execVrot x s) rfl ?_) fun _ _ => el_lt ..
  simp only [execVrot, ← el_eq_bits, rot_index _ _ pos]
theorem execVlane_gives (l : VLane) (acts : s.ctx.acts l.g 2) : exec (.vlane l) s = .next (s.gives l.g .v 2 (sCode l.d)
    (BitVec.ofInt 64 (elInt l.t (el (s.ctx.row l.a) (ETy.sw l.t) ((s.ctx.src l.b).toNat % (4096 / ETy.sw l.t)))))) := by
  have word (v : Nat) : (if ETy.isSigned l.t then BitVec.ofInt 64 (sext v (ETy.sw l.t)) else BitVec.ofNat 64 v) =
      BitVec.ofInt 64 (elInt l.t v) := by
    rw [elInt, sext_eq_toInt _ (ETy.sw_pos l.t)]
    split
    · rfl
    · exact (BitVec.ofInt_natCast ..).symm
  change execVlane l s = _
  rw [execVlane, ← el_eq_bits, word]
  exact State.finish_plain .v _ _ none acts
theorem execViota_gives (i : VIota) : s.givesRow (.viota i) i.g 2 i.d (ETy.sw i.t)
    (fun e => (((s.ctx.src i.a).toNat + e) % 2 ^ ETy.sw i.t, 0)) :=
  State.givesRow_of_map rfl fun _ _ => Nat.mod_lt _ (Nat.two_pow_pos _)
theorem execVperm_gives (p : VPerm) : s.givesRow (.vperm p) p.g 3 p.d 32 (fun e =>
    let b := el (s.ctx.rsrc 32 p.b) 32 e
    (if b.testBit 7 then (match p.c with | none => 0 | some o => el (s.ctx.row o) 32 (b % 128)) else el (s.ctx.row p.a) 32 (b % 128), 0)) := by
  refine State.givesRow_of_map (Eq.trans (b := execVperm p s) rfl ?_) fun e _ => ?_
  · rw [execVperm, rowEls_eq, List.map_map]
    refine congrArg (fun xs => s.vels _ _ _ _ (xs, 0)) (List.map_congr_left fun e _ => ?_)
    dsimp only [Function.comp]
    cases p.c <;> simp only [bit_eq_testBit, el_eq_bits]
  · split
    · cases p.c with
      | none => exact Nat.two_pow_pos _
      | some o => exact el_lt ..
    · exact el_lt ..

/-- The second row of a shuffle. -/
def Ctx.shufRow (c : Ctx) (u : VShuf) : Row := match u.b with | some r => c.row r | none => 0

theorem execVshuf_gives (u : VShuf) {f : Nat → Nat}
    (same : ∀ e, e < 4096 / ETy.sw u.t → f e = el (if (shufSrc u.pat.val (4096 / ETy.sw u.t) e).1 then s.ctx.shufRow u else s.ctx.row u.a)
      (ETy.sw u.t) (shufSrc u.pat.val (4096 / ETy.sw u.t) e).2) :
    s.givesRow (.vshuf u) u.g 3 u.d (ETy.sw u.t) (fun e => (f e, 0)) := by
  refine State.givesRow_of_map (Eq.trans (b := execVshuf u s) rfl ?_) fun e he => same e he ▸ el_lt ..
  rw [execVshuf]
  refine congrArg (fun xs => s.vels _ _ _ _ (xs, 0)) (List.map_congr_left fun e he => ?_)
  rw [same e (List.mem_range.1 he), el_eq_bits, apply_ite BitVec.toNat]
  rfl
end

/-! Elements that are converted (R191, R192, R194). -/

theorem convEl_lt (t src : ETy) (rm : Rm) (ftz sat : Bool) (a : Nat) : (convEl t src rm ftz sat a).1 < 2 ^ ETy.sw t :=
  (encodeEl_lt ..).trans_le (Nat.pow_le_pow_right two_pos (ETy.bits_le_sw t))

section
variable (s : State)

theorem execVcvt_widens {c : VCvt} (widens : ETy.sw c.src ≤ ETy.sw c.t) (part : c.part.val < ETy.sw c.t / ETy.sw c.src) :
    s.givesRow (.vcvt c) c.g 4 c.d (ETy.sw c.t) (fun e => convEl c.t c.src c.rm c.ftz c.sat
      (el (s.ctx.row c.a) (ETy.sw c.src) (c.part.val * (4096 / ETy.sw c.t) + e))) := by
  refine State.givesRow_of_mapFl (Eq.trans (b := execVcvt c s) rfl ?_) fun _ _ => convEl_lt ..
  rw [execVcvt, if_pos widens, take_drop_rowEls _ (share_fits (ETy.sw_pos _) part), mapFl_map]
theorem execVcvt_narrows {c : VCvt} {o : Fin 128} (narrows : ETy.sw c.t < ETy.sw c.src) (part : c.part.val < ETy.sw c.src / ETy.sw c.t)
    (old : c.c = some o) :
    let es := 4096 / ETy.sw c.src
    s.givesRow (.vcvt c) c.g 4 c.d (ETy.sw c.t) (fun e => if c.part.val * es ≤ e ∧ e < c.part.val * es + es
      then convEl c.t c.src c.rm c.ftz c.sat (el (s.ctx.row c.a) (ETy.sw c.src) (e - c.part.val * es))
      else (el (s.ctx.row o) (ETy.sw c.t) e, 0)) := by
  intro es
  set lo := c.part.val * es
  have fits : lo + es ≤ 4096 / ETy.sw c.t := share_fits (ETy.sw_pos _) part
  set cv : Nat → Nat × Fl := fun e => convEl c.t c.src c.rm c.ftz c.sat (el (s.ctx.row c.a) (ETy.sw c.src) e)
  refine State.givesRow_of_vels (p := ((rowEls (s.ctx.row o) (ETy.sw c.t)).take lo ++ (mapFl cv (List.range es)).1 ++
      (rowEls (s.ctx.row o) (ETy.sw c.t)).drop (lo + es), (mapFl cv (List.range es)).2))
    (Eq.trans (b := execVcvt c s) rfl ?_) (fun e he => ?_) (fun e he => ?_) fun b => ?_
  · rw [execVcvt, if_neg narrows.not_ge, old, rowEls_eq (s.ctx.row c.a), mapFl_map]
  · rw [getElem?_splice _ _ (by rw [mapFl_fst, List.length_map, List.length_range]) (by rw [rowEls_eq]; simpa using fits)]
    split
    · rw [mapFl_fst, List.getElem?_map, List.getElem?_range (by omega)]; rfl
    · rw [rowEls_eq, List.getElem?_map, List.getElem?_range he]; rfl
  · split
    · exact convEl_lt ..
    · exact el_lt ..
  · rw [getLsbD_mapFl]
    constructor
    · rintro ⟨e, he, flag⟩
      have := List.mem_range.1 he
      refine ⟨lo + e, by omega, ?_⟩
      rwa [if_pos (by omega), Nat.add_sub_cancel_left]
    · rintro ⟨e, -, flag⟩
      split at flag
      case isTrue inside => exact ⟨e - lo, List.mem_range.2 (by omega), flag⟩
      case isFalse => simp at flag

theorem execVdequant_gives {d : VDeq} (part : 128 * (d.part.val + 1) ≤ 4096 / ETy.sw d.t) : s.givesRow (.vdequant d) d.g 6 d.d 32 (fun e =>
    let k := ((s.ctx.src d.b).extractLsb' (8 * (e / 32)) 8).toNat
    let v : Ex := if k = 0xFF then .nan false
      else (decodeEl (el (s.ctx.row d.a) (ETy.sw d.t) (d.part.val * 128 + e)) d.t).scale ((k : Int) - 127)
    encodeEl v .f32 d.rm d.ftz d.sat) := by
  refine State.givesRow_of_mapFl (Eq.trans (b := execVdequant d s) rfl ?_) fun _ _ => encodeEl_lt ..
  rw [execVdequant, take_drop_rowEls _ (by omega), zip_range, mapFl_map]
  simp only [decodeScaled, bits_eq_extract, beq_iff_eq]

/-- Widened sums and products (R192). -/
theorem State.vwide_float {i : Instr} {b : VBin} {fi : Int → Int → Int} {op : Rm → Ex → Ex → Ex × Fl} (h : exec i s = s.vwide b fi op)
    (float : b.t = .f16 ∨ b.t = .bf16) (part : 128 * (b.part.val + 1) ≤ 4096 / ETy.sw b.t) :
    let u (v : Nat) : Ex := flushIn b.ftz (decodeEl v b.t)
    s.givesRow i b.g 4 b.d 32 (fun e => fEl .f32 b.rm b.ftz b.sat (op b.rm (u (el (s.ctx.row b.a) (ETy.sw b.t) (b.part.val * 128 + e)))
      (u (el (s.ctx.rsrc (ETy.sw b.t) b.b) (ETy.sw b.t) (b.part.val * 128 + e))))) := by
  have isFloat : ETy.isFloat b.t = true := by obtain h | h := float <;> rw [h] <;> rfl
  refine State.givesRow_of_mapFl (h.trans ?_) fun _ _ => fEl_lt ..
  unfold State.vwide
  dsimp only
  rw [if_pos isFloat, take_drop_rowEls _ (by omega), take_drop_rowEls _ (by omega), zip_map_range, mapFl_map]
  rfl
theorem State.vwide_int {i : Instr} {b : VBin} {fi : Int → Int → Int} {ff : Rm → Ex → Ex → Ex × Fl} (h : exec i s = s.vwide b fi ff)
    (int : b.t = .i8 ∨ b.t = .n8) (part : 128 * (b.part.val + 1) ≤ 4096 / ETy.sw b.t) :
    s.givesRow i b.g 4 b.d 32 (fun e => ((BitVec.ofInt 32 (fi (elInt b.t (el (s.ctx.row b.a) (ETy.sw b.t) (b.part.val * 128 + e)))
      (elInt b.t (el (s.ctx.rsrc (ETy.sw b.t) b.b) (ETy.sw b.t) (b.part.val * 128 + e))))).toNat, 0)) := by
  have isInt : ETy.isInt b.t = true := by obtain h | h := int <;> rw [h] <;> rfl
  refine State.givesRow_of_map (h.trans ?_) fun _ _ => BitVec.isLt _
  unfold State.vwide
  dsimp only
  rw [if_neg (by simp [ETy.not_isFloat_of_isInt isInt]), take_drop_rowEls _ (by omega), take_drop_rowEls _ (by omega), zip_map_range,
    List.map_map]
  refine congrArg (fun xs => s.vels _ _ _ _ (xs, 0)) (List.map_congr_left fun e _ => ?_)
  dsimp only [Function.comp]
  rw [wrapInt_eq_toNat, ival_el isInt, ival_el isInt]
end

end Sys2Proof.Machine
end

section
/-! O37: sums of prefixes. Addends joined one by one round as their exact sum does (R48, R195). -/
namespace Sys2Proof.Machine

/-! Values that stand for one number. -/

/-- Two values that no rounding tells apart: the same, or numbers of one rational value. -/
def Ex.Alike (x y : Ex) : Prop :=
  x = y ∨ ∃ p q : Q, x = .fin p ∧ y = .fin q ∧ p.Plain ∧ q.Plain ∧ p.n ≠ 0 ∧ p.rat = q.rat

theorem Q.nonzero_of_rat_eq {p q : Q} (hp : p.Plain) (hq : q.Plain) (hn : p.n ≠ 0) (same : p.rat = q.rat) : q.n ≠ 0 :=
  (Q.rat_eq_zero_iff hq).not.1 (same ▸ (Q.rat_eq_zero_iff hp).not.2 hn)
theorem encodeEl_alike {x y : Ex} (h : x.Alike y) {t : ETy} (float : ETy.isFloat t = true) (rm : Rm) (ftz sat : Bool) :
    encodeEl x t rm ftz sat = encodeEl y t rm ftz sat := by
  obtain rfl | ⟨p, q, rfl, rfl, hp, hq, hn, same⟩ := h
  · rfl
  have hn' := Q.nonzero_of_rat_eq hp hq hn same
  have exponent : p.log2 = q.log2 := by rw [Q.log2_eq hp hn, Q.log2_eq hq hn', same]
  have rounded : roundBits p t rm = roundBits q t rm := by
    rw [roundBits, roundBits, exponent, roundQ_eq hp hn, roundQ_eq hq hn', same]
  have sign : p.n < 0 ↔ q.n < 0 := by rw [← Q.rat_neg_iff hp, ← Q.rat_neg_iff hq, same]
  simp only [encodeEl, isInt_of_isFloat float, beq_lg6_of_isFloat float, exponent, rounded, sign, Bool.false_eq_true, if_false]
theorem Ex.Alike.rat_eq {x y : Ex} (h : x.Alike y) : x.rat = y.rat := by
  obtain rfl | ⟨p, q, rfl, rfl, -, -, -, same⟩ := h
  · rfl
  · exact congrArg some same
theorem Ex.Alike.plain {x y : Ex} (h : x.Alike y) (hy : y.Plain) : x.Plain := by
  obtain rfl | ⟨p, q, rfl, -, hp, -⟩ := h
  · exact hy
  · exact Ex.plain_fin hp
theorem Ex.Alike.eq_zero_iff {x y : Ex} (h : x.Alike y) (n : Bool) : x = .zero n ↔ y = .zero n := by
  obtain rfl | ⟨p, q, rfl, rfl, -⟩ := h
  · rfl
  · simp
theorem Ex.Alike.isFin_eq {x y : Ex} (h : x.Alike y) : x.isFin = y.isFin := by
  obtain rfl | ⟨p, q, rfl, rfl, -⟩ := h <;> rfl
theorem Ex.Alike.eq_of_not_isFin {x y : Ex} (h : x.Alike y) (hy : ¬ y.isFin = true) : x = y := by
  obtain rfl | ⟨p, q, rfl, rfl, -⟩ := h
  · rfl
  · exact absurd rfl hy

/-! The sum of finite values. -/

/-- The rational sum of finite values. -/
def ratSum (xs : List Ex) : ℚ := (xs.map (fun x => x.rat.getD 0)).sum

theorem exactSum_fin (rm : Rm) {xs : List Ex} (h : ∀ x ∈ xs, x.Plain) (hs : ratSum xs ≠ 0) :
    ∃ q : Q, (exactSum rm xs).1 = .fin q ∧ q.Plain ∧ q.n ≠ 0 ∧ q.rat = ratSum xs := by
  obtain ⟨plain, rat⟩ := Q.foldl_add h (a := { n := 0 }) ⟨one_ne_zero, rfl⟩
  rw [Q.rat_zero, zero_add] at rat
  have nonzero := (Q.rat_eq_zero_iff plain).not.1 (rat ▸ hs)
  rw [exactSum_of_plain rm h]
  exact ⟨_, if_neg (by simpa using nonzero), plain, nonzero, rat⟩
theorem exactSum_isPlain (rm : Rm) {xs : List Ex} (h : ∀ x ∈ xs, x.Plain) : (exactSum rm xs).1.Plain := by
  by_cases hs : ratSum xs = 0
  · rw [exactSum_eq_zero rm h hs]; exact Ex.plain_zero _
  · obtain ⟨q, eq, plain, -⟩ := exactSum_fin rm h hs
    rw [eq]; exact Ex.plain_fin plain
/-- Sums of one value, and of one sign if they are zero, are alike. -/
theorem exactSum_alike {xs ys : List Ex} (hx : ∀ x ∈ xs, x.Plain) (hy : ∀ y ∈ ys, y.Plain) (same : ratSum xs = ratSum ys)
    (sign : zeroSign .rne xs = zeroSign .rne ys) : (exactSum .rne xs).1.Alike (exactSum .rne ys).1 := by
  by_cases hs : ratSum xs = 0
  · rw [exactSum_eq_zero .rne hx hs, exactSum_eq_zero .rne hy (same.symm.trans hs), sign]
    exact .inl rfl
  · obtain ⟨p, eqP, plainP, nonzero, ratP⟩ := exactSum_fin .rne hx hs
    obtain ⟨q, eqQ, plainQ, -, ratQ⟩ := exactSum_fin .rne hy (same ▸ hs)
    exact .inr ⟨p, q, eqP, eqQ, plainP, plainQ, nonzero, by rw [ratP, ratQ, same]⟩
/-- A sum is -0 when all its addends are (R34). -/
theorem exactSum_negZero_iff {xs : List Ex} (h : ∀ x ∈ xs, x.Plain) :
    (exactSum .rne xs).1 = .zero true ↔ xs.all (fun x => x == .zero true) = true := by
  by_cases hs : ratSum xs = 0
  · rw [exactSum_eq_zero .rne h hs, zeroSign]
    simp
  · obtain ⟨q, eq, -⟩ := exactSum_fin .rne h hs
    rw [eq]
    refine ⟨fun e => (by cases e), fun all => absurd ?_ hs⟩
    refine List.sum_eq_zero fun r hr => ?_
    obtain ⟨x, hx, rfl⟩ := List.mem_map.1 hr
    rw [beq_iff_eq.1 (List.all_eq_true.1 all x hx)]
    rfl

/-! One addend more. -/

theorem exactSum_finite_concat {ys : List Ex} {x v : Ex} (hy : ∀ y ∈ ys, y.Plain) (hx : x.Plain)
    (h : v.Alike (exactSum .rne ys).1) : (exactSum .rne [v, x]).1.Alike (exactSum .rne (ys ++ [x])).1 ∧
      (exactSum .rne [v, x]).2 = 0 ∧ (exactSum .rne (ys ++ [x])).2 = 0 := by
  have both : ∀ z ∈ [v, x], z.Plain := by
    simpa using ⟨h.plain (exactSum_isPlain .rne hy), hx⟩
  have all : ∀ z ∈ ys ++ [x], z.Plain := by
    simpa [or_imp, forall_and] using ⟨hy, hx⟩
  refine ⟨exactSum_alike both all ?_ ?_, (exactSum_rat .rne both).2, (exactSum_rat .rne all).2⟩
  · have first : v.rat.getD 0 = ratSum ys := by rw [h.rat_eq, (exactSum_rat .rne hy).1]; rfl
    simp [ratSum] at first ⊢
    exact first
  · have first : (v == .zero true) = ys.all (fun x => x == .zero true) := by
      rw [Bool.eq_iff_iff, beq_iff_eq, h.eq_zero_iff, exactSum_negZero_iff hy]
    simp [zeroSign, first]

/-- The sum of addends among which is a NaN or an infinity (R48): whether some addend is a NaN, a signalling one, +infinity, -infinity. -/
def specialSum (nan sig pos neg : Bool) : Ex × Fl :=
  if nan then (.nan false, if sig then Fl.nv else 0)
  else if pos && neg then (.nan false, Fl.nv)
  else if pos then (.inf false, 0) else (.inf true, 0)
/-- Some addend is a NaN or an infinity. -/
def anySpecial (xs : List Ex) : Bool := xs.any Ex.isNan || xs.any (· == .inf false) || xs.any (· == .inf true)

theorem exactSum_special (rm : Rm) {xs : List Ex} (h : anySpecial xs = true) : exactSum rm xs =
    specialSum (xs.any Ex.isNan) (xs.any Ex.isSig) (xs.any (· == .inf false)) (xs.any (· == .inf true)) := by
  unfold anySpecial at h
  unfold exactSum specialSum
  split
  · rfl
  split
  · rfl
  split
  · rfl
  · rw [if_pos (by simp_all)]
theorem anySig_imp_anyNan (xs : List Ex) : xs.any Ex.isSig = true → xs.any Ex.isNan = true := by
  rw [List.any_eq_true, List.any_eq_true]
  rintro ⟨x, hx, sig⟩
  refine ⟨x, hx, ?_⟩
  cases x with
  | nan s => rfl
  | _ => cases sig
theorem isFin_iff_not_special (x : Ex) : x.isFin = true ↔ anySpecial [x] = false := by
  cases x with
  | inf n => cases n <;> decide
  | _ => simp [anySpecial, Ex.isFin, Ex.isNan]
theorem anySpecial_eq_false_iff {xs : List Ex} : anySpecial xs = false ↔ ∀ x ∈ xs, x.isFin = true := by
  induction xs with
  | nil => simp [anySpecial]
  | cons x xs ih =>
    rw [List.forall_mem_cons, isFin_iff_not_special, ← ih]
    simp only [anySpecial, List.any_cons, List.any_nil, Bool.or_eq_false_iff]
    tauto

/-- Of a special sum and one addend more. -/
theorem specialSum_concat (n s p m n' s' p' m' : Bool) (sig : s = true → n = true) (special : (n || p || m) = true) :
    let v := (specialSum n s p m).1
    let step := specialSum (v.isNan || n') (v.isSig || s') (v == .inf false || p') (v == .inf true || m')
    let whole := specialSum (n || n') (s || s') (p || p') (m || m')
    anySpecial [v] = true ∧ step.1 = whole.1 ∧ (specialSum n s p m).2 ||| step.2 = (specialSum n s p m).2 ||| whole.2 := by
  revert n s p m n' s' p' m'
  decide
theorem anySpecial_append (xs ys : List Ex) : anySpecial (xs ++ ys) = (anySpecial xs || anySpecial ys) := by
  simp only [anySpecial, List.any_append]
  ac_rfl
theorem exactSum_concat_of_special {ys : List Ex} (x : Ex) (h : anySpecial ys = true) : anySpecial [(exactSum .rne ys).1] = true ∧
    (exactSum .rne [(exactSum .rne ys).1, x]).1 = (exactSum .rne (ys ++ [x])).1 ∧
      (exactSum .rne ys).2 ||| (exactSum .rne [(exactSum .rne ys).1, x]).2 = (exactSum .rne ys).2 ||| (exactSum .rne (ys ++ [x])).2 := by
  obtain ⟨special, concat⟩ := specialSum_concat _ _ _ _ (x.isNan) (x.isSig) (x == .inf false) (x == .inf true) (anySig_imp_anyNan ys) h
  rw [← exactSum_special .rne h] at special concat
  rw [exactSum_special .rne (xs := [(exactSum .rne ys).1, x]) (by rw [← List.singleton_append, anySpecial_append, special, Bool.true_or]),
    exactSum_special .rne (xs := ys ++ [x]) (by rw [anySpecial_append, h, Bool.true_or])]
  refine ⟨special, ?_⟩
  simpa only [List.any_append, List.any_cons, List.any_nil, Bool.or_false] using concat
theorem not_special {xs : List Ex} (h : anySpecial xs = false) : xs.any Ex.isNan = false ∧ xs.any Ex.isSig = false ∧
    xs.any (· == .inf false) = false ∧ xs.any (· == .inf true) = false := by
  obtain ⟨⟨nan, pos⟩, neg⟩ := (Bool.or_eq_false_iff.1 h).imp_left Bool.or_eq_false_iff.1
  exact ⟨nan, Bool.eq_false_iff.2 fun sig => by simp [anySig_imp_anyNan xs sig] at nan, pos, neg⟩
/-- After finite addends a NaN or an infinity alone makes the sum. -/
theorem exactSum_special_last {xs ys : List Ex} {x : Ex} (hx : anySpecial xs = false) (hy : anySpecial ys = false)
    (special : anySpecial [x] = true) : exactSum .rne (xs ++ [x]) = exactSum .rne (ys ++ [x]) := by
  obtain ⟨nan, sig, pos, neg⟩ := not_special hx
  obtain ⟨nan', sig', pos', neg'⟩ := not_special hy
  rw [exactSum_special .rne (by rw [anySpecial_append, special, Bool.or_true]),
    exactSum_special .rne (by rw [anySpecial_append, special, Bool.or_true])]
  simp only [List.any_append, nan, sig, pos, neg, nan', sig', pos', neg']

/-- A value whose number, if it has one, is a plain one. -/
def Ex.Num (x : Ex) : Prop := ∀ q, x = .fin q → q.Plain

theorem plain_of_not_special {xs : List Ex} (num : ∀ x ∈ xs, x.Num) (h : anySpecial xs = false) : ∀ x ∈ xs, x.Plain :=
  fun x hx => ⟨anySpecial_eq_false_iff.1 h x hx, num x hx⟩

/-- One addend more, after a sum alike that of those before it. -/
theorem exactSum_concat {ys : List Ex} {x v : Ex} (num : ∀ y ∈ ys ++ [x], y.Num) (h : v.Alike (exactSum .rne ys).1) :
    (exactSum .rne [v, x]).1.Alike (exactSum .rne (ys ++ [x])).1 ∧
      (exactSum .rne ys).2 ||| (exactSum .rne [v, x]).2 = (exactSum .rne ys).2 ||| (exactSum .rne (ys ++ [x])).2 := by
  rw [List.forall_mem_append] at num
  obtain ⟨numYs, numX⟩ := num
  cases special : anySpecial ys with
  | true =>
    obtain ⟨infinite, value, flags⟩ := exactSum_concat_of_special x special
    have same : v = (exactSum .rne ys).1 := h.eq_of_not_isFin (by rw [isFin_iff_not_special, infinite]; decide)
    rw [same]
    exact ⟨.inl value, flags⟩
  | false =>
    have plain := plain_of_not_special numYs special
    have fin : v.isFin = true := h.isFin_eq.trans (exactSum_isPlain .rne plain).1
    cases last : anySpecial [x] with
    | true =>
      have same := exactSum_special_last ((isFin_iff_not_special v).1 fin) special last
      rw [List.singleton_append] at same
      rw [same]
      exact ⟨.inl rfl, rfl⟩
    | false =>
      have plainX := plain_of_not_special numX last x (List.mem_singleton.2 rfl)
      obtain ⟨value, flags, flags'⟩ := exactSum_finite_concat plain plainX h
      exact ⟨value, by rw [flags, flags']⟩

/-- The sums of all prefixes, joined one addend at a time: the last value, and the flags of them all. -/
theorem foldl_sumStep {ys : List Ex} (num : ∀ y ∈ ys, y.Num) (nonempty : ys ≠ []) :
    ∃ v fl, ys.foldl sumStep (none, 0) = (some v, fl) ∧ v.Alike (exactSum .rne ys).1 ∧
      ∀ b, fl.getLsbD b = true ↔ ∃ j < ys.length, (exactSum .rne (ys.take (j + 1))).2.getLsbD b = true := by
  induction ys using List.reverseRecOn with
  | nil => exact absurd rfl nonempty
  | append_singleton ys x ih =>
    rw [List.foldl_concat]
    have prefixes (b : Nat) : (∃ j < (ys ++ [x]).length, (exactSum .rne ((ys ++ [x]).take (j + 1))).2.getLsbD b = true) ↔
        (∃ j < ys.length, (exactSum .rne (ys.take (j + 1))).2.getLsbD b = true) ∨ (exactSum .rne (ys ++ [x])).2.getLsbD b = true := by
      have whole : (ys ++ [x]).take (ys.length + 1) = ys ++ [x] := List.take_of_length_le (by simp)
      rw [List.length_append, List.length_singleton, Nat.exists_lt_succ_right, whole]
      refine or_congr_left (exists_congr fun j => and_congr_right fun hj => ?_)
      rw [List.take_append_of_le_length hj]
    by_cases empty : ys = []
    · subst empty
      refine ⟨(exactSum .rne [x]).1, (exactSum .rne [x]).2, Prod.ext rfl (BitVec.zero_or ..), .inl rfl, fun b => ?_⟩
      rw [prefixes]
      simp
    · obtain ⟨v, fl, eq, alike, flags⟩ := ih (fun y hy => num y (List.mem_append_left _ hy)) empty
      obtain ⟨value, joined⟩ := exactSum_concat num alike
      refine ⟨_, _, by rw [eq]; rfl, value, fun b => ?_⟩
      have pos : 1 ≤ ys.length := List.length_pos_of_ne_nil empty
      have last : (exactSum .rne ys).2.getLsbD b = true → fl.getLsbD b = true := fun h =>
        (flags b).2 ⟨ys.length - 1, Nat.sub_lt pos one_pos, by rwa [Nat.sub_add_cancel pos, List.take_length]⟩
      have bit := congrArg (fun f : Fl => f.getLsbD b = true) joined
      simp only [BitVec.getLsbD_or, Bool.or_eq_true] at bit
      rw [prefixes, ← flags, BitVec.getLsbD_or, Bool.or_eq_true]
      tauto

end Sys2Proof.Machine
end

section
/-! O37: scans and reductions (R195, R196). -/
namespace Sys2Proof.Machine

theorem scanL_eq {α β : Type} (f : β → α → β) (b : β) (xs : List α) :
    scanL f b xs = (List.range xs.length).map (fun e => (xs.take (e + 1)).foldl f b) := by
  induction xs generalizing b with
  | nil => rfl
  | cons x xs ih =>
    rw [scanL, ih, List.length_cons, List.range_succ_eq_map, List.map_cons, List.map_map]
    rfl
/-- The elements of a row up to one of its places. -/
theorem take_rowEls (r : Row) {w e : Nat} (h : e < 4096 / w) : (rowEls r w).take (e + 1) = firstEls r w (e + 1) := by
  rw [rowEls_eq, ← List.map_take, List.take_range, Nat.min_eq_left h]
  rfl
/-- A scan of a row, place by place. -/
theorem scanL_rowEls {α β : Type} (f : β → α → β) (b : β) (g : Nat → α) (r : Row) (w : Nat) : scanL f b ((rowEls r w).map g) =
    (List.range (4096 / w)).map (fun e => ((firstEls r w (e + 1)).map g).foldl f b) := by
  rw [scanL_eq, List.length_map]
  have len : (rowEls r w).length = 4096 / w := by rw [rowEls_eq, List.length_map, List.length_range]
  rw [len]
  refine List.map_congr_left fun e he => ?_
  rw [← List.map_take, take_rowEls r (List.mem_range.1 he)]
theorem take_firstEls (r : Row) (w : Nat) {j e : Nat} (h : j ≤ e) : (firstEls r w e).take j = firstEls r w j := by
  rw [firstEls, ← List.map_take, List.take_range, Nat.min_eq_left h]
  rfl
theorem decodeEl_num (b : Nat) {t : ETy} (ht : t ≠ .lg6) : (decodeEl b t).Num := fun _ h => (decodeEl_fin h ht).1

/-! The least and the greatest (R100). -/

theorem fBest_lt (mx : Bool) (t : ETy) {xs : List Nat} (small : ∀ x ∈ xs, x < 2 ^ ETy.bits t) (st : Bool × Option Nat)
    (h : ∀ b, st.2 = some b → b < 2 ^ ETy.bits t) : ∀ b, (xs.foldl (fBest mx t) st).2 = some b → b < 2 ^ ETy.bits t := by
  induction xs generalizing st with
  | nil => exact h
  | cons x xs ih =>
    obtain ⟨hx, hxs⟩ := List.forall_mem_cons.1 small
    refine ih hxs _ fun b hb => ?_
    unfold fBest at hb
    dsimp only at hb
    split at hb
    · exact h b hb
    split at hb
    · cases hb; exact hx
    · cases hb; exact fMinMax_lt ..
theorem bestOf_lt (mx : Bool) (t : ETy) {xs : List Nat} (small : ∀ x ∈ xs, x < 2 ^ ETy.bits t) : (bestOf mx t xs).1 < 2 ^ ETy.bits t := by
  have best := fBest_lt mx t small (false, none) (fun b hb => by cases hb)
  unfold bestOf fBestRes
  split
  · exact nanBits_lt t
  · generalize (xs.foldl (fBest mx t) (false, none)).2 = o at best
    cases o with
    | none => exact nanBits_lt t
    | some b => exact best b rfl
theorem mem_firstEls {r : Row} {w n v : Nat} (h : v ∈ firstEls r w n) : ∃ e < n, el r w e = v := by
  simpa [firstEls] using h
theorem firstEls_lt (r : Row) (w n : Nat) : ∀ v ∈ firstEls r w n, v < 2 ^ w := by
  rintro v hv
  obtain ⟨e, -, rfl⟩ := mem_firstEls hv
  exact el_lt ..
theorem map_ival_firstEls {t : ETy} (int : ETy.isInt t = true) {w : Nat} (width : ETy.sw t = w) (r : Row) (n : Nat) :
    (firstEls r w n).map (ival t) = (List.range n).map (fun e => elInt t (el r w e)) := by
  subst width
  rw [firstEls, List.map_map]
  exact List.map_congr_left fun e _ => ival_el int r e
/-- Of integers in a row, the place of the least or the greatest. -/
theorem extremum_place (least : Bool) (f : Nat → Int) (e : Nat) : ∃ k ≤ e,
    ((List.range (e + 1)).map f).foldl (fun a b => if least then min a b else max a b) (f 0) = f k ∧
      ∀ j ≤ e, if least then f k ≤ f j else f j ≤ f k := by
  induction e with
  | zero =>
    refine ⟨0, le_rfl, by cases least <;> simp, fun j hj => ?_⟩
    obtain rfl := Nat.le_zero.1 hj
    cases least <;> exact le_rfl
  | succ e ih =>
    obtain ⟨k, hk, value, bound⟩ := ih
    rw [List.range_succ, List.map_append, List.map_singleton, List.foldl_concat, value]
    cases least with
    | true =>
      simp only [if_true] at *
      rcases le_total (f k) (f (e + 1)) with le | ge
      · exact ⟨k, by omega, min_eq_left le, fun j hj => (Nat.le_succ_iff.1 hj).elim (bound j) fun h => h ▸ le⟩
      · exact ⟨e + 1, le_rfl, min_eq_right ge, fun j hj => (Nat.le_succ_iff.1 hj).elim (fun h => ge.trans (bound j h)) fun h => h ▸ le_rfl⟩
    | false =>
      simp only [Bool.false_eq_true, if_false] at *
      rcases le_total (f (e + 1)) (f k) with le | ge
      · exact ⟨k, by omega, max_eq_left le, fun j hj => (Nat.le_succ_iff.1 hj).elim (bound j) fun h => h ▸ le⟩
      · exact ⟨e + 1, le_rfl, max_eq_right ge, fun j hj => (Nat.le_succ_iff.1 hj).elim (fun h => (bound j h).trans ge) fun h => h ▸ le_rfl⟩

/-! Scans (R195). -/

/-- The values of a row's first elements, up to one place. -/
def prefixExacts (r : Row) (e : Nat) : List Ex := (firstEls r 32 (e + 1)).map (fun v => decodeEl v .f32)

/-- The sums that `vscan` joins one addend at a time. -/
theorem joined_sums (r : Row) : ∃ (v : Nat → Ex) (fl : Nat → Fl), (∀ e, (prefixExacts r e).foldl sumStep (none, 0) = (some (v e), fl e)) ∧
    (∀ e, (v e).Alike (exactSum .rne (prefixExacts r e)).1) ∧
    ∀ e b, (fl e).getLsbD b = true ↔ ∃ j ≤ e, (exactSum .rne (prefixExacts r j)).2.getLsbD b = true := by
  have step (e : Nat) := foldl_sumStep (ys := prefixExacts r e) (List.forall_mem_map.2 fun v _ => decodeEl_num v (by decide))
    (by simp [prefixExacts, firstEls])
  choose v fl joined alike flags using step
  refine ⟨v, fl, joined, alike, fun e b => (flags e b).trans ?_⟩
  have length : (prefixExacts r e).length = e + 1 := by simp [prefixExacts, firstEls]
  rw [length]
  simp only [Nat.lt_succ_iff]
  refine exists_congr fun j => and_congr_right fun hj => ?_
  have first : (prefixExacts r e).take (j + 1) = prefixExacts r j := by
    rw [prefixExacts, ← List.map_take, take_firstEls _ _ (by omega), prefixExacts]
  rw [first]

section
variable {s : State} {n : VScan}

theorem execVscan_sum (float : n.t = .f32) (op : n.op = 0) : s.givesRow (.vscan n) n.g 6 n.d 32 (fun e =>
    fEl .f32 .rne false false (exactSum .rne ((firstEls (s.ctx.row n.a) 32 (e + 1)).map (fun v => decodeEl v .f32)))) := by
  obtain ⟨v, fl, joined, alike, flags⟩ := joined_sums (s.ctx.row n.a)
  have row : exec (.vscan n) s = s.vels n.g 6 n.d 32
      (mapFl (fun e => fEl .f32 .rne false false (v e, fl e)) (List.range (4096 / 32))) := by
    have scan : scanL sumStep (none, 0) ((rowEls (s.ctx.row n.a) 32).map (fun b => decodeEl b .f32)) =
        (List.range (4096 / 32)).map (fun e => (some (v e), fl e)) :=
      (scanL_rowEls ..).trans (List.map_congr_left fun e _ => joined e)
    change execVscan n s = _
    rw [execVscan, float, op, scan, mapFl_map]
    rfl
  have encoded (e : Nat) := encodeEl_alike (alike e) (t := .f32) rfl .rne false false
  refine State.givesRow_of_vels row (fun e he => ?_) (fun e _ => fEl_lt ..) fun b => ?_
  · rw [mapFl_fst, List.getElem?_map, List.getElem?_range he, Option.map_some]
    simp only [fEl, encoded]
    rfl
  · rw [getLsbD_mapFl]
    simp only [List.mem_range, fEl, encoded, BitVec.getLsbD_or, Bool.or_eq_true, flags]
    constructor
    · rintro ⟨e, he, ⟨j, hj, flag⟩ | flag⟩
      · exact ⟨j, by omega, .inl flag⟩
      · exact ⟨e, he, .inr flag⟩
    · rintro ⟨e, he, flag | flag⟩
      · exact ⟨e, he, .inl ⟨e, le_rfl, flag⟩⟩
      · exact ⟨e, he, .inr flag⟩
theorem execVscan_best (float : n.t = .f32) (mx : Bool) (op : n.op = if mx then 2 else 1) : s.givesRow (.vscan n) n.g 6 n.d 32 (fun e =>
    bestOf mx .f32 (firstEls (s.ctx.row n.a) 32 (e + 1))) := by
  refine State.givesRow_of_mapFl (Eq.trans (b := execVscan n s) rfl ?_) fun e _ => bestOf_lt mx .f32 (firstEls_lt _ 32 _)
  have scan := scanL_rowEls (fBest mx .f32) (false, none) id (s.ctx.row n.a) 32
  simp only [List.map_id] at scan
  rw [execVscan, float, op]
  cases mx
  · change s.vels n.g 6 n.d 32 (mapFl (fBestRes .f32) (scanL (fBest false .f32) (false, none) (rowEls (s.ctx.row n.a) 32))) = _
    rw [scan, mapFl_map]
    rfl
  · change s.vels n.g 6 n.d 32 (mapFl (fBestRes .f32) (scanL (fBest true .f32) (false, none) (rowEls (s.ctx.row n.a) 32))) = _
    rw [scan, mapFl_map]
    rfl
theorem foldl_add_mod (m : Nat) (xs : List Nat) : xs.foldl (fun a b => (a + b) % m) 0 = xs.sum % m := by
  induction xs using List.reverseRecOn with
  | nil => exact (Nat.zero_mod m).symm
  | append_singleton xs x ih => rw [List.foldl_concat, ih, Nat.mod_add_mod, List.sum_append, List.sum_singleton]
theorem execVscan_intSum (int : n.t = .i32 ∨ n.t = .n32) (op : n.op = 0) : s.givesRow (.vscan n) n.g 6 n.d 32 (fun e =>
    ((firstEls (s.ctx.row n.a) 32 (e + 1)).sum % 2 ^ 32, 0)) := by
  have notFloat : ¬ (n.t == .f32) = true := by obtain h | h := int <;> rw [h] <;> decide
  refine State.givesRow_of_map (Eq.trans (b := execVscan n s) rfl ?_) fun e _ => Nat.mod_lt _ (Nat.two_pow_pos _)
  have scan := scanL_rowEls (fun a b => (a + b) % 2 ^ 32) 0 id (s.ctx.row n.a) 32
  simp only [List.map_id, foldl_add_mod] at scan
  rw [execVscan, op]
  simp only [if_neg notFloat, scan]
  rfl
theorem wrapInt_elInt {t : ETy} (width : ETy.sw t = 32) {v : Nat} (small : v < 2 ^ 32) : wrapInt (elInt t v) 32 = v := by
  have signed : (BitVec.ofInt 32 (BitVec.ofNat (ETy.sw t) v).toInt).toNat = v := by
    rw [width, BitVec.ofInt_toInt, BitVec.toNat_ofNat, Nat.mod_eq_of_lt small]
  rw [wrapInt_eq_toNat, elInt]
  split
  · exact signed
  · rw [BitVec.ofInt_natCast, BitVec.toNat_ofNat, Nat.mod_eq_of_lt small]
theorem execVscan_extremum (int : n.t = .i32 ∨ n.t = .n32) (least : Bool) (op : n.op = if least then 1 else 2) :
    ∃ k : Nat → Nat, (∀ e, k e ≤ e ∧ ∀ j ≤ e, if least then elInt n.t (el (s.ctx.row n.a) 32 (k e)) ≤ elInt n.t (el (s.ctx.row n.a) 32 j)
        else elInt n.t (el (s.ctx.row n.a) 32 j) ≤ elInt n.t (el (s.ctx.row n.a) 32 (k e))) ∧
      s.givesRow (.vscan n) n.g 6 n.d 32 (fun e => (el (s.ctx.row n.a) 32 (k e), 0)) := by
  have notFloat : ¬ (n.t == .f32) = true := by obtain h | h := int <;> rw [h] <;> decide
  have isInt : ETy.isInt n.t = true := by obtain h | h := int <;> rw [h] <;> rfl
  have width : ETy.sw n.t = 32 := by obtain h | h := int <;> rw [h] <;> rfl
  have place := extremum_place least (fun e => elInt n.t (el (s.ctx.row n.a) 32 e))
  choose k within value bound using place
  refine ⟨k, fun e => ⟨within e, bound e⟩, State.givesRow_of_map (Eq.trans (b := execVscan n s) rfl ?_) fun _ _ => el_lt ..⟩
  obtain ⟨tail, cons⟩ : ∃ tail, rowEls (s.ctx.row n.a) 32 = el (s.ctx.row n.a) 32 0 :: tail := ⟨_, rowEls_eq ..⟩
  have ints (v : Nat) (hv : v < 2 ^ 32) : ival n.t v = elInt n.t v := ival_eq_elInt isInt (width ▸ hv)
  have scan : (scanL (fun a b => if least then min a b else max a b) (elInt n.t (el (s.ctx.row n.a) 32 0))
      ((rowEls (s.ctx.row n.a) 32).map (ival n.t))).map (fun v => wrapInt v 32) =
        (List.range (4096 / 32)).map (fun e => el (s.ctx.row n.a) 32 (k e)) := by
    rw [scanL_rowEls, List.map_map]
    refine List.map_congr_left fun e _ => ?_
    dsimp only [Function.comp]
    rw [map_ival_firstEls isInt width, value e, wrapInt_elInt width (el_lt ..)]
  have kind : (n.op.val == 1) = least ∧ (n.op.val == 0) = false := by rw [op]; cases least <;> decide
  rw [execVscan, if_neg notFloat, kind.1, kind.2, if_neg Bool.false_ne_true, cons]
  dsimp only
  rw [← cons, ints _ (el_lt ..), scan]
end

/-! Reductions (R196). -/

theorem redRes_sum {t : ETy} (float : ETy.isFloat t = true) (xs : List Nat) :
    let v := fEl t .rne false false (exactSum .rne (xs.map (fun v => decodeEl v t)))
    redRes t 0 xs = (BitVec.ofNat 64 v.1, v.2) := by
  rw [redRes, if_pos float]
  rfl
theorem redRes_best {t : ETy} (float : ETy.isFloat t = true) (mx : Bool) (xs : List Nat) :
    redRes t (if mx then 2 else 1) xs = (BitVec.ofNat 64 (bestOf mx t xs).1, (bestOf mx t xs).2) := by
  rw [redRes, if_pos float]
  cases mx <;> rfl
theorem redRes_intSum {t : ETy} (int : ETy.isInt t = true) {xs : List Nat} (small : ∀ x ∈ xs, x < 2 ^ ETy.sw t) :
    redRes t 0 xs = (BitVec.ofInt 64 (xs.map (elInt t)).sum, 0) := by
  have values : xs.map (ival t) = xs.map (elInt t) := List.map_congr_left fun x hx => ival_eq_elInt int (small x hx)
  rw [redRes, if_neg (by simp [ETy.not_isFloat_of_isInt int]), values, List.sum_eq_foldl]
  rfl
theorem redRes_extremum {t : ETy} (int : ETy.isInt t = true) (least : Bool) (r : Row) {E : Nat} (pos : 0 < E) :
    ∃ v ∈ firstEls r (ETy.sw t) E, (∀ u ∈ firstEls r (ETy.sw t) E, if least then elInt t v ≤ elInt t u else elInt t u ≤ elInt t v) ∧
      redRes t (if least then 1 else 2) (firstEls r (ETy.sw t) E) = (BitVec.ofInt 64 (elInt t v), 0) := by
  obtain ⟨e, rfl⟩ := Nat.exists_eq_add_of_le' pos
  obtain ⟨k, within, value, bound⟩ := extremum_place least (fun e => elInt t (el r (ETy.sw t) e)) e
  refine ⟨_, List.mem_map_of_mem (List.mem_range.2 (Nat.lt_succ_of_le within)), fun u hu => ?_, ?_⟩
  · obtain ⟨j, hj, rfl⟩ := mem_firstEls hu
    exact bound j (Nat.le_of_lt_succ hj)
  · have head : ((List.range (e + 1)).map (fun e => elInt t (el r (ETy.sw t) e))).headD 0 = elInt t (el r (ETy.sw t) 0) := by
      rw [List.range_succ_eq_map]; rfl
    rw [redRes, if_neg (by simp [ETy.not_isFloat_of_isInt int]), map_ival_firstEls int rfl, ← value]
    cases least with
    | true => simp only [if_true, head]
    | false => simp only [Bool.false_eq_true, if_false, head]

end Sys2Proof.Machine
end

section
/-! O37: quantisation (R39, R193). -/
namespace Sys2Proof.Machine

/-! Blocks. -/

theorem blocksOf_eq {α : Type} (k n : Nat) (xs : List α) :
    blocksOf k n xs = (List.range n).map (fun i => (xs.drop (i * k)).take k) := by
  induction n generalizing xs with
  | zero => rfl
  | succ n ih =>
    rw [blocksOf, ih, List.range_succ_eq_map, List.map_cons, List.map_map, Nat.zero_mul, List.drop_zero]
    refine congrArg _ (List.map_congr_left fun i _ => ?_)
    dsimp only [Function.comp]
    rw [List.drop_drop, Nat.succ_mul, Nat.add_comm]
theorem flatten_blocks {α : Type} (f : Nat → α) (n k : Nat) :
    ((List.range n).map (fun i => (List.range k).map (fun j => f (i * k + j)))).flatten = (List.range (n * k)).map f := by
  induction n with
  | zero => simp
  | succ n ih =>
    rw [List.range_succ, List.map_append, List.flatten_append, ih, Nat.succ_mul, List.range_add, List.map_append, List.map_map]
    simp [Function.comp_def]

/-- The code of an element under its block's scale, with its flags; none where the block has no scale. -/
def quantOne (e8 : Nat) (t : ETy) (rm : Rm) (ftz : Bool) (x : Ex) : Nat × Fl :=
  if e8 = 0xFF then (0, 0) else encodeEl (x.scale (127 - (e8 : Int))) t rm ftz true

theorem quantOne_lt (e8 : Nat) (t : ETy) (rm : Rm) (ftz : Bool) (x : Ex) : (quantOne e8 t rm ftz x).1 < 2 ^ ETy.sw t := by
  unfold quantOne
  split
  · exact Nat.two_pow_pos _
  · exact (encodeEl_lt ..).trans_le (Nat.pow_le_pow_right two_pos (ETy.bits_le_sw t))
theorem chooseScale_lt (xs : List Ex) (t : ETy) (rm : Rm) : (chooseScale xs t rm).1 < 256 := by
  unfold chooseScale
  split
  · decide
  split
  · decide
  split
  case h_1 e found => exact (List.mem_range.1 (List.mem_of_find?_eq_some found)).trans (by decide)
  case h_2 => decide

theorem mapFl_quiet {α : Type} {f : α → Nat × Fl} (xs : List α) (quiet : ∀ x, (f x).2 = 0) : (mapFl f xs).2 = 0 := by
  refine BitVec.eq_of_getLsbD_eq fun b _ => (Bool.eq_false_iff.2 fun raised => ?_).trans BitVec.getLsbD_zero.symm
  obtain ⟨x, -, hx⟩ := (getLsbD_mapFl f xs b).1 raised
  simp [quiet x] at hx

section
variable (xs : List Ex) (t : ETy) (rm : Rm) (ftz : Bool)

theorem quantBlock_eq : quantBlock xs t rm ftz = ((chooseScale xs t rm).1,
    xs.map (fun x => (quantOne (chooseScale xs t rm).1 t rm ftz x).1),
    (chooseScale xs t rm).2 ||| (mapFl (quantOne (chooseScale xs t rm).1 t rm ftz) xs).2) := by
  rw [quantBlock]
  generalize chooseScale xs t rm = sc
  obtain ⟨e8, f⟩ := sc
  dsimp only
  by_cases none : e8 = 0xFF
  · subst none
    rw [mapFl_quiet xs (show ∀ x, (quantOne 0xFF t rm ftz x).2 = 0 from fun _ => rfl)]
    simp [quantOne]
  · have code : quantOne e8 t rm ftz = fun x => encodeEl (x.scale (127 - (e8 : Int))) t rm ftz true := funext fun x => if_neg none
    rw [if_neg (by simpa using none), code]
    simp [mapFl]
end

/-! The scales of four blocks as a word. -/

theorem foldr_scales (xs : List Nat) (small : ∀ x ∈ xs, x < 256) : xs.foldr (fun e a => a * 256 + e) 0 = packed xs 8 := by
  induction xs with
  | nil => rfl
  | cons x xs ih =>
    obtain ⟨hx, hxs⟩ := List.forall_mem_cons.1 small
    rw [List.foldr_cons, ih hxs]
    exact congrArg _ (Nat.mod_eq_of_lt hx).symm
/-- Bytes of a word that holds four of them. -/
theorem packed_word {xs : List Nat} (len : xs.length = 4) : BitVec.ofNat 64 (packed xs 8) >>> 32 = 0 ∧
    ∀ k, ((BitVec.ofNat 64 (packed xs 8)).extractLsb' (8 * k) 8).toNat = xs[k]?.getD 0 % 256 := by
  have small := packed_lt xs 8
  rw [len] at small
  have whole : (BitVec.ofNat 64 (packed xs 8)).toNat = packed xs 8 := by
    rw [BitVec.toNat_ofNat]; exact Nat.mod_eq_of_lt (small.trans (by decide))
  refine ⟨BitVec.eq_of_toNat_eq ?_, fun k => ?_⟩
  · rw [BitVec.toNat_ushiftRight, whole, Nat.shiftRight_eq_div_pow]
    exact Nat.div_eq_of_lt small
  · rw [← bits_eq_extract, whole]
    exact bits_packed xs 8 k

/-! Two results of one syllable. -/

theorem Ctx.fly_eq {c : Ctx} {g : Guard} {lat : Nat} (lives : c.kills g lat = false) (f : Flight) :
    c.fly g lat f = { c with flight := c.flight ++ [f] } := by
  rw [Ctx.fly, lives]; rfl
theorem State.setCtx_two {s : State} {g : Guard} {lat : Nat} (slot : Slot) (code code' : Nat) (v v' : Word) (r : Option Row) (fl : Fl)
    (lives : s.ctx.kills g lat = false) :
    s.setCtx ((s.ctx.resultFl s.now g slot lat code v r fl).resultNl s.now g slot lat code' v') =
      let t := s.gives g slot lat code v r fl
      t.setCtx { t.ctx with flight := t.ctx.flight ++
        [{ fin := s.now + lat, born := s.now, code := code', slot, val := v', sq := g.sq, latch := false }] } := by
  unfold Ctx.resultNl Ctx.resultFl
  cases hs : g.sq
  case true =>
    have lives' (f : Flight) : ({ s.ctx with flight := s.ctx.flight ++ [f] } : Ctx).kills g lat = false := lives
    simp [hs, Ctx.fly_eq lives, Ctx.fly_eq (lives' _), State.gives]
  case false =>
    have never (c : Ctx) : c.kills g lat = false := by rw [Ctx.kills, hs]; rfl
    simp [hs, Ctx.fly_eq (never _), State.gives, Ctx.raise, Ctx.orFlags]

/-! A row in four blocks. -/

theorem blocksOf_rowEls {α : Type} (g : Nat → α) (r : Row) : blocksOf 32 4 ((rowEls r 32).map g) =
    (List.range 4).map (fun k => (List.range 32).map (fun j => g (el r 32 (32 * k + j)))) := by
  rw [blocksOf_eq]
  refine List.map_congr_left fun k hk => ?_
  have inside := List.mem_range.1 hk
  rw [← List.map_drop, ← List.map_take, take_drop_rowEls r (by omega), List.map_map, Nat.mul_comm k]
  rfl

section
variable (a : Nat → Ex) (t : ETy) (rm : Rm) (ftz : Bool)

/-- The scale of block `k` of the elements `a`, with its flags (R39). -/
def blockScale (k : Nat) : Nat × Fl := chooseScale ((List.range 32).map (fun j => a (32 * k + j))) t rm
/-- The code of element `e` under its block's scale, with its flags. -/
def blockCode (e : Nat) : Nat × Fl := quantOne (blockScale a t rm (e / 32)).1 t rm ftz (a e)
/-- Four blocks of the elements `a`, quantised. -/
def quantBlocks : List (Nat × List Nat × Fl) :=
  (List.range 4).map (fun k => quantBlock ((List.range 32).map (fun j => a (32 * k + j))) t rm ftz)

/-- An element of block `k` is coded under the scale of that block. -/
theorem quantOne_block (k : Nat) {j : Nat} (hj : j < 32) :
    quantOne (blockScale a t rm k).1 t rm ftz (a (32 * k + j)) = blockCode a t rm ftz (32 * k + j) := by
  rw [blockCode, Nat.mul_add_div (by decide), Nat.div_eq_of_lt hj, Nat.add_zero]
theorem quantBlocks_scales : (quantBlocks a t rm ftz).map (fun b => b.1) = (List.range 4).map (fun k => (blockScale a t rm k).1) := by
  rw [quantBlocks, List.map_map]
  exact List.map_congr_left fun k _ => by rw [Function.comp, quantBlock_eq]; rfl
theorem quantBlocks_codes : ((quantBlocks a t rm ftz).map (fun b => b.2.1)).flatten =
    (List.range 128).map (fun e => (blockCode a t rm ftz e).1) := by
  rw [show 128 = 4 * 32 from rfl, ← flatten_blocks, quantBlocks, List.map_map]
  refine congrArg List.flatten (List.map_congr_left fun k _ => ?_)
  rw [Function.comp, quantBlock_eq, List.map_map]
  refine List.map_congr_left fun j hj => ?_
  rw [Nat.mul_comm k, ← quantOne_block _ _ _ _ _ (List.mem_range.1 hj)]
  rfl
theorem quantBlocks_flags (f : Nat) : ((quantBlocks a t rm ftz).foldl (fun (x : Fl) b => x ||| b.2.2) 0).getLsbD f = true ↔
    ∃ e, e < 128 ∧ ((blockCode a t rm ftz e).2 ||| (blockScale a t rm (e / 32)).2).getLsbD f = true := by
  have block (k : Nat) : (quantBlock ((List.range 32).map (fun j => a (32 * k + j))) t rm ftz).2.2.getLsbD f = true ↔
      ∃ j < 32, ((blockCode a t rm ftz (32 * k + j)).2 ||| (blockScale a t rm k).2).getLsbD f = true := by
    rw [quantBlock_eq, BitVec.getLsbD_or, mapFl_map, Bool.or_eq_true, getLsbD_mapFl]
    constructor
    · rintro (scale | ⟨j, hj, code⟩)
      · exact ⟨0, by decide, by rw [BitVec.getLsbD_or, blockScale, scale, Bool.or_true]⟩
      · have inside := List.mem_range.1 hj
        exact ⟨j, inside, by rw [BitVec.getLsbD_or, ← quantOne_block _ _ _ _ _ inside, blockScale, code, Bool.true_or]⟩
    · rintro ⟨j, inside, raised⟩
      rw [BitVec.getLsbD_or, Bool.or_eq_true, ← quantOne_block _ _ _ _ _ inside] at raised
      exact raised.symm.imp_right fun code => ⟨j, List.mem_range.2 inside, code⟩
  rw [getLsbD_foldl_or, quantBlocks]
  constructor
  · rintro (none | ⟨b, hb, raised⟩)
    · simp at none
    obtain ⟨k, hk, rfl⟩ := List.mem_map.1 hb
    obtain ⟨j, hj, raised⟩ := (block k).1 raised
    have inside := List.mem_range.1 hk
    refine ⟨32 * k + j, by omega, ?_⟩
    rwa [Nat.mul_add_div (by decide), Nat.div_eq_of_lt hj, Nat.add_zero]
  · rintro ⟨e, he, raised⟩
    refine .inr ⟨_, List.mem_map_of_mem (List.mem_range.2 (show e / 32 < 4 by omega)), (block _).2 ⟨e % 32, Nat.mod_lt _ (by decide), ?_⟩⟩
    rwa [Nat.div_add_mod]
end

end Sys2Proof.Machine
end

section
/-! O37: `vquant` (R193). -/
namespace Sys2Proof.Machine

section
variable (s : State) (q : VQuant)

/-- The exact elements that `vquant` reads. -/
def quantSource (e : Nat) : Ex := decodeEl (el (s.ctx.row q.a) 32 e) .f32
/-- The row that `vquant` gives. -/
def quantRow : Row :=
  let old := rowEls (s.ctx.row q.c) (ETy.sw q.t)
  let codes := (List.range 128).map (fun e => (blockCode (quantSource s q) q.t q.rm q.ftz e).1)
  rowOf (old.take (q.part.val * 128) ++ codes ++ old.drop (q.part.val * 128 + 128)) (ETy.sw q.t)
/-- The scales of `vquant` as a word. -/
def quantWord : Word := BitVec.ofNat 64 (packed ((List.range 4).map (fun k => (blockScale (quantSource s q) q.t q.rm k).1)) 8)
/-- The flags of `vquant`. -/
def quantFlags : Fl := (quantBlocks (quantSource s q) q.t q.rm q.ftz).foldl (fun a b => a ||| b.2.2) 0

theorem el_quantRow (part : 128 * (q.part.val + 1) ≤ 4096 / ETy.sw q.t) {e : Nat} (he : e < 4096 / ETy.sw q.t) :
    el (quantRow s q) (ETy.sw q.t) e = if q.part.val * 128 ≤ e ∧ e < q.part.val * 128 + 128
      then (blockCode (quantSource s q) q.t q.rm q.ftz (e - q.part.val * 128)).1 else el (s.ctx.row q.c) (ETy.sw q.t) e := by
  rw [quantRow, el_rowOf _ he, getElem?_splice (n := 128) _ _ (by simp) (by simp [rowEls_eq]; omega)]
  split
  case isTrue inside =>
    rw [List.getElem?_map, List.getElem?_range (by omega)]
    exact Nat.mod_eq_of_lt (quantOne_lt ..)
  case isFalse =>
    rw [rowEls_eq, List.getElem?_map, List.getElem?_range he]
    exact Nat.mod_eq_of_lt (el_lt ..)
theorem quantWord_bytes : quantWord s q >>> 32 = 0 ∧
    ∀ k < 4, ((quantWord s q).extractLsb' (8 * k) 8).toNat = (blockScale (quantSource s q) q.t q.rm k).1 := by
  obtain ⟨high, bytes⟩ := packed_word (xs := (List.range 4).map (fun k => (blockScale (quantSource s q) q.t q.rm k).1)) (by simp)
  refine ⟨high, fun k hk => (bytes k).trans ?_⟩
  rw [List.getElem?_map, List.getElem?_range hk]
  exact Nat.mod_eq_of_lt (chooseScale_lt ..)

theorem execVquant_gives (acts : s.ctx.acts q.g 6) (quiet : s.ctx.enabled (quantFlags s q) = false) :
    let t := s.gives q.g .v 6 (rCode q.d) (rowLatch (quantRow s q)) (some (quantRow s q)) (quantFlags s q)
    exec (.vquant q) s = .next (t.setCtx { t.ctx with flight := t.ctx.flight ++
      [{ fin := s.now + 6, born := s.now, code := sCode q.b, slot := .v, val := quantWord s q, sq := q.g.sq, latch := false }] }) := by
  obtain ⟨guard, lives⟩ := acts
  have blocks : (blocksOf 32 4 ((rowEls (s.ctx.row q.a) 32).map (fun b => decodeEl b .f32))).map (fun b => quantBlock b q.t q.rm q.ftz) =
      quantBlocks (quantSource s q) q.t q.rm q.ftz := by
    rw [blocksOf_rowEls, List.map_map]
    rfl
  refine Eq.trans (b := execVquant q s) rfl ?_
  rw [execVquant, blocks, quantBlocks_scales, quantBlocks_codes, foldr_scales]
  · dsimp only
    rw [guard, lives, if_neg (by decide), if_neg (by decide)]
    refine (if_neg (Bool.eq_false_iff.1 quiet)).trans (congrArg Host.Outcome.next ?_)
    exact State.setCtx_two .v (rCode q.d) (sCode q.b) _ _ (some (quantRow s q)) (quantFlags s q) lives
  · exact List.forall_mem_map.2 fun k _ => chooseScale_lt ..
end

end Sys2Proof.Machine
end

section
/-! O37: reductions, shuffles, and the statement. -/
namespace Sys2Proof.Machine

section
variable (s : State)

/-! Reductions (R196). -/

section
variable (r : VRed)

theorem execVred_gives {op : Nat} (hop : r.op.val = op) {v : Word} {fl : Fl}
    (res : redRes r.t op (firstEls (s.ctx.row r.a) (ETy.sw r.t) (4096 / ETy.sw r.t)) = (v, fl)) (acts : s.ctx.acts r.g 6)
    (quiet : s.ctx.enabled fl = false) : exec (.vred r) s = .next (s.gives r.g .v 6 (sCode r.d) v none fl) := by
  subst hop
  have reads : exec (.vred r) s = s.finish r.g .v 6 (sCode r.d) (redRes r.t r.op.val (rowEls (s.ctx.row r.a) (ETy.sw r.t))).1 none
    (redRes r.t r.op.val (rowEls (s.ctx.row r.a) (ETy.sw r.t))).2 := rfl
  rw [firstEls, ← rowEls_eq] at res
  rw [reads, res]
  exact State.finish_gives .v (sCode r.d) v none acts quiet
end

/-! Shuffles (R199). -/

section
variable {u : VShuf} {o : Fin 128} (second : u.b = some o)
include second

/-- Of two rows, by the place that each element comes from. -/
theorem execVshuf_two {pat : Nat} (hpat : u.pat.val = pat) {f : Nat → Nat} {fromB : Nat → Bool} {place : Nat → Nat}
    (src : ∀ e < 4096 / ETy.sw u.t, shufSrc pat (4096 / ETy.sw u.t) e = (fromB e, place e))
    (same : ∀ e, f e = if fromB e then el (s.ctx.row o) (ETy.sw u.t) (place e) else el (s.ctx.row u.a) (ETy.sw u.t) (place e)) :
    s.givesRow (.vshuf u) u.g 3 u.d (ETy.sw u.t) (fun e => (f e, 0)) := by
  refine execVshuf_gives s u fun e he => ?_
  rw [hpat, src e he, same, Ctx.shufRow, second]
  cases fromB e <;> rfl
/-- Elements of the two in turn. -/
theorem execVshuf_interleaved {pat : Nat} (hpat : u.pat.val = pat) {place : Nat → Nat}
    (src : ∀ e, shufSrc pat (4096 / ETy.sw u.t) e = (e % 2 == 1, place e)) :
    s.givesRow (.vshuf u) u.g 3 u.d (ETy.sw u.t) (fun e =>
      (if e % 2 = 0 then el (s.ctx.row u.a) (ETy.sw u.t) (place e) else el (s.ctx.row o) (ETy.sw u.t) (place e), 0)) := by
  refine execVshuf_two s second hpat (fun e _ => src e) fun e => ?_
  obtain h | h := Nat.mod_two_eq_zero_or_one e <;> simp [h]
/-- Every second element of the one, then of the other. -/
theorem execVshuf_joined {pat : Nat} (hpat : u.pat.val = pat) {odd : Nat}
    (src : ∀ E e, shufSrc pat E e = (decide (E / 2 ≤ e), 2 * (e % (E / 2)) + odd)) :
    s.givesRow (.vshuf u) u.g 3 u.d (ETy.sw u.t) (fun e => (if e < 4096 / ETy.sw u.t / 2 then el (s.ctx.row u.a) (ETy.sw u.t) (2 * e + odd)
      else el (s.ctx.row o) (ETy.sw u.t) (2 * (e - 4096 / ETy.sw u.t / 2) + odd), 0)) := by
  have even : 4096 / ETy.sw u.t / 2 * 2 = 4096 / ETy.sw u.t := by cases u.t <;> decide
  refine execVshuf_two s second hpat (fromB := fun e => decide (4096 / ETy.sw u.t / 2 ≤ e))
    (place := fun e => 2 * (if e < 4096 / ETy.sw u.t / 2 then e else e - 4096 / ETy.sw u.t / 2) + odd) (fun e he => ?_) fun e => ?_
  · rw [src]
    split
    case isTrue low => rw [Nat.mod_eq_of_lt low]
    case isFalse high => rw [Nat.mod_eq_sub_mod (by omega), Nat.mod_eq_of_lt (by omega)]
  · split
    case isTrue low => rw [decide_eq_false (by omega)]; rfl
    case isFalse high => rw [decide_eq_true (by omega)]; rfl
end
end

/-! The statement. -/

/-- Settles O37: each form's element functions agree with the statement's, and the shared ends put them in flight. A float scan joins
its addends one at a time, which encodes and flags as the sum of all of them does; an integer extremum is reached at a place. -/
theorem vectorMovesAndReductions : Obligations.VectorMovesAndReductions := by
  unfold Obligations.VectorMovesAndReductions
  intro s x l i c q d b n r p u
  have sum : exec (.vwadd b) s = s.vwide b (· + ·) fAddX := rfl
  have product : exec (.vwmul b) s = s.vwide b (· * ·) fMulX := rfl
  refine ⟨⟨execVbcast_gives s x, execVrot_gives s x⟩, execVlane_gives s l, execViota_gives s i,
    ⟨execVcvt_widens s, fun o narrows part old => execVcvt_narrows s narrows part old⟩, fun acts part => ?quant, execVdequant_gives s,
    fun part => ⟨fun float => ⟨State.vwide_float s sum float part, State.vwide_float s product float part⟩,
      fun int => ⟨State.vwide_int s sum int part, State.vwide_int s product int part⟩⟩,
    ⟨fun float => ⟨execVscan_sum float, execVscan_best float false, execVscan_best float true⟩,
      fun int => ⟨execVscan_intSum int, ?places⟩⟩,
    ⟨fun float => ?floats, fun int => ?ints⟩, execVperm_gives s p, ?reverse, fun o second => ⟨?zipLow, ?zipHigh, ?evens, ?odds⟩⟩
  case quant =>
    obtain ⟨high, bytes⟩ := quantWord_bytes s q
    exact ⟨quantRow s q, quantFlags s q, quantWord s q, bytes, high, fun e he => el_quantRow s q part he,
      fun f => quantBlocks_flags (quantSource s q) q.t q.rm q.ftz f, execVquant_gives s q acts⟩
  case places =>
    rintro (op | op)
    · obtain ⟨k, least, gives⟩ := execVscan_extremum int true op
      exact ⟨k, fun e _ => by simpa [op] using least e, gives⟩
    · obtain ⟨k, greatest, gives⟩ := execVscan_extremum int false op
      exact ⟨k, fun e _ => by simpa [op] using greatest e, gives⟩
  case floats =>
    have isFloat : ETy.isFloat r.t = true := ETy.isFloat_of_f3 float
    exact ⟨fun op => execVred_gives s r (congrArg Fin.val op) (redRes_sum isFloat _),
      fun op => execVred_gives s r (congrArg Fin.val op) (redRes_best isFloat false _),
      fun op => execVred_gives s r (congrArg Fin.val op) (redRes_best isFloat true _)⟩
  case ints =>
    refine ⟨fun op => execVred_gives s r (congrArg Fin.val op) (redRes_intSum int (firstEls_lt _ _ _)), fun op => ?_, fun op => ?_⟩
    · obtain ⟨v, mem, least, res⟩ := redRes_extremum int true (s.ctx.row r.a) (E := 4096 / ETy.sw r.t) (by cases r.t <;> decide)
      exact ⟨v, mem, least, execVred_gives s r (congrArg Fin.val op) res⟩
    · obtain ⟨v, mem, greatest, res⟩ := redRes_extremum int false (s.ctx.row r.a) (E := 4096 / ETy.sw r.t) (by cases r.t <;> decide)
      exact ⟨v, mem, greatest, execVred_gives s r (congrArg Fin.val op) res⟩
  case reverse =>
    refine fun pat => execVshuf_gives s u fun e _ => ?_
    rw [pat]
    rfl
  case zipLow => exact fun pat => execVshuf_interleaved s second (congrArg Fin.val pat) fun _ => rfl
  case zipHigh => exact fun pat => execVshuf_interleaved s second (congrArg Fin.val pat) fun _ => rfl
  case evens => exact fun pat => execVshuf_joined s second (congrArg Fin.val pat) (odd := 0) fun _ _ => rfl
  case odds => exact fun pat => execVshuf_joined s second (congrArg Fin.val pat) (odd := 1) fun _ _ => rfl

end Sys2Proof.Machine
end

section
/-! O39: row loads and stores at issue, and row loads in their port cycle (R200 to R206, R230, R231). -/
namespace Sys2Proof.Machine

/-! What the buffers let through (R201). -/

theorem Ctx.rowFault_of_lets {c : Ctx} {sp : Space} {addr unit : Nat} {wr : Bool} {rs : List (Nat × Nat)} (aligned : addr % unit = 0)
    (notJb : sp ≠ .jb) (notWb : wr = true → sp ≠ .wb)
    (inside : ∀ r ∈ rs, r.1 + r.2 ≤ Space.size sp ∧ c.hidden sp r.1 r.2 = false) : c.rowFault sp addr unit wr rs = none := by
  have jb : ¬ (sp == .jb || (sp == .wb && wr)) = true := by
    rw [Bool.or_eq_true, Bool.and_eq_true, beq_iff_eq, beq_iff_eq]
    exact fun h => h.elim notJb fun both => notWb both.2 both.1
  have ranges : ¬ rs.any (fun r => decide (Space.size sp < r.1 + r.2) || c.hidden sp r.1 r.2) = true := by
    rw [List.any_eq_true]
    rintro ⟨r, hr, out⟩
    obtain ⟨fits, shown⟩ := inside r hr
    simp [shown] at out
    omega
  rw [Ctx.rowFault, if_neg (by simpa using aligned), if_neg jb, if_neg ranges]
theorem Ctx.rowFault_misaligned {c : Ctx} {sp : Space} {addr unit : Nat} {wr : Bool} {rs : List (Nat × Nat)} (h : addr % unit ≠ 0) :
    c.rowFault sp addr unit wr rs = some .align := if_pos (by simpa using h)
theorem Ctx.letsRow_inside {c : Ctx} {sp : Space} {addr unit off n : Nat} {wr : Bool} (h : c.letsRow sp addr unit wr off n) :
    off + n ≤ Space.size sp ∧ c.hidden sp off n = false := by
  obtain ⟨-, -, -, inside⟩ := h
  exact inside
theorem Ctx.kills_of_plain {c : Ctx} {g : Guard} (plain : c.plain g) (lat : Nat) : c.kills g lat = false := by
  rw [Ctx.kills, plain.2]; rfl

/-! A row access at issue. -/

section
variable {s : State} {g : Guard} {sp : Space} {addr unit lat ports w : Nat} {d : Fin 128}

/-- What a post-increment asks for: the base register's code, and its new value. -/
def piWord (pi : Bool) (a : SSrc) (base : Word) : Option (Nat × Word) := if pi then some (srcCode a, base) else none

theorem State.port_ctx (t : Nat) : (s.port s.cur t).ctx = s.ctx := State.ctxOf_setCore ..
theorem State.port_syllable (t : Nat) (slot : Slot) :
    ((s.port s.cur t).core (s.port s.cur t).cur).syllable slot = (s.core s.cur).syllable slot := by
  change ((s.setCore s.cur _).core s.cur).syllable slot = _
  rw [State.core_setCore]
  rfl
/-- What waits of a row access, beside the port. -/
theorem State.rowQueuing_eq (o : PortOp) (n k : Nat) (fs : List Flight) : s.rowQueuing o n k fs = (s.port s.cur (s.now + n)).setCtx
    { s.ctx with portQ := s.ctx.portQ ++ [o], nextPort := s.ctx.nextPort + k, flight := s.ctx.flight ++ fs } := by
  change (s.port s.cur (s.now + n)).queuing o k fs = _
  rw [State.queuing, State.port_ctx]

theorem State.rowLoad_queues {es : List (Nat × Nat × Nat)} (plain : s.ctx.plain g) (pi : Bool) (a : SSrc) (base : Word)
    (lets : s.ctx.rowFault sp addr unit false ((es.filter (fun e => e.2.1 != 0)).map (fun e => (e.1, e.2.1))) = none) :
    s.rowLoad g sp d addr unit lat ports w es (piWord pi a base) = .next
      (s.rowQueuing (s.portOp .v sp (.row w es)) ports 1 (rowFlights s.now g lat d s.ctx.nextPort pi a base)) := by
  unfold State.rowLoad
  dsimp only
  rw [lets, plain.1, Ctx.kills_of_plain plain, State.port_syllable, State.rowQueuing_eq]
  cases pi <;> rfl
theorem State.rowStore_queues {ps : List Piece} (plain : s.ctx.plain g) (pi : Bool) (a : SSrc) (base : Word)
    (lets : s.ctx.rowFault sp addr unit true (ps.map (fun p => (p.off, p.n))) = none) :
    s.rowStore g sp addr unit ports ps (piWord pi a base) = .next
      (s.rowQueuing (s.portOp .v sp (.store false ps)) ports 0 (if pi then
        [{ fin := s.now + 1, born := s.now, code := srcCode a, slot := .v, val := base, sq := g.sq }] else [])) := by
  unfold State.rowStore
  dsimp only
  rw [lets, plain.1, State.port_syllable, State.rowQueuing_eq]
  cases pi with
  | false => rw [if_neg Bool.false_ne_true, List.append_nil]; rfl
  | true =>
    change Host.Outcome.next (State.setCtx _ (Ctx.result _ s.now g .v 1 (srcCode a) base)) = _
    rw [Ctx.result, Ctx.fly, Ctx.kills_queue, Ctx.kills_of_plain plain]
    rfl
end

/-- Which elements a mask row lets through (R203). -/
theorem Ctx.maskEls_eq (c : Ctx) (m : Fin 64) (w : Nat) : c.maskEls m.val w = (List.range (4096 / w)).map (c.lets (some m) w) := by
  have row : c.rows.toArray.getD (64 + m.val) 0 = c.row ⟨64 + m.val, by omega⟩ := by
    rw [Array.getD, dif_pos (by rw [Vector.size_toArray]; omega)]
    rfl
  rw [Ctx.maskEls, row, rowEls_eq, List.map_map]
  rfl
theorem zip_map_range_le {α β : Type} {n k : Nat} (f : Nat → α) (g : Nat → β) (h : n ≤ k) :
    ((List.range n).map f).zip ((List.range k).map g) = (List.range n).map (fun e => (f e, g e)) :=
  List.ext_getElem (by simp [h]) fun i _ _ => by simp
/-- The offsets of an indexed access (R230). -/
theorem gsOffs_eq (c : Ctx) (y : VGs) : gsOffs c y = (List.range (min ((c.src y.c).toNat % 2 ^ 32) 128)).map
    (fun e => (c.src y.a).toNat + el (c.row y.b) 32 e * (ETy.sw y.t / 8)) := by
  rw [gsOffs, rowEls_eq, ← List.map_take, List.take_range, List.map_map, Nat.min_eq_left (Nat.min_le_right ..)]
  rfl

/-! The row accesses, by their addresses (R200 to R203, R230). -/

section
variable (s : State) (x : VMem) (y : VGs)

/-- The base that a post-increment leaves (R201). -/
def Ctx.rowBase (c : Ctx) (x : VMem) : Word := c.src x.a + x.off.signExtend 64

theorem State.vaddr_eq : s.vaddr x = s.ctx.rowAddr x := by
  unfold State.vaddr accAddr Ctx.rowAddr
  split <;> rfl
theorem ports_eq (t : ETy) : 4096 / ETy.sw t / 32 = 128 / ETy.sw t := by cases t <;> rfl

theorem exec_vld : exec (.vld x) s = s.rowLoad x.g x.sp x.d (s.ctx.rowAddr x) 64 4 1 4096 [(s.ctx.rowAddr x, 512, 0)]
    (piWord x.pi x.a (s.ctx.rowBase x)) := by
  rw [← State.vaddr_eq]; rfl
theorem exec_vst : exec (.vst x) s = s.rowStore x.g x.sp (s.ctx.rowAddr x) 64 1
    [wholePiece (s.ctx.rowAddr x) 512 (s.ctx.row x.d).toNat] (piWord x.pi x.a (s.ctx.rowBase x)) := by
  rw [← State.vaddr_eq]; rfl
theorem exec_vldt : exec (.vldt x) s = s.rowLoad x.g x.sp x.d (s.ctx.rowAddr x) (ETy.sw x.t / 8) (3 + 128 / ETy.sw x.t) (128 / ETy.sw x.t)
    (ETy.sw x.t) ((List.range (4096 / ETy.sw x.t)).map (fun e => (s.ctx.rowAddr x + e * 2 ^ x.acc.val, ETy.sw x.t / 8, 0)))
    (piWord x.pi x.a (s.ctx.rowBase x)) := by
  change execVldt x s = _
  rw [execVldt, State.vaddr_eq, ports_eq, colOffs, List.map_map]; rfl
theorem exec_vstt : exec (.vstt x) s = s.rowStore x.g x.sp (s.ctx.rowAddr x) (ETy.sw x.t / 8) (128 / ETy.sw x.t)
    ((List.range (4096 / ETy.sw x.t)).map (fun e =>
      wholePiece (s.ctx.rowAddr x + e * 2 ^ x.acc.val) (ETy.sw x.t / 8) (el (s.ctx.row x.d) (ETy.sw x.t) e)))
    (piWord x.pi x.a (s.ctx.rowBase x)) := by
  change execVstt x s = _
  rw [execVstt, State.vaddr_eq, ports_eq, colOffs, rowEls_eq, zip_map_range, List.map_map]; rfl
theorem exec_vldm : exec (.vldm x) s = s.rowLoad x.g x.sp x.d (s.ctx.rowAddr x) 64 4 1 (ETy.sw x.t)
    ((List.range (4096 / ETy.sw x.t)).map (fun e => if s.ctx.lets (some x.acc) (ETy.sw x.t) e then
      (s.ctx.rowAddr x + e * ETy.sw x.t / 8, (ETy.sw x.t + 7) / 8, e * ETy.sw x.t % 8) else (0, 0, 0)))
    (piWord x.pi x.a (s.ctx.rowBase x)) := by
  change execVldm x s = _
  rw [execVldm, State.vaddr_eq, Ctx.maskEls_eq, List.length_map, List.length_range, zip_range, List.map_map]; rfl
theorem exec_vstm : exec (.vstm x) s = s.rowStore x.g x.sp (s.ctx.rowAddr x) 64 1
    (((List.range (4096 / ETy.sw x.t)).filter (s.ctx.lets (some x.acc) (ETy.sw x.t))).map (fun e =>
      { off := s.ctx.rowAddr x + e * ETy.sw x.t / 8, n := (ETy.sw x.t + 7) / 8,
        val := el (s.ctx.row x.d) (ETy.sw x.t) e * 2 ^ (e * ETy.sw x.t % 8), mask := (2 ^ ETy.sw x.t - 1) * 2 ^ (e * ETy.sw x.t % 8) }))
    (piWord x.pi x.a (s.ctx.rowBase x)) := by
  change execVstm x s = _
  rw [execVstm, State.vaddr_eq, Ctx.maskEls_eq, List.length_map, List.length_range, rowEls_eq, zip_map_range, zip_range, List.filterMap_map,
    ← List.filterMap_eq_map, List.filterMap_filter]
  rfl
/-- What an indexed load reads, by its element. -/
theorem exec_vgath : exec (.vgath y) s = s.rowLoad y.g y.sp y.d (s.ctx.src y.a).toNat (ETy.sw y.t / 8) 7 4 (ETy.sw y.t)
    ((List.range (min ((s.ctx.src y.c).toNat % 2 ^ 32) 128)).map (fun e =>
      ((s.ctx.src y.a).toNat + el (s.ctx.row y.b) 32 e * (ETy.sw y.t / 8), ETy.sw y.t / 8, 0))) (piWord false y.a 0) := by
  change execVgath y s = _
  rw [execVgath, gsOffs_eq, List.map_map]; rfl
theorem exec_vscat : exec (.vscat y) s = s.rowStore y.g y.sp (s.ctx.src y.a).toNat (ETy.sw y.t / 8) 4
    ((List.range (min ((s.ctx.src y.c).toNat % 2 ^ 32) 128)).map (fun e => wholePiece
      ((s.ctx.src y.a).toNat + el (s.ctx.row y.b) 32 e * (ETy.sw y.t / 8)) (ETy.sw y.t / 8) (el (s.ctx.row y.d) (ETy.sw y.t) e)))
    (piWord false y.a 0) := by
  have places : min ((s.ctx.src y.c).toNat % 2 ^ 32) 128 ≤ 4096 / ETy.sw y.t :=
    (Nat.min_le_right ..).trans (by cases y.t <;> decide)
  change execVscat y s = _
  rw [execVscat, gsOffs_eq, rowEls_eq, zip_map_range_le _ _ places, List.map_map]; rfl
end

end Sys2Proof.Machine
end

section
/-! O39: the port cycle of a row load (R204 to R206). -/
namespace Sys2Proof.Machine

theorem State.rowEcc_none_iff (s : State) (c : CoreId) (sp : Space) (rs : List (Nat × Nat)) :
    s.rowEcc c sp rs = none ↔ ∀ r ∈ rs, s.sound (bufKey c sp r.1) r.2 := by
  simp only [State.rowEcc, List.min?_eq_none_iff, List.flatMap_eq_nil_iff, List.map_eq_nil_iff, List.filter_eq_nil_iff, State.sound,
    Bool.and_eq_true, decide_eq_true_eq]
  refine forall₂_congr fun r _ => forall₂_congr fun w _ => ?_
  omega
/-- The unit that an error names starts at a multiple of 64 (R206). -/
theorem State.rowEcc_unit {s : State} {c : CoreId} {sp : Space} {rs : List (Nat × Nat)} {u : Nat} (h : s.rowEcc c sp rs = some u) :
    u % 64 = 0 := by
  have mem := List.min?_mem h
  simp only [List.mem_flatMap, List.mem_map] at mem
  obtain ⟨r, -, w, -, rfl⟩ := mem
  exact Nat.mul_mod_left ..

/-- The ranges of a row access that hold bytes. -/
def heldRanges (es : List (Nat × Nat × Nat)) : List (Nat × Nat) := (es.filter (fun e => e.2.1 != 0)).map (fun e => (e.1, e.2.1))

theorem State.rowEcc_heldRanges (s : State) (c : CoreId) (sp : Space) (es : List (Nat × Nat × Nat)) :
    s.rowEcc c sp (heldRanges es) = none ↔ ∀ e ∈ es, e.2.1 ≠ 0 → s.sound (bufKey c sp e.1) e.2.1 := by
  simp only [State.rowEcc_none_iff, heldRanges, List.forall_mem_map, List.mem_filter, bne_iff_ne, and_imp]

section
variable {s : State} {c : CoreId} {o : PortOp} {f : Flight} {w : Nat} {es : List (Nat × Nat × Nat)} (performs : s.performs c o)
  (act : o.act = .row w es) (bare : (s.ctxOf c).frameFl = []) (one : (s.ctxOf c).flight = [f]) (number : f.pid = o.pid)
include performs act bare one number

theorem State.portStep_row (canonical : s.mem.wf = true) (sound : ∀ e ∈ es, e.2.1 ≠ 0 → s.sound (bufKey c o.sp e.1) e.2.1) :
    let r := rowOf (es.map (fun e => bits (s.mem.num (bufKey c o.sp e.1) e.2.1) e.2.2 w)) w
    s.portStep c = s.setCtxOf c { s.ctxOf c with portQ := [], flight := [{ f with val := r.setWidth 64, row := some r }] } := by
  have clear := ((s.setCtxOf c (s.ctxOf c).unqueued).rowEcc_heldRanges c o.sp es).2 sound
  have bytes (e : Nat × Nat × Nat) : (s.setCtxOf c (s.ctxOf c).unqueued).bufN c o.sp e.1 e.2.1 = s.mem.num (bufKey c o.sp e.1) e.2.1 :=
    Memory.readN_num _ _ _ canonical
  rw [heldRanges] at clear
  rw [State.portStep_performs performs, State.portAct, act]
  dsimp only
  rw [clear]
  dsimp only
  simp only [bytes]
  rw [State.give_flight (by rw [State.ctxOf_setCtxOf]; exact bare)]
  simp [Ctx.unqueued, one, number, rowLatch]
theorem State.portStep_row_fails (named : o.pid ≠ 0) (still : (s.ctxOf c).undo = [])
    (unsound : ¬ ∀ e ∈ es, e.2.1 ≠ 0 → s.sound (bufKey c o.sp e.1) e.2.1) : ∃ p, p.addr % 64 = 0 ∧ s.loadFails (s.portStep c) c o f p := by
  have ctx := s.ctxOf_setCtxOf c (s.ctxOf c).unqueued
  obtain ⟨u, marked⟩ := Option.ne_none_iff_exists'.1 (((s.setCtxOf c (s.ctxOf c).unqueued).rowEcc_heldRanges c o.sp es).not.2 unsound)
  have unit := State.rowEcc_unit marked
  rw [heldRanges] at marked
  have step : s.portStep c = (s.setCtxOf c (s.ctxOf c).unqueued).loadEcc c o u := by
    rw [State.portStep_performs performs, State.portAct, act]
    dsimp only
    rw [marked]
  rw [step, State.loadEcc_one (by rw [ctx]; exact bare) (by rw [ctx]; exact one) number named (by rw [ctx]; exact still), ctx]
  refine ⟨o.eccPend u f, unit, ?_⟩
  unfold State.loadFails
  rw [State.ctxOf_setCtxOf]
  exact ⟨rfl, rfl, rfl, rfl, rfl, rfl, rfl, rfl, rfl, rfl, rfl, rfl⟩
end

/-! The obligation. -/

section
variable {s : State} {g : Guard} {sp : Space} {d : Fin 128} {addr unit lat ports w : Nat} {i : Instr} {pi : Bool} {a : SSrc} {base : Word}

/-- A row load of `es`, each let through. -/
theorem State.rowLoad_of_lets {es : List (Nat × Nat × Nat)} (h : exec i s = s.rowLoad g sp d addr unit lat ports w es (piWord pi a base))
    (plain : s.ctx.plain g) (aligned : addr % unit = 0) (notJb : sp ≠ .jb)
    (inside : ∀ e ∈ es, e.2.1 ≠ 0 → e.1 + e.2.1 ≤ Space.size sp ∧ s.ctx.hidden sp e.1 e.2.1 = false) :
    exec i s = .next (s.rowQueuing (s.portOp .v sp (.row w es)) ports 1 (rowFlights s.now g lat d s.ctx.nextPort pi a base)) := by
  refine h.trans (State.rowLoad_queues plain pi a _ (Ctx.rowFault_of_lets aligned notJb (fun h => absurd h Bool.false_ne_true) ?_))
  simpa only [List.forall_mem_map, List.mem_filter, bne_iff_ne, and_imp] using inside
/-- A row store of `ps`, each let through. -/
theorem State.rowStore_of_lets {ps : List Piece} (h : exec i s = s.rowStore g sp addr unit ports ps (piWord pi a base))
    (plain : s.ctx.plain g) (aligned : addr % unit = 0) (notJb : sp ≠ .jb) (notWb : sp ≠ .wb)
    (inside : ∀ p ∈ ps, p.off + p.n ≤ Space.size sp ∧ s.ctx.hidden sp p.off p.n = false) :
    exec i s = .next (s.rowQueuing (s.portOp .v sp (.store false ps)) ports 0 (if pi then
      [{ fin := s.now + 1, born := s.now, code := srcCode a, slot := .v, val := base, sq := g.sq }] else [])) := by
  refine h.trans (State.rowStore_queues plain pi a _ (Ctx.rowFault_of_lets aligned notJb (fun _ => notWb) ?_))
  simpa only [List.forall_mem_map] using inside
/-- A misaligned address is the trap's (R201). -/
theorem State.rowLoad_misaligned {es : List (Nat × Nat × Nat)} {b : Option (Nat × Word)} (on : s.ctx.guard g = true)
    (misaligned : addr % unit ≠ 0) : s.rowLoad g sp d addr unit lat ports w es b = .next (s.precise g .v .align addr) := by
  unfold State.rowLoad
  dsimp only
  rw [Ctx.rowFault_misaligned misaligned, on]
  rfl
theorem State.rowStore_misaligned {ps : List Piece} {b : Option (Nat × Word)} (on : s.ctx.guard g = true)
    (misaligned : addr % unit ≠ 0) : s.rowStore g sp addr unit ports ps b = .next (s.precise g .v .align addr) := by
  unfold State.rowStore
  dsimp only
  rw [Ctx.rowFault_misaligned misaligned, on]
  rfl
end

/-- Settles O39: the checks pass and the access waits for its port cycle, which reads each element, or finds a marked word. -/
theorem vectorMemory : Obligations.VectorMemory := by
  unfold Obligations.VectorMemory
  refine ⟨fun s x y => ?_, fun s c o f w es canonical performs act bare one number named => ⟨fun sound => ?_, fun unsound still => ?_⟩⟩
  · intro w E a base d loads stores on
    have first : 0 < E := by dsimp only [E, w]; cases x.t <;> decide
    refine ⟨fun plain => ⟨fun lets => ?_, fun lets => ?_, fun wide => ⟨fun lets => ?_, fun lets => ?_⟩,
      fun aligned notJb => ⟨fun lets => ?_, fun notWb lets => ?_⟩⟩, fun plain wide => ?_, fun guarded misaligned =>
        ⟨(exec_vld s x).trans (State.rowLoad_misaligned guarded misaligned), (exec_vst s x).trans (State.rowStore_misaligned guarded misaligned)⟩⟩
    · obtain ⟨aligned, notJb, -, inside⟩ := lets
      exact State.rowLoad_of_lets (exec_vld s x) plain aligned notJb (List.forall_mem_singleton.2 fun _ => inside)
    · obtain ⟨aligned, notJb, notWb, inside⟩ := lets
      exact State.rowStore_of_lets (exec_vst s x) plain aligned notJb (notWb rfl) (List.forall_mem_singleton.2 inside)
    · obtain ⟨aligned, notJb, -, -⟩ := lets 0 first
      refine State.rowLoad_of_lets (exec_vldt s x) plain aligned notJb (List.forall_mem_map.2 fun e he _ => ?_)
      exact Ctx.letsRow_inside (lets e (List.mem_range.1 he))
    · obtain ⟨aligned, notJb, notWb, -⟩ := lets 0 first
      refine State.rowStore_of_lets (exec_vstt s x) plain aligned notJb (notWb rfl) (List.forall_mem_map.2 fun e he => ?_)
      exact Ctx.letsRow_inside (lets e (List.mem_range.1 he))
    · refine State.rowLoad_of_lets (exec_vldm s x) plain aligned notJb (List.forall_mem_map.2 fun e he held => ?_)
      by_cases enabled : on e = true
      · rw [if_pos enabled]
        exact Ctx.letsRow_inside (lets e (List.mem_range.1 he) enabled)
      · rw [if_neg enabled] at held
        exact absurd rfl held
    · refine State.rowStore_of_lets (exec_vstm s x) plain aligned notJb notWb (List.forall_mem_map.2 fun e he => ?_)
      obtain ⟨he, enabled⟩ := List.mem_filter.1 he
      exact Ctx.letsRow_inside (lets e (List.mem_range.1 he) enabled)
    · intro w n b at' lets
      refine ⟨fun ⟨aligned, notJb, _, inside⟩ => ?_, fun ⟨aligned, notJb, notWb, inside⟩ => ?_⟩
      · have queues := State.rowLoad_of_lets (exec_vgath s y) plain aligned notJb
          (List.forall_mem_map.2 fun e he _ => Ctx.letsRow_inside (inside e (List.mem_range.1 he)))
        rw [rowFlights, plain.2] at queues
        exact queues
      · exact State.rowStore_of_lets (exec_vscat s y) plain aligned notJb (notWb rfl)
          (List.forall_mem_map.2 fun e he => Ctx.letsRow_inside (inside e (List.mem_range.1 he)))
  · refine ⟨_, State.portStep_row performs act bare one number canonical sound, fun i hi => ?_⟩
    rw [el_rowOf _ hi, List.getElem?_map]
    cases es[i]? with
    | none => exact Nat.zero_mod _
    | some e => exact Nat.mod_mod _ _
  · exact State.portStep_row_fails performs act bare one number named still unsound

end Sys2Proof.Machine
end

section
/-! O59: every outcome of the model is a next state. One lemma for each operation that several instructions share; then the
dispatch, whose other arms branch by themselves; then the parts of a cycle, over any meaning of instructions that answers. -/

namespace Sys2Proof.Machine

/-- The outcome is a next state. -/
def Out.Answers (o : Out) : Prop := ∃ t, o = .next t

/-! Outcomes. -/

theorem Out.Answers.next (t : State) : Out.Answers (.next t) := ⟨t, rfl⟩
theorem Out.Answers.ite {p : Prop} {_ : Decidable p} {a b : Out} (ha : a.Answers) (hb : b.Answers) :
    Out.Answers (if p then a else b) := by
  split
  · exact ha
  · exact hb
/-- A check that leaves the state as it is, or takes a trap, before the rest. -/
theorem Out.Answers.unless {p : Prop} {_ : Decidable p} {t : State} {o : Out} (ho : o.Answers) :
    Out.Answers (if p then .next t else o) := .ite (.next t) ho
theorem Out.Answers.then {o : Out} {f : State → Out} (ho : o.Answers) (hf : ∀ t, (f t).Answers) : (o.then f).Answers := by
  obtain ⟨t, rfl⟩ := ho
  exact hf t
theorem Out.answers_of_pair {α : Type} {p : Out × α} {o : Out} {a : α} (e : p = (o, a)) (h : Out.Answers p.1) : o.Answers := by
  subst e; exact h

variable {s : State} {g : Guard}

/-! Results of fixed latency. -/

theorem State.finish_answers {slot : Slot} {lat code : Nat} {v : Word} {r : Option Row} {fl : Fl} :
    (s.finish g slot lat code v r fl).Answers := s.finish_next g slot lat code v r fl
theorem State.alu_answers {slot : Slot} {code : Nat} {v : Word} {fl : Fl} : (s.alu g slot code v fl).Answers := State.finish_answers
theorem State.vels_answers {lat w : Nat} {d : Fin 128} {r : List Nat × Fl} : (s.vels g lat d w r).Answers := State.finish_answers
theorem State.vbin_answers {x : VBin} {latI latF : Nat} {fi : Int → Int → Int} {ff : Nat → Nat → Nat × Fl} :
    (s.vbin x latI latF fi ff).Answers := .ite State.vels_answers State.vels_answers
theorem State.vuna_answers {x : VUna} {fi : Int → Int} {ff : Nat → Nat} : (s.vuna x fi ff).Answers :=
  .ite State.vels_answers State.vels_answers
theorem State.vwide_answers {x : VBin} {fi : Int → Int → Int} {ff : Rm → Ex → Ex → Ex × Fl} : (s.vwide x fi ff).Answers :=
  .ite State.vels_answers State.vels_answers

/-! Control transfers. -/

theorem State.transfer_answers {tgt : Word} {pops : Bool} {f : Ctx → Ctx} : (s.transfer g tgt pops f).Answers :=
  .unless (.unless (.unless (.next _)))
theorem State.openLoop_answers {n : Nat} {disp : BitVec 16} : (s.openLoop g n disp).Answers :=
  .unless (.unless (.unless (.unless (.ite State.transfer_answers (.next _)))))
theorem State.live_answers {f : Ctx → Ctx} : (s.live g f).Answers := .ite (.next _) (.next _)

/-! Memory: a failed check is the syllable's trap. -/

theorem State.loadLocal_answers {x : Load} {quiet : Bool} : (s.loadLocal x quiet).Answers := by
  refine .unless ?_
  split
  · exact .ite (.next _) (.next _)
  · exact .unless (.next _)
theorem State.atomLocal_answers {x : Atom} {op : AOp} : (s.atomLocal x op).Answers := by
  unfold State.atomLocal
  dsimp only
  split
  all_goals exact .next _
theorem State.atomic_answers {x : Atom} {op : AOp} {i : Instr} : (s.atomic x op i).Answers := by
  refine .unless (.ite State.atomLocal_answers ?_)
  dsimp only
  split
  all_goals exact .next _
theorem State.rowLoad_answers {sp : Space} {d : Fin 128} {addr unit lat ports w : Nat} {es : List (Nat × Nat × Nat)}
    {b : Option (Nat × Word)} : (s.rowLoad g sp d addr unit lat ports w es b).Answers := by
  refine .unless ?_
  split
  · exact .next _
  · exact .unless (.next _)
theorem State.rowStore_answers {sp : Space} {addr unit ports : Nat} {ps : List Piece} {b : Option (Nat × Word)} :
    (s.rowStore g sp addr unit ports ps b).Answers := by
  refine .unless ?_
  split
  all_goals exact .next _

/-! Commands: a failed check is the trap of the E syllable, and what is pushed does not matter. -/

theorem State.command_answers {α : Type} {chk : Chk α} {f : α → State} : (s.command g chk f).Answers := by
  refine .unless ?_
  split
  all_goals exact .next _

/-! Events that are split here, since they branch more than a few times. -/

theorem execChainCommandComplete_answers {r : CmdRef} : (execChainCommandComplete r s).Answers := by
  unfold execChainCommandComplete
  dsimp only
  split
  case h_2 => exact .next _
  refine .unless ?_
  split
  case h_1 | h_7 =>
    split
    all_goals exact .next _
  case h_2 =>
    refine .unless ?_
    split
    all_goals exact .next _
  case h_3 | h_4 | h_5 =>
    split
    · exact .next _
    · exact .unless (.next _)
  case h_6 | h_8 => exact .next _
theorem execXeUnitCommit_answers {r : CmdRef} : (execXeUnitCommit r s).Answers := by
  unfold execXeUnitCommit
  dsimp only
  split
  case h_2 => exact .next _
  refine .unless ?_
  split
  · exact .next _
  refine .unless (.ite ?_ (.unless ?_))
  · split
    · exact .next _
    · exact .unless (.next _)
  · split
    case h_1 | h_2 => exact .next _
    all_goals
      refine .unless ?_
      split
      all_goals exact .next _
theorem State.fiResponse_answers {x : FiAns} : (s.fiResponse x).Answers := by
  unfold State.fiResponse
  dsimp only
  repeat' split
  all_goals exact .next _
theorem execFiResponseArrive_answers {x : FiAns} : (execFiResponseArrive x s).Answers := by
  unfold execFiResponseArrive
  dsimp only
  split
  · split
    · exact .ite (.next _) State.fiResponse_answers
    · exact .next _
  · exact State.fiResponse_answers

/-! A cycle, over any meaning of instructions that answers. -/

section
variable {ex : Instr → State → Out} (answers : ∀ i t, (ex i t).Answers)
include answers

theorem runSlots_answers {n : Nat} {is : List Instr} {s : State} : (runSlots ex n is s).1.Answers := by
  induction is generalizing s with
  | nil => exact .next s
  | cons i r ih =>
    obtain ⟨t, e⟩ := answers i s
    unfold runSlots
    rw [e]
    dsimp only
    split
    · exact ih
    · exact .next t
theorem State.issue_answers {b : Bundle} : (s.issue ex b).Answers := by
  unfold State.issue
  dsimp only
  split
  · exact (answers _ _).then fun _ => .next _
  · exact .next _
  next e => exact Out.answers_of_pair e (runSlots_answers answers)
theorem State.tryWord_answers {w : BitVec 256} : (s.tryWord ex w).Answers := by
  unfold State.tryWord
  split
  · exact .next _
  refine .unless ?_
  split
  · exact .next _
  split
  · exact .next _
  split
  · exact .next _
  · exact State.issue_answers answers
theorem State.tryIssue_answers : (s.tryIssue ex).Answers := by
  refine .unless ?_
  split
  · exact State.tryWord_answers answers
  split
  · exact .next _
  dsimp only
  split
  · refine .unless ?_
    split
    · exact .next _
    · exact State.tryWord_answers answers
  · exact .next _
theorem State.sequence_answers : (s.sequence ex).Answers :=
  .unless (.unless ((State.tryIssue_answers answers).then fun _ => .next _))
theorem State.cycle_answers : (s.cycle ex).Answers :=
  (State.sequence_answers answers).then fun _ => .ite (.next _) (.next _)
end

/-! The dispatch and the step. -/

theorem exec_answers (i : Instr) (s : State) : Out.Answers (exec i s) := by
  cases i with dsimp only [exec]
  | add _ | sub _ | neg _ | and _ | or _ | xor _ | andn _ | shl _ | shr _ | sra _ | rotl _ | clz _ | ctz _ | popc _ | bfx _
    | bfxn _ | bfi _ | min _ | max _ | minn _ | maxn _ | sel _ | cmp _ | mov _ | lea _ | addi _ | andi _ | ori _ | xori _
    | cmpi _ | movi _ | movl _ | pand _ | por _ | pxor _ | pnot _ | pmov _ | eseq _ => exact State.alu_answers
  | mul _ | mulh _ | mulhn _ | div _ | divn _ | rem _ | remn _ | fadd _ | fsub _ | fmul _ | ffma _ | fdiv _ | fsqrt _ | fmin _
    | fmax _ | fcmp _ | fcvt _ | fclass _ | vand _ | vor _ | vxor _ | vmov _ | vlane _ | vred _ | vmstat _ =>
    exact State.finish_answers
  | vfma _ | vfms _ | vshl _ | vshr _ | vsra _ | vsel _ | vbcast _ | viota _ | vdequant _ | vscan _ | vperm _ | vrot _
    | vshuf _ | vpopc _ | vexp2 _ | vlog2 _ | vrcp _ | vrsqrt _ | vtanh _ | vsigm _ => exact State.vels_answers
  | vcmp _ | vcvt _ | vtbl _ => exact .ite State.vels_answers State.vels_answers
  | vadd _ | vsub _ | vmul _ | vmin _ | vmax _ => exact State.vbin_answers
  | vabs _ | vneg _ => exact State.vuna_answers
  | vwadd _ | vwmul _ => exact State.vwide_answers
  | vld _ | vldt _ | vldm _ | vgath _ => exact State.rowLoad_answers
  | vst _ | vstt _ | vstm _ | vscat _ => exact State.rowStore_answers
  | ld _ | ldn _ => exact State.loadLocal_answers
  | aadd _ | aand _ | aor _ | axor _ | amin _ | amax _ | aminn _ | amaxn _ | axchg _ | acas _ | afadd _ | afmax _ =>
    exact State.atomic_answers
  | br _ | jr _ | call _ | callr _ | ret _ => exact State.transfer_answers
  | loop _ | loopi _ => exact State.openLoop_answers
  | liveNone _ | liveAll _ | liveS _ | liveT _ | liveRclr _ => exact State.live_answers
  | wait _ | waitQ _ | fset _ | finc _ | fclr _ | fget _ | mld _ | mldsp _ | mstr _ | mstrr _ | mzero _ | mdrain _ | mcfg _
    | mpip _ | chbind _ | chkv _ | chlink _ | chmask _ | chfin _ | chsave _ | chrest _ | chstat _ | chdrop _ | xcopy _
    | xlist _ | xget _ | xput _ | xfill _ | xtrans _ | xpub _ | xmap _ | xmcast _ | xextAdd _ | xextRelease _ | rld _ | rst _
    | ratomAdd _ | ratomAnd _ | ratomOr _ | ratomXor _ | ratomMin _ | ratomMax _ | ratomMinn _ | ratomMaxn _ | ratomXchg _
    | ratomCas _ | ratomFadd _ | ratomFmax _ | renq _ | rflagSet _ | rflagInc _ | rflagClr _ | lbufBind _ | lbufRelease _
    | cmset _ | cmsetClose _ | cmheld _ | cmheldClr _ | cmdec _ | cmdecRel _ | cmgath _ | cmshuf _ | cmpol _ | cmstat _
    | spawn _ | ecinit _ | ecdone _ | egput _ | egrel _ | egdrop _ => exact State.command_answers
  -- these have one outcome
  | nop _ | fence _ | waitEnd _ | waitTimeout _ | flitCrcFail _ | cmsetMatch _ _ | codedBarrier _ | forkCopyArrive _
    | codedBlockArrive _ | blockAckArrive _ | codedSettle _ | codedTimeout _ | lendMessage _ _ | engineFault _ | trapTake _
    | breakpointHit _ | tqcmdResume _ _ | tqcmdResumeDrop _ _ | tqcmdKill _ _ | tqcmdRelease _ _ | egressSlotRead _ _ _
    | powerGood | thermalThrottle _ _ | trip | tripRelease | clusterWake _ | throttleRelease _ | poolLinkUp _
    | announcementWithdraw _ _ | fistatRead _ | resultLand _ | preemptTake _ | joinReady _ _ | poolLinkDown _ | limitsWrite _
    | torusWrite _ | pboxWrite _ | phltSet _ _ | watchdogWrite _ | watchdogExpiry | ownerMapWrite _ | lqWrite _ | eqWrite _
    | flagWindowSet _ | flagWindowInc _ | flagWindowClr _ => exact .next _
  -- a guard or another check stands before what these do, or two, or three
  | endCtx _ | trap _ | rte _ | rteDrop _ | syswr _ | trace _ | vtbsw _ | vtbld _ | vsmax _ | vsexp _ | vsdiv _ | vpart _
    | formatRegWrite _ | trctlWrite _ | bpcWrite _ | xstatRead _ | ibufFill _ | fiRequestArrive _ | linkUnitArrive _
    | trackLapBoundary | tailWrite _ | eqctlWrite _ | schedLapBoundary | preemptRequest _ | droopDetect _ _ | frst _ | inval _
    | invalComplete _ | phltClear _ _ | mabort _ | key _ | admitImg _ _ | withdraw _ | attest _ => exact .ite (.next _) (.next _)
  | pushm _ | popm _ | join _ | yield _ | bkpt _ | fibreFail _ | flrDrainDone _ | registerWrite _ | extent _ _ =>
    exact .unless (.ite (.next _) (.next _))
  | vquant _ | liveR _ | prio _ | jrd _ | announceStore _ => exact .unless (.unless (.ite (.next _) (.next _)))
  | fiResponseArrive _ => exact execFiResponseArrive_answers
  | chainCommandComplete _ => exact execChainCommandComplete_answers
  | xeUnitCommit _ => exact execXeUnitCommit_answers
  -- these branch on what they find in the state, and each branch ends in a next state
  | st _ | ldg _ | stg _ | prf _ | ldgReturn _ | stgAck _ | globalAtomicReturn _ | windowUnitLand _ | trackSpace _
    | refreshRetry _ _ | pageWalkDone _ | nest _ | sysrd _ | ctxsave _ | ctxrest _ | dump _ | engineWaitSatisfied _
    | flagPerform _ | scoreboardRelease _ | meRowCommit _ | meCommandComplete _ | mstrrRowArrive _ | chainBlockCommit _
    | xeGranuleArrive _ | xeCommandComplete _ | publishSwap _ | trackDataArrive _ | packetTrim _ | resendRequest _
    | resendBackoffExpiry _ | spareSwitchDone _ | fabricTimeout _ | readyNotice _ | replyRelease _ | renqArrive _
    | inboxDequeue _ _ | firmwareExtentAnswer _ _ | routerFork _ _ | forkSplit _ | fallbackRequest _ | checkedModeEval _
    | launchTake | nestGrant _ _ | nestComplete _ | contextRetire _ | releasePerform _ | egputTimeout _ | corePlace _
    | ageExpiry _ | contextSaved _ | contextResume _ | grantWrite _ | headWrite _ | mailboxDone _ | patrolScrub _ =>
    dsimp only [execSt, execLdg, execStg, execPrf, execLdgReturn, execStgAck, execGlobalAtomicReturn, execWindowUnitLand,
      execTrackSpace, execRefreshRetry, execPageWalkDone, execNest, execSysrd, execCtxsave, execCtxrest, execDump,
      execEngineWaitSatisfied, execFlagPerform, execScoreboardRelease, execMeRowCommit, execMeCommandComplete, execMstrrRowArrive,
      execChainBlockCommit, execXeGranuleArrive, execXeCommandComplete, execPublishSwap, execTrackDataArrive, execPacketTrim,
      execResendRequest, execResendBackoffExpiry, execSpareSwitchDone, execFabricTimeout, execReadyNotice, execReplyRelease,
      execRenqArrive, execInboxDequeue, execFirmwareExtentAnswer, execRouterFork, execForkSplit, execFallbackRequest,
      execCheckedModeEval, execLaunchTake, execNestGrant, execNestComplete, execContextRetire, execReleasePerform,
      execEgputTimeout, execCorePlace, execAgeExpiry, execContextSaved, execContextResume, execGrantWrite, execHeadWrite,
      execMailboxDone, execPatrolScrub]
    repeat' split
    all_goals exact .next _
theorem State.goes (s : State) : s.Goes := by
  change Out.Answers (step s)
  unfold step
  split
  · exact exec_answers _ _
  · exact State.cycle_answers exec_answers

/-- Settles O59: every arm of the dispatch ends in a next state, and with it a step, which performs the agenda's next entry or a
cycle. -/
theorem everyStepAnswers : Obligations.EveryStepAnswers := by
  unfold Obligations.EveryStepAnswers
  exact ⟨exec_answers, State.goes⟩

end Sys2Proof.Machine
end
